-- ==== Sys2Proof/Word.lean ====
section
/-! DEFINITION. The plain words and numbers of the ED610 model: bytes, identifiers, port numbers and
timers. The spec's quantities are listed in spec/00_scope.md, section 5.2. -/

namespace Sys2Proof

/-- One byte of a site frame. -/
abbrev Byte := BitVec 8

/-- A site set as a frame carries it: site n is bit n-1 (R6, spec/00_scope.md section 5.4). -/
abbrev SiteSet := BitVec 32

/-- A unit id, 1 to 16 777 214. -/
abbrev UnitId := Nat

/-- A site id, 1 to 32; 0 stands for "none". -/
abbrev SiteId := Nat

/-- A talkgroup id, 1 to 65 534; 0 stands for "none". -/
abbrev TalkgroupId := Nat

/-- A call id, 16 bits: origin site × 256 + the origin's call counter. -/
abbrev CallId := Nat

/-- The name of a frame buffer, 1 to 512 (R16). -/
abbrev Handle := Nat

/-- A channel port or repeater channel, CU0 to CU5. -/
abbrev ChannelNo := Fin 6

/-- A link port, LK0 to LK3. -/
abbrev LinkNo := Fin 4

/-- One of the ten ports, CU0 to CU5 and then LK0 to LK3, numbered as R161 numbers them. -/
abbrev PortNo := Fin 10

/-- A timer: `none` when it is stopped, and while it runs the reading of the millisecond time base at
which its duration will have elapsed (spec/00_scope.md section 5.6). -/
abbrev Timer := Option Nat

end Sys2Proof
end

