-- ==== Sys2Proof/Syntax.lean ====
section
/-! DEFINITION. The commands of the ED610, one constructor per row of spec/opcode_table.json: the line
symbols a port receives, the handling of a frame that classification has handed on, the carrying out
of a queued management request, the expiry of a timer, and the reset line. -/

namespace Sys2Proof

/-- One command. A port operand says at which port the symbol or the handed frame stands; a unit,
site, channel or call operand says whose timer expires. A frame's own fields are read from its
buffer, and a request's from the request queue, so neither is an operand. A command of a load or of WRITE
PARAMETERS takes the next entry of the request at the head (R155; log entry 8). -/
inductive Instr where
  | fullReset
  | startDelimiter (p : PortNo)
  | abortSequence (p : PortNo)
  | frameHeaderComplete (p : PortNo) (b : Byte)
  | frameTooLong (p : PortNo) (b : Byte)
  | judgeFrame (p : PortNo)
  | register (n : ChannelNo)
  | measure (n : ChannelNo)
  | pollReply (n : ChannelNo)
  | callStart (n : ChannelNo)
  | voice (n : ChannelNo)
  | callEnd (n : ChannelNo)
  | forwardTargetSet (l : LinkNo)
  | forwardSingleDestination (l : LinkNo)
  | unitMessage (l : LinkNo)
  | hoRequest (l : LinkNo)
  | hoAccept (l : LinkNo)
  | hoRefuse (l : LinkNo)
  | hoComplete (l : LinkNo)
  | hoCancel (l : LinkNo)
  | hoClaim (l : LinkNo)
  | fullNotice (l : LinkNo)
  | joinNotice (l : LinkNo)
  | leaveNotice (l : LinkNo)
  | probe (l : LinkNo)
  | probeReply (l : LinkNo)
  | mgmtRequest (l : LinkNo)
  | unknownRequestCode
  | identify
  | loadSites
  | loadTalkgroups
  | loadNeighbors
  | writeParameters
  | applyParameters
  | readParameters
  | readUnits
  | readUnit
  | readLinks
  | readChannels
  | readTalkgroups
  | collectCounters
  | readCounters
  | clearUnit
  | clearEmergency
  | restart
  | restartTakesPlace
  | transmissionComplete (p : PortNo)
  | activityTimerExpiry (u : UnitId)
  | pollTimerExpiry (u : UnitId)
  | pollReplyWaitExpiry (u : UnitId)
  | lostHoldExpiry (u : UnitId)
  | roamHoldExpiry (u : UnitId)
  | replyWaitExpiry (u : UnitId)
  | departureExpiry (u : UnitId)
  | arrivalExpiry (u : UnitId)
  | forwardHoldExpiry (u : UnitId)
  | refreshTimerExpiry
  | ageTimerExpiry (site : SiteId)
  | waitTimerExpiry (n : ChannelNo) (call : CallId)
  | voiceGapExpiry (n : ChannelNo)
  | talkTimerExpiry (n : ChannelNo)
  | hangTimerExpiry (n : ChannelNo)
  | probeTimerExpiry (l : LinkNo)
  | dataByte (p : PortNo) (b : Byte)
  | fullResetEnd
  deriving DecidableEq, Repr

end Sys2Proof
end

