-- ==== Sys2Proof/Config.lean ====
section
/-! DEFINITION. The fixed capacities of the part. The spec leaves no value of this part free, so no
opaque constant stands here. -/

namespace Sys2Proof.Config

/-- R16: the pool holds 512 buffers. -/
def bufferCount : Nat := 512

/-- R40: each output queue holds at most 64 entries. -/
def queueCapacity : Nat := 64

/-- R50: the Unit Table has the slots 0 to 255. -/
def unitSlots : Nat := 256

/-- R76: a record has four candidate slots. -/
def candidateSlots : Nat := 4

/-- R71: the Neighbor Table has eight positions. -/
def neighborPositions : Nat := 8

/-- R112: the Talkgroup Table holds at most 64 entries. -/
def talkgroupCapacity : Nat := 64

/-- R126: a wait list holds at most 8 entries. -/
def waitListCapacity : Nat := 8

/-- R154: the request queue holds at most 4 requests. -/
def requestCapacity : Nat := 4

/-- R161: counters are numbered 0 to 157. -/
def counterCount : Nat := 158

/-- spec/00_scope.md section 5.7: a counter saturates at 65 535. -/
def counterMax : Nat := 65535

/-- R1: a frame's header is 20 bytes. -/
def headerBytes : Nat := 20

/-- R1: a frame is at most 256 bytes long. -/
def maxFrameBytes : Nat := 256

/-- R10: the largest unit id. -/
def maxUnitId : Nat := 16777214

/-- spec/00_scope.md section 1.2: site ids run to 32. -/
def maxSiteId : Nat := 32

end Sys2Proof.Config
end

