-- ==== Sys2Proof/Machine/State.lean ====
section
/-! DEFINITION. The state of the ED610 as plain data, and the state after a full reset. Each type's
docstring cites the rule of spec/ that gives its fields. -/

namespace Sys2Proof.Machine

/-! ## Outcomes that are not a next state -/

/-- The reasons a command could stop the part with a fault. There is none: the spec gives every command
an effect in every state, and an event that cannot occur in a state changes nothing (log entry 1).
Safe: no claim can rest on a stop. -/
inductive Fault where
  deriving DecidableEq, Repr

/-- The reasons a command is refused. -/
inductive Refusal where
  /-- Raised only by an arm of `exec` that has no meaning yet; safe, since the model then says nothing
  of the command. No arm raises it. -/
  | notModelled (mnemonic : String)
  deriving DecidableEq, Repr

/-! ## Frames in the part -/

/-- The class of a frame or of a queue entry (R5). -/
inductive FrameClass where
  | routine
  | priority
  deriving DecidableEq, Repr

/-- The block and the attempt that a completion request names (R14, R25). -/
inductive Completion where
  /-- The Handover Controller's request on a ROAM ORDER, with the attempt that built it (R92, R95). -/
  | roamOrder (unit : UnitId) (handoverId : Nat)
  /-- The Management Agent's request on the reply to RESTART (R163). -/
  | restartReply
  deriving DecidableEq, Repr

/-- An ALLOCATED frame buffer (R16): its reference count, the bytes its holder has written and its
completion request. A buffer that is not listed is FREE. -/
structure Buffer where
  handle : Handle
  refs : Nat
  bytes : List Byte
  completion : Option Completion
  deriving DecidableEq, Repr

/-- The Buffer Pool (R16, R17, R26). The free count is the length of the free list. -/
structure Pool where
  /-- The free list, its head first (R17). -/
  free : List Handle
  allocated : List Buffer
  /-- The exhaustion flag (R26). -/
  exhaustion : Bool
  /-- A POOL EXHAUSTED notice is pending (R26). -/
  noticePending : Bool
  deriving DecidableEq, Repr

/-- The addressing an output queue entry carries (R40). -/
inductive Addressing where
  /-- Neither a destination nor a target subset. -/
  | unaddressed
  | destination (site : SiteId)
  | subset (sites : SiteSet)
  deriving DecidableEq, Repr

/-- An output queue entry (R40). -/
structure Entry where
  handle : Handle
  cls : FrameClass
  hop : Nat
  addressing : Addressing
  deriving DecidableEq, Repr

/-- A transmission in progress (R13): the entry it took and the frame as it is sent, CRC included. -/
structure Transmission where
  entry : Entry
  frame : List Byte
  deriving DecidableEq, Repr

/-- How a port's transmission ended on the wire: with an end delimiter, or with the abort sequence that a
restart sends (R1, R14). -/
inductive TxEnd where
  | endDelimiter
  | abortSequence
  deriving DecidableEq, Repr

/-- Which checks of R10 a frame failed at header completion; remembered until it is judged. -/
structure HeaderFailures where
  length : Bool
  header : Bool
  hop : Bool
  running : Bool
  deriving DecidableEq, Repr

/-- Why the rest of a frame is discarded (R10). -/
inductive DiscardReason where
  /-- The pool refused the frame its buffer; it was counted then and is not judged. -/
  | refused
  | failed (f : HeaderFailures)
  deriving DecidableEq, Repr

/-- The reception in progress at a port (R8). The byte count and the CRC are computed from the bytes
taken since the start delimiter; in STORE those stand in the buffer. -/
inductive Reception where
  | hunt
  | header (bytes : List Byte)
  | store (handle : Handle)
  | discard (bytes : List Byte) (why : DiscardReason)
  deriving DecidableEq, Repr

/-- A good frame handed on by classification and not yet taken by its owner (R11, R12). -/
structure Handed where
  handle : Handle
  /-- Classified while the part was UNCONFIGURED: a MGMT REQUEST for the agent whatever its
  destination (R12). -/
  toAgent : Bool
  deriving DecidableEq, Repr

/-- One port: its Port Interface, its output queue and its transmitter (R8, R13, R40). -/
structure Port where
  reception : Reception
  /-- Frames handed on and waiting for their owners, the oldest first. -/
  handed : List Handed
  /-- The output queue, its head first. -/
  queue : List Entry
  /-- SENDING with a transmission, or IDLE. -/
  sending : Option Transmission
  /-- How the port's last transmission ended. -/
  lastEnd : Option TxEnd
  deriving DecidableEq, Repr

/-- The pending condition of a restart (R163). -/
inductive RestartPhase where
  | none
  /-- The reply's completion request is unanswered. -/
  | awaitingReply
  /-- The request is answered, or the reply's buffer was refused: the restart takes place next. -/
  | due
  deriving DecidableEq, Repr

/-- A target-set frame that the Forwarding Engine has grouped by route link and has not placed whole (R38, R39). It
holds a reference to its buffer. -/
structure Fanout where
  handle : Handle
  cls : FrameClass
  /-- The hop count of its entries, or none for the hop limit in force when each is placed (R32). -/
  hop : Option Nat
  /-- The port at which a site left without a route is counted under no route, or none for internal drops (R39). -/
  lostAt : Option PortNo
  /-- For each link the sites of the entry that is still to be placed there. -/
  groups : Vector SiteSet 4
  deriving DecidableEq, Repr

/-- The Forwarding Engine between two placements. -/
structure Engine where
  /-- The model's own: how many entries of each coming target-set frame are placed within the event that hands the
  frame over, the others being left for other events to come between; past the end of the list all of them (log
  entry 36). -/
  atOnce : List Nat
  /-- The frames not yet placed whole, the oldest first. -/
  work : List Fanout
  deriving DecidableEq, Repr

/-- No frame is left, and every coming one is placed whole. -/
def Engine.idle : Engine where
  atOnce := []
  work := []

/-- Everything that receiving, building, placing, sending and releasing frames can move. -/
structure Io where
  pool : Pool
  ports : Vector Port 10
  /-- The live counters 0 to 157 in the order of R161. -/
  live : List Nat
  restart : RestartPhase
  engine : Engine
  deriving DecidableEq, Repr

/-! ## Parameters and tables -/

/-- UNCONFIGURED or RUNNING (R153). -/
inductive PartState where
  | unconfigured
  | running
  deriving DecidableEq, Repr

/-- One set of the 29 Site Parameters, each in its own unit (R157). -/
structure Params where
  ownSite : Nat
  farSite0 : Nat
  farSite1 : Nat
  farSite2 : Nat
  farSite3 : Nat
  hopLimit : Nat
  bufferReserve : Nat
  filterWeight : Nat
  hysteresis : Nat
  dwell : Nat
  coverageFloor : Int
  roamHold : Nat
  replyWait : Nat
  departure : Nat
  arrival : Nat
  forwardHold : Nat
  runDownshift : Nat
  quietDownshift : Nat
  quietPoll : Nat
  dormantPoll : Nat
  pollReplyWait : Nat
  pollMissLimit : Nat
  lostHold : Nat
  probePeriod : Nat
  failThreshold : Nat
  restoreCount : Nat
  refreshPeriod : Nat
  waitTimeout : Nat
  voiceGap : Nat
  deriving DecidableEq, Repr

/-- The defaults of R157. -/
def Params.defaults : Params where
  ownSite := 0
  farSite0 := 0
  farSite1 := 0
  farSite2 := 0
  farSite3 := 0
  hopLimit := 6
  bufferReserve := 32
  filterWeight := 4
  hysteresis := 6
  dwell := 3
  coverageFloor := -112
  roamHold := 10
  replyWait := 1000
  departure := 3000
  arrival := 4000
  forwardHold := 20
  runDownshift := 30
  quietDownshift := 600
  quietPoll := 60
  dormantPoll := 300
  pollReplyWait := 3
  pollMissLimit := 2
  lostHold := 120
  probePeriod := 500
  failThreshold := 4
  restoreCount := 3
  refreshPeriod := 30
  waitTimeout := 10
  voiceGap := 2000

/-- A Site Table entry: the loaded fields (R29) and the dynamic part (R117). -/
structure SiteEntry where
  site : SiteId
  primary : Option LinkNo
  alternate : Option LinkNo
  management : Bool
  lastSequence : Option Byte
  ageTimer : Timer
  announcedPeriod : Option Nat
  deriving DecidableEq, Repr

/-- A Neighbor Table entry (R71). -/
structure NeighborEntry where
  site : SiteId
  bias : Int
  enabled : Bool
  deriving DecidableEq, Repr

/-- A Talkgroup Table entry (R112). The hang time is in steps of 100 ms, the talk limit in seconds. -/
structure TalkgroupEntry where
  id : TalkgroupId
  channel : ChannelNo
  cls : FrameClass
  talkLimit : Nat
  hangTime : Nat
  members : Nat
  remote : SiteSet
  deriving DecidableEq, Repr

/-! ## Unit records -/

/-- The activity class of a record (R58, R59). -/
inductive ActivityClass where
  | active
  | quiet
  | dormant
  deriving DecidableEq, Repr

/-- The activity fields, present in SERVED and PROPOSING (R48). -/
structure Activity where
  cls : ActivityClass
  timer : Timer
  poll : Timer
  /-- The reply-wait timer of the outstanding poll; a poll is outstanding while it runs. -/
  outstanding : Timer
  misses : Nat
  deriving DecidableEq, Repr

/-- The handover fields of a record (R88). The handover timer always runs. -/
structure Handover where
  partner : SiteId
  id : Nat
  deadline : Nat
  deriving DecidableEq, Repr

/-- The abandoned handover kept by a departure expiry (R98). -/
structure Abandoned where
  site : SiteId
  id : Nat
  deriving DecidableEq, Repr

/-- The state field of a record with the fields that are present in that state (R48, R49). -/
inductive Phase where
  | served (channel : ChannelNo) (activity : Activity) (abandoned : Option Abandoned)
  | proposing (channel : ChannelNo) (activity : Activity) (ho : Handover)
  | departing (channel : ChannelNo) (ho : Handover) (orderSent : Bool)
  | arriving (ho : Handover)
  | forward (ho : Handover)
  | lost (channel : ChannelNo) (hold : Nat)
  deriving DecidableEq, Repr

/-- An occupied candidate slot (R76). -/
structure Candidate where
  site : SiteId
  level : Int
  qualify : Nat
  misses : Nat
  deriving DecidableEq, Repr

/-- A unit record (R48). -/
structure Record where
  slot : Nat
  unit : UnitId
  phase : Phase
  talkgroup : TalkgroupId
  emergency : Bool
  talking : Bool
  talkLimited : Bool
  /-- The serving filtered level in sixteenths of a dB, absent until the first MEASURE (R75). -/
  serving : Option Int
  /-- The four candidate slots by position (R76). -/
  candidates : List (Option Candidate)
  roamHold : Timer
  entryTime : BitVec 48
  lastSite : SiteId
  deriving DecidableEq, Repr

/-! ## Calls and links -/

/-- A call as a channel record or a wait entry holds it (R125, R126). -/
structure Call where
  id : CallId
  talkgroup : TalkgroupId
  talker : UnitId
  site : SiteId
  emergency : Bool
  /-- The talker keyed up on the channel port of this site (log entry 19). -/
  isLocal : Bool
  deriving DecidableEq, Repr

/-- A wait list entry: the call and its wait timer (R126). -/
structure WaitEntry where
  call : Call
  deadline : Nat
  deriving DecidableEq, Repr

/-- The state of a channel with the fields present in it (R125). -/
inductive ChannelPhase where
  | idle
  | active (call : Call) (talkTimer : Timer) (voiceGap : Nat)
  | hang (talkgroup : TalkgroupId) (emergency : Bool) (deadline : Nat)
  deriving DecidableEq, Repr

/-- A channel record and its wait list, head first (R125, R126). -/
structure Channel where
  phase : ChannelPhase
  waits : List WaitEntry
  lastEnded : Option CallId
  deriving DecidableEq, Repr

/-- The state of a link (R143). -/
inductive LinkState where
  | disabled
  | down
  | trial
  | up
  deriving DecidableEq, Repr

/-- A Link Supervisor's fields (R143). -/
structure Link where
  state : LinkState
  farSite : SiteId
  token : BitVec 16
  advance : Bool
  outstanding : Bool
  timer : Timer
  errors : Nat
  goods : Nat
  looped : Bool
  deriving DecidableEq, Repr

/-- A queued management request (R154): its tag and origin, the destination it was sent to, its arrival
link, and its request code and fields. -/
structure Request where
  tag : BitVec 16
  origin : SiteId
  destination : SiteId
  link : LinkNo
  code : Byte
  fields : List Byte
  deriving DecidableEq, Repr

/-- How far the agent has come with the load or WRITE PARAMETERS at the head of the request queue, which it takes
entry by entry (R155): the entries taken, and the values clamped (R158). -/
structure Progress where
  taken : Nat
  clamped : Nat
  deriving DecidableEq, Repr

/-- Nothing taken yet. -/
def Progress.start : Progress where
  taken := 0
  clamped := 0

/-! ## The state -/

/-- The whole part. -/
structure State where
  /-- RSTN is asserted (R15, spec/00_scope.md section 7). -/
  resetHeld : Bool
  /-- The millisecond time base (R48). -/
  timeBase : BitVec 48
  partState : PartState
  staged : Params
  active : Params
  requests : List Request
  progress : Progress
  restartCount : Nat
  /-- The snapshot counters 0 to 157 (R162). -/
  snapshot : List Nat
  mergeCount : Nat
  snapshotRead : Bool
  io : Io
  sites : List SiteEntry
  neighbors : List (Option NeighborEntry)
  talkgroups : List TalkgroupEntry
  units : List Record
  /-- The own handover counter (R89). -/
  handoverCounter : Nat
  /-- The own notice sequence (R114). -/
  ownSequence : Byte
  refreshTimer : Timer
  channels : Vector Channel 6
  /-- The call counter shared by the six arbiters (R127). -/
  callCounter : Byte
  links : Vector Link 4
  /-- The commands waiting, first in, first out: the model's own queue. -/
  pending : List Instr
  deriving DecidableEq, Repr

/-! ## Reset values -/

/-- R28: every buffer FREE, the free list 1 to 512 in ascending order, the flag set. -/
def Pool.initial : Pool where
  free := List.range' 1 Config.bufferCount
  allocated := []
  exhaustion := true
  noticePending := false

/-- R15, R47: HUNT, the transmitter IDLE, the queue empty. -/
def Port.initial : Port where
  reception := .hunt
  handed := []
  queue := []
  sending := none
  lastEnd := none

/-- R142: IDLE, nothing waiting, the last ended call absent. -/
def Channel.initial : Channel where
  phase := .idle
  waits := []
  lastEnded := none

/-- R152: DISABLED, with the token at the seed n + 1 of own site id 0. -/
def Link.initial (n : Nat) : Link where
  state := .disabled
  farSite := 0
  token := BitVec.ofNat 16 (n + 1)
  advance := false
  outstanding := false
  timer := none
  errors := 0
  goods := 0
  looped := false

/-- Every counter at 0 (R165). -/
def zeroCounters : List Nat := List.replicate Config.counterCount 0

/-- The state at the end of a full reset (R15, R28, R47, R70, R87, R111, R124, R142, R152, R165), with
no command waiting. -/
def State.reset : State where
  resetHeld := false
  timeBase := 0#48
  partState := .unconfigured
  staged := Params.defaults
  active := Params.defaults
  requests := []
  progress := Progress.start
  restartCount := 0
  snapshot := zeroCounters
  mergeCount := 0
  snapshotRead := true
  io :=
    { pool := Pool.initial
      ports := Vector.replicate 10 Port.initial
      live := zeroCounters
      restart := .none
      engine := Engine.idle }
  sites := []
  neighbors := List.replicate Config.neighborPositions none
  talkgroups := []
  units := []
  handoverCounter := 1
  ownSequence := 0#8
  refreshTimer := none
  channels := Vector.replicate 6 Channel.initial
  callCounter := 0#8
  links := #v[Link.initial 0, Link.initial 1, Link.initial 2, Link.initial 3]
  pending := []

end Sys2Proof.Machine
end

