-- ==== Sys2Proof/WellFormed.lean ====
section
/-! DEFINITION. Which commands are well formed: an operand that names a unit, a site or a call lies in
the range the spec gives it. Ports, channels, links and bytes are in range by their types. -/

namespace Sys2Proof

/-- A unit id is 1 to 16 777 214 (R10). -/
def unitIdOk (u : UnitId) : Bool := 1 ≤ u && u ≤ Config.maxUnitId

/-- A site id is 1 to 32 (spec/00_scope.md section 5.2). -/
def siteIdOk (n : SiteId) : Bool := 1 ≤ n && n ≤ Config.maxSiteId

/-- A call id has 16 bits (R127). -/
def callIdOk (c : CallId) : Bool := c < 65536

/-- Every operand of the command lies in its range. -/
def Instr.wellFormed : Instr → Bool
  | .fullReset => true
  | .startDelimiter _ => true
  | .abortSequence _ => true
  | .frameHeaderComplete _ _ => true
  | .frameTooLong _ _ => true
  | .judgeFrame _ => true
  | .register _ => true
  | .measure _ => true
  | .pollReply _ => true
  | .callStart _ => true
  | .voice _ => true
  | .callEnd _ => true
  | .forwardTargetSet _ => true
  | .forwardSingleDestination _ => true
  | .unitMessage _ => true
  | .hoRequest _ => true
  | .hoAccept _ => true
  | .hoRefuse _ => true
  | .hoComplete _ => true
  | .hoCancel _ => true
  | .hoClaim _ => true
  | .fullNotice _ => true
  | .joinNotice _ => true
  | .leaveNotice _ => true
  | .probe _ => true
  | .probeReply _ => true
  | .mgmtRequest _ => true
  | .unknownRequestCode => true
  | .identify => true
  | .loadSites => true
  | .loadTalkgroups => true
  | .loadNeighbors => true
  | .writeParameters => true
  | .applyParameters => true
  | .readParameters => true
  | .readUnits => true
  | .readUnit => true
  | .readLinks => true
  | .readChannels => true
  | .readTalkgroups => true
  | .collectCounters => true
  | .readCounters => true
  | .clearUnit => true
  | .clearEmergency => true
  | .restart => true
  | .restartTakesPlace => true
  | .transmissionComplete _ => true
  | .activityTimerExpiry u => unitIdOk u
  | .pollTimerExpiry u => unitIdOk u
  | .pollReplyWaitExpiry u => unitIdOk u
  | .lostHoldExpiry u => unitIdOk u
  | .roamHoldExpiry u => unitIdOk u
  | .replyWaitExpiry u => unitIdOk u
  | .departureExpiry u => unitIdOk u
  | .arrivalExpiry u => unitIdOk u
  | .forwardHoldExpiry u => unitIdOk u
  | .refreshTimerExpiry => true
  | .ageTimerExpiry n => siteIdOk n
  | .waitTimerExpiry _ c => callIdOk c
  | .voiceGapExpiry _ => true
  | .talkTimerExpiry _ => true
  | .hangTimerExpiry _ => true
  | .probeTimerExpiry _ => true
  | .dataByte _ _ => true
  | .fullResetEnd => true

end Sys2Proof
end

