-- ==== Sys2Proof/Machine/Operands.lean ====
section
/-! DEFINITION. How a frame is read and written: byte order, the header layout of R6, the kinds of R4 with
their classes (R5), subcodes and payload lengths (R4, R7), the CRC of R2, and the checks a port makes
on a header (R10) and on a whole frame (R9). -/

namespace Sys2Proof.Machine

/-! ## Bytes -/

/-- A field of `n` bytes is sent most significant byte first (R1). -/
def beBytes : Nat → Nat → List Byte
  | 0, _ => []
  | n + 1, v => beBytes n (v / 256) ++ [BitVec.ofNat 8 v]

/-- The number that bytes spell, most significant byte first (R1). -/
def beNat (bs : List Byte) : Nat := bs.foldl (fun acc b => acc * 256 + b.toNat) 0

/-- The byte at an offset, 0 where the frame is too short to have one. -/
def byteAt (bs : List Byte) (i : Nat) : Byte := bs.getD i 0#8

/-- The number held in `len` bytes at an offset. -/
def fieldAt (bs : List Byte) (off len : Nat) : Nat := beNat ((bs.drop off).take len)

/-- A signed 16-bit field, as R155 sends filtered levels and R158 takes parameter values. -/
def signed16 (v : Nat) : Int := (BitVec.ofNat 16 v).toInt

/-- A signed value as two bytes, high byte first (R155). -/
def signedBytes (v : Int) : List Byte := beBytes 2 (BitVec.ofInt 16 v).toNat

/-- A flag as a single byte, 0 for clear and 1 for set (R155). -/
def flagByte (b : Bool) : Byte := if b then 1#8 else 0#8

/-! ## The CRC of R2 -/

/-- One bit of the CRC with generator x^16 + x^12 + x^5 + 1. -/
def crcShift (c : BitVec 16) : BitVec 16 := if c.msb then (c <<< 1) ^^^ 0x1021#16 else c <<< 1

/-- One byte enters the CRC most significant bit first. -/
def crcByte (c : BitVec 16) (b : Byte) : BitVec 16 :=
  let c := c ^^^ (b.setWidth 16 <<< 8)
  crcShift (crcShift (crcShift (crcShift (crcShift (crcShift (crcShift (crcShift c)))))))

/-- The CRC of a list of bytes: initial value 65 535, result not inverted (R2). -/
def crc16 (bs : List Byte) : BitVec 16 := bs.foldl crcByte 0xFFFF#16

/-! ## Kinds -/

/-- The frame kinds of R4. -/
inductive Kind where
  | register | registerAccept | registerRefuse | measure | poll | pollReply | roamOrder
  | callStart | voice | callEnd | callGrant | callQueued | callRefuse | dekeyOrder
  | unitMessage | unitUnreachable
  | hoRequest | hoAccept | hoRefuse | hoComplete | hoCancel | hoClaim
  | membershipNotice | probe | probeReply | mgmtRequest | mgmtReply | mgmtNotice
  deriving DecidableEq, Repr

/-- The code written in the kind field (R4). -/
def Kind.code : Kind → Byte
  | .register => 1
  | .registerAccept => 2
  | .registerRefuse => 3
  | .measure => 4
  | .poll => 5
  | .pollReply => 6
  | .roamOrder => 7
  | .callStart => 16
  | .voice => 17
  | .callEnd => 18
  | .callGrant => 19
  | .callQueued => 20
  | .callRefuse => 21
  | .dekeyOrder => 22
  | .unitMessage => 32
  | .unitUnreachable => 33
  | .hoRequest => 48
  | .hoAccept => 49
  | .hoRefuse => 50
  | .hoComplete => 51
  | .hoCancel => 52
  | .hoClaim => 53
  | .membershipNotice => 64
  | .probe => 80
  | .probeReply => 81
  | .mgmtRequest => 96
  | .mgmtReply => 97
  | .mgmtNotice => 98

/-- The kinds of R4, in the table's order. -/
def Kind.all : List Kind :=
  [.register, .registerAccept, .registerRefuse, .measure, .poll, .pollReply, .roamOrder,
   .callStart, .voice, .callEnd, .callGrant, .callQueued, .callRefuse, .dekeyOrder,
   .unitMessage, .unitUnreachable,
   .hoRequest, .hoAccept, .hoRefuse, .hoComplete, .hoCancel, .hoClaim,
   .membershipNotice, .probe, .probeReply, .mgmtRequest, .mgmtReply, .mgmtNotice]

/-- The kind a code names, none for an unknown kind (R4). -/
def Kind.ofCode (c : Byte) : Option Kind := Kind.all.find? (fun k => k.code == c)

/-- How a kind is addressed on links (R4). -/
inductive KindAddressing where
  | noAddress
  | targetSet
  | single
  | linkLocal
  deriving DecidableEq, Repr

/-- The addressing column of R4. -/
def Kind.addressing : Kind → KindAddressing
  | .register | .registerAccept | .registerRefuse | .measure | .poll | .pollReply | .roamOrder => .noAddress
  | .callStart | .voice | .callEnd => .targetSet
  | .callGrant | .callQueued | .callRefuse | .dekeyOrder => .noAddress
  | .unitMessage | .unitUnreachable => .single
  | .hoRequest | .hoAccept | .hoRefuse | .hoComplete | .hoCancel | .hoClaim => .single
  | .membershipNotice => .single
  | .probe | .probeReply => .linkLocal
  | .mgmtRequest | .mgmtReply | .mgmtNotice => .single

/-- The kinds a channel port receives (R4). -/
def Kind.onChannel : Kind → Bool
  | .register | .measure | .pollReply | .callStart | .voice | .callEnd => true
  | _ => false

/-- The kinds a link port receives (R4). -/
def Kind.onLink : Kind → Bool
  | .callStart | .voice | .callEnd => true
  | k => k.addressing == .single || k.addressing == .linkLocal

/-- The kinds received only to be passed on: they are not addressed to the own site (R4, R10). -/
def Kind.passedOnOnly : Kind → Bool
  | .unitUnreachable | .mgmtReply | .mgmtNotice => true
  | _ => false

/-- The class of a frame follows from its kind and its emergency marker (R5). -/
def Kind.frameClass (k : Kind) (emergency : Bool) : FrameClass :=
  match k with
  | .registerAccept | .registerRefuse | .measure | .poll | .pollReply | .unitUnreachable => .routine
  | .register | .unitMessage => if emergency then .priority else .routine
  | .callStart | .voice | .callEnd | .callGrant | .callQueued | .callRefuse =>
    if emergency then .priority else .routine
  | .roamOrder | .dekeyOrder | .hoRequest | .hoAccept | .hoRefuse | .hoComplete | .hoCancel
  | .hoClaim | .membershipNotice | .probe | .probeReply | .mgmtRequest | .mgmtReply | .mgmtNotice =>
    .priority

/-- The largest subcode of a kind that uses one; subcodes run from 1 (R7). -/
def Kind.subcodes : Kind → Option Nat
  | .register => some 4
  | .registerRefuse => some 2
  | .callRefuse => some 6
  | .dekeyOrder => some 2
  | .unitUnreachable => some 4
  | .hoRefuse => some 4
  | .hoCancel => some 7
  | .membershipNotice => some 3
  | .mgmtNotice => some 3
  | _ => none

/-- The subcode is one of the values of R7, for a kind that uses one (R10). -/
def Kind.subcodeOk (k : Kind) (subcode : Nat) : Bool :=
  match k.subcodes with
  | none => true
  | some m => 1 ≤ subcode && subcode ≤ m

/-- The kinds that carry a handover id in the low byte of the exchange tag (R4). -/
def Kind.carriesHandoverId : Kind → Bool
  | .hoRequest | .hoAccept | .hoRefuse | .hoComplete | .hoCancel => true
  | _ => false

/-- Whether a frame uses its unit id: by its kind, and for a MGMT NOTICE by its subcode (R4, R10). -/
def Kind.usesUnit (k : Kind) (subcode : Nat) : Bool :=
  match k with
  | .membershipNotice | .probe | .probeReply | .mgmtRequest | .mgmtReply => false
  | .mgmtNotice => subcode == 2
  | _ => true

/-- The payload length lies within the range R4 gives for the kind. A MEMBERSHIP NOTICE with a subcode
R7 does not give has no range and passes (R10). -/
def Kind.lengthOk (k : Kind) (subcode n : Nat) : Bool :=
  match k with
  | .register | .roamOrder => n == 1
  | .measure => 2 ≤ n && n ≤ 10 && n % 2 == 0
  | .voice => n ≤ 234
  | .unitMessage => n ≤ 200
  | .membershipNotice =>
    if subcode == 1 || subcode == 2 then n == 0
    else if subcode == 3 then 2 ≤ n && n ≤ 130 else true
  | .mgmtRequest => 1 ≤ n && n ≤ 234
  | .mgmtReply => 4 ≤ n && n ≤ 234
  | .mgmtNotice => n ≤ 234
  | _ => n == 0

/-! ## The header -/

/-- The header fields of R3, in the order of R6. The kind is kept as its code. -/
structure Header where
  kind : Byte
  priority : Bool
  emergency : Bool
  hop : BitVec 4
  origin : Byte
  destination : Byte
  targets : SiteSet
  unit : BitVec 24
  talkgroup : BitVec 16
  callId : BitVec 16
  subcode : Byte
  tag : BitVec 16
  channel : Byte
  payloadLength : Byte
  deriving DecidableEq, Repr

/-- A header of a kind with every other field 0, from which a block fills the fields its kind uses (R3). -/
def Header.blank (k : Kind) : Header where
  kind := k.code
  priority := false
  emergency := false
  hop := 0
  origin := 0
  destination := 0
  targets := 0
  unit := 0
  talkgroup := 0
  callId := 0
  subcode := 0
  tag := 0
  channel := 0
  payloadLength := 0

/-- The byte at offset 1: class, emergency marker, two bits written 0, hop count (R6). -/
def Header.flagsByte (h : Header) : Byte :=
  (BitVec.ofBool h.priority ++ BitVec.ofBool h.emergency ++ 0#2 ++ h.hop : BitVec 8)

/-- The 20 header bytes in the layout of R6. -/
def encodeHeader (h : Header) : List Byte :=
  [h.kind, h.flagsByte, h.origin, h.destination] ++ beBytes 4 h.targets.toNat ++ beBytes 3 h.unit.toNat
    ++ beBytes 2 h.talkgroup.toNat ++ beBytes 2 h.callId.toNat ++ [h.subcode] ++ beBytes 2 h.tag.toNat
    ++ [h.channel, h.payloadLength]

/-- The header read from a frame's bytes in the layout of R6. -/
def parseHeader (bs : List Byte) : Header where
  kind := byteAt bs 0
  priority := (byteAt bs 1).getLsbD 7
  emergency := (byteAt bs 1).getLsbD 6
  hop := (byteAt bs 1).setWidth 4
  origin := byteAt bs 2
  destination := byteAt bs 3
  targets := BitVec.ofNat 32 (fieldAt bs 4 4)
  unit := BitVec.ofNat 24 (fieldAt bs 8 3)
  talkgroup := BitVec.ofNat 16 (fieldAt bs 11 2)
  callId := BitVec.ofNat 16 (fieldAt bs 13 2)
  subcode := byteAt bs 15
  tag := BitVec.ofNat 16 (fieldAt bs 16 2)
  channel := byteAt bs 18
  payloadLength := byteAt bs 19

/-- The payload of a frame: the bytes from offset 20, as many as the payload length field says (R6). -/
def payloadOf (bs : List Byte) : List Byte :=
  (bs.drop Config.headerBytes).take (parseHeader bs).payloadLength.toNat

/-- A frame's bytes with its header changed and the rest left as it was. -/
def rewriteHeader (f : Header → Header) (bs : List Byte) : List Byte :=
  encodeHeader (f (parseHeader bs)) ++ bs.drop Config.headerBytes

/-- The kind named by a header. -/
def Header.kindOf (h : Header) : Option Kind := Kind.ofCode h.kind

/-- The header is of this kind. -/
def Header.isKind (h : Header) (k : Kind) : Bool := h.kind == k.code

/-- The class of a frame by R5; an unknown kind never asks for a buffer. -/
def Header.frameClass (h : Header) : FrameClass :=
  match h.kindOf with
  | some k => k.frameClass h.emergency
  | none => .routine

/-- The handover id or notice sequence: the low byte of the exchange tag (R4). -/
def Header.tagLow (h : Header) : Nat := h.tag.toNat % 256

/-- A built frame: the header with its payload length, and the payload. The CRC is the transmitter's. -/
def frameBytes (h : Header) (payload : List Byte) : List Byte :=
  encodeHeader { h with payloadLength := BitVec.ofNat 8 payload.length } ++ payload

/-! ## The frame on the wire -/

/-- The header as it is sent: class, hop count and destination or target set replaced by what the entry
carries (R13); an entry without either leaves both 0 (R44). -/
def wireHeader (e : Entry) (h : Header) : Header :=
  { h with
    priority := e.cls == .priority
    hop := BitVec.ofNat 4 e.hop
    destination :=
      match e.addressing with
      | .destination site => BitVec.ofNat 8 site
      | _ => 0
    targets :=
      match e.addressing with
      | .subset sites => sites
      | _ => 0 }

/-- The frame as it is sent for an entry: header, payload unchanged, CRC computed anew (R13). -/
def wireFrame (bs : List Byte) (e : Entry) : List Byte :=
  let body := encodeHeader (wireHeader e (parseHeader bs)) ++ payloadOf bs
  body ++ beBytes 2 (crc16 body).toNat

/-! ## The checks on a received frame -/

/-- The Length check of R10: an unknown kind has no range and passes. -/
def lengthCheck (h : Header) : Bool :=
  match h.kindOf with
  | none => true
  | some k => k.lengthOk h.subcode.toNat h.payloadLength.toNat

/-- The addressing conditions of the Header check of R10, made at a link port alone. -/
def addressCheck (unconfigured : Bool) (own : SiteId) (k : Kind) (h : Header) : Bool :=
  match k.addressing with
  | .single =>
    (siteIdOk h.destination.toNat || (unconfigured && k == .mgmtRequest && h.destination == 0))
      && !(k.passedOnOnly && h.destination.toNat == own)
  | .targetSet => h.targets != 0
  | .noAddress => true
  | .linkLocal => true

/-- The Header check of R10. -/
def headerCheck (unconfigured : Bool) (own : SiteId) (isLink : Bool) (h : Header) : Bool :=
  match h.kindOf with
  | none => false
  | some k =>
    (if isLink then k.onLink else k.onChannel)
      && k.subcodeOk h.subcode.toNat
      && (!k.usesUnit h.subcode.toNat || unitIdOk h.unit.toNat)
      && (k != .hoAccept || h.channel.toNat ≤ 5)
      && (!k.carriesHandoverId || h.tagLow != 0)
      && (!isLink || (siteIdOk h.origin.toNat && addressCheck unconfigured own k h))

/-- The Hop check of R10. -/
def hopCheck (isLink : Bool) (h : Header) : Bool := !isLink || h.hop != 0

/-- The Running check of R10. -/
def runningCheck (unconfigured : Bool) (isLink : Bool) (h : Header) : Bool :=
  !unconfigured || (isLink && h.isKind .mgmtRequest)

/-- Cause 3 of R9 does not apply: at least 22 bytes, the byte count as the payload length field says,
the payload length in the range of R4, and for a FULL notice 2 + 2 × c with c at most 64 (R7). -/
def frameLengthOk (bs : List Byte) : Bool :=
  let h := parseHeader bs
  let n := h.payloadLength.toNat
  let c := (byteAt bs 21).toNat
  22 ≤ bs.length && bs.length == 22 + n && lengthCheck h
    && (!(h.isKind .membershipNotice && h.subcode == 3) || (n == 2 + 2 * c && c ≤ 64))

/-- The frame's CRC is good: computed over the first 20 + n bytes, it equals the two that follow (R2). -/
def crcGood (bs : List Byte) : Bool :=
  let n := (parseHeader bs).payloadLength.toNat
  (crc16 (bs.take (20 + n))).toNat == fieldAt bs (20 + n) 2

/-! ## Operands in payloads -/

/-- A level byte as the Roam Selector reads it, clamped to -20 to -140 dBm (R7, R74). -/
def levelOf (b : Byte) : Int := -(max 20 (min 140 b.toNat) : Nat)

/-- A site id in a payload; above 32 it is read as 0 (R7). -/
def payloadSite (b : Byte) : SiteId := if b.toNat ≤ Config.maxSiteId then b.toNat else 0

/-- The neighbour pairs a MEASURE carries, in payload order: the least of its neighbour count, 4, and
the whole pairs in its payload (R7, R74). -/
def measurePairs (payload : List Byte) : List (SiteId × Int) :=
  let n := min (min (byteAt payload 1).toNat 4) ((payload.length - 2) / 2)
  (List.range n).map fun i =>
    (payloadSite (byteAt payload (2 + 2 * i)), levelOf (byteAt payload (3 + 2 * i)))

/-- The talkgroups a FULL notice lists (R7). -/
def fullTalkgroups (payload : List Byte) : List TalkgroupId :=
  (List.range (byteAt payload 1).toNat).map fun i => fieldAt payload (2 + 2 * i) 2

end Sys2Proof.Machine
end

