-- ==== Sys2Proof/Machine/Ops.lean ====
section
/-! DEFINITION. The named operations over the state that every block uses: counters, timers, site sets,
keyed tables, ports and buffers, and the record and link lookups. -/

namespace Sys2Proof.Machine

/-! ## Counters (R161) -/

/-- The device counters 0 to 17 (R161). -/
inductive DevCounter where
  | recordsCreated | recordsDeleted | recordsReclaimed | unitsLost | unknownUnitFrames
  | roamsOut | roamsFailed | claimsSent | claimsReceived | staleHandover | staleNotices
  | talkLimitCutoffs | waitExpiries | callsNotCarried | strayCallFrames | internalDrops
  | strayReplies | deniedRequests
  deriving DecidableEq, Repr

/-- The number of a device counter (R161). -/
def DevCounter.number : DevCounter → Nat
  | .recordsCreated => 0
  | .recordsDeleted => 1
  | .recordsReclaimed => 2
  | .unitsLost => 3
  | .unknownUnitFrames => 4
  | .roamsOut => 5
  | .roamsFailed => 6
  | .claimsSent => 7
  | .claimsReceived => 8
  | .staleHandover => 9
  | .staleNotices => 10
  | .talkLimitCutoffs => 11
  | .waitExpiries => 12
  | .callsNotCarried => 13
  | .strayCallFrames => 14
  | .internalDrops => 15
  | .strayReplies => 16
  | .deniedRequests => 17

/-- The fourteen counters of a port (R161). -/
inductive PortCounter where
  | framesGood | aborted | tooLong | lengthErrors | crcErrors | headerErrors | hopExpired
  | notRunning | reserveDrops | emptyDrops | queueDrops | displaced | noRoute | transmitted
  deriving DecidableEq, Repr

/-- The place of a counter among its port's fourteen (R161). -/
def PortCounter.offset : PortCounter → Nat
  | .framesGood => 0
  | .aborted => 1
  | .tooLong => 2
  | .lengthErrors => 3
  | .crcErrors => 4
  | .headerErrors => 5
  | .hopExpired => 6
  | .notRunning => 7
  | .reserveDrops => 8
  | .emptyDrops => 9
  | .queueDrops => 10
  | .displaced => 11
  | .noRoute => 12
  | .transmitted => 13

/-- Port p, counted 0 to 9, has its counters at 18 + 14 × p onward (R161). -/
def portCounterNumber (p : PortNo) (c : PortCounter) : Nat := 18 + 14 * p.val + c.offset

/-- A counter counts up and saturates at 65 535 (spec/00_scope.md section 5.7). -/
def saturate (n : Nat) : Nat := min n Config.counterMax

/-- The live counter of a number is raised by one. -/
def bumpAt (i : Nat) (io : Io) : Io := { io with live := io.live.modify i (fun n => saturate (n + 1)) }

/-- A device counter is raised. -/
def countDev (c : DevCounter) (io : Io) : Io := bumpAt c.number io

/-- A port's counter is raised. -/
def countPort (p : PortNo) (c : PortCounter) (io : Io) : Io := bumpAt (portCounterNumber p c) io

/-- A port's counter is raised once for each of `n` events. -/
def countPortTimes (p : PortNo) (c : PortCounter) : Nat → Io → Io
  | 0, io => io
  | n + 1, io => countPortTimes p c n (countPort p c io)

/-- A device counter is raised once for each of `n` events. -/
def countDevTimes (c : DevCounter) : Nat → Io → Io
  | 0, io => io
  | n + 1, io => countDevTimes c n (countDev c io)

/-! ## Ports and buffers -/

/-- The port of a channel: CU0 to CU5 are ports 0 to 5. -/
def chanPort (n : ChannelNo) : PortNo := ⟨n.val, by omega⟩

/-- The port of a link: LK0 to LK3 are ports 6 to 9. -/
def linkPort (l : LinkNo) : PortNo := ⟨l.val + 6, by omega⟩

/-- The port is a link port. -/
def isLinkPort (p : PortNo) : Bool := 6 ≤ p.val

/-- One port is changed and the others left as they were. -/
def modPort (p : PortNo) (f : Port → Port) (io : Io) : Io :=
  { io with ports := io.ports.set p.val (f io.ports[p.val]) }

/-- The ALLOCATED buffer of a handle, none when it is FREE (R16). -/
def bufferOf (h : Handle) (io : Io) : Option Buffer := io.pool.allocated.find? (fun b => b.handle == h)

/-- The bytes in a buffer. -/
def bytesOf (h : Handle) (io : Io) : List Byte :=
  match bufferOf h io with
  | some b => b.bytes
  | none => []

/-- The buffer of a handle is changed. -/
def modBuffer (h : Handle) (f : Buffer → Buffer) (io : Io) : Io :=
  { io with
    pool :=
      { io.pool with
        allocated := io.pool.allocated.map fun b => if b.handle == h then f b else b } }

/-- The header in a buffer is changed by the block that holds it. -/
def modHeader (h : Handle) (f : Header → Header) (io : Io) : Io :=
  modBuffer h (fun b => { b with bytes := rewriteHeader f b.bytes }) io

/-! ## Site sets (R6, spec/00_scope.md section 5.4) -/

/-- The bit of a site: site n is bit n-1. -/
def siteBit (n : SiteId) : SiteSet := if siteIdOk n then BitVec.ofNat 32 (2 ^ (n - 1)) else 0

/-- The site stands in the set. -/
def hasSite (set : SiteSet) (n : SiteId) : Bool := siteIdOk n && set.getLsbD (n - 1)

/-- The set with a site placed in it. -/
def addSite (set : SiteSet) (n : SiteId) : SiteSet := set ||| siteBit n

/-- The set with a site taken out of it. -/
def dropSite (set : SiteSet) (n : SiteId) : SiteSet := set &&& ~~~ siteBit n

/-- The site ids 1 to 32. -/
def allSites : List SiteId := List.range' 1 32

/-- The sites of a set in ascending order. -/
def sitesOf (set : SiteSet) : List SiteId := allSites.filter (hasSite set)

/-- The set of the listed sites. -/
def setOf (l : List SiteId) : SiteSet := l.foldl addSite 0

/-! ## Keyed tables -/

/-- An entry is put into a table kept in ascending order of a key; an entry of the same key is
replaced. -/
def insertKeyed {α : Type} (key : α → Nat) (x : α) : List α → List α
  | [] => [x]
  | y :: ys =>
    if key x < key y then x :: y :: ys
    else if key x = key y then x :: ys
    else y :: insertKeyed key x ys

/-- The Site Table entry of a site (R29). -/
def findSite (n : SiteId) (t : List SiteEntry) : Option SiteEntry := t.find? (fun e => e.site == n)

/-- The Talkgroup Table entry of a talkgroup (R112). -/
def findTalkgroup (g : TalkgroupId) (t : List TalkgroupEntry) : Option TalkgroupEntry :=
  t.find? (fun e => e.id == g)

/-- The Talkgroup Table with the entry of one talkgroup changed. -/
def modTalkgroup (g : TalkgroupId) (f : TalkgroupEntry → TalkgroupEntry) (t : List TalkgroupEntry) :
    List TalkgroupEntry := t.map fun e => if e.id == g then f e else e

/-- The Site Table with the entry of one site changed. -/
def modSite (n : SiteId) (f : SiteEntry → SiteEntry) (t : List SiteEntry) : List SiteEntry :=
  t.map fun e => if e.site == n then f e else e

/-- The position and entry of a site in the Neighbor Table (R71). -/
def findNeighbor (n : SiteId) (t : List (Option NeighborEntry)) : Option NeighborEntry :=
  t.findSome? fun o => o.filter (fun e => e.site == n)

/-- The Neighbor Table index of a site's entry (R71). -/
def neighborIndex (n : SiteId) (t : List (Option NeighborEntry)) : Nat :=
  t.findIdx fun o => o.any (fun e => e.site == n)

/-! ## Unit records -/

/-- The record of a unit (R50). -/
def State.record (s : State) (u : UnitId) : Option Record := s.units.find? (fun r => r.unit == u)

/-- The record of a unit is changed. -/
def modUnit (u : UnitId) (f : Record → Record) (s : State) : State :=
  { s with units := s.units.map fun r => if r.unit == u then f r else r }

/-- SERVED, PROPOSING and DEPARTING are the member states (R49). -/
def Phase.isMember : Phase → Bool
  | .served _ _ _ => true
  | .proposing _ _ _ => true
  | .departing _ _ _ => true
  | .arriving _ => false
  | .forward _ => false
  | .lost _ _ => false

/-- LOST and FORWARD are the states whose records can be reclaimed (R51). -/
def Phase.reclaimable : Phase → Bool
  | .served _ _ _ => false
  | .proposing _ _ _ => false
  | .departing _ _ _ => false
  | .arriving _ => false
  | .forward _ => true
  | .lost _ _ => true

/-- The state number a read reply writes: 0 to 5 in the order SERVED, PROPOSING, DEPARTING, ARRIVING,
FORWARD, LOST (R155). -/
def Phase.number : Phase → Nat
  | .served _ _ _ => 0
  | .proposing _ _ _ => 1
  | .departing _ _ _ => 2
  | .arriving _ => 3
  | .forward _ => 4
  | .lost _ _ => 5

/-- The channel of a record, where its state has one (R48). -/
def Phase.channel? : Phase → Option ChannelNo
  | .served c _ _ => some c
  | .proposing c _ _ => some c
  | .departing c _ _ => some c
  | .arriving _ => none
  | .forward _ => none
  | .lost c _ => some c

/-- The activity fields of a record, where its state has them (R48). -/
def Phase.activity? : Phase → Option Activity
  | .served _ a _ => some a
  | .proposing _ a _ => some a
  | .departing _ _ _ => none
  | .arriving _ => none
  | .forward _ => none
  | .lost _ _ => none

/-- The handover fields of a record, where its state has them (R88). -/
def Phase.handover? : Phase → Option Handover
  | .served _ _ _ => none
  | .proposing _ _ h => some h
  | .departing _ h _ => some h
  | .arriving h => some h
  | .forward h => some h
  | .lost _ _ => none

/-- The record's phase with its activity fields changed, where it has them. -/
def Phase.mapActivity (f : Activity → Activity) : Phase → Phase
  | .served c a b => .served c (f a) b
  | .proposing c a h => .proposing c (f a) h
  | .departing c h o => .departing c h o
  | .arriving h => .arriving h
  | .forward h => .forward h
  | .lost c d => .lost c d

/-- The record's phase with its channel changed, where it has one. -/
def Phase.withChannel (c : ChannelNo) : Phase → Phase
  | .served _ a b => .served c a b
  | .proposing _ a h => .proposing c a h
  | .departing _ h o => .departing c h o
  | .arriving h => .arriving h
  | .forward h => .forward h
  | .lost _ d => .lost c d

/-- The record enters a state: the state entry time is set when the state field changes and kept when it
does not (R48). -/
def Record.enter (now : BitVec 48) (ph : Phase) (r : Record) : Record :=
  { r with
    phase := ph
    entryTime := if r.phase.number == ph.number then r.entryTime else now }

/-- The Roam Selector's fields are cleared and the roam hold is stopped (R85). -/
def Record.clearRoam (r : Record) : Record :=
  { r with
    serving := none
    candidates := List.replicate Config.candidateSlots none
    roamHold := none }

/-! ## Time -/

/-- The reading of the time base at which a timer started now with this duration expires. -/
def State.after (s : State) (ms : Nat) : Nat := s.timeBase.toNat + ms

/-- A running timer whose duration has elapsed. -/
def State.elapsed (s : State) (deadline : Nat) : Bool := deadline ≤ s.timeBase.toNat

/-- The timer is running and its duration has elapsed: its expiry can be taken
(spec/00_scope.md section 5.6). -/
def State.due (s : State) (t : Timer) : Bool :=
  match t with
  | some d => s.elapsed d
  | none => false

/-! ## Parameters by link -/

/-- The link far site of a link (R157, numbers 2 to 5). -/
def Params.farSite (p : Params) (l : LinkNo) : SiteId :=
  match l with
  | 0 => p.farSite0
  | 1 => p.farSite1
  | 2 => p.farSite2
  | 3 => p.farSite3

/-- The own site id in force. -/
def State.own (s : State) : SiteId := s.active.ownSite

/-! ## What sending reads -/

/-- What the pool, the queues and the Forwarding Engine read while frames move: the active parameters,
the Site Table and the links. No sending changes any of them. -/
structure Net where
  active : Params
  sites : List SiteEntry
  links : Vector Link 4

/-- What sending reads of the state. -/
def State.net (s : State) : Net := { active := s.active, sites := s.sites, links := s.links }

/-- An operation on frames, buffers, queues and counters, made against what sending reads. -/
def State.onIo (f : Net → Io → Io) (s : State) : State := { s with io := f s.net s.io }

/-- A device counter of the part is raised. -/
def State.count (c : DevCounter) (s : State) : State := s.onIo fun _ io => countDev c io

end Sys2Proof.Machine
end

