-- ==== Sys2Proof/Machine/Pool.lean ====
section
/-! DEFINITION. The Buffer Pool (spec/02_frame_buffer_pool.md): allocation by class against the reserve
(R19, R26), references (R23), and the release of a buffer (R24, R25). The notice that a release may
set off (R27) is built in Machine/Forwarding.lean, where frames are placed. -/

namespace Sys2Proof.Machine

/-- The pool's answer to a request (R19). -/
inductive Allocation where
  | granted (h : Handle)
  | reserve
  | empty
  deriving DecidableEq, Repr

/-- A granted allocation: the head handle leaves the free list and its buffer is ALLOCATED with a
reference count of 1 and no completion request (R17, R19). -/
def takeBuffer (h : Handle) (rest : List Handle) (io : Io) : Io :=
  { io with
    pool :=
      { io.pool with
        free := rest
        allocated := { handle := h, refs := 1, bytes := [], completion := none } :: io.pool.allocated } }

/-- A decision that meets a free count exceeding the reserve sets the exhaustion flag (R26). -/
def noteExcess (reserve : Nat) (io : Io) : Io :=
  { io with
    pool := { io.pool with exhaustion := io.pool.exhaustion || decide (reserve < io.pool.free.length) } }

/-- A refusal for "empty" while the flag is set clears it and makes the notice pending; while it is
clear it changes nothing (R26). -/
def noteEmpty (io : Io) : Io :=
  if io.pool.exhaustion then
    { io with pool := { io.pool with exhaustion := false, noticePending := true } }
  else io

/-- The pool decides a request of a class against the free count it meets and the reserve in force
(R19). -/
def allocate (reserve : Nat) (cls : FrameClass) (io : Io) : Allocation × Io :=
  let io := noteExcess reserve io
  match io.pool.free with
  | [] => (.empty, noteEmpty io)
  | h :: rest =>
    if cls = .routine && decide (io.pool.free.length ≤ reserve) then (.reserve, io)
    else (.granted h, takeBuffer h rest io)

/-- The restart's reply has been answered: the restart is due (R163). -/
def answerRestart (io : Io) : Io :=
  match io.restart with
  | .awaitingReply => { io with restart := .due }
  | .none => io
  | .due => io

/-- A completion request answered UNSENT: a ROAM ORDER leaves order sent clear, the RESTART reply lets
the restart take place (R25). -/
def answerUnsent (c : Option Completion) (io : Io) : Io :=
  match c with
  | some (.roamOrder _ _) => io
  | some .restartReply => answerRestart io
  | none => io

/-- A buffer is released, steps 1 to 3 of R24: its completion request is answered UNSENT, its handle
joins the tail of the free list, and the flag is set when the free count now exceeds the reserve. With a
reserve of 0 and a notice pending that sets the flag before step 4 gives the handle to the notice, although R27
says that the flag is clear then: R24's order is followed (the model's choice, log entry 39). -/
def releaseBuffer (reserve : Nat) (b : Buffer) (io : Io) : Io :=
  let io := answerUnsent b.completion io
  { io with
    pool :=
      { io.pool with
        free := io.pool.free ++ [b.handle]
        allocated := io.pool.allocated.filter (fun x => x.handle != b.handle)
        exhaustion := io.pool.exhaustion || decide (reserve < io.pool.free.length + 1) } }

/-- One reference more to a buffer (R23). -/
def addReference (h : Handle) (io : Io) : Io := modBuffer h (fun b => { b with refs := b.refs + 1 }) io

/-- One reference fewer to a buffer, releasing it at the last by steps 1 to 3 of R24 (R23). It is the
drop made while no notice is pending, where step 4 has nothing to do. -/
def dropReferenceQuietly (reserve : Nat) (h : Handle) (io : Io) : Io :=
  match bufferOf h io with
  | none => io
  | some b =>
    if b.refs ≤ 1 then releaseBuffer reserve b io
    else modBuffer h (fun b => { b with refs := b.refs - 1 }) io

/-- The last reference to the buffer is about to be dropped. -/
def isLastReference (h : Handle) (io : Io) : Bool :=
  match bufferOf h io with
  | none => false
  | some b => b.refs ≤ 1

end Sys2Proof.Machine
end

