-- ==== Sys2Proof/Machine/Queues.lean ====
section
/-! DEFINITION. The output queues and the transmitters (spec/03_forwarding_and_output_queues.md, sections
3.6 to 3.8; R13, R14). -/

namespace Sys2Proof.Machine

/-- The entry is of class priority. -/
def Entry.isPriority (e : Entry) : Bool := e.cls == .priority

/-- An entry joins a queue with room: a priority entry directly behind the last priority entry, a
routine entry at the tail (R41). -/
def insertEntry (e : Entry) (q : List Entry) : List Entry :=
  if e.isPriority then q.takeWhile Entry.isPriority ++ e :: q.dropWhile Entry.isPriority
  else q ++ [e]

/-- The newest routine entry, the one nearest the tail, and the queue without it (R42). -/
def removeNewestRoutine : List Entry → Option (Entry × List Entry)
  | [] => none
  | e :: q =>
    match removeNewestRoutine q with
    | some (d, q') => some (d, e :: q')
    | none => if e.isPriority then none else some (e, q)

/-- The transmitter takes the head entry: the entry leaves the queue, its reference passes to the
transmission, and the frame is made from the buffer and the entry (R13, R45). -/
def startTransmission (p : PortNo) (io : Io) : Io :=
  match io.ports[p.val].queue with
  | [] => io
  | e :: q =>
    modPort p
      (fun x => { x with queue := q, sending := some { entry := e, frame := wireFrame (bytesOf e.handle io) e } })
      io

/-- An entry is placed in a queue with room; on an empty queue of an IDLE transmitter the transmission
starts at once (R13, R41, R45). -/
def placeWithRoom (p : PortNo) (e : Entry) (io : Io) : Io :=
  let wasEmpty := io.ports[p.val].queue.isEmpty
  let idle := io.ports[p.val].sending.isNone
  let io := addReference e.handle (modPort p (fun x => { x with queue := insertEntry e x.queue }) io)
  if wasEmpty && idle then startTransmission p io else io

/-- An output queue takes a placement (R41, R42). `drop` drops the reference of a displaced entry; it is
made when the placement is done, since a queue takes its placements one at a time (R43). -/
def placeEntryWith (drop : Handle → Io → Io) (p : PortNo) (e : Entry) (io : Io) : Io :=
  let q := io.ports[p.val].queue
  if q.length < Config.queueCapacity then placeWithRoom p e io
  else
    match e.cls with
    | .routine => countPort p .queueDrops io
    | .priority =>
      match removeNewestRoutine q with
      | none => countPort p .queueDrops io
      | some (d, q') =>
        drop d.handle
          (addReference e.handle
            (modPort p (fun x => { x with queue := insertEntry e q' }) (countPort p .displaced io)))

/-- The frame an entry names is a PROBE or a PROBE REPLY (R46). -/
def isProbeEntry (io : Io) (e : Entry) : Bool :=
  let h := parseHeader (bytesOf e.handle io)
  h.isKind .probe || h.isKind .probeReply

end Sys2Proof.Machine
end

