-- ==== Sys2Proof/Machine/Forwarding.lean ====
section
/-! DEFINITION. The Forwarding Engine and the building of frames
(spec/03_forwarding_and_output_queues.md; R21, R24, R27, R32 to R39, R44, R164). Every operation here
works on frames and counters alone, against what `Net` reads. -/

namespace Sys2Proof.Machine

/-! ## Routes -/

/-- The link carries a route: it is UP. -/
def Net.usable (c : Net) (l : Option LinkNo) : Option LinkNo :=
  l.filter fun n => c.links[n.val].state == .up

/-- The route to a site: the primary link if it is UP, otherwise the alternate if it is UP; none for a
site that is not in the table or is the own site (R30). -/
def Net.route (c : Net) (site : SiteId) : Option LinkNo :=
  if site = c.active.ownSite then none
  else
    match findSite site c.sites with
    | none => none
    | some e => (c.usable e.primary).or (c.usable e.alternate)

/-- The sites of the Site Table other than the own site that have a route, in ascending order (R114). -/
def Net.routedSites (c : Net) : List SiteId :=
  (c.sites.map SiteEntry.site).filter fun n => (c.route n).isSome

/-- The management sites other than the own site that have a route (R164). -/
def Net.managementSites (c : Net) : List SiteId :=
  ((c.sites.filter SiteEntry.management).map SiteEntry.site).filter fun n => (c.route n).isSome

/-! ## Placing entries on links -/

/-- One entry for a destination site is placed on the queue of its route link, with the hop limit; a
destination that is the own site or has no route is counted under internal drops (R32, R35). -/
def placeForSiteWith (drop : Handle → Io → Io) (c : Net) (cls : FrameClass) (h : Handle) (site : SiteId)
    (io : Io) : Io :=
  match c.route site with
  | none => countDev .internalDrops io
  | some l =>
    placeEntryWith drop (linkPort l)
      { handle := h, cls := cls, hop := c.active.hopLimit, addressing := .destination site } io

/-- One entry for each of several destinations, every entry naming the one buffer (R114). -/
def placeForSitesWith (drop : Handle → Io → Io) (c : Net) (cls : FrameClass) (h : Handle)
    (sites : List SiteId) (io : Io) : Io :=
  sites.foldl (fun io n => placeForSiteWith drop c cls h n io) io

/-! ## The release of a buffer -/

/-- The bytes of a MGMT NOTICE (R7, R164). -/
def mgmtNoticeBytes (c : Net) (subcode : Byte) (unit talkgroup : Nat) (payload : List Byte) : List Byte :=
  frameBytes
    { Header.blank .mgmtNotice with
      origin := BitVec.ofNat 8 c.active.ownSite
      unit := BitVec.ofNat 24 unit
      talkgroup := BitVec.ofNat 16 talkgroup
      subcode := subcode }
    payload

/-- The pending POOL EXHAUSTED notice takes the released handle from the head of the free list, is built
there, sent to each management site with a route, and let go (R27). The notice is absent from the
start, so no release within it finds one pending. -/
def sendPoolExhausted (c : Net) (io : Io) : Io :=
  match io.pool.free with
  | [] => io
  | h :: rest =>
    let io := takeBuffer h rest { io with pool := { io.pool with noticePending := false } }
    let io := modBuffer h (fun b => { b with bytes := mgmtNoticeBytes c 3#8 0 0 [] }) io
    let io :=
      placeForSitesWith (dropReferenceQuietly c.active.bufferReserve) c .priority h c.managementSites io
    dropReferenceQuietly c.active.bufferReserve h io

/-- A reference is dropped; the last one releases the buffer by all four steps of R24. -/
def dropReference (c : Net) (h : Handle) (io : Io) : Io :=
  let released := isLastReference h io
  let io := dropReferenceQuietly c.active.bufferReserve h io
  if released && io.pool.noticePending then sendPoolExhausted c io else io

/-- An output queue takes a placement. -/
def placeEntry (c : Net) (p : PortNo) (e : Entry) (io : Io) : Io := placeEntryWith (dropReference c) p e io

/-- One entry for a destination site (R35). -/
def placeForSite (c : Net) (cls : FrameClass) (h : Handle) (site : SiteId) (io : Io) : Io :=
  placeForSiteWith (dropReference c) c cls h site io

/-- One entry for each of several destinations (R114). -/
def placeForSites (c : Net) (cls : FrameClass) (h : Handle) (sites : List SiteId) (io : Io) : Io :=
  placeForSitesWith (dropReference c) c cls h sites io

/-! ## Building frames (R21) -/

/-- A block asks for a buffer of the frame's class and writes the frame into it, with its completion
request if it attaches one; a refusal is counted under internal drops (R21). -/
def buildFrame (c : Net) (hdr : Header) (payload : List Byte) (done : Option Completion) (io : Io) :
    Option Handle × Io :=
  match allocate c.active.bufferReserve hdr.frameClass io with
  | (.granted h, io) =>
    (some h, modBuffer h (fun b => { b with bytes := frameBytes hdr payload, completion := done }) io)
  | (.reserve, io) => (none, countDev .internalDrops io)
  | (.empty, io) => (none, countDev .internalDrops io)

/-- A frame is built, its entries are placed, and the holding reference is dropped; nothing more happens
when the buffer is refused (R21). -/
def sendBuilt (c : Net) (hdr : Header) (payload : List Byte) (done : Option Completion)
    (place : Handle → Io → Io) (io : Io) : Io :=
  match buildFrame c hdr payload done io with
  | (some h, io) => dropReference c h (place h io)
  | (none, io) => io

/-- The header of a frame given to the Forwarding Engine carries the own site id as its origin (R32). -/
def Net.fromOwn (c : Net) (hdr : Header) : Header := { hdr with origin := BitVec.ofNat 8 c.active.ownSite }

/-- A single-destination frame is built and handed to the Forwarding Engine (R35). -/
def sendToSite (c : Net) (hdr : Header) (site : SiteId) (io : Io) : Io :=
  let hdr := { c.fromOwn hdr with destination := BitVec.ofNat 8 site }
  sendBuilt c hdr [] none (fun h => placeForSite c hdr.frameClass h site) io

/-- One frame is built and handed to the Forwarding Engine once for each destination; with no destination
no buffer is asked for (R114, R164). -/
def sendToSites (c : Net) (hdr : Header) (payload : List Byte) (sites : List SiteId) (io : Io) : Io :=
  if sites.isEmpty then io
  else
    sendBuilt c (c.fromOwn hdr) payload none (fun h => placeForSites c hdr.frameClass h sites) io

/-- The entry of a frame on a channel port: hop count 0 and no addressing (R44). -/
def channelEntry (cls : FrameClass) (h : Handle) : Entry :=
  { handle := h, cls := cls, hop := 0, addressing := .unaddressed }

/-- An entry naming a buffer is placed on a channel port (R44). -/
def deliver (c : Net) (n : ChannelNo) (cls : FrameClass) (h : Handle) (io : Io) : Io :=
  placeEntry c (chanPort n) (channelEntry cls h) io

/-- A frame is built for a channel port and placed there (R44). -/
def sendToChannel (c : Net) (n : ChannelNo) (hdr : Header) (payload : List Byte)
    (done : Option Completion) (io : Io) : Io :=
  sendBuilt c hdr payload done (fun h => deliver c n hdr.frameClass h) io

/-- A PROBE or PROBE REPLY is built and placed on its link's queue without a route (R145, R146). -/
def sendLinkLocal (c : Net) (l : LinkNo) (hdr : Header) (io : Io) : Io :=
  sendBuilt c (c.fromOwn hdr) [] none
    (fun h =>
      placeEntry c (linkPort l)
        { handle := h, cls := .priority, hop := c.active.hopLimit, addressing := .unaddressed })
    io

/-- A management reply is placed by route, and failing a route on the queue of its request's arrival
link, whatever that link's state (R37). A reply addressed to the own site is an internal drop (R35). -/
def placeReply (c : Net) (arrival : LinkNo) (h : Handle) (site : SiteId) (io : Io) : Io :=
  if site = c.active.ownSite then countDev .internalDrops io
  else
    placeEntry c (linkPort ((c.route site).getD arrival))
      { handle := h, cls := .priority, hop := c.active.hopLimit, addressing := .destination site } io

/-- A MGMT NOTICE is built when it is asked for and sent to each management site with a route (R164). -/
def sendMgmtNotice (c : Net) (subcode : Byte) (unit talkgroup : Nat) (payload : List Byte) (io : Io) : Io :=
  sendToSites c
    { Header.blank .mgmtNotice with
      unit := BitVec.ofNat 24 unit
      talkgroup := BitVec.ofNat 16 talkgroup
      subcode := subcode }
    payload c.managementSites io

/-! ## Frames for another site -/

/-- A UNIT UNREACHABLE is built for a message's origin (R34, R68). -/
def sendUnreachable (c : Net) (cause : Byte) (emergency : Bool) (msg : Header) (io : Io) : Io :=
  sendToSite c
    { Header.blank .unitUnreachable with
      emergency := emergency
      unit := msg.unit
      subcode := cause }
    msg.origin.toNat io

/-- A single-destination frame from a link is placed toward a site with its hop count lowered: steps 1 to
3 of R33 and of R36. A UNIT MESSAGE without a route is answered UNIT UNREACHABLE (NO ROUTE) (R34). -/
def forwardSingle (c : Net) (l : LinkNo) (h : Handle) (hdr : Header) (site : SiteId) (io : Io) : Io :=
  if hdr.hop.toNat ≤ 1 then countPort (linkPort l) .hopExpired io
  else
    match c.route site with
    | none =>
      let io := countPort (linkPort l) .noRoute io
      if hdr.isKind .unitMessage then sendUnreachable c 4#8 false hdr io else io
    | some n =>
      placeEntry c (linkPort n)
        { handle := h
          cls := hdr.frameClass
          hop := hdr.hop.toNat - 1
          addressing := .destination site }
        io

/-- The sites of a set whose route is a given link. -/
def Net.sitesVia (c : Net) (set : SiteSet) (l : LinkNo) : SiteSet :=
  setOf ((sitesOf set).filter fun n => c.route n == some l)

/-- The sites of a set that have no route (R38, step 4). -/
def Net.unreachable (c : Net) (set : SiteSet) : List SiteId :=
  (sitesOf set).filter fun n => (c.route n).isNone

/-- One entry for the sites of a set that a link routes, none where there is no such site (R38, step 5). -/
def placeSubset (c : Net) (h : Handle) (cls : FrameClass) (hop : Nat) (set : SiteSet) (io : Io)
    (l : LinkNo) : Io :=
  let sub := c.sitesVia set l
  if sub = 0 then io
  else placeEntry c (linkPort l) { handle := h, cls := cls, hop := hop, addressing := .subset sub } io

/-- The entries of a target-set frame, one for each link that routes at least one of its sites, all within one
event. -/
def placeSubsets (c : Net) (h : Handle) (cls : FrameClass) (hop : Nat) (set : SiteSet) (io : Io) : Io :=
  [(0 : LinkNo), 1, 2, 3].foldl (placeSubset c h cls hop set) io

/-! ## Placing a frame entry by entry (R38, step 5) -/

/-- A number of sites left without a route is counted: under no route at a port, or under internal drops (R38,
R39). -/
def countLost (lostAt : Option PortNo) (n : Nat) (io : Io) : Io :=
  match lostAt with
  | some p => countPortTimes p .noRoute n io
  | none => countDevTimes .internalDrops n io

/-- The sites of a set grouped by their route links (R38, step 5). -/
def Net.groups (c : Net) (set : SiteSet) : Vector SiteSet 4 := Vector.ofFn (c.sitesVia set)

/-- Every entry has been placed. -/
def Fanout.isDone (f : Fanout) : Bool := f.groups.toList.all (· == 0)

/-- The link of the next entry: the lowest-numbered one with a group left (log entry 11). -/
def Fanout.next? (f : Fanout) : Option LinkNo := [(0 : LinkNo), 1, 2, 3].find? fun l => f.groups[l.val] != 0

/-- The entry of a frame for the group of a link (R38, step 5). -/
def Fanout.entry (c : Net) (f : Fanout) (l : LinkNo) : Entry where
  handle := f.handle
  cls := f.cls
  hop := f.hop.getD c.active.hopLimit
  addressing := .subset f.groups[l.val]

/-- The next entry of a frame is placed, if there is one, and its group is done. -/
def placeGroup (c : Net) (f : Fanout) (io : Io) : Fanout × Io :=
  match f.next? with
  | none => (f, io)
  | some l => ({ f with groups := f.groups.set l.val 0 }, placeEntry c (linkPort l) (f.entry c l) io)

/-- Several entries of a frame are placed. -/
def placeGroups (c : Net) : Nat → Fanout → Io → Fanout × Io
  | 0, f, io => (f, io)
  | n + 1, f, io =>
    let r := placeGroup c f io
    placeGroups c n r.1 r.2

/-- A grouped frame is taken up: as many of its entries are placed as belong to this event, and with some left it
joins the engine's work, holding a reference. Behind a frame that is left from before it waits its turn (log entry
36). -/
def takeUp (c : Net) (f : Fanout) (io : Io) : Io :=
  if f.isDone then io
  else
    let n := if io.engine.work.isEmpty then io.engine.atOnce.headD 4 else 0
    let r := placeGroups c n f { io with engine := { io.engine with atOnce := io.engine.atOnce.tail } }
    if r.1.isDone then r.2
    else addReference f.handle { r.2 with engine := { r.2.engine with work := r.2.engine.work ++ [r.1] } }

/-- Step 5 of R38: a frame's sites that have a route are grouped and its entries placed, all of them at once while
the engine is idle and no other number is asked for. -/
def fanOutSet (c : Net) (h : Handle) (cls : FrameClass) (hop : Option Nat) (lostAt : Option PortNo) (set : SiteSet)
    (io : Io) : Io :=
  if io.engine = Engine.idle then placeSubsets c h cls (hop.getD c.active.hopLimit) set io
  else takeUp c { handle := h, cls := cls, hop := hop, lostAt := lostAt, groups := c.groups set } io

/-- The engine makes the next placement of its oldest frame, and lets the frame go after its last. -/
def engineTurn (c : Net) (io : Io) : Io :=
  match io.engine.work with
  | [] => io
  | f :: rest =>
    let r := placeGroup c f io
    if r.1.isDone then dropReference c f.handle { r.2 with engine := { r.2.engine with work := rest } }
    else { r.2 with engine := { r.2.engine with work := r.1 :: rest } }

/-- The link of a group has entered DOWN before the group's entry was placed: each of its sites joins the group of
its new route's link, which makes a further entry where the frame's entry there has been placed, or, without a
route, leaves the frame (R38, step 5). -/
def Fanout.reroute (c : Net) (l : LinkNo) (f : Fanout) : Fanout :=
  let kept := f.groups.set l.val 0
  { f with groups := Vector.ofFn fun m : LinkNo => kept[m.val] ||| c.sitesVia f.groups[l.val] m }

/-- The frames that the engine has not placed whole meet the loss of a link: their groups for it are routed anew,
each site left without a route is counted, and a frame with no site left is let go (R38, step 5). Of several such frames
the oldest lets its buffer go first (the model's choice, log entry 35). -/
def rerouteWork (c : Net) (l : LinkNo) (io : Io) : Io :=
  let counted :=
    io.engine.work.foldl (fun io f => countLost f.lostAt (c.unreachable f.groups[l.val]).length io) io
  let work := io.engine.work.map (Fanout.reroute c l)
  (work.filter Fanout.isDone).foldl (fun io f => dropReference c f.handle io)
    { counted with engine := { counted.engine with work := work.filter fun f => !f.isDone } }

/-- Steps 2 to 5 of R38 for a frame received at a link. -/
def forwardTargets (c : Net) (l : LinkNo) (h : Handle) (hdr : Header) (io : Io) : Io :=
  let set := dropSite hdr.targets c.active.ownSite
  if set = 0 then io
  else if hdr.hop.toNat ≤ 1 then countPort (linkPort l) .hopExpired io
  else
    fanOutSet c h hdr.frameClass (some (hdr.hop.toNat - 1)) (some (linkPort l)) set
      (countLost (some (linkPort l)) (c.unreachable set).length io)

/-- A call frame of a local talker is offered: steps 2, 4 and 5 of R38 with the own site as origin and the
hop limit, each unreachable site counted at a port or under internal drops (R32, R39). -/
def offerTargets (c : Net) (lostAt : Option PortNo) (h : Handle) (cls : FrameClass) (targets : SiteSet)
    (io : Io) : Io :=
  let set := dropSite targets c.active.ownSite
  fanOutSet c h cls none lostAt set (countLost lostAt (c.unreachable set).length (modHeader h c.fromOwn io))

/-- A received call frame is offered by the arbiter of a channel; each lost site is counted under no
route at the channel port (R39). -/
def offerReceived (c : Net) (n : ChannelNo) (h : Handle) (targets : SiteSet) (io : Io) : Io :=
  offerTargets c (some (chanPort n)) h (parseHeader (bytesOf h io)).frameClass targets io

/-- A call frame that an arbiter builds is offered; each lost site is counted under internal drops
(R39). -/
def offerBuilt (c : Net) (hdr : Header) (targets : SiteSet) (io : Io) : Io :=
  sendBuilt c (c.fromOwn hdr) [] none
    (fun h => offerTargets c none h hdr.frameClass targets)
    io

/-! ## Flush -/

/-- The queue of a link is flushed: every entry whose frame is neither a PROBE nor a PROBE REPLY leaves,
is counted under queue drops and has its reference released (R46). The references are released from the head
of the queue to its tail (the model's choice, log entry 35). -/
def flushQueue (c : Net) (l : LinkNo) (io : Io) : Io :=
  let q := io.ports[(linkPort l).val].queue
  let gone := q.filter fun e => !isProbeEntry io e
  let io := modPort (linkPort l) (fun x => { x with queue := q.filter (isProbeEntry io) }) io
  gone.foldl (fun io e => dropReference c e.handle io) (countPortTimes (linkPort l) .queueDrops gone.length io)

end Sys2Proof.Machine
end

