-- ==== Sys2Proof/Machine/Membership.lean ====
section
/-! DEFINITION. The Membership Controller (spec/07_talkgroups_and_the_membership_exchange.md): member
counting, the notices this site sends, and the notices it takes. -/

namespace Sys2Proof.Machine

/-! ## Notices this site sends -/

/-- The own sequence advances by one, after 255 to 0 (R114). -/
def advanceSequence (s : State) : State := { s with ownSequence := s.ownSequence + 1 }

/-- The header of a MEMBERSHIP NOTICE with a subcode, the own sequence and a talkgroup (R114, R116). -/
def membershipHeader (subcode : Byte) (talkgroup : TalkgroupId) (s : State) : Header :=
  { Header.blank .membershipNotice with
    subcode := subcode
    tag := s.ownSequence.setWidth 16
    talkgroup := BitVec.ofNat 16 talkgroup }

/-- A JOIN (1) or LEAVE (2) for a talkgroup: the sequence advances, and the notice goes to every routed
site of the Site Table (R114). -/
def sendMembership (subcode : Byte) (talkgroup : TalkgroupId) (s : State) : State :=
  let s := advanceSequence s
  s.onIo fun c => sendToSites c (membershipHeader subcode talkgroup s) [] c.routedSites

/-- The talkgroups whose local member count is above 0, in ascending order of id (R116). -/
def memberTalkgroups (s : State) : List TalkgroupId :=
  (s.talkgroups.filter fun e => decide (0 < e.members)).map TalkgroupEntry.id

/-- The payload of a FULL notice: the refresh period in seconds, the count, the talkgroups (R7, R116). -/
def fullPayload (s : State) : List Byte :=
  let ids := memberTalkgroups s
  BitVec.ofNat 8 s.active.refreshPeriod :: BitVec.ofNat 8 ids.length :: ids.flatMap (beBytes 2)

/-- A FULL round (R115, R116). -/
def fullRound (s : State) : State :=
  let s := advanceSequence s
  s.onIo fun c => sendToSites c (membershipHeader 3#8 0 s) (fullPayload s) c.routedSites

/-- The refresh timer is started with the refresh period in force (R115). -/
def startRefresh (s : State) : State :=
  { s with refreshTimer := some (s.after (s.active.refreshPeriod * 1000)) }

/-! ## Counting local members (R113) -/

/-- An entry report: the talkgroup's count rises by one, and a rise from 0 sends a JOIN. -/
def memberEntry (g : TalkgroupId) (s : State) : State :=
  match findTalkgroup g s.talkgroups with
  | none => s
  | some e =>
    let s := { s with talkgroups := modTalkgroup g (fun e => { e with members := e.members + 1 }) s.talkgroups }
    if e.members = 0 then sendMembership 1#8 g s else s

/-- An exit report: the talkgroup's count falls by one, and a fall to 0 sends a LEAVE. -/
def memberExit (g : TalkgroupId) (s : State) : State :=
  match findTalkgroup g s.talkgroups with
  | none => s
  | some e =>
    let s := { s with talkgroups := modTalkgroup g (fun e => { e with members := e.members - 1 }) s.talkgroups }
    if e.members = 1 then sendMembership 2#8 g s else s

/-- The exit report of a record that leaves a state, when that state is a member state (R66). -/
def exitReport (r : Record) (s : State) : State :=
  if r.phase.isMember then memberExit r.talkgroup s else s

/-! ## Notices this site takes -/

/-- A sequence is newer than another when their difference mod 256 lies in 1 to 127 (R120). -/
def newer (q l : Byte) : Bool := 1 ≤ (q - l).toNat && (q - l).toNat ≤ 127

/-- The sender of a notice has a Site Table entry and is not the own site (R118). -/
def senderEntry (hdr : Header) (s : State) : Option SiteEntry :=
  if hdr.origin.toNat = s.own then none else findSite hdr.origin.toNat s.sites

/-- A site is taken out of every remote site set. -/
def dropFromSets (n : SiteId) (s : State) : State :=
  { s with talkgroups := s.talkgroups.map fun e => { e with remote := dropSite e.remote n } }

/-- The period a FULL carries, read within 5 to 120 (R119). -/
def announcedPeriodOf (payload : List Byte) : Nat := max 5 (min 120 (byteAt payload 0).toNat)

/-- A FULL notice replaces its sender's membership in full (R119). -/
def takeFull (hdr : Header) (payload : List Byte) (s : State) : State :=
  match senderEntry hdr s with
  | none => s.count .staleNotices
  | some e =>
    let listed := fullTalkgroups payload
    let period := announcedPeriodOf payload
    { s with
      talkgroups :=
        s.talkgroups.map fun g =>
          { g with
            remote := if listed.contains g.id then addSite g.remote e.site else dropSite g.remote e.site }
      sites :=
        modSite e.site
          (fun x =>
            { x with
              lastSequence := some (hdr.tag.setWidth 8)
              announcedPeriod := some period
              ageTimer := some (s.after (3 * period * 1000)) })
          s.sites }

/-- A JOIN or LEAVE notice is taken when the last sequence is absent or the notice is newer; `change`
places its sender in the talkgroup's remote site set or takes it out (R120). -/
def takeChange (change : SiteSet → SiteId → SiteSet) (hdr : Header) (s : State) : State :=
  match senderEntry hdr s with
  | none => s.count .staleNotices
  | some e =>
    if e.lastSequence.all (newer (hdr.tag.setWidth 8)) then
      { s with
        talkgroups :=
          modTalkgroup hdr.talkgroup.toNat (fun g => { g with remote := change g.remote e.site }) s.talkgroups
        sites :=
          modSite e.site
            (fun x =>
              { x with
                lastSequence := some (hdr.tag.setWidth 8)
                ageTimer :=
                  match x.ageTimer with
                  | some d => some d
                  | none => some (s.after (3 * x.announcedPeriod.getD s.active.refreshPeriod * 1000)) })
            s.sites }
    else s.count .staleNotices

/-- A site's age timer expires: it leaves every remote site set and its last sequence becomes absent
(R121). -/
def expireAge (n : SiteId) (s : State) : State :=
  match findSite n s.sites with
  | none => s
  | some e =>
    if s.due e.ageTimer then
      let s := dropFromSets n s
      { s with sites := modSite n (fun x => { x with lastSequence := none, ageTimer := none }) s.sites }
    else s

/-- The refresh timer expires: a FULL round is made and the timer is started again (R115). -/
def expireRefresh (s : State) : State :=
  if s.due s.refreshTimer then startRefresh (fullRound s) else s

end Sys2Proof.Machine
end

