-- ==== Sys2Proof/Machine/Messages.lean ====
section
/-! DEFINITION. The frames the Unit Table Controller and the Handover Controller build, and the two things
they ask of the Roam Selector and of presence tracking: the roam hold (R83) and a fresh start (R57). -/

namespace Sys2Proof.Machine

/-! ## Frames to radios -/

/-- REGISTER ACCEPT with the unit id, the talkgroup and the channel (R54). -/
def sendAccept (n : ChannelNo) (u : UnitId) (g : TalkgroupId) (ch : ChannelNo) (s : State) : State :=
  s.onIo fun c =>
    sendToChannel c n
      { Header.blank .registerAccept with
        unit := BitVec.ofNat 24 u
        talkgroup := BitVec.ofNat 16 g
        channel := BitVec.ofNat 8 ch.val }
      [] none

/-- REGISTER REFUSE with a cause: 1 UNKNOWN TALKGROUP, 2 SITE FULL (R54). -/
def sendRefuse (n : ChannelNo) (u : UnitId) (cause : Byte) (s : State) : State :=
  s.onIo fun c =>
    sendToChannel c n
      { Header.blank .registerRefuse with unit := BitVec.ofNat 24 u, subcode := cause } [] none

/-- The header of a POLL, with the marker of the record's emergency flag (R60). -/
def pollHeader (r : Record) : Header :=
  { Header.blank .poll with emergency := r.emergency, unit := BitVec.ofNat 24 r.unit }

/-- A ROAM ORDER to the record's channel with the target channel, the target site and a completion request
naming the attempt (R92). -/
def sendRoamOrder (n : ChannelNo) (r : Record) (target : Byte) (ho : Handover) (s : State) : State :=
  s.onIo fun c =>
    sendToChannel c n
      { Header.blank .roamOrder with
        emergency := r.emergency
        unit := BitVec.ofNat 24 r.unit
        talkgroup := BitVec.ofNat 16 r.talkgroup
        channel := target }
      [BitVec.ofNat 8 ho.partner] (some (.roamOrder r.unit ho.id))

/-! ## Handover messages -/

/-- The header of a HO message about a unit with a handover id (R4). -/
def handoverHeader (k : Kind) (u : UnitId) (id : Nat) : Header :=
  { Header.blank k with unit := BitVec.ofNat 24 u, tag := BitVec.ofNat 16 id }

/-- The header of a HO REQUEST for a record (R91). -/
def requestHeader (r : Record) (id : Nat) : Header :=
  { handoverHeader .hoRequest r.unit id with
    emergency := r.emergency
    talkgroup := BitVec.ofNat 16 r.talkgroup }

/-- HO CANCEL with a reason of R7, to a site. -/
def sendCancel (u : UnitId) (id : Nat) (reason : Byte) (site : SiteId) (s : State) : State :=
  s.onIo fun c => sendToSite c { handoverHeader .hoCancel u id with subcode := reason } site

/-- HO REFUSE with a cause of R7, to a site. -/
def sendHoRefuse (u : UnitId) (id : Nat) (cause : Byte) (site : SiteId) (s : State) : State :=
  s.onIo fun c => sendToSite c { handoverHeader .hoRefuse u id with subcode := cause } site

/-- HO ACCEPT with the channel of the talkgroup, to the source (R104). -/
def sendHoAccept (u : UnitId) (id : Nat) (ch : ChannelNo) (site : SiteId) (s : State) : State :=
  s.onIo fun c => sendToSite c { handoverHeader .hoAccept u id with channel := BitVec.ofNat 8 ch.val } site

/-- HO COMPLETE with the marker of the record's flag, to the source (R105). -/
def sendHoComplete (u : UnitId) (id : Nat) (emergency : Bool) (site : SiteId) (s : State) : State :=
  s.onIo fun c => sendToSite c { handoverHeader .hoComplete u id with emergency := emergency } site

/-- HO CLAIM to a site; each CLAIM built is counted under claims sent (R107). -/
def sendClaim (u : UnitId) (emergency : Bool) (site : SiteId) (s : State) : State :=
  s.onIo fun c =>
    let hdr :=
      { c.fromOwn { handoverHeader .hoClaim u 0 with emergency := emergency } with
        destination := BitVec.ofNat 8 site }
    sendBuilt c hdr [] none fun h io => placeForSite c hdr.frameClass h site (countDev .claimsSent io)

/-! ## Presence tracking and the roam hold -/

/-- Presence tracking started afresh on an entry into SERVED (R57). -/
def freshActivity (s : State) : Activity where
  cls := .active
  timer := some (s.after (s.active.runDownshift * 1000))
  poll := none
  outstanding := none
  misses := 0

/-- The interval at which a class is polled; ACTIVE is not polled (R58, R59). -/
def pollInterval (p : Params) : ActivityClass → Nat
  | .active => 0
  | .quiet => p.quietPoll
  | .dormant => p.dormantPoll

/-- The poll timer restarted with the interval of the record's class (R60 to R62). -/
def restartPoll (s : State) (a : Activity) : Activity :=
  { a with poll := some (s.after (pollInterval s.active a.cls * 1000)) }

/-- A record enters a state at the present reading of the time base (R48). -/
def enterPhase (u : UnitId) (ph : Phase) (s : State) : State := modUnit u (Record.enter s.timeBase ph) s

/-- The roam hold timer of a record is started, or started again, with the roam hold in force (R83). -/
def startRoamHold (u : UnitId) (s : State) : State :=
  modUnit u (fun r => { r with roamHold := some (s.after (s.active.roamHold * 1000)) }) s

end Sys2Proof.Machine
end

