-- ==== Sys2Proof/Machine/Units.lean ====
section
/-! DEFINITION. The Unit Table Controller (spec/04_the_unit_table.md): slots and reclaim, deletion, the
unit notice, registration of new and served units, presence polls and the LOST state. -/

namespace Sys2Proof.Machine

/-! ## Slots -/

/-- The lowest-numbered free slot (R51, step 1). -/
def freeSlot (s : State) : Option Nat :=
  (List.range Config.unitSlots).find? fun n => !s.units.any fun r => r.slot == n

/-- The record that is reclaimed before another: the earlier state entry time, and at the same time the
lower slot (R51, step 2). -/
def reclaimBefore (a b : Record) : Bool :=
  decide (a.entryTime.toNat < b.entryTime.toNat) ||
    (a.entryTime == b.entryTime && decide (a.slot < b.slot))

/-- The first of two reclaim candidates. -/
def reclaimFirst (best : Option Record) (r : Record) : Option Record :=
  match best with
  | none => some r
  | some b => if reclaimBefore r b then some r else some b

/-- The record to reclaim among those in LOST or FORWARD (R51, step 2). -/
def reclaimCandidate (s : State) : Option Record :=
  (s.units.filter fun r => r.phase.reclaimable).foldl reclaimFirst none

/-- The record of a unit is taken out of the table; its timers stop without expiry. -/
def removeRecord (u : UnitId) (s : State) : State :=
  { s with units := s.units.filter fun r => r.unit != u }

/-- A slot for a new record: the lowest free one, or the slot of a reclaimed record, or none (R51). -/
def takeSlot (s : State) : Option (Nat × State) :=
  match freeSlot s with
  | some n => some (n, s)
  | none =>
    match reclaimCandidate s with
    | some r => some (r.slot, (removeRecord r.unit s).count .recordsReclaimed)
    | none => none

/-- A record joins the table, which is kept in slot order. -/
def insertRecord (r : Record) (s : State) : State := { s with units := insertKeyed Record.slot r s.units }

/-- The record of a unit is deleted: the exit report of a member, then removal, counted under records
deleted (R52). -/
def deleteRecord (u : UnitId) (s : State) : State :=
  match s.record u with
  | none => s
  | some r => (removeRecord u (exitReport r s)).count .recordsDeleted

/-! ## The unit notice (R53) -/

/-- The emergency flag becomes set; a DORMANT record becomes QUIET, its poll timer restarted unless a poll
is outstanding (R59, R65). -/
def setEmergency (s : State) (r : Record) : Record :=
  if r.emergency then r
  else
    { r with
      emergency := true
      phase :=
        r.phase.mapActivity fun a =>
          if a.cls = .dormant then
            if a.outstanding.isNone then restartPoll s { a with cls := .quiet } else { a with cls := .quiet }
          else a }

/-- A notice of any kind other than POLL REPLY makes the record ACTIVE (R58). -/
def touchActivity (s : State) (a : Activity) : Activity :=
  if a.cls = .active then { a with timer := some (s.after (s.active.runDownshift * 1000)) }
  else freshActivity s

/-- The kinds that revive a LOST record by the notice alone (R53, R56). -/
def revivesByNotice (k : Kind) : Bool := k == .measure || k == .pollReply || k == .callStart

/-- The kinds that mean a departed radio has returned (R97). -/
def marksReturn (k : Kind) : Bool := k == .register || revivesByNotice k

/-- A LOST record enters SERVED on its talkgroup's present channel, with its member report (R56). -/
def reviveRecord (r : Record) (g : TalkgroupEntry) (s : State) : State :=
  memberEntry r.talkgroup (enterPhase r.unit (.served g.channel (freshActivity s) none) s)

/-- A LOST record meets a sign of life: it is revived, or deleted when its talkgroup has been removed
(R56). -/
def reviveOrDelete (r : Record) (s : State) : State :=
  match findTalkgroup r.talkgroup s.talkgroups with
  | some g => reviveRecord r g s
  | none => deleteRecord r.unit s

/-- Revival by the unit notice, with the REGISTER ACCEPT on the arrival channel port (R56). -/
def reviveByNotice (n : ChannelNo) (r : Record) (s : State) : State :=
  match findTalkgroup r.talkgroup s.talkgroups with
  | some g => sendAccept n r.unit r.talkgroup g.channel (reviveRecord r g s)
  | none => deleteRecord r.unit s

/-- A departed radio has returned: SERVED afresh, HO CANCEL (RETURNED), the roam hold, roams failed
(R97). -/
def radioReturned (u : UnitId) (ch : ChannelNo) (ho : Handover) (s : State) : State :=
  let s := enterPhase u (.served ch (freshActivity s) none) s
  let s := sendCancel u ho.id 4#8 ho.partner s
  (startRoamHold u s).count .roamsFailed

/-- The effect of a notice on a record whose flag has been set if the marker asks for it (R53). -/
def noticeByState (n : ChannelNo) (k : Kind) (r : Record) (s : State) : State :=
  match r.phase with
  | .served _ _ _ =>
    if k = .pollReply then s
    else modUnit r.unit (fun r => { r with phase := r.phase.mapActivity (touchActivity s) }) s
  | .proposing _ _ _ =>
    if k = .pollReply then s
    else modUnit r.unit (fun r => { r with phase := r.phase.mapActivity (touchActivity s) }) s
  | .departing ch ho sent => if sent && marksReturn k then radioReturned r.unit ch ho s else s
  | .arriving _ => s
  | .forward _ => s
  | .lost _ _ => if revivesByNotice k then reviveByNotice n r s else s

/-- The unit notice of a frame from a channel port (R53). A marked frame sets the flag in every state, FORWARD
among them, as R53 and R65 have it; that R101 keeps a FORWARD record's flag is read as saying what the Handover
Controller does (the model's choice, log entry 34). -/
def unitNotice (n : ChannelNo) (u : UnitId) (k : Kind) (marker : Bool) (s : State) : State :=
  match s.record u with
  | none => s
  | some r =>
    noticeByState n k r (if marker then modUnit u (setEmergency s) s else s)

/-! ## Registration -/

/-- What a REGISTER carries beside its unit (R7). -/
structure Registration where
  unit : UnitId
  talkgroup : TalkgroupId
  /-- The reason is EMERGENCY CLEAR. -/
  clears : Bool
  marker : Bool
  lastSite : SiteId

/-- A REGISTER read from its header and payload (R7). -/
def registrationOf (hdr : Header) (payload : List Byte) : Registration where
  unit := hdr.unit.toNat
  talkgroup := hdr.talkgroup.toNat
  clears := hdr.subcode == 4#8
  marker := hdr.emergency
  lastSite := payloadSite (byteAt payload 0)

/-- The record a REGISTER creates (R54, step 3). -/
def newRecord (g : Registration) (slot : Nat) (ch : ChannelNo) (s : State) : Record where
  slot := slot
  unit := g.unit
  phase := .served ch (freshActivity s) none
  talkgroup := g.talkgroup
  emergency := g.marker && !g.clears
  talking := false
  talkLimited := false
  serving := none
  candidates := List.replicate Config.candidateSlots none
  roamHold := none
  entryTime := s.timeBase
  lastSite := g.lastSite

/-- The claim a registration sends to the last site, when that is neither 0 nor the own site (R54,
R107). -/
def claimLastSite (g : Registration) (emergency : Bool) (s : State) : State :=
  if g.lastSite = 0 || g.lastSite = s.own then s else sendClaim g.unit emergency g.lastSite s

/-- A REGISTER for a unit that has no record (R54). -/
def registerNew (n : ChannelNo) (g : Registration) (s : State) : State :=
  match findTalkgroup g.talkgroup s.talkgroups with
  | none => sendRefuse n g.unit 1#8 s
  | some e =>
    match takeSlot s with
    | none => sendRefuse n g.unit 2#8 s
    | some (slot, s) =>
      let r := newRecord g slot e.channel s
      let s := memberEntry g.talkgroup (insertRecord r s)
      let s := s.count .recordsCreated
      let s := sendAccept n g.unit g.talkgroup e.channel s
      claimLastSite g r.emergency s

/-- The fields a taken REGISTER writes in a record: the last site, and the flag cleared when the reason is
EMERGENCY CLEAR (R55). -/
def Registration.note (g : Registration) (r : Record) : Record :=
  { r with lastSite := g.lastSite, emergency := r.emergency && !g.clears }

/-- A REGISTER for a record in a member state (R55, R96). -/
def registerServed (n : ChannelNo) (g : Registration) (r : Record) (s : State) : State :=
  match findTalkgroup g.talkgroup s.talkgroups with
  | none => sendRefuse n g.unit 1#8 s
  | some e =>
    if g.talkgroup = r.talkgroup then
      sendAccept n g.unit g.talkgroup (r.phase.channel?.getD e.channel) (modUnit g.unit g.note s)
    else
      let s := memberEntry g.talkgroup (memberExit r.talkgroup s)
      let s :=
        modUnit g.unit
          (fun r => g.note { r with talkgroup := g.talkgroup, phase := r.phase.withChannel e.channel }) s
      sendAccept n g.unit g.talkgroup e.channel s

/-- The fields a REGISTER writes on the entry into SERVED from ARRIVING or FORWARD (R102, R105). -/
def enterServed (g : Registration) (talkgroup : TalkgroupId) (ch : ChannelNo) (s : State) : State :=
  modUnit g.unit
    (fun r =>
      g.note { (r.enter s.timeBase (.served ch (freshActivity s) none)) with talkgroup := talkgroup })
    s

/-- A REGISTER for a record in FORWARD (R102). -/
def registerForward (n : ChannelNo) (g : Registration) (r : Record) (ho : Handover) (s : State) : State :=
  match findTalkgroup g.talkgroup s.talkgroups with
  | none => sendRefuse n g.unit 1#8 s
  | some e =>
    let s := memberEntry g.talkgroup (enterServed g g.talkgroup e.channel s)
    let s := sendAccept n g.unit g.talkgroup e.channel s
    sendClaim g.unit (r.emergency && !g.clears) ho.partner s

/-- The talkgroup a record in ARRIVING will serve: the REGISTER's when it is in the table, otherwise the
record's own when that still is (R105). -/
def chosenTalkgroup (g : Registration) (r : Record) (s : State) : Option TalkgroupEntry :=
  (findTalkgroup g.talkgroup s.talkgroups).or (findTalkgroup r.talkgroup s.talkgroups)

/-- A REGISTER for a record in ARRIVING (R105). -/
def registerArriving (n : ChannelNo) (g : Registration) (r : Record) (ho : Handover) (s : State) : State :=
  match chosenTalkgroup g r s with
  | none => sendRefuse n g.unit 1#8 s
  | some e =>
    let s := memberEntry e.id (enterServed g e.id e.channel s)
    let s := sendAccept n g.unit e.id e.channel s
    let s := sendHoComplete g.unit ho.id (r.emergency && !g.clears) ho.partner s
    startRoamHold g.unit s

/-- A REGISTER whose LOST record has been revived or deleted (R56). -/
def registerRevived (n : ChannelNo) (g : Registration) (s : State) : State :=
  match s.record g.unit with
  | some r => registerServed n g r s
  | none => registerNew n g s

/-- A REGISTER is handled by the state its unit notice left (R54 to R56, R96, R102, R105). -/
def registerByState (n : ChannelNo) (g : Registration) (s : State) : State :=
  match s.record g.unit with
  | none => registerNew n g s
  | some r =>
    match r.phase with
    | .served _ _ _ => registerServed n g r s
    | .proposing _ _ _ => registerServed n g r s
    | .departing _ _ _ => registerServed n g r s
    | .arriving ho => registerArriving n g r ho s
    | .forward ho => registerForward n g r ho s
    | .lost _ _ => registerRevived n g (reviveOrDelete r s)

/-! ## Presence polls -/

/-- The activity timer of an ACTIVE or a QUIET record expires (R58, R59). -/
def expireActivity (s : State) (r : Record) (a : Activity) : Activity :=
  match a.cls with
  | .active =>
    { a with
      cls := .quiet
      timer := some (s.after (s.active.quietDownshift * 1000))
      poll := some (s.after (s.active.quietPoll * 1000)) }
  | .quiet =>
    if r.emergency then { a with timer := none }
    else if a.outstanding.isNone then restartPoll s { a with cls := .dormant, timer := none }
    else { a with cls := .dormant, timer := none }
  | .dormant => { a with timer := none }

/-- The activity timer of a unit's record expires. -/
def activityExpiry (u : UnitId) (s : State) : State :=
  match s.record u with
  | none => s
  | some r =>
    match r.phase.activity? with
    | none => s
    | some a =>
      if s.due a.timer then
        modUnit u (fun r => { r with phase := r.phase.mapActivity (expireActivity s r) }) s
      else s

/-- A POLL is sent: granted, it is placed on the record's channel and its reply wait starts; refused, the
poll timer is restarted (R60). -/
def sendPoll (ch : ChannelNo) (r : Record) (s : State) : State :=
  match buildFrame s.net (pollHeader r) [] none s.io with
  | (some h, io) =>
    let s := { s with io := dropReference s.net h (deliver s.net ch (pollHeader r).frameClass h io) }
    modUnit r.unit
      (fun r =>
        { r with
          phase :=
            r.phase.mapActivity fun a =>
              { a with poll := none, outstanding := some (s.after (s.active.pollReplyWait * 1000)) } })
      s
  | (none, io) =>
    modUnit r.unit (fun r => { r with phase := r.phase.mapActivity (restartPoll s) }) { s with io := io }

/-- The poll timer of a QUIET or DORMANT record expires with no poll outstanding (R60). -/
def pollExpiry (u : UnitId) (s : State) : State :=
  match s.record u with
  | none => s
  | some r =>
    match r.phase.activity?, r.phase.channel? with
    | some a, some ch =>
      if s.due a.poll && a.cls != .active && a.outstanding.isNone then sendPoll ch r s else s
    | some _, none => s
    | none, some _ => s
    | none, none => s

/-- A record goes LOST (R63). -/
def goLost (r : Record) (ch : ChannelNo) (s : State) : State :=
  let s := exitReport r s
  let s := enterPhase r.unit (.lost ch (s.after (s.active.lostHold * 1000))) s
  let s := s.count .unitsLost
  if r.emergency then s.onIo fun c => sendMgmtNotice c 2#8 r.unit r.talkgroup [] else s

/-- A poll's wait has ended without a reply: a miss is counted, and the record goes LOST at the limit
(R62). -/
def missPoll (ch : ChannelNo) (r : Record) (a : Activity) (s : State) : State :=
  if s.active.pollMissLimit ≤ a.misses + 1 then goLost r ch s
  else
    modUnit r.unit
      (fun r =>
        { r with
          phase :=
            r.phase.mapActivity fun a => restartPoll s { a with outstanding := none, misses := a.misses + 1 } })
      s

/-- The reply-wait timer of an outstanding poll expires (R62). -/
def pollWaitExpiry (u : UnitId) (s : State) : State :=
  match s.record u with
  | none => s
  | some r =>
    match r.phase.activity?, r.phase.channel? with
    | some a, some ch => if s.due a.outstanding then missPoll ch r a s else s
    | some _, none => s
    | none, some _ => s
    | none, none => s

/-- A POLL REPLY in SERVED or PROPOSING: the miss count becomes 0, and the wait of an outstanding poll
ends (R61). -/
def answerPoll (s : State) (a : Activity) : Activity :=
  if a.outstanding.isSome then restartPoll s { a with misses := 0, outstanding := none }
  else { a with misses := 0 }

/-- A POLL REPLY is handled by the state its unit notice left (R61, R69, R96, R101, R106). -/
def pollReplyByState (u : UnitId) (s : State) : State :=
  match s.record u with
  | none => s.count .unknownUnitFrames
  | some _ => modUnit u (fun r => { r with phase := r.phase.mapActivity (answerPoll s) }) s

/-- The lost hold of a LOST record expires: the record is deleted (R64). -/
def lostExpiry (u : UnitId) (s : State) : State :=
  match s.record u with
  | none => s
  | some r =>
    match r.phase with
    | .lost _ d => if s.elapsed d then deleteRecord u s else s
    | .served _ _ _ => s
    | .proposing _ _ _ => s
    | .departing _ _ _ => s
    | .arriving _ => s
    | .forward _ => s

/-! ## Unit messages -/

/-- The action R67 gives a UNIT MESSAGE by the state of the record. -/
inductive MessageAction where
  | delivered (ch : ChannelNo)
  | redirected (site : SiteId)
  | answered (cause : Byte)
  deriving DecidableEq, Repr

/-- The table of R67; the causes are 1 UNKNOWN, 2 LOST, 3 ARRIVING (R7). -/
def messageAction : Option Record → MessageAction
  | none => .answered 1#8
  | some r =>
    match r.phase with
    | .served ch _ _ => .delivered ch
    | .proposing ch _ _ => .delivered ch
    | .departing ch ho sent => if sent then .redirected ho.partner else .delivered ch
    | .arriving _ => .answered 3#8
    | .forward ho => .redirected ho.partner
    | .lost _ _ => .answered 2#8

/-- A UNIT MESSAGE for the own site is delivered, redirected or answered (R67, R68, R36). -/
def takeUnitMessage (l : LinkNo) (h : Handle) (hdr : Header) (s : State) : State :=
  let r := s.record hdr.unit.toNat
  let flag := (r.map Record.emergency).getD false
  match messageAction r with
  | .delivered ch =>
    s.onIo fun c io =>
      let io := if flag then modHeader h (fun x => { x with emergency := true }) io else io
      deliver c ch (Kind.frameClass .unitMessage (hdr.emergency || flag)) h io
  | .redirected site => s.onIo fun c => forwardSingle c l h hdr site
  | .answered cause => s.onIo fun c => sendUnreachable c cause flag hdr

end Sys2Proof.Machine
end

