-- ==== Sys2Proof/Machine/Roam.lean ====
section
/-! DEFINITION. The Roam Selector (spec/05_roam_measurement_and_selection.md): the sieve, the filters, the
candidate slots, qualification, eligibility and the trigger, with the start of a handover (R91). -/

namespace Sys2Proof.Machine

/-! ## The arithmetic -/

/-- A filtered level takes a step toward a level: (Δ × k) ÷ 16, truncated toward zero (R75). -/
def filterStep (k : Nat) (level : Int) (f : Int) : Int := f + Int.tdiv ((level * 16 - f) * k) 16

/-- A filtered level is seeded when absent and stepped otherwise (R75). -/
def moveFilter (k : Nat) (level : Int) : Option Int → Int
  | none => level * 16
  | some f => filterStep k level f

/-- The bias of a site's Neighbor Table entry (R71). -/
def biasOf (n : SiteId) (t : List (Option NeighborEntry)) : Int :=
  match findNeighbor n t with
  | some e => e.bias
  | none => 0

/-- The score of a filtered level for a site (R78). -/
def scoreOf (t : List (Option NeighborEntry)) (n : SiteId) (level : Int) : Int := level + 16 * biasOf n t

/-- The score of an occupied slot (R78). -/
def Candidate.score (t : List (Option NeighborEntry)) (c : Candidate) : Int := scoreOf t c.site c.level

/-- The advantage of a slot over the serving filtered level (R78). -/
def Candidate.advantage (t : List (Option NeighborEntry)) (serving : Int) (c : Candidate) : Int :=
  c.score t - serving

/-! ## Steps 1 to 5 of R73 -/

/-- The sieve: a pair is set aside when its site is 0, the own site, not in the Neighbor Table, or named
by an earlier pair of the report (R74). -/
def sieve (own : SiteId) (t : List (Option NeighborEntry)) :
    List SiteId → List (SiteId × Int) → List (SiteId × Int)
  | _, [] => []
  | seen, (n, level) :: rest =>
    if n = 0 || n = own || (findNeighbor n t).isNone || seen.contains n then sieve own t (n :: seen) rest
    else (n, level) :: sieve own t (n :: seen) rest

/-- Step 3 for one slot: filtered when its site is reported, otherwise one miss more, and freed at the
third (R76). -/
def ageSlot (k : Nat) (nbs : List (SiteId × Int)) : Option Candidate → Option Candidate
  | none => none
  | some c =>
    match nbs.lookup c.site with
    | some level => some { c with level := filterStep k level c.level, misses := 0 }
    | none => if 3 ≤ c.misses + 1 then none else some { c with misses := c.misses + 1, qualify := 0 }

/-- The position and score of the occupied slot with the lowest score, the lowest position among equals
(R77). -/
def lowestFrom (t : List (Option NeighborEntry)) : Nat → List (Option Candidate) → Option (Nat × Int)
  | _, [] => none
  | i, none :: rest => lowestFrom t (i + 1) rest
  | i, some c :: rest =>
    match lowestFrom t (i + 1) rest with
    | none => some (i, c.score t)
    | some (j, best) => if c.score t ≤ best then some (i, c.score t) else some (j, best)

/-- A slot seeded for a neighbour (R77). -/
def seedSlot (n : SiteId) (level : Int) : Option Candidate :=
  some { site := n, level := level * 16, qualify := 0, misses := 0 }

/-- Step 4 for one reported neighbour: it takes the lowest empty slot, or the slot of the lowest score when
its seeded score is higher, or is set aside (R77). -/
def admitTo (t : List (Option NeighborEntry)) (slots : List (Option Candidate)) (nb : SiteId × Int) :
    List (Option Candidate) :=
  if slots.any fun o => o.any fun c => c.site == nb.1 then slots
  else
    match slots.findIdx? Option.isNone with
    | some i => slots.set i (seedSlot nb.1 nb.2)
    | none =>
      match lowestFrom t 0 slots with
      | none => slots
      | some (i, low) =>
        if low < scoreOf t nb.1 (nb.2 * 16) then slots.set i (seedSlot nb.1 nb.2) else slots

/-- The serving filtered level is below the coverage floor (R79). -/
def inRescue (p : Params) (serving : Int) : Bool := serving < 16 * p.coverageFloor

/-- A slot qualifies by hysteresis or under rescue (R79). -/
def qualifies (p : Params) (t : List (Option NeighborEntry)) (serving : Int) (c : Candidate) : Bool :=
  16 * (p.hysteresis : Int) ≤ c.advantage t serving
    || (inRescue p serving && decide (0 < c.advantage t serving))

/-- The judgement of one slot: the qualify count rises, staying at 15, or becomes 0 (R79). -/
def judgeSlot (p : Params) (t : List (Option NeighborEntry)) (serving : Int) (c : Candidate) : Candidate :=
  { c with qualify := if qualifies p t serving c then min 15 (c.qualify + 1) else 0 }

/-- Step 5 for one occupied slot: a slot whose site the report names is judged; one whose site is absent
keeps the count 0 of step 3, since a count is the number of reports in a row in which the site has been
reported and has qualified (R76, R79; the model's choice between two readings, log entry 33). -/
def judgeReported (p : Params) (t : List (Option NeighborEntry)) (serving : Int) (nbs : List (SiteId × Int))
    (c : Candidate) : Candidate :=
  if (nbs.lookup c.site).isSome then judgeSlot p t serving c else c

/-- Steps 1 to 5 of R73 on a record. A newcomer's having no slot is judged at its turn (log entry 27). -/
def learn (p : Params) (t : List (Option NeighborEntry)) (payload : List Byte) (r : Record) : Record :=
  let nbs := sieve p.ownSite t [] (measurePairs payload)
  let serving := moveFilter p.filterWeight (levelOf (byteAt payload 0)) r.serving
  let slots := nbs.foldl (admitTo t) (r.candidates.map (ageSlot p.filterWeight nbs))
  { r with serving := some serving, candidates := slots.map (Option.map (judgeReported p t serving nbs)) }

/-! ## Step 6: eligibility and the trigger -/

/-- A slot of a SERVED record is eligible (R80). -/
def eligible (c : Net) (t : List (Option NeighborEntry)) (r : Record) (serving : Int) (x : Candidate) : Bool :=
  (findNeighbor x.site t).any NeighborEntry.enabled
    && (c.route x.site).isSome
    && r.roamHold.isNone
    && !r.talking
    && (!r.emergency || inRescue c.active serving)

/-- A trigger candidate is preferred to another: the larger advantage, then the lower Neighbor Table index
(R81). -/
def preferred (t : List (Option NeighborEntry)) (serving : Int) (a b : Candidate) : Bool :=
  decide (b.advantage t serving < a.advantage t serving)
    || (a.advantage t serving == b.advantage t serving
        && decide (neighborIndex a.site t < neighborIndex b.site t))

/-- The better of two trigger candidates. -/
def preferFirst (t : List (Option NeighborEntry)) (serving : Int) (best : Option Candidate) (x : Candidate) :
    Option Candidate :=
  match best with
  | none => some x
  | some b => if preferred t serving x b then some x else some b

/-- The site the report's trigger names, if there is a trigger (R81). -/
def triggerSite (c : Net) (t : List (Option NeighborEntry)) (r : Record) : Option SiteId :=
  match r.serving with
  | none => none
  | some serving =>
    let ready :=
      (r.candidates.filterMap id).filter fun x =>
        eligible c t r serving x && decide (c.active.dwell ≤ x.qualify)
    (ready.foldl (preferFirst t serving) none).map Candidate.site

/-! ## The start of a handover (R91) -/

/-- The own handover counter advances by one, after 255 to 1 (R89). -/
def nextHandoverId (n : Nat) : Nat := if 255 ≤ n then 1 else n + 1

/-- The Handover Controller takes a trigger for a SERVED record (R91). -/
def takeTrigger (r : Record) (ch : ChannelNo) (a : Activity) (target : SiteId) (s : State) : State :=
  let id := s.handoverCounter
  let hdr := { s.net.fromOwn (requestHeader r id) with destination := BitVec.ofNat 8 target }
  match buildFrame s.net hdr [] none s.io with
  | (none, io) => (startRoamHold r.unit { s with io := io }).count .roamsFailed
  | (some h, io) =>
    let s := { s with io := io, handoverCounter := nextHandoverId id }
    let s :=
      enterPhase r.unit
        (.proposing ch a { partner := target, id := id, deadline := s.after s.active.replyWait }) s
    s.onIo fun c io => dropReference c h (placeForSite c hdr.frameClass h target io)

/-- Step 6 of R73 for a SERVED record. -/
def triggerRoam (u : UnitId) (s : State) : State :=
  match s.record u with
  | none => s
  | some r =>
    match r.phase, triggerSite s.net s.neighbors r with
    | .served ch a _, some target => takeTrigger r ch a target s
    | .served _ _ _, none => s
    | .proposing _ _ _, _ => s
    | .departing _ _ _, _ => s
    | .arriving _, _ => s
    | .forward _, _ => s
    | .lost _ _, _ => s

/-- A MEASURE is handled by the state its unit notice left (R73, R69). -/
def measureByState (u : UnitId) (payload : List Byte) (s : State) : State :=
  match s.record u with
  | none => s.count .unknownUnitFrames
  | some r =>
    if r.phase.isMember then triggerRoam u (modUnit u (learn s.active s.neighbors payload) s) else s

/-- A roam hold timer expires: the hold is no longer running (R84). -/
def roamHoldEnds (u : UnitId) (s : State) : State :=
  match s.record u with
  | none => s
  | some r => if s.due r.roamHold then modUnit u (fun r => { r with roamHold := none }) s else s

end Sys2Proof.Machine
end

