-- ==== Sys2Proof/Machine/Handover.lean ====
section
/-! DEFINITION. The Handover Controller (spec/06_handover_between_sites.md): HO messages on the source and
the target side, claims, and the handover timers. -/

namespace Sys2Proof.Machine

/-- What a HO message carries (R4): its unit, its origin and its handover id. -/
structure HoMessage where
  unit : UnitId
  origin : SiteId
  id : Nat
  talkgroup : TalkgroupId
  marker : Bool
  channel : Byte

/-- A HO message read from its header. -/
def hoMessageOf (hdr : Header) : HoMessage where
  unit := hdr.unit.toNat
  origin := hdr.origin.toNat
  id := hdr.tagLow
  talkgroup := hdr.talkgroup.toNat
  marker := hdr.emergency
  channel := hdr.channel

/-- A message matches a record by its origin and handover id (R90). -/
def HoMessage.fits (m : HoMessage) (ho : Handover) : Bool := m.origin == ho.partner && m.id == ho.id

/-- A message matches an abandoned handover (R90). -/
def HoMessage.fitsAbandoned (m : HoMessage) (a : Abandoned) : Bool := m.origin == a.site && m.id == a.id

/-- A HO message whose origin is the own site is set aside without any lookup (R90). -/
def unlessOwn (m : HoMessage) (f : State → State) (s : State) : State :=
  if m.origin = s.own then s.count .staleHandover else f s

/-! ## Returns to SERVED -/

/-- A failed attempt: the roam hold is started and roams failed is raised (R83). -/
def attemptFailed (u : UnitId) (s : State) : State := (startRoamHold u s).count .roamsFailed

/-- A record returns from PROPOSING to SERVED and keeps its activity (R57). -/
def returnFromProposing (u : UnitId) (ch : ChannelNo) (a : Activity) (s : State) : State :=
  enterPhase u (.served ch a none) s

/-- A record returns from DEPARTING to SERVED with presence tracking afresh (R57). -/
def returnFromDeparting (u : UnitId) (ch : ChannelNo) (kept : Option Abandoned) (s : State) : State :=
  enterPhase u (.served ch (freshActivity s) kept) s

/-! ## Entry into FORWARD -/

/-- The FORWARD state with its hold is written in a record, and the Roam Selector's fields are cleared
(R85, R88). -/
def setForward (u : UnitId) (partner : SiteId) (id : Nat) (s : State) : State :=
  let ho := { partner := partner, id := id, deadline := s.after (s.active.forwardHold * 1000) }
  modUnit u (fun r => (r.enter s.timeBase (.forward ho)).clearRoam) s

/-- A record enters FORWARD, a member's exit report first (R66, R99, R108). -/
def enterForward (r : Record) (partner : SiteId) (id : Nat) (s : State) : State :=
  setForward r.unit partner id (exitReport r s)

/-- A claim ends a handover in progress: the exit report, HO CANCEL (CLAIMED) to the current partner, then
FORWARD with the claimant as partner (R66, R108, R113). -/
def claimHandover (r : Record) (ho : Handover) (claimant : SiteId) (s : State) : State :=
  setForward r.unit claimant ho.id (sendCancel r.unit ho.id 6#8 ho.partner (exitReport r s))

/-! ## Messages to the source -/

/-- A HO ACCEPT that matches a PROPOSING record, by the talking flag (R92). -/
def acceptProposing (m : HoMessage) (r : Record) (ch : ChannelNo) (a : Activity) (ho : Handover) (s : State) :
    State :=
  if r.talking then
    attemptFailed r.unit (returnFromProposing r.unit ch a (sendCancel r.unit ho.id 3#8 ho.partner s))
  else
    let s := sendRoamOrder ch r m.channel ho s
    enterPhase r.unit (.departing ch { ho with deadline := s.after s.active.departure } false) s

/-- A HO ACCEPT that finds nothing to accept is answered HO CANCEL (LATE) (R92). -/
def acceptLate (m : HoMessage) (s : State) : State :=
  (sendCancel m.unit m.id 2#8 m.origin s).count .staleHandover

/-- A HO ACCEPT is handled by the state of the unit's record (R92). -/
def takeAccept (m : HoMessage) (s : State) : State :=
  match s.record m.unit with
  | none => acceptLate m s
  | some r =>
    match r.phase with
    | .proposing ch a ho => if m.fits ho then acceptProposing m r ch a ho s else acceptLate m s
    | .departing _ ho _ => if m.fits ho then s.count .staleHandover else acceptLate m s
    | .served _ _ _ => acceptLate m s
    | .arriving _ => acceptLate m s
    | .forward _ => acceptLate m s
    | .lost _ _ => acceptLate m s

/-- A HO REFUSE is handled by the state of the unit's record (R93). -/
def takeRefuse (m : HoMessage) (s : State) : State :=
  match s.record m.unit with
  | none => s.count .staleHandover
  | some r =>
    match r.phase with
    | .proposing ch a ho =>
      if m.fits ho then attemptFailed r.unit (returnFromProposing r.unit ch a s) else s.count .staleHandover
    | .served _ _ _ => s.count .staleHandover
    | .departing _ _ _ => s.count .staleHandover
    | .arriving _ => s.count .staleHandover
    | .forward _ => s.count .staleHandover
    | .lost _ _ => s.count .staleHandover

/-- A HO COMPLETE is handled by the state of the unit's record (R99). -/
def takeComplete (m : HoMessage) (s : State) : State :=
  match s.record m.unit with
  | none => s.count .staleHandover
  | some r =>
    match r.phase with
    | .departing _ ho _ =>
      if m.fits ho then (enterForward r ho.partner ho.id s).count .roamsOut else s.count .staleHandover
    | .served _ _ kept =>
      match kept with
      | some a =>
        if m.fitsAbandoned a then (enterForward r a.site a.id s).count .roamsOut
        else s.count .staleHandover
      | none => s.count .staleHandover
    | .proposing _ _ _ => s.count .staleHandover
    | .arriving _ => s.count .staleHandover
    | .forward _ => s.count .staleHandover
    | .lost _ _ => s.count .staleHandover

/-- A HO CANCEL is handled by the state of the unit's record, whatever reason it carries (R100). -/
def takeCancel (m : HoMessage) (s : State) : State :=
  match s.record m.unit with
  | none => s.count .staleHandover
  | some r =>
    match r.phase with
    | .proposing ch a ho =>
      if m.fits ho then attemptFailed r.unit (returnFromProposing r.unit ch a s) else s.count .staleHandover
    | .departing ch ho _ =>
      if m.fits ho then attemptFailed r.unit (returnFromDeparting r.unit ch none s) else s.count .staleHandover
    | .arriving ho => if m.fits ho then deleteRecord r.unit s else s.count .staleHandover
    | .served _ _ _ => s.count .staleHandover
    | .forward _ => s.count .staleHandover
    | .lost _ _ => s.count .staleHandover

/-! ## The target side -/

/-- The fields a HO REQUEST sets in a record it restarts, takes over or reuses (R104). -/
def arrivingFields (m : HoMessage) (deadline : Nat) (r : Record) : Record :=
  { r.clearRoam with
    phase := .arriving { partner := m.origin, id := m.id, deadline := deadline }
    talkgroup := m.talkgroup
    emergency := m.marker }

/-- A record is set ARRIVING for a request, its state entry time set or kept (R104). That a record another partner's
request takes over has it set, although it was ARRIVING before (R48), is read from R104 (log entry 37). -/
def setArriving (m : HoMessage) (keepTime : Bool) (s : State) : State :=
  modUnit m.unit
    (fun r =>
      { arrivingFields m (s.after s.active.arrival) r with
        entryTime := if keepTime then r.entryTime else s.timeBase })
    s

/-- The record a HO REQUEST creates (R104). -/
def arrivingRecord (m : HoMessage) (slot : Nat) (s : State) : Record where
  slot := slot
  unit := m.unit
  phase := .arriving { partner := m.origin, id := m.id, deadline := s.after s.active.arrival }
  talkgroup := m.talkgroup
  emergency := m.marker
  talking := false
  talkLimited := false
  serving := none
  candidates := List.replicate Config.candidateSlots none
  roamHold := none
  entryTime := s.timeBase
  lastSite := 0

/-- A HO REQUEST for a unit that has no record: checks 6 and 7 of R103. -/
def requestNew (m : HoMessage) (g : TalkgroupEntry) (s : State) : State :=
  match takeSlot s with
  | none => sendHoRefuse m.unit m.id 1#8 m.origin s
  | some (slot, s) =>
    let s := (insertRecord (arrivingRecord m slot s) s).count .recordsCreated
    sendHoAccept m.unit m.id g.channel m.origin s

/-- A HO REQUEST by the state of the unit's record: checks 2 to 7 of R103. -/
def requestByState (m : HoMessage) (g : TalkgroupEntry) (s : State) : State :=
  match s.record m.unit with
  | none => requestNew m g s
  | some r =>
    match r.phase with
    | .served _ _ _ => sendHoRefuse m.unit m.id 3#8 m.origin s
    | .proposing _ _ _ => sendHoRefuse m.unit m.id 3#8 m.origin s
    | .departing _ _ _ => sendHoRefuse m.unit m.id 3#8 m.origin s
    | .arriving ho =>
      if ho.partner = m.origin then sendHoAccept m.unit m.id g.channel m.origin (setArriving m true s)
      else
        let s := setArriving m false (sendCancel m.unit ho.id 5#8 ho.partner s)
        sendHoAccept m.unit m.id g.channel m.origin s
    | .forward _ => sendHoAccept m.unit m.id g.channel m.origin (setArriving m false s)
    | .lost _ _ => sendHoAccept m.unit m.id g.channel m.origin (setArriving m false s)

/-- A restart is pending: a RESTART reply has been built and its restart has not taken place (R163). -/
def restartPending (s : State) : Bool := s.io.restart != .none

/-- A HO REQUEST addressed to the own site, checked in the order of R103. -/
def takeRequest (m : HoMessage) (s : State) : State :=
  if restartPending s then sendHoRefuse m.unit m.id 4#8 m.origin s
  else
    match findTalkgroup m.talkgroup s.talkgroups with
    | none => sendHoRefuse m.unit m.id 2#8 m.origin s
    | some g => requestByState m g s

/-! ## Claims -/

/-- A HO CLAIM is counted under claims received and handled by the state of the unit's record (R108). -/
def takeClaim (m : HoMessage) (s : State) : State :=
  let s := s.count .claimsReceived
  match s.record m.unit with
  | none => s.count .staleHandover
  | some r =>
    match r.phase with
    | .served _ _ _ => enterForward r m.origin 0 s
    | .lost _ _ => enterForward r m.origin 0 s
    | .arriving ho => enterForward r m.origin ho.id s
    | .proposing _ _ ho => claimHandover r ho m.origin s
    | .departing _ ho _ => claimHandover r ho m.origin s
    | .forward ho =>
      enterPhase r.unit
        (.forward { ho with partner := m.origin, deadline := s.after (s.active.forwardHold * 1000) }) s

/-! ## Timers -/

/-- The reply wait of a PROPOSING record expires (R94). -/
def replyWaitEnds (u : UnitId) (s : State) : State :=
  match s.record u with
  | none => s
  | some r =>
    match r.phase with
    | .proposing ch a ho =>
      if s.elapsed ho.deadline then attemptFailed u (returnFromProposing u ch a s) else s
    | .served _ _ _ => s
    | .departing _ _ _ => s
    | .arriving _ => s
    | .forward _ => s
    | .lost _ _ => s

/-- The departure timer of a DEPARTING record expires (R98). -/
def departureEnds (u : UnitId) (s : State) : State :=
  match s.record u with
  | none => s
  | some r =>
    match r.phase with
    | .departing ch ho _ =>
      if s.elapsed ho.deadline then
        let s := returnFromDeparting u ch (some { site := ho.partner, id := ho.id }) s
        attemptFailed u (sendCancel u ho.id 1#8 ho.partner s)
      else s
    | .served _ _ _ => s
    | .proposing _ _ _ => s
    | .arriving _ => s
    | .forward _ => s
    | .lost _ _ => s

/-- The arrival timer of an ARRIVING record expires: the record is deleted (R106). -/
def arrivalEnds (u : UnitId) (s : State) : State :=
  match s.record u with
  | none => s
  | some r =>
    match r.phase with
    | .arriving ho => if s.elapsed ho.deadline then deleteRecord u s else s
    | .served _ _ _ => s
    | .proposing _ _ _ => s
    | .departing _ _ _ => s
    | .forward _ => s
    | .lost _ _ => s

/-- The forward hold of a FORWARD record expires: the record is deleted (R101). -/
def forwardHoldEnds (u : UnitId) (s : State) : State :=
  match s.record u with
  | none => s
  | some r =>
    match r.phase with
    | .forward ho => if s.elapsed ho.deadline then deleteRecord u s else s
    | .served _ _ _ => s
    | .proposing _ _ _ => s
    | .departing _ _ _ => s
    | .arriving _ => s
    | .lost _ _ => s

/-! ## Completion and clearing -/

/-- A ROAM ORDER's transmission has completed: order sent is set on a DEPARTING record of the same attempt
(R95). -/
def orderCompleted (u : UnitId) (id : Nat) (r : Record) : Record :=
  if r.unit = u then
    match r.phase with
    | .departing ch ho sent => { r with phase := .departing ch ho (sent || ho.id == id) }
    | .served _ _ _ => r
    | .proposing _ _ _ => r
    | .arriving _ => r
    | .forward _ => r
    | .lost _ _ => r
  else r

/-- CLEAR UNIT deletes a record, with HO CANCEL (CLEARED) first in PROPOSING, DEPARTING and ARRIVING
(R109). -/
def clearRecord (r : Record) (s : State) : State :=
  match r.phase with
  | .proposing _ _ ho => deleteRecord r.unit (sendCancel r.unit ho.id 7#8 ho.partner s)
  | .departing _ ho _ => deleteRecord r.unit (sendCancel r.unit ho.id 7#8 ho.partner s)
  | .arriving ho => deleteRecord r.unit (sendCancel r.unit ho.id 7#8 ho.partner s)
  | .served _ _ _ => deleteRecord r.unit s
  | .forward _ => deleteRecord r.unit s
  | .lost _ _ => deleteRecord r.unit s

end Sys2Proof.Machine
end

