-- ==== Sys2Proof/Machine/Calls.lean ====
section
/-! DEFINITION. The Channel Arbiters (spec/08_calls_and_channel_arbitration.md): the channel record and its
wait list, starting, carrying and ending calls, local and remote. -/

namespace Sys2Proof.Machine

/-! ## The channel record -/

/-- The channel record of a channel. -/
def State.channel (s : State) (n : ChannelNo) : Channel := s.channels[n.val]

/-- One channel record is changed. -/
def modChannel (n : ChannelNo) (f : Channel → Channel) (s : State) : State :=
  { s with channels := s.channels.set n.val (f s.channels[n.val]) }

/-- The phase of a channel is set; the timers of the phase it leaves stop without expiry. -/
def setPhase (n : ChannelNo) (ph : ChannelPhase) (s : State) : State :=
  modChannel n (fun x => { x with phase := ph }) s

/-- The current call of a channel. -/
def ChannelPhase.call? : ChannelPhase → Option Call
  | .idle => none
  | .active c _ _ => some c
  | .hang _ _ _ => none

/-- The channel is in HANG. -/
def ChannelPhase.isHang : ChannelPhase → Bool
  | .idle => false
  | .active _ _ _ => false
  | .hang _ _ _ => true

/-- The call ids a channel holds: its current call and its wait entries. -/
def Channel.heldIds (x : Channel) : List CallId :=
  (x.phase.call?.toList.map Call.id) ++ x.waits.map fun w => w.call.id

/-- The call ids held by the arbiters of this site (R127). -/
def heldIds (s : State) : List CallId := s.channels.toList.flatMap Channel.heldIds

/-- The wait entry of a call id. -/
def Channel.waiting (x : Channel) (id : CallId) : Option WaitEntry := x.waits.find? (fun w => w.call.id == id)

/-- The wait entry of a call id is taken out of the list; its timer stops without expiry (R126). -/
def removeWait (n : ChannelNo) (id : CallId) (s : State) : State :=
  modChannel n (fun x => { x with waits := x.waits.eraseP (fun w => w.call.id == id) }) s

/-- A wait entry is emergency. -/
def WaitEntry.isEmergency (w : WaitEntry) : Bool := w.call.emergency

/-- An entry joins: an emergency entry behind the emergency entries, a routine entry at the tail (R126). -/
def joinEntry (w : WaitEntry) (l : List WaitEntry) : List WaitEntry :=
  if w.isEmergency then l.takeWhile WaitEntry.isEmergency ++ w :: l.dropWhile WaitEntry.isEmergency
  else l ++ [w]

/-- A preempted remote call joins at the head of the routine section (R126, R132). -/
def rejoinEntry (w : WaitEntry) (l : List WaitEntry) : List WaitEntry :=
  l.takeWhile WaitEntry.isEmergency ++ w :: l.dropWhile WaitEntry.isEmergency

/-- The newest routine entry, the one nearest the tail, and the list without it (R133). -/
def removeNewestWait : List WaitEntry → Option (WaitEntry × List WaitEntry)
  | [] => none
  | w :: l =>
    match removeNewestWait l with
    | some (d, l') => some (d, w :: l')
    | none => if w.isEmergency then none else some (w, l)

/-! ## Talkgroups and records as the arbiters read them -/

/-- The talkgroup's class in the own Talkgroup Table is priority (R127). -/
def priorityTalkgroup (g : TalkgroupId) (s : State) : Bool :=
  (findTalkgroup g s.talkgroups).any fun e => e.cls == .priority

/-- The remote site set of a talkgroup, empty when it is not in the table (R122). -/
def remoteSet (g : TalkgroupId) (s : State) : SiteSet :=
  ((findTalkgroup g s.talkgroups).map TalkgroupEntry.remote).getD 0

/-- The talk limit of a talkgroup in ms, 0 when it is not in the table. -/
def talkLimitOf (g : TalkgroupId) (s : State) : Nat :=
  ((findTalkgroup g s.talkgroups).map fun e => e.talkLimit * 1000).getD 0

/-- The hang time of a talkgroup in ms, 0 when it is not in the table. -/
def hangTimeOf (g : TalkgroupId) (s : State) : Nat :=
  ((findTalkgroup g s.talkgroups).map fun e => e.hangTime * 100).getD 0

/-- The local member count of a talkgroup, 0 when it is not in the table. -/
def membersOf (g : TalkgroupId) (s : State) : Nat :=
  ((findTalkgroup g s.talkgroups).map TalkgroupEntry.members).getD 0

/-- The talker's record, if there is one, has its emergency flag set. -/
def unitEmergency (u : UnitId) (s : State) : Bool := (s.record u).any Record.emergency

/-- The talker's record, if there is one, has its talk-limited flag set. -/
def unitLimited (u : UnitId) (s : State) : Bool := (s.record u).any Record.talkLimited

/-- The talking flag of a unit's record is set or cleared, where there is a record (R141). -/
def setTalking (u : UnitId) (v : Bool) (s : State) : State := modUnit u (fun r => { r with talking := v }) s

/-- The talk-limited flag of a unit's record is set or cleared, where there is a record (R136, R139). -/
def setLimited (u : UnitId) (v : Bool) (s : State) : State := modUnit u (fun r => { r with talkLimited := v }) s

/-! ## Frames the arbiters build -/

/-- The header of a call frame the arbiter builds, its marker by the call's class (R127). -/
def callHeader (k : Kind) (call : Call) : Header :=
  { Header.blank k with
    emergency := call.emergency
    unit := BitVec.ofNat 24 call.talker
    talkgroup := BitVec.ofNat 16 call.talkgroup
    callId := BitVec.ofNat 16 call.id }

/-- The header of an answer to a talker: unit id, call id, cause, and the marker (R127, R129). -/
def answerHeader (k : Kind) (u : UnitId) (id : CallId) (cause : Byte) (marker : Bool) : Header :=
  { Header.blank k with
    emergency := marker
    unit := BitVec.ofNat 24 u
    callId := BitVec.ofNat 16 id
    subcode := cause }

/-- An answer is sent to a talker on a channel port. -/
def sendAnswer (n : ChannelNo) (hdr : Header) (s : State) : State :=
  s.onIo fun c => sendToChannel c n hdr [] none

/-- CALL GRANT for a call (R131). -/
def sendGrant (n : ChannelNo) (call : Call) (s : State) : State :=
  sendAnswer n (answerHeader .callGrant call.talker call.id 0 call.emergency) s

/-- CALL QUEUED for a call (R133). -/
def sendQueued (n : ChannelNo) (call : Call) (s : State) : State :=
  sendAnswer n (answerHeader .callQueued call.talker call.id 0 call.emergency) s

/-- CALL REFUSE for a call that has a call id, with a cause of R7, its marker by the call's class. -/
def sendCallRefuse (n : ChannelNo) (call : Call) (cause : Byte) (s : State) : State :=
  sendAnswer n (answerHeader .callRefuse call.talker call.id cause call.emergency) s

/-- DEKEY ORDER to a call's talker: 1 TALK LIMIT, 2 PREEMPTED (R7). -/
def sendDekey (n : ChannelNo) (call : Call) (cause : Byte) (s : State) : State :=
  sendAnswer n (answerHeader .dekeyOrder call.talker 0 cause call.emergency) s

/-- A CALL START or CALL END the arbiter builds is offered toward the talkgroup's remote site set (R39). -/
def offerCall (k : Kind) (call : Call) (s : State) : State :=
  s.onIo fun c => offerBuilt c (callHeader k call) (remoteSet call.talkgroup s)

/-- A CALL START or CALL END the arbiter builds is delivered on its channel port (R131, R138). -/
def deliverCall (k : Kind) (n : ChannelNo) (call : Call) (s : State) : State :=
  s.onIo fun c => sendToChannel c n (callHeader k call) [] none

/-- A received call frame is delivered on a channel port (R44). -/
def deliverReceived (n : ChannelNo) (h : Handle) (s : State) : State :=
  s.onIo fun c io => deliver c n (parseHeader (bytesOf h io)).frameClass h io

/-- A received call frame is offered toward a talkgroup's remote site set, its emergency marker set first
for an emergency call (R39, R127). -/
def offerFrame (n : ChannelNo) (h : Handle) (call : Call) (s : State) : State :=
  s.onIo fun c io =>
    let io := if call.emergency then modHeader h (fun x => { x with emergency := true }) io else io
    offerReceived c n h (remoteSet call.talkgroup s) io

/-! ## Grants (R131) -/

/-- The call becomes current: ACTIVE, the voice-gap timer, the talk timer for a routine call with a local
talker, and the talking flag of a local talker. -/
def makeCurrent (n : ChannelNo) (call : Call) (s : State) : State :=
  let talk :=
    if call.isLocal && !call.emergency then some (s.after (talkLimitOf call.talkgroup s)) else none
  let s := setPhase n (.active call talk (s.after s.active.voiceGap)) s
  if call.isLocal then setTalking call.talker true s else s

/-- How a call that is decided on arrival came: by a local CALL START or by a remote frame, with the buffer
that holds the frame. -/
inductive Arrival where
  | localStart (h : Handle)
  | remoteFrame (h : Handle)

/-- A grant on arrival: a local CALL START is answered CALL GRANT and offered with its call id, a remote
frame is delivered (R131). -/
def grantArrival (n : ChannelNo) (call : Call) (src : Arrival) (s : State) : State :=
  let s := makeCurrent n call s
  match src with
  | .localStart h =>
    let s := sendGrant n call s
    let s := s.onIo fun _ => modHeader h (fun x => { x with callId := BitVec.ofNat 16 call.id })
    offerFrame n h call s
  | .remoteFrame h => deliverReceived n h s

/-- A grant from the wait list (R131). -/
def grantWaiting (n : ChannelNo) (call : Call) (s : State) : State :=
  let s := makeCurrent n call s
  if call.isLocal then offerCall .callStart call (sendGrant n call s)
  else deliverCall .callStart n call s

/-! ## Waiting (R133) -/

/-- The wait entry of a call, its timer started with the wait timeout in force (R126). -/
def waitEntryOf (call : Call) (s : State) : WaitEntry :=
  { call := call, deadline := s.after (s.active.waitTimeout * 1000) }

/-- A call is not carried here; a local talker is told CALL REFUSE with a cause (R133, R137). -/
def turnAway (n : ChannelNo) (call : Call) (cause : Byte) (s : State) : State :=
  let s := if call.isLocal then sendCallRefuse n call cause s else s
  s.count .callsNotCarried

/-- A call joins the wait list, and a local talker is told CALL QUEUED. -/
def joinList (n : ChannelNo) (call : Call) (s : State) : State :=
  let s := modChannel n (fun x => { x with waits := joinEntry (waitEntryOf call s) x.waits }) s
  if call.isLocal then sendQueued n call s else s

/-- A call that is to wait joins the list, displaces the newest routine entry, or is turned away BUSY
(R133). -/
def joinWait (n : ChannelNo) (call : Call) (s : State) : State :=
  let l := (s.channel n).waits
  if l.length < Config.waitListCapacity then joinList n call s
  else if call.emergency then
    match removeNewestWait l with
    | none => turnAway n call 1#8 s
    | some (d, rest) =>
      joinList n call (turnAway n d.call 1#8 (modChannel n (fun x => { x with waits := rest }) s))
  else turnAway n call 1#8 s

/-! ## Preemption (R132) -/

/-- A preempted remote call is re-entered at the head of the routine section. -/
def requeueRemote (n : ChannelNo) (call : Call) (s : State) : State :=
  let w := waitEntryOf { call with emergency := false } s
  let l := (s.channel n).waits
  if l.length < Config.waitListCapacity then
    modChannel n (fun x => { x with waits := rejoinEntry w x.waits }) s
  else
    match removeNewestWait l with
    | none => s.count .callsNotCarried
    | some (d, rest) =>
      let s := turnAway n d.call 1#8 (modChannel n (fun x => { x with waits := rest }) s)
      modChannel n (fun x => { x with waits := rejoinEntry w x.waits }) s

/-- Preemption of a current call: a local talker is dekeyed and its call ended toward the other sites, a
remote call is re-entered in the wait list. -/
def preemptCall (n : ChannelNo) (call : Call) (s : State) : State :=
  if call.isLocal then
    let s := sendDekey n call 2#8 s
    let s := setTalking call.talker false s
    let s := offerCall .callEnd call s
    modChannel n (fun x => { x with lastEnded := some call.id }) s
  else requeueRemote n call s

/-! ## The decision (R130) -/

/-- A call that has passed its checks is decided against the channel record. -/
def decideCall (n : ChannelNo) (call : Call) (src : Arrival) (s : State) : State :=
  match (s.channel n).phase with
  | .idle => grantArrival n call src s
  | .hang g emergency _ =>
    if call.talkgroup = g then grantArrival n call src s
    else if call.emergency && !emergency then grantArrival n call src s
    else joinWait n call s
  | .active cur _ _ =>
    if call.emergency && !cur.emergency then grantArrival n call src (preemptCall n cur s)
    else joinWait n call s

/-! ## Call ids (R127) -/

/-- The counter value that forms an id held nowhere, searched upward from the counter. -/
def freeCounter (held : List CallId) (own : SiteId) : Nat → Byte → Byte
  | 0, c => c
  | k + 1, c => if held.contains (own * 256 + c.toNat) then freeCounter held own k (c + 1) else c

/-- A call id for a local CALL START, and the counter advanced past it. -/
def assignCallId (s : State) : CallId × State :=
  let c := freeCounter (heldIds s) s.own 256 s.callCounter
  (s.own * 256 + c.toNat, { s with callCounter := c + 1 })

/-! ## A local CALL START (R129) -/

/-- A CALL START refused by a check: call id 0, and the marker of the frame or of the talker's record. -/
def refuseStart (n : ChannelNo) (hdr : Header) (cause : Byte) (s : State) : State :=
  sendAnswer n
    (answerHeader .callRefuse hdr.unit.toNat 0 cause (hdr.emergency || unitEmergency hdr.unit.toNat s)) s

/-- The local call of a CALL START with a call id, its class by R127. -/
def localCall (hdr : Header) (id : CallId) (s : State) : Call where
  id := id
  talkgroup := hdr.talkgroup.toNat
  talker := hdr.unit.toNat
  site := s.own
  emergency := unitEmergency hdr.unit.toNat s || priorityTalkgroup hdr.talkgroup.toNat s
  isLocal := true

/-- The current call of a channel, when its talker is a unit, wherever that talker keyed up (check 5). -/
def currentOf (u : UnitId) (x : Channel) : Option Call := x.phase.call?.filter fun c => c.talker == u

/-- The first entry of a channel's wait list whose talker is a unit, wherever that talker keyed up (check 6). With two
entries of one talker the first in list order is the one that is answered or decided anew (the model's choice, log
entry 20). -/
def waitingOf (u : UnitId) (x : Channel) : Option WaitEntry := x.waits.find? fun w => w.call.talker == u

/-- Check 6: CALL QUEUED again, or the entry taken out and the call decided anew, with its call id, as an
emergency arrival of this CALL START (log entry 20). -/
def reaskStart (n : ChannelNo) (h : Handle) (hdr : Header) (w : WaitEntry) (s : State) : State :=
  let call := localCall hdr w.call.id s
  if call.emergency && !w.call.emergency then
    decideCall n call (.localStart h) (removeWait n w.call.id s)
  else sendQueued n w.call s

/-- Check 8: a call id is given and the call is decided. -/
def newStart (n : ChannelNo) (h : Handle) (hdr : Header) (s : State) : State :=
  let assigned := assignCallId s
  decideCall n (localCall hdr assigned.1 s) (.localStart h) assigned.2

/-- Checks 5 to 8 of R129. -/
def startOnChannel (n : ChannelNo) (h : Handle) (hdr : Header) (r : Record) (s : State) : State :=
  match currentOf hdr.unit.toNat (s.channel n) with
  | some call => sendGrant n call s
  | none =>
    match waitingOf hdr.unit.toNat (s.channel n) with
    | some w => reaskStart n h hdr w s
    | none => if r.talking then refuseStart n hdr 1#8 s else newStart n h hdr s

/-- A local CALL START, checked in the order of R129. -/
def takeLocalStart (n : ChannelNo) (h : Handle) (hdr : Header) (s : State) : State :=
  match s.record hdr.unit.toNat with
  | none => refuseStart n hdr 4#8 s
  | some r =>
    if !r.phase.isMember then refuseStart n hdr 4#8 s
    else if r.talkLimited then refuseStart n hdr 3#8 s
    else
      match findTalkgroup hdr.talkgroup.toNat s.talkgroups with
      | none => refuseStart n hdr 5#8 s
      | some g => if g.channel = n then startOnChannel n h hdr r s else refuseStart n hdr 6#8 s

/-! ## Voice (R135) -/

/-- A frame of the current call reaches the arbiter: it makes a routine call emergency when it carries the
marker, or when a local talker's record has its flag set (R127). -/
def promotedBy (hdr : Header) (call : Call) (s : State) : Call :=
  { call with
    emergency := call.emergency || hdr.emergency || (call.isLocal && unitEmergency call.talker s) }

/-- The current call goes on with a fresh voice-gap timer; a call that is now emergency has no talk
timer (R127, R135). -/
def continueCall (n : ChannelNo) (call : Call) (talk : Timer) (s : State) : State :=
  setPhase n (.active call (if call.emergency then none else talk) (s.after s.active.voiceGap)) s

/-- A local VOICE (R135). -/
def takeLocalVoice (n : ChannelNo) (h : Handle) (hdr : Header) (s : State) : State :=
  match (s.channel n).phase with
  | .idle => s.count .strayCallFrames
  | .hang _ _ _ => s.count .strayCallFrames
  | .active cur talk _ =>
    if cur.isLocal && cur.id == hdr.callId.toNat && cur.talker == hdr.unit.toNat
        && !unitLimited cur.talker s then
      let call := promotedBy hdr cur s
      offerFrame n h call (continueCall n call talk s)
    else s.count .strayCallFrames

/-! ## Ending a call (R136, R137) -/

/-- A waiting call can be granted: a local talker's record is in a member state, a remote call's talkgroup
has members (R137). -/
def grantable (call : Call) (s : State) : Bool :=
  if call.isLocal then (s.record call.talker).any fun r => r.phase.isMember
  else decide (0 < membersOf call.talkgroup s)

/-- The first grantable entry that satisfies a condition is granted; the entries before it that cannot be
granted are removed, a local talker told CALL REFUSE (NOT REGISTERED) (R137). Tells whether a call was
granted. The bound is the length of the list. -/
def grantFrom (n : ChannelNo) (ok : WaitEntry → Bool) : Nat → State → Bool × State
  | 0, s => (false, s)
  | k + 1, s =>
    match (s.channel n).waits.find? ok with
    | none => (false, s)
    | some w =>
      let s := removeWait n w.call.id s
      if grantable w.call s then (true, grantWaiting n w.call s)
      else grantFrom n ok k (turnAway n w.call 4#8 s)

/-- The channel enters IDLE, and the head of its wait list, if any, is granted (R137). -/
def enterIdle (n : ChannelNo) (s : State) : State :=
  let s := setPhase n .idle s
  (grantFrom n (fun _ => true) (s.channel n).waits.length s).2

/-- The channel's current call has ended: it becomes the last ended call, and the channel enters HANG,
grants a waiting entry of the hang talkgroup, or passes to IDLE when the hang time is 0 (R136, R137). With a hang
time of 0 it passes to IDLE and grants the head also where the entries of the hang talkgroup were all removed by the
two checks (the model's choice between two sentences of R137, log entry 40). -/
def enterHang (n : ChannelNo) (call : Call) (s : State) : State :=
  let hang := hangTimeOf call.talkgroup s
  let s :=
    modChannel n
      (fun x =>
        { x with phase := .hang call.talkgroup call.emergency (s.after hang), lastEnded := some call.id }) s
  let search := grantFrom n (fun w => w.call.talkgroup == call.talkgroup) (s.channel n).waits.length s
  if search.1 then search.2 else if hang = 0 then enterIdle n search.2 else search.2

/-- The talking flag of an ended call's local talker is cleared (R141). -/
def endTalking (call : Call) (s : State) : State :=
  if call.isLocal then setTalking call.talker false s else s

/-- A local CALL END, its talk-limited flag cleared already; `cleared` says that the flag was set (R136). -/
def endLocal (n : ChannelNo) (h : Handle) (hdr : Header) (cleared : Bool) (s : State) : State :=
  match currentOf hdr.unit.toNat (s.channel n) with
  | some cur =>
    if cur.isLocal && cur.id == hdr.callId.toNat then
      let call := promotedBy hdr cur s
      enterHang n call (offerFrame n h call (endTalking call s))
    else endWaiting cleared
  | none => endWaiting cleared
where
  /-- The CALL END of a queued talker removes its entry; any other is stray unless it cleared the flag. -/
  endWaiting (cleared : Bool) : State :=
    if ((s.channel n).waits.any fun w =>
        w.call.isLocal && w.call.talker == hdr.unit.toNat && w.call.id == hdr.callId.toNat) then
      removeWait n hdr.callId.toNat s
    else if cleared then s
    else s.count .strayCallFrames

/-- A local CALL END (R136). -/
def takeLocalEnd (n : ChannelNo) (h : Handle) (hdr : Header) (s : State) : State :=
  endLocal n h hdr (unitLimited hdr.unit.toNat s) (setLimited hdr.unit.toNat false s)

/-! ## Calls from other sites (R128, R134 to R136) -/

/-- The remote call of a frame, its class by R127. -/
def remoteCall (hdr : Header) (s : State) : Call where
  id := hdr.callId.toNat
  talkgroup := hdr.talkgroup.toNat
  talker := hdr.unit.toNat
  site := hdr.origin.toNat
  emergency := hdr.emergency || priorityTalkgroup hdr.talkgroup.toNat s
  isLocal := false

/-- Steps 3 and 4 of R134: not carried where no member listens, otherwise decided. -/
def admitRemote (n : ChannelNo) (h : Handle) (hdr : Header) (s : State) : State :=
  if membersOf hdr.talkgroup.toNat s = 0 then s.count .callsNotCarried
  else decideCall n (remoteCall hdr s) (.remoteFrame h) s

/-- A late frame of the call that has just ended, while the channel is in HANG (R134, R135). -/
def isLastEnded (x : Channel) (id : CallId) : Bool := x.phase.isHang && x.lastEnded == some id

/-- A remote CALL START (R134). -/
def takeRemoteStart (n : ChannelNo) (h : Handle) (hdr : Header) (s : State) : State :=
  let x := s.channel n
  if x.heldIds.contains hdr.callId.toNat || isLastEnded x hdr.callId.toNat then s.count .strayCallFrames
  else admitRemote n h hdr s

/-- A remote VOICE whose call is not the current one (R135). -/
def takeOtherVoice (n : ChannelNo) (h : Handle) (hdr : Header) (s : State) : State :=
  let x := s.channel n
  if (x.waiting hdr.callId.toNat).isSome || isLastEnded x hdr.callId.toNat then s.count .strayCallFrames
  else admitRemote n h hdr s

/-- A remote VOICE (R135). -/
def takeRemoteVoice (n : ChannelNo) (h : Handle) (hdr : Header) (s : State) : State :=
  match (s.channel n).phase with
  | .idle => takeOtherVoice n h hdr s
  | .hang _ _ _ => takeOtherVoice n h hdr s
  | .active cur talk _ =>
    if cur.id = hdr.callId.toNat then
      continueCall n (promotedBy hdr cur s) talk (deliverReceived n h s)
    else takeOtherVoice n h hdr s

/-- A remote CALL END that is not of the current call (R136). -/
def endOther (n : ChannelNo) (hdr : Header) (s : State) : State :=
  if ((s.channel n).waiting hdr.callId.toNat).isSome then removeWait n hdr.callId.toNat s
  else s.count .strayCallFrames

/-- A remote CALL END (R136). -/
def takeRemoteEnd (n : ChannelNo) (h : Handle) (hdr : Header) (s : State) : State :=
  match (s.channel n).phase with
  | .idle => endOther n hdr s
  | .hang _ _ _ => endOther n hdr s
  | .active cur _ _ =>
    if cur.id = hdr.callId.toNat then
      let call := promotedBy hdr cur s
      enterHang n call (endTalking call (deliverReceived n h s))
    else endOther n hdr s

/-- The local copy of a target-set frame goes to the arbiter of its talkgroup's channel; with no such
talkgroup it is not carried (R38, R128). -/
def localCopy (h : Handle) (hdr : Header) (s : State) : State :=
  match findTalkgroup hdr.talkgroup.toNat s.talkgroups with
  | none => s.count .callsNotCarried
  | some g =>
    if hdr.isKind .callStart then takeRemoteStart g.channel h hdr s
    else if hdr.isKind .voice then takeRemoteVoice g.channel h hdr s
    else takeRemoteEnd g.channel h hdr s

/-! ## Timers -/

/-- The voice-gap timer of the current call expires: the call ends as by a CALL END (R138). -/
def voiceGapEnds (n : ChannelNo) (s : State) : State :=
  match (s.channel n).phase with
  | .idle => s
  | .hang _ _ _ => s
  | .active call _ gap =>
    if s.elapsed gap then
      let s :=
        if call.isLocal then offerCall .callEnd call (setTalking call.talker false s)
        else deliverCall .callEnd n call s
      enterHang n call s
    else s

/-- The talk timer of a routine call with a local talker expires (R139). -/
def talkTimerEnds (n : ChannelNo) (s : State) : State :=
  match (s.channel n).phase with
  | .idle => s
  | .hang _ _ _ => s
  | .active call talk _ =>
    if s.due talk then
      let s := sendDekey n call 1#8 s
      let s := enterHang n call (offerCall .callEnd call (setTalking call.talker false s))
      (setLimited call.talker true s).count .talkLimitCutoffs
    else s

/-- The hang timer expires: the channel enters IDLE and grants the head of its wait list (R137). -/
def hangTimerEnds (n : ChannelNo) (s : State) : State :=
  match (s.channel n).phase with
  | .idle => s
  | .active _ _ _ => s
  | .hang _ _ d => if s.elapsed d then enterIdle n s else s

/-- The wait timer of an entry expires: the entry is removed, and a local talker is told CALL REFUSE
(TIMEOUT) (R140). -/
def waitTimerEnds (n : ChannelNo) (id : CallId) (s : State) : State :=
  match (s.channel n).waiting id with
  | none => s
  | some w =>
    if s.elapsed w.deadline then
      let s := removeWait n id s
      let s := if w.call.isLocal then sendCallRefuse n w.call 2#8 s else s
      s.count .waitExpiries
    else s

end Sys2Proof.Machine
end

