-- ==== Sys2Proof/Machine/Links.lean ====
section
/-! DEFINITION. The Link Supervisors (spec/09_link_supervision.md): seeding, tokens, probes and their
windows, and the link states with what a change tells the other blocks. -/

namespace Sys2Proof.Machine

/-! ## Fields -/

/-- The link of a link port. -/
def State.link (s : State) (l : LinkNo) : Link := s.links[l.val]

/-- One link's fields are changed. -/
def modLink (l : LinkNo) (f : Link → Link) (s : State) : State :=
  { s with links := s.links.set l.val (f s.links[l.val]) }

/-- The number a link state is written as (R7). -/
def LinkState.number : LinkState → Nat
  | .disabled => 0
  | .down => 1
  | .trial => 2
  | .up => 3

/-- The seed of a link's token: own site id × 257 + n + 1 (R144). -/
def seedToken (own : SiteId) (l : LinkNo) : BitVec 16 := BitVec.ofNat 16 (own * 257 + l.val + 1)

/-- The token advances one step: shifted toward the most significant end, the new bit 0 the exclusive-or of
the bits that stood at 15, 13, 12 and 10 (R144). -/
def advanceToken (t : BitVec 16) : BitVec 16 :=
  (t <<< 1) |||
    (if ((t.getLsbD 15 != t.getLsbD 13) != (t.getLsbD 12 != t.getLsbD 10)) then 1#16 else 0#16)

/-! ## State changes (R46, R149, R150) -/

/-- DOWN and DISABLED are the states whose entry flushes the link's queue (R46). -/
def LinkState.flushes : LinkState → Bool
  | .disabled => true
  | .down => true
  | .trial => false
  | .up => false

/-- The link state is set; an entry into DOWN or DISABLED from another state flushes the link's queue, the route
being lost first, and routes anew what the Forwarding Engine had left to place there (R38, R46). -/
def setLinkState (l : LinkNo) (new : LinkState) (s : State) : State :=
  let old := (s.link l).state
  let s := modLink l (fun x => { x with state := new }) s
  if new.flushes && old != new then (s.onIo fun c => flushQueue c l).onIo fun c => rerouteWork c l else s

/-- The LINK CHANGE notice with the link, the state at the end of the event, and the far site (R150,
R164). -/
def sendLinkChange (l : LinkNo) (reported : LinkState) (s : State) : State :=
  s.onIo fun c =>
    sendMgmtNotice c 1#8 0 0
      [BitVec.ofNat 8 l.val, BitVec.ofNat 8 reported.number, BitVec.ofNat 8 (s.link l).farSite]

/-- A link enters UP: the state with both counts 0, the notice, a FULL round (R149, R150). -/
def linkUp (l : LinkNo) (s : State) : State :=
  let s := setLinkState l .up (modLink l (fun x => { x with errors := 0, goods := 0 }) s)
  fullRound (sendLinkChange l .up s)

/-- A link leaves UP into DOWN: the state with good count 0, the flush, the notice (R149, R150). -/
def linkLost (l : LinkNo) (reported : LinkState) (s : State) : State :=
  sendLinkChange l reported (setLinkState l .down (modLink l (fun x => { x with goods := 0 }) s))

/-- A good judgement in TRIAL with the good count it reaches (R149). -/
def goodInTrial (l : LinkNo) (goods : Nat) (s : State) : State :=
  if s.active.restoreCount ≤ goods then linkUp l s
  else setLinkState l .trial (modLink l (fun x => { x with goods := goods }) s)

/-- A window judged good moves the link state (R149). -/
def judgedGood (l : LinkNo) (s : State) : State :=
  match (s.link l).state with
  | .disabled => s
  | .down => goodInTrial l 1 s
  | .trial => goodInTrial l ((s.link l).goods + 1) s
  | .up => modLink l (fun x => { x with errors := x.errors - 1 }) s

/-- A window judged an error moves the link state (R149). -/
def judgedError (l : LinkNo) (s : State) : State :=
  match (s.link l).state with
  | .disabled => s
  | .down => s
  | .trial => setLinkState l .down (modLink l (fun x => { x with goods := 0 }) s)
  | .up =>
    let s := modLink l (fun x => { x with errors := x.errors + 1 }) s
    if s.active.failThreshold ≤ (s.link l).errors then linkLost l .down s else s

/-! ## Probes (R145) -/

/-- A PROBE with the link's token is sent and its window opens (R145, step 3). -/
def sendProbe (l : LinkNo) (s : State) : State :=
  let s := s.onIo fun c => sendLinkLocal c l { Header.blank .probe with tag := (s.link l).token }
  modLink l (fun x => { x with outstanding := true }) s

/-- The probe timer is started with the probe period in force. -/
def startProbeTimer (l : LinkNo) (s : State) : State :=
  modLink l (fun x => { x with timer := some (s.after s.active.probePeriod) }) s

/-- The outstanding window is judged an error, if there is one (R145, R147). -/
def closeWindow (l : LinkNo) (s : State) : State :=
  if (s.link l).outstanding then judgedError l (modLink l (fun x => { x with outstanding := false }) s) else s

/-- The token advances if an advance is pending (R145, step 2). -/
def applyAdvance (x : Link) : Link :=
  if x.advance then { x with token := advanceToken x.token, advance := false } else x

/-- The probe timer of a link expires (R145). -/
def probeTimerEnds (l : LinkNo) (s : State) : State :=
  if s.due (s.link l).timer then
    let s := modLink l applyAdvance (closeWindow l s)
    let s := if (s.link l).state = .disabled then s else sendProbe l s
    startProbeTimer l s
  else s

/-! ## Seeding (R144) -/

/-- The fields a seeding sets beside the link state. -/
def seededLink (own far : SiteId) (l : LinkNo) (x : Link) : Link :=
  { x with
    farSite := far
    token := seedToken own l
    advance := false
    outstanding := false
    timer := none
    errors := 0
    goods := 0
    looped := false }

/-- A link is seeded: DISABLED with far site 0, otherwise DOWN, with its first PROBE when the part is
RUNNING (R144, R152). -/
def seedLink (s : State) (l : LinkNo) : State :=
  let far := s.active.farSite l
  let s := setLinkState l (if far = 0 then .disabled else .down) s
  let s := modLink l (seededLink s.own far l) s
  if far ≠ 0 && s.partState = .running then startProbeTimer l (sendProbe l s) else s

/-- The four links. -/
def allLinks : List LinkNo := [0, 1, 2, 3]

/-- Every link is seeded (R152), in ascending number (the model's choice, log entry 11). -/
def seedAll (s : State) : State := allLinks.foldl seedLink s

/-! ## Frames from the link -/

/-- A PROBE whose origin is the own site sets the loop flag and judges an outstanding window an error
(R147). -/
def takeLoopedProbe (l : LinkNo) (s : State) : State :=
  closeWindow l (modLink l (fun x => { x with looped := true }) s)

/-- A PROBE is answered with the complement of its token, whatever its origin (R146). -/
def answerProbe (l : LinkNo) (token : BitVec 16) (s : State) : State :=
  s.onIo fun c =>
    sendLinkLocal c l { Header.blank .probeReply with tag := BitVec.ofNat 16 (65535 - token.toNat) }

/-- A PROBE received at a link (R146, R147). A PROBE of the part's own at a DISABLED link, which two bullets of R146
fit, is handled as R147 has it: the origin is tested first and the loop flag set (the model's choice, log entry 38). -/
def takeProbe (l : LinkNo) (hdr : Header) (s : State) : State :=
  if hdr.origin.toNat = s.own then takeLoopedProbe l s
  else if (s.link l).state = .disabled then s
  else answerProbe l hdr.tag s

/-- A PROBE REPLY is good: the right answer from the far site (R148). -/
def goodReply (x : Link) (hdr : Header) : Bool :=
  hdr.tag.toNat == 65535 - x.token.toNat && hdr.origin.toNat == x.farSite

/-- A PROBE REPLY received at a link (R148). -/
def takeProbeReply (l : LinkNo) (hdr : Header) (s : State) : State :=
  let x := s.link l
  if x.state = .disabled || !x.outstanding then s.count .strayReplies
  else
    let s := modLink l (fun x => { x with outstanding := false }) s
    if goodReply x hdr then
      judgedGood l (modLink l (fun x => { x with advance := true, looped := false }) s)
    else judgedError l s

/-! ## Changed parameters (R151) -/

/-- An APPLY with the part RUNNING reaches one link: a changed far site seeds it anew, out of UP by way of
DOWN with its notice; a lowered fail threshold takes a link in UP down (R151). -/
def reconsiderLink (s : State) (l : LinkNo) : State :=
  let x := s.link l
  if s.active.farSite l ≠ x.farSite then
    let s :=
      if x.state = .up then linkLost l (if s.active.farSite l = 0 then .disabled else .down) s else s
    seedLink s l
  else if x.state = .up && decide (s.active.failThreshold ≤ x.errors) then linkLost l .down s
  else s

end Sys2Proof.Machine
end

