-- ==== Sys2Proof/Machine/Management.lean ====
section
/-! DEFINITION. The Management Agent (spec/10_in_band_management.md): taking requests, carrying them out,
replies, the loads, the parameters, the counters, and the restart request. -/

namespace Sys2Proof.Machine

/-! ## Replies (R155) -/

/-- A reply's status, remaining count, failing index and data (R7, R155). -/
structure Reply where
  status : Byte
  remaining : Nat
  failing : Nat
  data : List Byte

/-- DONE with data. -/
def Reply.done (data : List Byte) : Reply := { status := 0, remaining := 0, failing := 0, data := data }

/-- DONE with a remaining count and data. -/
def Reply.doneLeaving (remaining : Nat) (data : List Byte) : Reply :=
  { status := 0, remaining := remaining, failing := 0, data := data }

/-- A status with nothing more. -/
def Reply.bare (status : Byte) : Reply := { status := status, remaining := 0, failing := 0, data := [] }

/-- BUSY. -/
def Reply.busy : Reply := Reply.bare 1

/-- REFUSED. -/
def Reply.refused : Reply := Reply.bare 2

/-- NOT FOUND. -/
def Reply.notFound : Reply := Reply.bare 3

/-- BAD VALUE. -/
def Reply.badValue : Reply := Reply.bare 4

/-- IN USE. -/
def Reply.inUse : Reply := Reply.bare 6

/-- The payload of a reply (R7). -/
def Reply.payload (r : Reply) : List Byte :=
  r.status :: (beBytes 2 r.remaining ++ BitVec.ofNat 8 r.failing :: r.data)

/-- The origin a reply carries: the own site, and while the part is UNCONFIGURED the destination of the
request when that is 1 to 32, otherwise 0 (R32). -/
def replyOrigin (q : Request) (s : State) : SiteId :=
  match s.partState with
  | .running => s.own
  | .unconfigured => if siteIdOk q.destination then q.destination else 0

/-- The header of a reply to a request (R155). -/
def replyHeader (q : Request) (s : State) : Header :=
  { Header.blank .mgmtReply with
    origin := BitVec.ofNat 8 (replyOrigin q s)
    destination := BitVec.ofNat 8 q.origin
    tag := q.tag }

/-- A reply is built and offered by route and, failing a route, by the arrival link (R37, R155). -/
def sendReply (q : Request) (r : Reply) (done : Option Completion) (s : State) : State :=
  s.onIo fun c =>
    sendBuilt c (replyHeader q s) r.payload done fun h => placeReply c q.link h q.origin

/-! ## Taking a request (R154) -/

/-- The request a MGMT REQUEST frame carries. -/
def requestOf (l : LinkNo) (hdr : Header) (payload : List Byte) : Request where
  tag := hdr.tag
  origin := hdr.origin.toNat
  destination := hdr.destination.toNat
  link := l
  code := byteAt payload 0
  fields := payload.drop 1

/-- The access check: while RUNNING, the origin has an entry whose management flag is set. -/
def accessGranted (q : Request) (s : State) : Bool :=
  s.partState == .unconfigured || (findSite q.origin s.sites).any SiteEntry.management

/-- A MGMT REQUEST is access-checked, answered BUSY, or copied into the request queue. -/
def takeMgmtRequest (q : Request) (s : State) : State :=
  if !accessGranted q s then s.count .deniedRequests
  else if restartPending s || decide (Config.requestCapacity ≤ s.requests.length) then
    sendReply q Reply.busy none s
  else { s with requests := s.requests ++ [q] }

/-! ## Carrying a request out -/

/-- The agent carries out the head of the request queue when its code is the one asked for and no restart
is pending; the request leaves the queue when its reply has been built (R154, R163). -/
def serveHead (isCode : Byte → Bool) (run : Request → State → State) (s : State) : State :=
  match s.requests with
  | [] => s
  | q :: rest =>
    if isCode q.code && !restartPending s then { run q s with requests := rest } else s

/-- A request is carried out whole and answered with one reply, built when its effects have been made. -/
def answer (f : Request → State → Reply × State) (q : Request) (s : State) : State :=
  let r := f q s
  sendReply q r.1 none r.2

/-- A request that has a fixed number of field bytes; any other length is answered BAD VALUE (R155). -/
def sized (n : Nat) (f : Request → State → Reply × State) (q : Request) (s : State) : Reply × State :=
  if q.fields.length = n then f q s else (Reply.badValue, s)

/-- The request at the head of the queue is answered and leaves it, with nothing taken yet of the one behind. -/
def finishHead (q : Request) (rest : List Request) (r : Reply) (s : State) : State :=
  { sendReply q r none s with requests := rest, progress := Progress.start }

/-- The agent goes on with the load or WRITE PARAMETERS at the head of the request queue. `run` takes the next entry
and gives the reply when it was the last one or has failed; until then the request stays at the head with its
progress, and other events fall between its entries (R155; log entry 8). A request whose length does not match its
entry count is answered BAD VALUE with failing index 0 (R155). -/
def serveListed (isCode : Byte → Bool) (size : Nat) (run : Request → State → Option Reply × State) (s : State) :
    State :=
  match s.requests with
  | [] => s
  | q :: rest =>
    if isCode q.code && !restartPending s then
      if q.fields.length = 1 + size * (byteAt q.fields 0).toNat then
        match run q s with
        | (some r, s) => finishHead q rest r s
        | (none, s) => s
      else finishHead q rest Reply.badValue s
    else s

/-- The entries of a listed request, in list order. -/
def entriesOf (size : Nat) (q : Request) : List (List Byte) :=
  (List.range (byteAt q.fields 0).toNat).map fun i => (q.fields.drop (1 + size * i)).take size

/-- The request codes of R155. -/
def knownCode (c : Byte) : Bool := 1 ≤ c.toNat && c.toNat ≤ 17

/-! ## IDENTIFY -/

/-- The part state as IDENTIFY writes it. -/
def PartState.number : PartState → Byte
  | .unconfigured => 0
  | .running => 1

/-- The data of IDENTIFY (R155): "ED610", revision 3, the capacities, own site id, part state, restart
count. -/
def identifyData (s : State) : List Byte :=
  [0x45#8, 0x44#8, 0x36#8, 0x31#8, 0x30#8, 3#8] ++ beBytes 2 256 ++ [64#8, 8#8, 32#8] ++ beBytes 2 512
    ++ [6#8, 4#8, BitVec.ofNat 8 s.own, s.partState.number] ++ beBytes 2 s.restartCount

/-! ## Loads (R156) -/

/-- The reply to a load of `count` entries that has ended with `taken` of them taken: all of them, or with a cause
for which the next one failed (R156). -/
def loadReply (count taken : Nat) : Option Byte → Reply
  | none => Reply.done [BitVec.ofNat 8 taken, 0]
  | some cause =>
    { status := if taken = 0 then cause else 7
      remaining := count - taken
      failing := taken
      data := [BitVec.ofNat 8 taken, cause] }

/-- The next entry of a load in list order is checked and taken. The load is answered when it has no entry left or
when the entry fails a check, which stops it there (R156). -/
def load (size : Nat) (check : List Byte → State → Option Byte) (take : List Byte → State → State) (q : Request)
    (s : State) : Option Reply × State :=
  let entries := entriesOf size q
  let k := s.progress.taken
  match entries[k]? with
  | none => (some (loadReply entries.length k none), s)
  | some e =>
    match check e s with
    | some cause => (some (loadReply entries.length k (some cause)), s)
    | none =>
      let s := take e s
      if k + 1 < entries.length then (none, { s with progress := { s.progress with taken := k + 1 } })
      else (some (loadReply entries.length (k + 1) none), s)

/-- A flag or marker byte is 0 or 1. -/
def flagOk (b : Byte) : Bool := b == 0 || b == 1

/-- A link byte is 0 to 3, or 255 for none. -/
def linkOk (b : Byte) : Bool := b.toNat ≤ 3 || b == 255

/-- The link a byte names. -/
def linkOfByte (b : Byte) : Option LinkNo := if h : b.toNat < 4 then some ⟨b.toNat, h⟩ else none

/-! ### LOAD SITES: site id, primary, alternate, management flag, remove marker -/

/-- The checks on a LOAD SITES entry (R156). -/
def checkSite (e : List Byte) (_ : State) : Option Byte :=
  let ok :=
    siteIdOk (byteAt e 0).toNat && flagOk (byteAt e 4)
      && (byteAt e 4 == 1 || (linkOk (byteAt e 1) && linkOk (byteAt e 2) && flagOk (byteAt e 3)))
  if ok then none else some 4

/-- A site's entry is removed, and the site leaves every remote site set (R31, R117). -/
def removeSite (n : SiteId) (s : State) : State :=
  match findSite n s.sites with
  | none => s
  | some _ =>
    let s := dropFromSets n s
    { s with sites := s.sites.filter fun x => x.site != n }

/-- A site's loaded fields are written; a new entry's dynamic part is absent and a kept entry's is kept
(R117). -/
def putSite (n : SiteId) (primary alternate : Option LinkNo) (management : Bool) (s : State) : State :=
  let entry :=
    match findSite n s.sites with
    | some x => { x with primary := primary, alternate := alternate, management := management }
    | none =>
      { site := n
        primary := primary
        alternate := alternate
        management := management
        lastSequence := none
        ageTimer := none
        announcedPeriod := none }
  { s with sites := insertKeyed SiteEntry.site entry s.sites }

/-- A LOAD SITES entry is taken. -/
def takeSite (e : List Byte) (s : State) : State :=
  if byteAt e 4 = 1 then removeSite (byteAt e 0).toNat s
  else putSite (byteAt e 0).toNat (linkOfByte (byteAt e 1)) (linkOfByte (byteAt e 2)) (byteAt e 3 == 1) s

/-! ### LOAD TALKGROUPS: id (2), channel, class, talk limit (2), hang time, remove marker -/

/-- A talkgroup is in use (R112). -/
def talkgroupInUse (g : TalkgroupEntry) (s : State) : Bool :=
  decide (0 < g.members)
    || s.channels.toList.any fun x =>
      (x.phase.call?.any fun c => c.talkgroup == g.id) || x.waits.any fun w => w.call.talkgroup == g.id

/-- Every field of a LOAD TALKGROUPS entry is in range; of a removal the id and the marker alone (R156). -/
def talkgroupFieldsOk (e : List Byte) : Bool :=
  let id := fieldAt e 0 2
  let limit := fieldAt e 4 2
  1 ≤ id && id ≤ 65534 && flagOk (byteAt e 7)
    && (byteAt e 7 == 1
        || ((byteAt e 2).toNat ≤ 5 && flagOk (byteAt e 3) && 10 ≤ limit && limit ≤ 300
            && (byteAt e 6).toNat ≤ 100))

/-- The checks on a LOAD TALKGROUPS entry (R112, R156). -/
def checkTalkgroup (e : List Byte) (s : State) : Option Byte :=
  if !talkgroupFieldsOk e then some 4
  else
    match findTalkgroup (fieldAt e 0 2) s.talkgroups with
    | none =>
      if byteAt e 7 != 1 && decide (Config.talkgroupCapacity ≤ s.talkgroups.length) then some 5 else none
    | some g =>
      if talkgroupInUse g s && (byteAt e 7 == 1 || (byteAt e 2).toNat != g.channel.val) then some 6
      else none

/-- The channel a byte names; a checked byte is 0 to 5. -/
def channelOfByte (b : Byte) : ChannelNo := Fin.ofNat 6 b.toNat

/-- A LOAD TALKGROUPS entry is taken: a new talkgroup has a count of 0 and an empty set, a changed one keeps
its dynamic fields, a removed one is discarded (R112). -/
def takeTalkgroup (e : List Byte) (s : State) : State :=
  let id := fieldAt e 0 2
  if byteAt e 7 = 1 then { s with talkgroups := s.talkgroups.filter fun g => g.id != id }
  else
    let old := findTalkgroup id s.talkgroups
    let entry :=
      { id := id
        channel := channelOfByte (byteAt e 2)
        cls := if byteAt e 3 = 1 then .priority else .routine
        talkLimit := fieldAt e 4 2
        hangTime := (byteAt e 6).toNat
        members := (old.map TalkgroupEntry.members).getD 0
        remote := (old.map TalkgroupEntry.remote).getD 0 }
    { s with talkgroups := insertKeyed TalkgroupEntry.id entry s.talkgroups }

/-! ### LOAD NEIGHBORS: site id, bias (signed), enabled flag, remove marker -/

/-- The bias byte of an entry, signed. -/
def biasByte (b : Byte) : Int := b.toInt

/-- The checks on a LOAD NEIGHBORS entry (R71, R156). -/
def checkNeighbor (e : List Byte) (s : State) : Option Byte :=
  let n := (byteAt e 0).toNat
  let bias := biasByte (byteAt e 1)
  let ok :=
    siteIdOk n && n != s.own && flagOk (byteAt e 3)
      && (byteAt e 3 == 1 || (decide (-20 ≤ bias) && decide (bias ≤ 20) && flagOk (byteAt e 2)))
  if !ok then some 4
  else if byteAt e 3 != 1 && (findNeighbor n s.neighbors).isNone && s.neighbors.all Option.isSome then some 5
  else none

/-- The candidate slots of a record with the slot of a site freed (R72). -/
def freeSlotsOf (n : SiteId) (r : Record) : Record :=
  { r with candidates := r.candidates.map fun o => o.filter fun c => c.site != n }

/-- A site's entry is removed from the Neighbor Table and its slot freed in every record (R71, R72). -/
def removeNeighbor (n : SiteId) (s : State) : State :=
  { s with
    neighbors := s.neighbors.map fun o => o.filter fun x => x.site != n
    units := if (findNeighbor n s.neighbors).isSome then s.units.map (freeSlotsOf n) else s.units }

/-- A neighbour entry takes its site's position, or the lowest empty one (R71). -/
def putNeighbor (x : NeighborEntry) (s : State) : State :=
  let i :=
    match findNeighbor x.site s.neighbors with
    | some _ => neighborIndex x.site s.neighbors
    | none => s.neighbors.findIdx Option.isNone
  { s with neighbors := s.neighbors.set i (some x) }

/-- A LOAD NEIGHBORS entry is taken. -/
def takeNeighbor (e : List Byte) (s : State) : State :=
  if byteAt e 3 = 1 then removeNeighbor (byteAt e 0).toNat s
  else
    putNeighbor
      { site := (byteAt e 0).toNat, bias := biasByte (byteAt e 1), enabled := byteAt e 2 == 1 } s

/-! ## Parameters (R157 to R159) -/

/-- The values of a parameter set in parameter number order, 1 to 29 (R157). -/
def Params.values (p : Params) : List Int :=
  [p.ownSite, p.farSite0, p.farSite1, p.farSite2, p.farSite3, p.hopLimit, p.bufferReserve, p.filterWeight,
   p.hysteresis, p.dwell, p.coverageFloor, p.roamHold, p.replyWait, p.departure, p.arrival, p.forwardHold,
   p.runDownshift, p.quietDownshift, p.quietPoll, p.dormantPoll, p.pollReplyWait, p.pollMissLimit,
   p.lostHold, p.probePeriod, p.failThreshold, p.restoreCount, p.refreshPeriod, p.waitTimeout, p.voiceGap]

/-- A parameter set with one parameter written, by its number (R157). -/
def Params.write (n : Nat) (v : Int) (p : Params) : Params :=
  match n with
  | 1 => { p with ownSite := v.toNat }
  | 2 => { p with farSite0 := v.toNat }
  | 3 => { p with farSite1 := v.toNat }
  | 4 => { p with farSite2 := v.toNat }
  | 5 => { p with farSite3 := v.toNat }
  | 6 => { p with hopLimit := v.toNat }
  | 7 => { p with bufferReserve := v.toNat }
  | 8 => { p with filterWeight := v.toNat }
  | 9 => { p with hysteresis := v.toNat }
  | 10 => { p with dwell := v.toNat }
  | 11 => { p with coverageFloor := v }
  | 12 => { p with roamHold := v.toNat }
  | 13 => { p with replyWait := v.toNat }
  | 14 => { p with departure := v.toNat }
  | 15 => { p with arrival := v.toNat }
  | 16 => { p with forwardHold := v.toNat }
  | 17 => { p with runDownshift := v.toNat }
  | 18 => { p with quietDownshift := v.toNat }
  | 19 => { p with quietPoll := v.toNat }
  | 20 => { p with dormantPoll := v.toNat }
  | 21 => { p with pollReplyWait := v.toNat }
  | 22 => { p with pollMissLimit := v.toNat }
  | 23 => { p with lostHold := v.toNat }
  | 24 => { p with probePeriod := v.toNat }
  | 25 => { p with failThreshold := v.toNat }
  | 26 => { p with restoreCount := v.toNat }
  | 27 => { p with refreshPeriod := v.toNat }
  | 28 => { p with waitTimeout := v.toNat }
  | 29 => { p with voiceGap := v.toNat }
  | _ => p

/-- The range of each parameter, in parameter number order (R157). -/
def paramRanges : List (Int × Int) :=
  [(0, 32), (0, 32), (0, 32), (0, 32), (0, 32), (1, 15), (0, 128), (1, 16), (0, 30), (1, 15), (-130, -80),
   (1, 60), (200, 5000), (500, 10000), (500, 10000), (1, 120), (10, 600), (60, 3600), (10, 600), (60, 3600),
   (1, 10), (1, 7), (10, 3600), (100, 2000), (1, 8), (1, 15), (5, 120), (1, 30), (500, 5000)]

/-- The nearest of 1, 4 and 8; a value of 6, midway, is written as 4 (R158). -/
def nearestThreshold (v : Int) : Int := if v ≤ 2 then 1 else if v ≤ 6 then 4 else 8

/-- The value a parameter is written as (R158). -/
def clampParam (n : Nat) (v : Int) : Int :=
  let range := paramRanges.getD (n - 1) (0, 0)
  if n = 25 then nearestThreshold v else max range.1 (min range.2 v)

/-- The reply to a WRITE PARAMETERS of `count` pairs that has ended with so many written and clamped: all of them,
or stopped at a bad number (R158). -/
def writeReply (count written clamped : Nat) : Reply :=
  let data := [BitVec.ofNat 8 written, BitVec.ofNat 8 clamped]
  if written = count then Reply.done data
  else { status := 4, remaining := count - written, failing := written, data := data }

/-- The next pair of a WRITE PARAMETERS in list order is written into the staged set. It is answered when no pair is
left or when the pair's number lies outside 1 to 29, which stops it there (R158). -/
def writeParams (q : Request) (s : State) : Option Reply × State :=
  let pairs := entriesOf 3 q
  let k := s.progress.taken
  let clamped := s.progress.clamped
  match pairs[k]? with
  | none => (some (writeReply pairs.length k clamped), s)
  | some e =>
    let n := (byteAt e 0).toNat
    let v := signed16 (fieldAt e 1 2)
    if 1 ≤ n && n ≤ 29 then
      let clamped := if clampParam n v = v then clamped else clamped + 1
      let s := { s with staged := s.staged.write n (clampParam n v) }
      if k + 1 < pairs.length then (none, { s with progress := { taken := k + 1, clamped := clamped } })
      else (some (writeReply pairs.length (k + 1) clamped), s)
    else (some (writeReply pairs.length k clamped), s)

/-- READ PARAMETERS: the active or the staged set, whole (R158). -/
def readParams (q : Request) (s : State) : Reply :=
  if byteAt q.fields 0 = 0 then Reply.done (s.active.values.flatMap signedBytes)
  else if byteAt q.fields 0 = 1 then Reply.done (s.staged.values.flatMap signedBytes)
  else Reply.badValue

/-- The entry of the own site has its dynamic part discarded, and its site leaves every set (R29, R117). -/
def becomeOwnEntry (s : State) : State :=
  let s := dropFromSets s.own s
  { s with
    sites :=
      modSite s.own (fun x => { x with lastSequence := none, ageTimer := none, announcedPeriod := none })
        s.sites }

/-- The part enters RUNNING anew: its links are seeded, its refresh timer is started and a FULL round is
made (R115, R152, R153, R163). -/
def enterRunning (s : State) : State := fullRound (startRefresh (seedAll s))

/-- An APPLY with the part UNCONFIGURED: it enters RUNNING when it is given an own site id, otherwise the
links whose far site changed are seeded (R152, R153). -/
def applyUnconfigured (s : State) : State :=
  if s.active.ownSite = 0 then
    allLinks.foldl (fun s l => if s.active.farSite l ≠ (s.link l).farSite then seedLink s l else s) s
  else enterRunning (becomeOwnEntry { s with partState := .running })

/-- APPLY PARAMETERS (R159). It takes the links one by one in ascending number, so a link's LINK CHANGE is routed while
a higher link that the same APPLY takes down is still UP (the model's choice, log entry 11). -/
def applyParams (s : State) : Reply × State :=
  match s.partState with
  | .running =>
    if s.staged.ownSite ≠ s.active.ownSite then (Reply.inUse, s)
    else (Reply.done [], allLinks.foldl reconsiderLink { s with active := s.staged })
  | .unconfigured => (Reply.done [], applyUnconfigured { s with active := s.staged })

/-! ## Units (R155, R160) -/

/-- The byte of a channel that may be absent, 255 when it is. -/
def channelByte (c : Option ChannelNo) : Byte := (c.map fun n => BitVec.ofNat 8 n.val).getD 255

/-- The activity class byte, 255 when absent (R155). -/
def activityByte (a : Option Activity) : Byte :=
  match a with
  | none => 255
  | some x =>
    match x.cls with
    | .active => 0
    | .quiet => 1
    | .dormant => 2

/-- One record as READ UNITS gives it (R155). -/
def unitSummary (r : Record) : List Byte :=
  BitVec.ofNat 8 r.slot :: (beBytes 3 r.unit ++ BitVec.ofNat 8 r.phase.number :: (beBytes 2 r.talkgroup
    ++ [channelByte r.phase.channel?, flagByte r.emergency]))

/-- READ UNITS (R160). -/
def readUnitsReply (q : Request) (s : State) : Reply :=
  let start := (byteAt q.fields 0).toNat
  let count := (byteAt q.fields 1).toNat
  if 1 ≤ count && count ≤ 8 then
    let found := s.units.filter fun r => decide (start ≤ r.slot)
    Reply.doneLeaving (found.length - count) ((found.take count).flatMap unitSummary)
  else Reply.badValue

/-- Order sent, as READ UNIT writes it. -/
def Phase.orderSent : Phase → Bool
  | .served _ _ _ => false
  | .proposing _ _ _ => false
  | .departing _ _ sent => sent
  | .arriving _ => false
  | .forward _ => false
  | .lost _ _ => false

/-- The abandoned handover of a record (R88). -/
def Phase.abandoned? : Phase → Option Abandoned
  | .served _ _ a => a
  | .proposing _ _ _ => none
  | .departing _ _ _ => none
  | .arriving _ => none
  | .forward _ => none
  | .lost _ _ => none

/-- One candidate slot as READ UNIT gives it (R155). -/
def candidateBytes (o : Option Candidate) : List Byte :=
  match o with
  | none => beBytes 5 0
  | some c =>
    BitVec.ofNat 8 c.site :: (signedBytes c.level ++ [BitVec.ofNat 8 c.qualify, BitVec.ofNat 8 c.misses])

/-- A record as READ UNIT gives it (R155). -/
def unitData (r : Record) : List Byte :=
  let a := r.phase.activity?
  let ho := r.phase.handover?
  let kept := r.phase.abandoned?
  beBytes 3 r.unit ++ [BitVec.ofNat 8 r.slot, BitVec.ofNat 8 r.phase.number] ++ beBytes 2 r.talkgroup
    ++ [channelByte r.phase.channel?, activityByte a, BitVec.ofNat 8 ((a.map Activity.misses).getD 0),
        flagByte r.emergency, flagByte r.talking, flagByte r.talkLimited,
        flagByte (a.any fun x => x.outstanding.isSome), flagByte r.phase.orderSent,
        flagByte r.roamHold.isSome, BitVec.ofNat 8 r.lastSite,
        BitVec.ofNat 8 ((ho.map Handover.partner).getD 0), BitVec.ofNat 8 ((ho.map Handover.id).getD 0),
        BitVec.ofNat 8 ((kept.map Abandoned.site).getD 0), BitVec.ofNat 8 ((kept.map Abandoned.id).getD 0)]
    ++ signedBytes (r.serving.getD 0) ++ r.candidates.flatMap candidateBytes

/-- The unit a request names. -/
def Request.unit (q : Request) : UnitId := fieldAt q.fields 0 3

/-- READ UNIT (R160). -/
def readUnitReply (q : Request) (s : State) : Reply :=
  match s.record q.unit with
  | none => Reply.notFound
  | some r => Reply.done (unitData r)

/-- CLEAR UNIT (R109, R160). -/
def clearUnitRequest (q : Request) (s : State) : Reply × State :=
  match s.record q.unit with
  | none => (Reply.notFound, s)
  | some r => (Reply.done [], clearRecord r s)

/-- The emergency flag of a record is cleared; a QUIET record whose activity timer is stopped has it
started with the quiet downshift (R59, R65). -/
def clearFlag (s : State) (r : Record) : Record :=
  if r.emergency then
    { r with
      emergency := false
      phase :=
        r.phase.mapActivity fun a =>
          if a.cls = .quiet && a.timer.isNone then
            { a with timer := some (s.after (s.active.quietDownshift * 1000)) }
          else a }
  else r

/-- CLEAR EMERGENCY (R160). -/
def clearEmergencyRequest (q : Request) (s : State) : Reply × State :=
  match s.record q.unit with
  | none => (Reply.notFound, s)
  | some _ => (Reply.done [], modUnit q.unit (clearFlag s) s)

/-! ## Links, channels and talkgroups (R155) -/

/-- One link as READ LINKS gives it. -/
def linkData (x : Link) : List Byte :=
  [BitVec.ofNat 8 x.state.number, BitVec.ofNat 8 x.farSite] ++ beBytes 2 x.token.toNat
    ++ [BitVec.ofNat 8 x.errors, BitVec.ofNat 8 x.goods, flagByte x.looped]

/-- READ LINKS. -/
def readLinksReply (s : State) : Reply := Reply.done (s.links.toList.flatMap linkData)

/-- The number a channel state is written as: IDLE, ACTIVE, HANG. -/
def ChannelPhase.number : ChannelPhase → Byte
  | .idle => 0
  | .active _ _ _ => 1
  | .hang _ _ _ => 2

/-- A call as READ CHANNELS gives it: id, talkgroup, talker, site, class. -/
def callData (c : Call) : List Byte :=
  beBytes 2 c.id ++ beBytes 2 c.talkgroup ++ beBytes 3 c.talker ++ [BitVec.ofNat 8 c.site, flagByte c.emergency]

/-- The current call as READ CHANNELS gives it; absent, every field 0 and the class 255. -/
def currentData (c : Option Call) : List Byte :=
  match c with
  | some call => callData call
  | none => beBytes 8 0 ++ [255#8]

/-- A channel's record and wait list as READ CHANNELS gives them. -/
def channelData (x : Channel) : List Byte :=
  x.phase.number :: (currentData x.phase.call? ++ beBytes 2 (x.lastEnded.getD 0)
    ++ BitVec.ofNat 8 x.waits.length :: x.waits.flatMap fun w => callData w.call)

/-- READ CHANNELS. -/
def readChannelsReply (q : Request) (s : State) : Reply :=
  let n := (byteAt q.fields 0).toNat
  if h : n < 6 then Reply.done (channelData (s.channel ⟨n, h⟩)) else Reply.badValue

/-- The class of a talkgroup as it is written. -/
def FrameClass.number : FrameClass → Byte
  | .routine => 0
  | .priority => 1

/-- One talkgroup as READ TALKGROUPS gives it. -/
def talkgroupData (g : TalkgroupEntry) : List Byte :=
  beBytes 2 g.id ++ [BitVec.ofNat 8 g.channel.val, g.cls.number] ++ beBytes 2 g.talkLimit
    ++ [BitVec.ofNat 8 g.hangTime] ++ beBytes 2 g.members ++ beBytes 4 g.remote.toNat

/-- READ TALKGROUPS: up to 17 entries from a start index in ascending id order. -/
def readTalkgroupsReply (q : Request) (s : State) : Reply :=
  let start := (byteAt q.fields 0).toNat
  if start ≤ 63 then
    let found := s.talkgroups.drop start
    Reply.doneLeaving (found.length - 17) ((found.take 17).flatMap talkgroupData)
  else Reply.badValue

/-! ## Counters (R162) -/

/-- COLLECT COUNTERS, as one step. -/
def collect (s : State) : State :=
  let old := if s.snapshotRead then zeroCounters else s.snapshot
  let merges := if s.snapshotRead then 0 else saturate (s.mergeCount + 1)
  { s with
    snapshot := List.zipWith (fun a b => saturate (a + b)) old s.io.live
    mergeCount := merges
    snapshotRead := false
    io := { s.io with live := zeroCounters } }

/-- READ COUNTERS: the merge count and up to 114 snapshot counters; a reply that carries counter 157 marks
the snapshot read. -/
def readCountersRequest (q : Request) (s : State) : Reply × State :=
  let start := (byteAt q.fields 0).toNat
  if start < Config.counterCount then
    let found := s.snapshot.drop start
    let reply :=
      Reply.doneLeaving (found.length - 114) (beBytes 2 s.mergeCount ++ (found.take 114).flatMap (beBytes 2))
    (reply, if found.length ≤ 114 then { s with snapshotRead := true } else s)
  else (Reply.badValue, s)

/-! ## RESTART (R163) -/

/-- RESTART is answered DONE with a completion request attached, and a restart is pending; a refused buffer
lets it take place at once. -/
def restartRequest (q : Request) (s : State) : State :=
  if q.fields.length = 0 then
    match buildFrame s.net (replyHeader q s) (Reply.done []).payload (some .restartReply) s.io with
    | (some h, io) =>
      let s := { s with io := { io with restart := .awaitingReply } }
      s.onIo fun c io => dropReference c h (placeReply c q.link h q.origin io)
    | (none, io) => { s with io := { io with restart := .due } }
  else sendReply q Reply.badValue none s

end Sys2Proof.Machine
end

