-- ==== Sys2Proof/Machine/Ports.lean ====
section
/-! DEFINITION. The Port Interfaces (spec/01_site_frames.md): reception by line symbols (R8), the header
checks (R10), judging (R9), classification of the handed frames to their owners (R11, R12), and the
completion of a transmission (R14). -/

namespace Sys2Proof.Machine

/-! ## Reception (R8) -/

/-- The reception state of a port. -/
def receptionOf (p : PortNo) (s : State) : Reception := s.io.ports[p.val].reception

/-- The reception state of a port is set. -/
def setReception (p : PortNo) (r : Reception) (io : Io) : Io := modPort p (fun x => { x with reception := r }) io

/-- While the reset line is asserted, received symbols are ignored (R15). -/
def whileTaking (f : State → State) (s : State) : State := if s.resetHeld then s else f s

/-- The frame in progress is counted at its port as judged by a failed cause (R9). -/
def countPortOf (p : PortNo) (c : PortCounter) (s : State) : State := s.onIo fun _ => countPort p c

/-- A frame in progress is ended before its end delimiter for a cause: it is counted, unless it was refused
a buffer, and its buffer reference is released (R8, R9). -/
def cutReception (p : PortNo) (c : PortCounter) (s : State) : State :=
  match receptionOf p s with
  | .hunt => s
  | .header _ => countPortOf p c s
  | .store h => s.onIo fun n io => dropReference n h (countPort p c io)
  | .discard _ (.failed _) => countPortOf p c s
  | .discard _ .refused => s

/-- The port enters a reception state. -/
def enterReception (p : PortNo) (r : Reception) (s : State) : State := s.onIo fun _ => setReception p r

/-- A start delimiter ends a frame in progress as an abort sequence would, and opens a new frame (R8). -/
def takeStart (p : PortNo) (s : State) : State :=
  enterReception p (.header []) (cutReception p .aborted s)

/-- An abort sequence ends the frame in progress (R8). -/
def takeAbort (p : PortNo) (s : State) : State := enterReception p .hunt (cutReception p .aborted s)

/-- The 257th byte ends the frame in progress as too long (R8). -/
def takeTooLong (p : PortNo) (s : State) : State := enterReception p .hunt (cutReception p .tooLong s)

/-! ## The 20th byte (R10, R20) -/

/-- The part is UNCONFIGURED. -/
def State.isUnconfigured (s : State) : Bool := s.partState == .unconfigured

/-- The header checks of R10 on a frame that arrives at a port; a set field is a failed check. -/
def headerFailures (p : PortNo) (h : Header) (s : State) : HeaderFailures where
  length := !lengthCheck h
  header := !headerCheck s.isUnconfigured s.own (isLinkPort p) h
  hop := !hopCheck (isLinkPort p) h
  running := !runningCheck s.isUnconfigured (isLinkPort p) h

/-- Some check failed. -/
def HeaderFailures.any (f : HeaderFailures) : Bool := f.length || f.header || f.hop || f.running

/-- The port asks for a buffer of the frame's class: granted, it holds the 20 header bytes and the port
enters STORE; refused, the refusal is counted and the rest is discarded (R10, R20). -/
def storeFrame (p : PortNo) (bytes : List Byte) (reserve : Nat) (io : Io) : Io :=
  match allocate reserve (parseHeader bytes).frameClass io with
  | (.granted h, io) => setReception p (.store h) (modBuffer h (fun b => { b with bytes := bytes }) io)
  | (.reserve, io) => setReception p (.discard bytes .refused) (countPort p .reserveDrops io)
  | (.empty, io) => setReception p (.discard bytes .refused) (countPort p .emptyDrops io)

/-- The 20th byte of a frame has been taken (R10). -/
def completeHeader (p : PortNo) (bytes : List Byte) (s : State) : State :=
  let f := headerFailures p (parseHeader bytes) s
  if f.any then enterReception p (.discard bytes (.failed f)) s
  else s.onIo fun c => storeFrame p bytes c.active.bufferReserve

/-! ## A data byte (R8) -/

/-- A byte taken in HEADER. -/
def takeHeaderByte (p : PortNo) (b : Byte) (bytes : List Byte) (s : State) : State :=
  if bytes.length + 1 < Config.headerBytes then enterReception p (.header (bytes ++ [b])) s
  else completeHeader p (bytes ++ [b]) s

/-- A byte taken in STORE is written to the buffer; the 257th ends the frame. -/
def takeStoreByte (p : PortNo) (b : Byte) (h : Handle) (s : State) : State :=
  if (bytesOf h s.io).length < Config.maxFrameBytes then
    s.onIo fun _ => modBuffer h fun x => { x with bytes := x.bytes ++ [b] }
  else takeTooLong p s

/-- A byte taken in DISCARD is counted and not stored; the 257th ends the frame. -/
def takeDiscardByte (p : PortNo) (b : Byte) (bytes : List Byte) (why : DiscardReason) (s : State) : State :=
  if bytes.length < Config.maxFrameBytes then enterReception p (.discard (bytes ++ [b]) why) s
  else takeTooLong p s

/-- A data byte received at a port (R8). -/
def takeByte (p : PortNo) (b : Byte) (s : State) : State :=
  match receptionOf p s with
  | .hunt => s
  | .header bytes => takeHeaderByte p b bytes s
  | .store h => takeStoreByte p b h s
  | .discard bytes why => takeDiscardByte p b bytes why s

/-- The number of bytes taken since the start delimiter. -/
def byteCount (p : PortNo) (s : State) : Nat :=
  match receptionOf p s with
  | .hunt => 0
  | .header bytes => bytes.length
  | .store h => (bytesOf h s.io).length
  | .discard bytes _ => bytes.length

/-- The port is in HEADER with 19 bytes taken: the next byte is the 20th. -/
def headerNearlyComplete (p : PortNo) (s : State) : Bool :=
  match receptionOf p s with
  | .hunt => false
  | .header bytes => bytes.length == Config.headerBytes - 1
  | .store _ => false
  | .discard _ _ => false

/-- The port is in STORE or DISCARD with 256 bytes taken: the next byte is the 257th. -/
def frameFull (p : PortNo) (s : State) : Bool :=
  match receptionOf p s with
  | .hunt => false
  | .header _ => false
  | .store _ => Config.maxFrameBytes ≤ byteCount p s
  | .discard _ _ => Config.maxFrameBytes ≤ byteCount p s

/-- The byte that completes a header, taken where it is the 20th. -/
def takeTwentieth (p : PortNo) (b : Byte) (s : State) : State :=
  if headerNearlyComplete p s then takeByte p b s else s

/-- The byte that makes a frame too long, taken where it is the 257th. -/
def takeExcess (p : PortNo) (b : Byte) (s : State) : State := if frameFull p s then takeByte p b s else s

/-! ## The end delimiter (R9) -/

/-- The first failing cause of a frame that failed a header check, among causes 3 to 7 of R9. -/
def failedCause (bytes : List Byte) (f : HeaderFailures) : PortCounter :=
  if !frameLengthOk bytes then .lengthErrors
  else if !crcGood bytes then .crcErrors
  else if f.header then .headerErrors
  else if f.hop then .hopExpired
  else .notRunning

/-- A good frame is counted and handed on with the reference its port holds (R9, R11, R12). -/
def handOn (p : PortNo) (h : Handle) (s : State) : State :=
  s.onIo fun _ io =>
    modPort p (fun x => { x with handed := x.handed ++ [{ handle := h, toAgent := s.isUnconfigured }] })
      (countPort p .framesGood io)

/-- A stored frame that has ended: good, or counted by its first failing cause and released (R9). -/
def judgeStored (p : PortNo) (h : Handle) (s : State) : State :=
  if !frameLengthOk (bytesOf h s.io) then cutReception p .lengthErrors s
  else if !crcGood (bytesOf h s.io) then cutReception p .crcErrors s
  else handOn p h s

/-- The frame in progress is judged at its end delimiter (R8, R9). -/
def judge (p : PortNo) (s : State) : State :=
  match receptionOf p s with
  | .hunt => s
  | .header _ => countPortOf p .lengthErrors s
  | .store h => judgeStored p h s
  | .discard bytes (.failed f) => countPortOf p (failedCause bytes f) s
  | .discard _ .refused => s

/-- An end delimiter received at a port: the frame is judged, and the port is in HUNT (R8). -/
def takeEnd (p : PortNo) (s : State) : State := enterReception p .hunt (judge p s)

/-! ## Frames handed on (R11, R12, R22) -/

/-- The oldest frame handed on at a port and not yet taken by its owner. -/
def headHanded (p : PortNo) (s : State) : Option Handed := s.io.ports[p.val].handed.head?

/-- The header of a handed frame. -/
def handedHeader (x : Handed) (s : State) : Header := parseHeader (bytesOf x.handle s.io)

/-- The payload of a handed frame. -/
def handedPayload (x : Handed) (s : State) : List Byte := payloadOf (bytesOf x.handle s.io)

/-- The owner takes the oldest handed frame of a port when it is one the command handles: handling on
arrival runs to its end, and the holding reference is dropped (R22). -/
def takeHanded (p : PortNo) (isMine : Handed → Header → State → Bool)
    (run : Handle → Header → List Byte → State → State) (s : State) : State :=
  match headHanded p s with
  | none => s
  | some x =>
    let hdr := handedHeader x s
    if isMine x hdr s then
      let s' := s.onIo fun _ => modPort p fun y => { y with handed := y.handed.tail }
      (run x.handle hdr (handedPayload x s) s').onIo fun c => dropReference c x.handle
    else s

/-- A frame of a kind from a channel port (R11). -/
def ofKind (k : Kind) (_ : Handed) (hdr : Header) (_ : State) : Bool := hdr.isKind k

/-- A frame from a channel port: the unit notice is taken first, and then the owner acts (R11, R53). -/
def takeFromChannel (n : ChannelNo) (k : Kind) (run : Handle → Header → List Byte → State → State) (s : State) :
    State :=
  takeHanded (chanPort n) (ofKind k)
    (fun h hdr payload s => run h hdr payload (unitNotice n hdr.unit.toNat k hdr.emergency s)) s

/-- A single-destination frame of a kind whose destination is the own site (R12). -/
def ownKind (k : Kind) (x : Handed) (hdr : Header) (s : State) : Bool :=
  !x.toAgent && hdr.isKind k && hdr.destination.toNat == s.own

/-- A single-destination frame for the own site goes to its local consumer (R12). -/
def takeForOwn (l : LinkNo) (k : Kind) (run : Handle → Header → List Byte → State → State) (s : State) : State :=
  takeHanded (linkPort l) (ownKind k) run s

/-- A membership notice of a type for the own site (R12, R119, R120). -/
def ownNotice (subcode : Byte) (x : Handed) (hdr : Header) (s : State) : Bool :=
  ownKind .membershipNotice x hdr s && hdr.subcode == subcode

/-- A PROBE or PROBE REPLY goes to the Link Supervisor (R12). -/
def takeLinkLocal (l : LinkNo) (k : Kind) (run : Header → State → State) (s : State) : State :=
  takeHanded (linkPort l) (ofKind k) (fun _ hdr _ => run hdr) s

/-- The addressing of a handed frame's kind. -/
def addressedAs (a : KindAddressing) (hdr : Header) : Bool := hdr.kindOf.any fun k => k.addressing == a

/-- A target-set frame from a link (R12). -/
def isTargetSet (_ : Handed) (hdr : Header) (_ : State) : Bool := addressedAs .targetSet hdr

/-- A single-destination frame for another site (R12, R33). A MGMT REQUEST with destination 0 that was let in while the
part was UNCONFIGURED and is judged after it entered RUNNING counts as one: R12 and R33 name no handling for it (the
model's choice, log entry 41). -/
def isForAnother (x : Handed) (hdr : Header) (s : State) : Bool :=
  !x.toAgent && addressedAs .single hdr && hdr.destination.toNat != s.own

/-- A MGMT REQUEST for the Management Agent: addressed to the own site, or with any destination when the
part was UNCONFIGURED at its classification (R12). -/
def isForAgent (x : Handed) (hdr : Header) (s : State) : Bool :=
  hdr.isKind .mgmtRequest && (x.toAgent || hdr.destination.toNat == s.own)

/-- A HO message goes to the Handover Controller, unless its origin is the own site (R12, R90). -/
def takeHandover (l : LinkNo) (k : Kind) (f : HoMessage → State → State) (s : State) : State :=
  takeForOwn l k (fun _ hdr _ => unlessOwn (hoMessageOf hdr) (f (hoMessageOf hdr))) s

/-- Step 1 of R38 and then steps 2 to 5: the local copy, and the rest of the target set. -/
def fanOut (l : LinkNo) (h : Handle) (hdr : Header) (s : State) : State :=
  let s := if hasSite hdr.targets s.own then localCopy h hdr s else s
  s.onIo fun c => forwardTargets c l h hdr

/-! ## Transmission (R13, R14) -/

/-- A completion request is answered SENT: a ROAM ORDER's sets order sent, the RESTART reply's lets the
restart take place (R14, R25, R95). -/
def answerSent (done : Option Completion) (s : State) : State :=
  match done with
  | some (.roamOrder u id) => { s with units := s.units.map (orderCompleted u id) }
  | some .restartReply => s.onIo fun _ => answerRestart
  | none => s

/-- The completion request attached to a buffer. -/
def completionOf (h : Handle) (io : Io) : Option Completion := (bufferOf h io).bind Buffer.completion

/-- Steps 1 to 4 of R14 for the transmission in progress at a port. -/
def completeTransmission (p : PortNo) (t : Transmission) (s : State) : State :=
  let h := t.entry.handle
  let s := countPortOf p .transmitted s
  let s := answerSent (completionOf h s.io) s
  let s := s.onIo fun _ => modBuffer h fun b => { b with completion := none }
  let s := s.onIo fun c => dropReference c h
  s.onIo fun _ io =>
    startTransmission p (modPort p (fun x => { x with sending := none, lastEnd := some .endDelimiter }) io)

/-- A transmission's end delimiter has been sent (R14). -/
def transmissionEnds (p : PortNo) (s : State) : State :=
  match s.io.ports[p.val].sending with
  | none => s
  | some t => completeTransmission p t s

end Sys2Proof.Machine
end

