-- ==== Sys2Proof/Machine/System.lean ====
section
/-! DEFINITION. The two resets (spec/00_scope.md, section 5.8) and the part's time base. -/

namespace Sys2Proof.Machine

/-! ## The full reset (R15) -/

/-- The reset line is asserted: every piece of state takes its initial value, and the part is held there
(R15, R28, R47, R70, R87, R111, R124, R142, R152, R165). The waiting commands are the model's own. -/
def assertReset (s : State) : State := { State.reset with resetHeld := true, pending := s.pending }

/-- The reset line is released: every port is in HUNT with its transmitter IDLE and takes line symbols
(R15). -/
def releaseReset (s : State) : State := if s.resetHeld then { State.reset with pending := s.pending } else s

/-! ## The restart (R163) -/

/-- A port at a restart: HUNT and IDLE with an empty queue; a transmission in progress is ended with an
abort sequence (R14, R15, R47). -/
def restartPort (p : Port) : Port :=
  { Port.initial with lastEnd := if p.sending.isSome then some .abortSequence else p.lastEnd }

/-- The pool, the ports and the Forwarding Engine at a restart: the handling of every frame is abandoned, and the live
counters are kept (R28, R47, R165). -/
def restartIo (io : Io) : Io where
  pool := Pool.initial
  ports := io.ports.map restartPort
  live := io.live
  restart := .none
  engine := { io.engine with work := [] }

/-- A Site Table entry at a restart: its loaded fields kept, its dynamic part reset (R29, R124). -/
def restartSite (e : SiteEntry) : SiteEntry :=
  { e with lastSequence := none, ageTimer := none, announcedPeriod := none }

/-- A Talkgroup Table entry at a restart: its loaded fields kept, count 0, set empty (R124). -/
def restartTalkgroup (g : TalkgroupEntry) : TalkgroupEntry := { g with members := 0, remote := 0 }

/-- Every block but the Link Supervisors returns to its state after a restart (R28, R47, R70, R87, R111,
R124, R142, R165). -/
def restartBlocks (s : State) : State :=
  { s with
    requests := []
    progress := Progress.start
    restartCount := saturate (s.restartCount + 1)
    io := restartIo s.io
    sites := s.sites.map restartSite
    talkgroups := s.talkgroups.map restartTalkgroup
    units := []
    handoverCounter := 1
    ownSequence := 0#8
    refreshTimer := none
    channels := Vector.replicate 6 Channel.initial
    callCounter := 0#8 }

/-- The restart takes place: every block returns to its state after a restart, the links are seeded, and a
RUNNING part enters RUNNING anew (R152, R163). -/
def takeRestart (s : State) : State :=
  match s.partState with
  | .running => enterRunning (restartBlocks s)
  | .unconfigured => seedAll (restartBlocks s)

/-- A restart that is due takes place (R163). -/
def restartIfDue (s : State) : State :=
  match s.io.restart with
  | .due => takeRestart s
  | .none => s
  | .awaitingReply => s

/-! ## Time -/

/-- One millisecond passes: the time base counts while the reset line is released (R48). -/
def passTime (s : State) : State := if s.resetHeld then s else { s with timeBase := s.timeBase + 1 }

/-- With no command waiting the Forwarding Engine makes the next placement that it has left, and with none left a
millisecond passes (log entries 5 and 36). -/
def rest (s : State) : State :=
  match s.io.engine.work with
  | [] => passTime s
  | _ :: _ => s.onIo engineTurn

end Sys2Proof.Machine
end

