-- ==== Sys2Proof/Machine/ChannelCommands.lean ====
section
/-! DEFINITION. The commands for frames from a channel port: each takes the oldest handed frame of that
port when it is of its kind (R11). -/

namespace Sys2Proof.Machine

/-- REGISTER from a channel port (R54 to R56, R96, R102, R105). -/
def execRegister (n : ChannelNo) (s : State) : Host.Outcome State Fault Refusal :=
  .next (takeFromChannel n .register (fun _ hdr payload => registerByState n (registrationOf hdr payload)) s)

/-- MEASURE from a channel port (R73). -/
def execMeasure (n : ChannelNo) (s : State) : Host.Outcome State Fault Refusal :=
  .next (takeFromChannel n .measure (fun _ hdr payload => measureByState hdr.unit.toNat payload) s)

/-- POLL REPLY from a channel port (R61). -/
def execPollReply (n : ChannelNo) (s : State) : Host.Outcome State Fault Refusal :=
  .next (takeFromChannel n .pollReply (fun _ hdr _ => pollReplyByState hdr.unit.toNat) s)

/-- A local CALL START (R129). -/
def execCallStart (n : ChannelNo) (s : State) : Host.Outcome State Fault Refusal :=
  .next (takeFromChannel n .callStart (fun h hdr _ => takeLocalStart n h hdr) s)

/-- A local VOICE (R135). -/
def execVoice (n : ChannelNo) (s : State) : Host.Outcome State Fault Refusal :=
  .next (takeFromChannel n .voice (fun h hdr _ => takeLocalVoice n h hdr) s)

/-- A local CALL END (R136). -/
def execCallEnd (n : ChannelNo) (s : State) : Host.Outcome State Fault Refusal :=
  .next (takeFromChannel n .callEnd (fun h hdr _ => takeLocalEnd n h hdr) s)

end Sys2Proof.Machine
end

