-- ==== Sys2Proof/Machine/LinkCommands.lean ====
section
/-! DEFINITION. The commands for frames from a link port: each takes the oldest handed frame of that port
when it is one it handles (R12). -/

namespace Sys2Proof.Machine

/-- FORWARD_TARGET_SET: a call frame from a link is delivered and fanned out (R38). -/
def execForwardTargetSet (l : LinkNo) (s : State) : Host.Outcome State Fault Refusal :=
  .next (takeHanded (linkPort l) isTargetSet (fun h hdr _ => fanOut l h hdr) s)

/-- FORWARD_SINGLE_DESTINATION: a frame for another site is forwarded (R33, R34). -/
def execForwardSingleDestination (l : LinkNo) (s : State) : Host.Outcome State Fault Refusal :=
  .next
    (takeHanded (linkPort l) isForAnother
      (fun h hdr _ s => s.onIo fun c => forwardSingle c l h hdr hdr.destination.toNat) s)

/-- UNIT MESSAGE for the own site (R67). -/
def execUnitMessage (l : LinkNo) (s : State) : Host.Outcome State Fault Refusal :=
  .next (takeForOwn l .unitMessage (fun h hdr _ => takeUnitMessage l h hdr) s)

/-- HO REQUEST (R103, R104). -/
def execHoRequest (l : LinkNo) (s : State) : Host.Outcome State Fault Refusal :=
  .next (takeHandover l .hoRequest takeRequest s)

/-- HO ACCEPT (R92). -/
def execHoAccept (l : LinkNo) (s : State) : Host.Outcome State Fault Refusal :=
  .next (takeHandover l .hoAccept takeAccept s)

/-- HO REFUSE (R93). -/
def execHoRefuse (l : LinkNo) (s : State) : Host.Outcome State Fault Refusal :=
  .next (takeHandover l .hoRefuse takeRefuse s)

/-- HO COMPLETE (R99). -/
def execHoComplete (l : LinkNo) (s : State) : Host.Outcome State Fault Refusal :=
  .next (takeHandover l .hoComplete takeComplete s)

/-- HO CANCEL (R100). -/
def execHoCancel (l : LinkNo) (s : State) : Host.Outcome State Fault Refusal :=
  .next (takeHandover l .hoCancel takeCancel s)

/-- HO CLAIM (R108). -/
def execHoClaim (l : LinkNo) (s : State) : Host.Outcome State Fault Refusal :=
  .next (takeHandover l .hoClaim takeClaim s)

/-- A FULL membership notice (R119). -/
def execFullNotice (l : LinkNo) (s : State) : Host.Outcome State Fault Refusal :=
  .next (takeHanded (linkPort l) (ownNotice 3#8) (fun _ hdr payload => takeFull hdr payload) s)

/-- A JOIN membership notice (R120). -/
def execJoinNotice (l : LinkNo) (s : State) : Host.Outcome State Fault Refusal :=
  .next (takeHanded (linkPort l) (ownNotice 1#8) (fun _ hdr _ => takeChange addSite hdr) s)

/-- A LEAVE membership notice (R120). -/
def execLeaveNotice (l : LinkNo) (s : State) : Host.Outcome State Fault Refusal :=
  .next (takeHanded (linkPort l) (ownNotice 2#8) (fun _ hdr _ => takeChange dropSite hdr) s)

/-- PROBE (R146, R147). -/
def execProbe (l : LinkNo) (s : State) : Host.Outcome State Fault Refusal :=
  .next (takeLinkLocal l .probe (takeProbe l) s)

/-- PROBE REPLY (R148). -/
def execProbeReply (l : LinkNo) (s : State) : Host.Outcome State Fault Refusal :=
  .next (takeLinkLocal l .probeReply (takeProbeReply l) s)

/-- MGMT REQUEST (R154). -/
def execMgmtRequest (l : LinkNo) (s : State) : Host.Outcome State Fault Refusal :=
  .next
    (takeHanded (linkPort l) isForAgent (fun _ hdr payload => takeMgmtRequest (requestOf l hdr payload)) s)

end Sys2Proof.Machine
end

