-- ==== Sys2Proof/Machine/PortCommands.lean ====
section
/-! DEFINITION. The commands of the ports: line symbols received (R8 to R10), a transmission's end (R14),
and the reset line (R15). -/

namespace Sys2Proof.Machine

/-- FULL_RESET: the reset line is asserted (R15). -/
def execFullReset (s : State) : Host.Outcome State Fault Refusal := .next (assertReset s)

/-- FULL_RESET_END: the reset line is released (R15). -/
def execFullResetEnd (s : State) : Host.Outcome State Fault Refusal := .next (releaseReset s)

/-- START_DELIMITER: a start delimiter is received at a port (R8). -/
def execStartDelimiter (p : PortNo) (s : State) : Host.Outcome State Fault Refusal :=
  .next (whileTaking (takeStart p) s)

/-- ABORT_SEQUENCE: an abort sequence is received at a port (R8). -/
def execAbortSequence (p : PortNo) (s : State) : Host.Outcome State Fault Refusal :=
  .next (whileTaking (takeAbort p) s)

/-- DATA_BYTE: a data byte is received at a port (R8). -/
def execDataByte (p : PortNo) (b : Byte) (s : State) : Host.Outcome State Fault Refusal :=
  .next (whileTaking (takeByte p b) s)

/-- FRAME_HEADER_COMPLETE: the byte received at a port is the 20th of its frame (R10). -/
def execFrameHeaderComplete (p : PortNo) (b : Byte) (s : State) : Host.Outcome State Fault Refusal :=
  .next (whileTaking (takeTwentieth p b) s)

/-- FRAME_TOO_LONG: the byte received at a port is the 257th of its frame (R8). -/
def execFrameTooLong (p : PortNo) (b : Byte) (s : State) : Host.Outcome State Fault Refusal :=
  .next (whileTaking (takeExcess p b) s)

/-- JUDGE_FRAME: an end delimiter is received at a port (R8, R9). -/
def execJudgeFrame (p : PortNo) (s : State) : Host.Outcome State Fault Refusal :=
  .next (whileTaking (takeEnd p) s)

/-- TRANSMISSION_COMPLETE: a port's end delimiter has been sent (R14). -/
def execTransmissionComplete (p : PortNo) (s : State) : Host.Outcome State Fault Refusal :=
  .next (transmissionEnds p s)

/-- RESTART_TAKES_PLACE: a restart that is due takes place (R163). -/
def execRestartTakesPlace (s : State) : Host.Outcome State Fault Refusal := .next (restartIfDue s)

end Sys2Proof.Machine
end

