-- ==== Sys2Proof/Machine/RequestCommands.lean ====
section
/-! DEFINITION. The commands that carry out the head of the request queue, one for each request code
(R154, R155). A command acts when the head of the queue carries its code and no restart is pending. -/

namespace Sys2Proof.Machine

/-- UNKNOWN_REQUEST_CODE: a queued request with an unknown request code is answered REFUSED (R155). -/
def execUnknownRequestCode (s : State) : Host.Outcome State Fault Refusal :=
  .next (serveHead (fun c => !knownCode c) (answer fun _ s => (Reply.refused, s)) s)

/-- IDENTIFY (R155). -/
def execIdentify (s : State) : Host.Outcome State Fault Refusal :=
  .next (serveHead (fun c => c == 1) (answer (sized 0 fun _ s => (Reply.done (identifyData s), s))) s)

/-- LOAD SITES: the next entry of the Site Table load is taken (R29, R31, R117, R155, R156). -/
def execLoadSites (s : State) : Host.Outcome State Fault Refusal :=
  .next (serveListed (fun c => c == 2) 5 (load 5 checkSite takeSite) s)

/-- LOAD TALKGROUPS: the next entry of the Talkgroup Table load is taken (R112, R155, R156). -/
def execLoadTalkgroups (s : State) : Host.Outcome State Fault Refusal :=
  .next (serveListed (fun c => c == 3) 8 (load 8 checkTalkgroup takeTalkgroup) s)

/-- LOAD NEIGHBORS: the next entry of the Neighbor Table load is taken (R71, R72, R155, R156). -/
def execLoadNeighbors (s : State) : Host.Outcome State Fault Refusal :=
  .next (serveListed (fun c => c == 4) 4 (load 4 checkNeighbor takeNeighbor) s)

/-- WRITE PARAMETERS: the next value of the list is written into the staged set (R155, R158). -/
def execWriteParameters (s : State) : Host.Outcome State Fault Refusal :=
  .next (serveListed (fun c => c == 5) 3 writeParams s)

/-- APPLY PARAMETERS: the staged set becomes the active set (R159). -/
def execApplyParameters (s : State) : Host.Outcome State Fault Refusal :=
  .next (serveHead (fun c => c == 6) (answer (sized 0 fun _ s => applyParams s)) s)

/-- READ PARAMETERS: a whole parameter set is returned (R158). -/
def execReadParameters (s : State) : Host.Outcome State Fault Refusal :=
  .next (serveHead (fun c => c == 7) (answer (sized 1 fun q s => (readParams q s, s))) s)

/-- READ UNITS: up to eight records are returned (R160). -/
def execReadUnits (s : State) : Host.Outcome State Fault Refusal :=
  .next (serveHead (fun c => c == 8) (answer (sized 2 fun q s => (readUnitsReply q s, s))) s)

/-- READ UNIT: the record of one unit is returned (R160). -/
def execReadUnit (s : State) : Host.Outcome State Fault Refusal :=
  .next (serveHead (fun c => c == 9) (answer (sized 3 fun q s => (readUnitReply q s, s))) s)

/-- READ LINKS: the links are returned (R155). -/
def execReadLinks (s : State) : Host.Outcome State Fault Refusal :=
  .next (serveHead (fun c => c == 10) (answer (sized 0 fun _ s => (readLinksReply s, s))) s)

/-- READ CHANNELS: a channel's record and wait list are returned (R155). -/
def execReadChannels (s : State) : Host.Outcome State Fault Refusal :=
  .next (serveHead (fun c => c == 11) (answer (sized 1 fun q s => (readChannelsReply q s, s))) s)

/-- READ TALKGROUPS: Talkgroup Table entries are returned (R155). -/
def execReadTalkgroups (s : State) : Host.Outcome State Fault Refusal :=
  .next (serveHead (fun c => c == 12) (answer (sized 1 fun q s => (readTalkgroupsReply q s, s))) s)

/-- COLLECT COUNTERS: the live counters enter the snapshot (R162). -/
def execCollectCounters (s : State) : Host.Outcome State Fault Refusal :=
  .next (serveHead (fun c => c == 13) (answer (sized 0 fun _ s => (Reply.done [], collect s))) s)

/-- READ COUNTERS: the snapshot is returned (R162). -/
def execReadCounters (s : State) : Host.Outcome State Fault Refusal :=
  .next (serveHead (fun c => c == 14) (answer (sized 1 readCountersRequest)) s)

/-- CLEAR UNIT: a unit's record is deleted (R109, R160). -/
def execClearUnit (s : State) : Host.Outcome State Fault Refusal :=
  .next (serveHead (fun c => c == 15) (answer (sized 3 clearUnitRequest)) s)

/-- CLEAR EMERGENCY: a record's emergency flag is cleared (R65, R160). -/
def execClearEmergency (s : State) : Host.Outcome State Fault Refusal :=
  .next (serveHead (fun c => c == 16) (answer (sized 3 clearEmergencyRequest)) s)

/-- RESTART: a restart is pending from its reply on (R163). -/
def execRestart (s : State) : Host.Outcome State Fault Refusal :=
  .next (serveHead (fun c => c == 17) restartRequest s)

end Sys2Proof.Machine
end

