-- ==== Sys2Proof/Machine/TimerCommands.lean ====
section
/-! DEFINITION. The commands by which a timer expires. A command acts when its timer is running and its
duration has elapsed (spec/00_scope.md, section 5.6). -/

namespace Sys2Proof.Machine

/-- ACTIVITY_TIMER_EXPIRY: the activity timer of a unit's record (R58, R59). -/
def execActivityTimerExpiry (u : UnitId) (s : State) : Host.Outcome State Fault Refusal :=
  .next (activityExpiry u s)

/-- POLL_TIMER_EXPIRY: the poll timer of a unit's record (R60). -/
def execPollTimerExpiry (u : UnitId) (s : State) : Host.Outcome State Fault Refusal :=
  .next (pollExpiry u s)

/-- POLL_REPLY_WAIT_EXPIRY: the reply-wait timer of an outstanding poll (R62, R63). -/
def execPollReplyWaitExpiry (u : UnitId) (s : State) : Host.Outcome State Fault Refusal :=
  .next (pollWaitExpiry u s)

/-- LOST_HOLD_EXPIRY: the lost hold of a LOST record (R64). -/
def execLostHoldExpiry (u : UnitId) (s : State) : Host.Outcome State Fault Refusal :=
  .next (lostExpiry u s)

/-- ROAM_HOLD_EXPIRY: the roam hold timer of a record (R84). -/
def execRoamHoldExpiry (u : UnitId) (s : State) : Host.Outcome State Fault Refusal :=
  .next (roamHoldEnds u s)

/-- REPLY_WAIT_EXPIRY: the handover reply wait of a PROPOSING record (R94). -/
def execReplyWaitExpiry (u : UnitId) (s : State) : Host.Outcome State Fault Refusal :=
  .next (replyWaitEnds u s)

/-- DEPARTURE_EXPIRY: the departure timer of a DEPARTING record (R98). -/
def execDepartureExpiry (u : UnitId) (s : State) : Host.Outcome State Fault Refusal :=
  .next (departureEnds u s)

/-- ARRIVAL_EXPIRY: the arrival timer of an ARRIVING record (R106). -/
def execArrivalExpiry (u : UnitId) (s : State) : Host.Outcome State Fault Refusal :=
  .next (arrivalEnds u s)

/-- FORWARD_HOLD_EXPIRY: the forward hold of a FORWARD record (R101). -/
def execForwardHoldExpiry (u : UnitId) (s : State) : Host.Outcome State Fault Refusal :=
  .next (forwardHoldEnds u s)

/-- REFRESH_TIMER_EXPIRY: the refresh timer (R115). -/
def execRefreshTimerExpiry (s : State) : Host.Outcome State Fault Refusal :=
  .next (expireRefresh s)

/-- AGE_TIMER_EXPIRY: the age timer of a site (R121). -/
def execAgeTimerExpiry (n : SiteId) (s : State) : Host.Outcome State Fault Refusal :=
  .next (expireAge n s)

/-- WAIT_TIMER_EXPIRY: the wait timer of a channel's wait entry (R140). -/
def execWaitTimerExpiry (n : ChannelNo) (id : CallId) (s : State) : Host.Outcome State Fault Refusal :=
  .next (waitTimerEnds n id s)

/-- VOICE_GAP_EXPIRY: the voice-gap timer of a channel's current call (R138). -/
def execVoiceGapExpiry (n : ChannelNo) (s : State) : Host.Outcome State Fault Refusal :=
  .next (voiceGapEnds n s)

/-- TALK_TIMER_EXPIRY: the talk timer of a channel's current call (R139). -/
def execTalkTimerExpiry (n : ChannelNo) (s : State) : Host.Outcome State Fault Refusal :=
  .next (talkTimerEnds n s)

/-- HANG_TIMER_EXPIRY: the hang timer of a channel (R137). -/
def execHangTimerExpiry (n : ChannelNo) (s : State) : Host.Outcome State Fault Refusal :=
  .next (hangTimerEnds n s)

/-- PROBE_TIMER_EXPIRY: the probe timer of a link (R145). -/
def execProbeTimerExpiry (l : LinkNo) (s : State) : Host.Outcome State Fault Refusal :=
  .next (probeTimerEnds l s)

end Sys2Proof.Machine
end

