-- ==== Sys2Proof/Machine/Dispatch.lean ====
section
/-! DEFINITION. The dispatch of a command to its meaning, one arm per constructor. -/

namespace Sys2Proof.Machine

/-- The effect of a command on everything but the queue of waiting commands. -/
def exec (i : Instr) (s : State) : Host.Outcome State Fault Refusal :=
  match i with
  | .fullReset => Sys2Proof.Machine.execFullReset s
  | .startDelimiter p => Sys2Proof.Machine.execStartDelimiter p s
  | .abortSequence p => Sys2Proof.Machine.execAbortSequence p s
  | .frameHeaderComplete p b => Sys2Proof.Machine.execFrameHeaderComplete p b s
  | .frameTooLong p b => Sys2Proof.Machine.execFrameTooLong p b s
  | .judgeFrame p => Sys2Proof.Machine.execJudgeFrame p s
  | .register n => Sys2Proof.Machine.execRegister n s
  | .measure n => Sys2Proof.Machine.execMeasure n s
  | .pollReply n => Sys2Proof.Machine.execPollReply n s
  | .callStart n => Sys2Proof.Machine.execCallStart n s
  | .voice n => Sys2Proof.Machine.execVoice n s
  | .callEnd n => Sys2Proof.Machine.execCallEnd n s
  | .forwardTargetSet l => Sys2Proof.Machine.execForwardTargetSet l s
  | .forwardSingleDestination l => Sys2Proof.Machine.execForwardSingleDestination l s
  | .unitMessage l => Sys2Proof.Machine.execUnitMessage l s
  | .hoRequest l => Sys2Proof.Machine.execHoRequest l s
  | .hoAccept l => Sys2Proof.Machine.execHoAccept l s
  | .hoRefuse l => Sys2Proof.Machine.execHoRefuse l s
  | .hoComplete l => Sys2Proof.Machine.execHoComplete l s
  | .hoCancel l => Sys2Proof.Machine.execHoCancel l s
  | .hoClaim l => Sys2Proof.Machine.execHoClaim l s
  | .fullNotice l => Sys2Proof.Machine.execFullNotice l s
  | .joinNotice l => Sys2Proof.Machine.execJoinNotice l s
  | .leaveNotice l => Sys2Proof.Machine.execLeaveNotice l s
  | .probe l => Sys2Proof.Machine.execProbe l s
  | .probeReply l => Sys2Proof.Machine.execProbeReply l s
  | .mgmtRequest l => Sys2Proof.Machine.execMgmtRequest l s
  | .unknownRequestCode => Sys2Proof.Machine.execUnknownRequestCode s
  | .identify => Sys2Proof.Machine.execIdentify s
  | .loadSites => Sys2Proof.Machine.execLoadSites s
  | .loadTalkgroups => Sys2Proof.Machine.execLoadTalkgroups s
  | .loadNeighbors => Sys2Proof.Machine.execLoadNeighbors s
  | .writeParameters => Sys2Proof.Machine.execWriteParameters s
  | .applyParameters => Sys2Proof.Machine.execApplyParameters s
  | .readParameters => Sys2Proof.Machine.execReadParameters s
  | .readUnits => Sys2Proof.Machine.execReadUnits s
  | .readUnit => Sys2Proof.Machine.execReadUnit s
  | .readLinks => Sys2Proof.Machine.execReadLinks s
  | .readChannels => Sys2Proof.Machine.execReadChannels s
  | .readTalkgroups => Sys2Proof.Machine.execReadTalkgroups s
  | .collectCounters => Sys2Proof.Machine.execCollectCounters s
  | .readCounters => Sys2Proof.Machine.execReadCounters s
  | .clearUnit => Sys2Proof.Machine.execClearUnit s
  | .clearEmergency => Sys2Proof.Machine.execClearEmergency s
  | .restart => Sys2Proof.Machine.execRestart s
  | .restartTakesPlace => Sys2Proof.Machine.execRestartTakesPlace s
  | .transmissionComplete p => Sys2Proof.Machine.execTransmissionComplete p s
  | .activityTimerExpiry u => Sys2Proof.Machine.execActivityTimerExpiry u s
  | .pollTimerExpiry u => Sys2Proof.Machine.execPollTimerExpiry u s
  | .pollReplyWaitExpiry u => Sys2Proof.Machine.execPollReplyWaitExpiry u s
  | .lostHoldExpiry u => Sys2Proof.Machine.execLostHoldExpiry u s
  | .roamHoldExpiry u => Sys2Proof.Machine.execRoamHoldExpiry u s
  | .replyWaitExpiry u => Sys2Proof.Machine.execReplyWaitExpiry u s
  | .departureExpiry u => Sys2Proof.Machine.execDepartureExpiry u s
  | .arrivalExpiry u => Sys2Proof.Machine.execArrivalExpiry u s
  | .forwardHoldExpiry u => Sys2Proof.Machine.execForwardHoldExpiry u s
  | .refreshTimerExpiry => Sys2Proof.Machine.execRefreshTimerExpiry s
  | .ageTimerExpiry site => Sys2Proof.Machine.execAgeTimerExpiry site s
  | .waitTimerExpiry n call => Sys2Proof.Machine.execWaitTimerExpiry n call s
  | .voiceGapExpiry n => Sys2Proof.Machine.execVoiceGapExpiry n s
  | .talkTimerExpiry n => Sys2Proof.Machine.execTalkTimerExpiry n s
  | .hangTimerExpiry n => Sys2Proof.Machine.execHangTimerExpiry n s
  | .probeTimerExpiry l => Sys2Proof.Machine.execProbeTimerExpiry l s
  | .dataByte p b => Sys2Proof.Machine.execDataByte p b s
  | .fullResetEnd => Sys2Proof.Machine.execFullResetEnd s

end Sys2Proof.Machine
end

