-- ==== Sys2Proof/Machine/Step.lean ====
section
/-! DEFINITION. One step of the part: the command at the front of the queue, or, when none waits, a placement that the
Forwarding Engine has left or a millisecond of time. -/

namespace Sys2Proof.Machine

/-- The command at the front of the queue is taken and executed with the rest of the queue; on an empty
queue the Forwarding Engine goes on with a frame it has left, or a millisecond passes (log entries 5 and 36). -/
def step (s : State) : Host.Outcome State Fault Refusal :=
  match s.pending with
  | [] => .next (rest s)
  | c :: waiting => exec c { s with pending := waiting }

/-- The state with the command that a word spells put at the front of its queue; unchanged where the word
spells none. -/
def State.withFetchWord (s : State) (nbits w : Nat) : State :=
  match decodeTableWord nbits w with
  | some c => { s with pending := c :: s.pending }
  | none => s

end Sys2Proof.Machine
end

