-- ==== Sys2Proof/Safety.lean ====
section
/-! DEFINITION. The terms claims use: what a change leaves as it was, what can be observed of a state, and
the laws that every step keeps. Each law's docstring cites the rule it formalises. -/

namespace Sys2Proof.Machine

/-! ## What a change leaves as it was -/

/-- Everything but frames, buffers, queues and counters is as it was. -/
def State.sameButIo (s t : State) : Prop := t = { s with io := t.io }

/-- Everything but the unit records, what their member reports move, and frames is as it was. -/
def State.sameButUnits (s t : State) : Prop :=
  t = { s with
    io := t.io
    units := t.units
    talkgroups := t.talkgroups
    ownSequence := t.ownSequence
    handoverCounter := t.handoverCounter }

/-- Everything but the channels, the call counter, the flags of the unit records, and frames is as it
was. -/
def State.sameButCalls (s t : State) : Prop :=
  t = { s with io := t.io, units := t.units, channels := t.channels, callCounter := t.callCounter }

/-- Everything but the links, the notice sequence of a FULL round, and frames is as it was. -/
def State.sameButLinks (s t : State) : Prop :=
  t = { s with io := t.io, links := t.links, ownSequence := t.ownSequence }

/-- Everything but the Site Table, the Talkgroup Table, and frames is as it was. -/
def State.sameButMembership (s t : State) : Prop :=
  t = { s with io := t.io, sites := t.sites, talkgroups := t.talkgroups }

/-- Everything that traffic and timers do not move is as it was: the parameters, the part state,
the snapshot, the Neighbor Table, the time base and the waiting commands. -/
def State.sameManagement (s t : State) : Prop :=
  t.resetHeld = s.resetHeld ∧ t.timeBase = s.timeBase ∧ t.partState = s.partState ∧ t.staged = s.staged
    ∧ t.active = s.active ∧ t.restartCount = s.restartCount ∧ t.snapshot = s.snapshot
    ∧ t.mergeCount = s.mergeCount ∧ t.snapshotRead = s.snapshotRead ∧ t.neighbors = s.neighbors
    ∧ t.progress = s.progress
    ∧ t.pending = s.pending

/-- Every unit record but those of one unit is as it was. -/
def State.sameRecordsBut (u : UnitId) (s t : State) : Prop := ∀ v, v ≠ u → t.record v = s.record v

/-! ## Observations -/

/-- A live counter by its number (R161). -/
def State.counter (s : State) (i : Nat) : Nat := s.io.live.getD i 0

/-- A device counter. -/
def State.devCounter (s : State) (c : DevCounter) : Nat := s.counter c.number

/-- A port's counter. -/
def State.portCounter (s : State) (p : PortNo) (c : PortCounter) : Nat := s.counter (portCounterNumber p c)

/-- The output queue of a port. -/
def State.queueOf (s : State) (p : PortNo) : List Entry := s.io.ports[p.val].queue

/-- The frames handed on at a port and not yet taken. -/
def State.handedAt (s : State) (p : PortNo) : List Handed := s.io.ports[p.val].handed

/-- The oldest handed frame of a port is a frame of a kind with this header. -/
def State.holds (s : State) (p : PortNo) (x : Handed) (k : Kind) : Prop :=
  headHanded p s = some x ∧ (handedHeader x s).isKind k = true

/-- The oldest handed frame of a link port is one of a kind for the own site (R12). -/
def State.holdsForOwn (s : State) (l : LinkNo) (x : Handed) (k : Kind) : Prop :=
  s.holds (linkPort l) x k ∧ x.toAgent = false ∧ (handedHeader x s).destination.toNat = s.own

/-- The oldest handed frame of a link port is a HO message of a kind, from another site (R90). -/
def State.holdsHo (s : State) (l : LinkNo) (x : Handed) (k : Kind) : Prop :=
  s.holdsForOwn l x k ∧ (handedHeader x s).origin.toNat ≠ s.own

/-- The HO message of a handed frame. -/
def State.hoMessage (s : State) (x : Handed) : HoMessage := hoMessageOf (handedHeader x s)

/-- The head of the request queue carries a code, and no restart is pending (R154, R163). -/
def State.serves (s : State) (q : Request) (rest : List Request) (code : Byte) : Prop :=
  s.requests = q :: rest ∧ q.code = code ∧ s.io.restart = .none

/-- A device counter is one higher than it was. -/
def State.raised (c : DevCounter) (s t : State) : Prop := t.devCounter c = saturate (s.devCounter c + 1)

/-- A port's counter is one higher than it was. -/
def State.raisedAt (p : PortNo) (c : PortCounter) (s t : State) : Prop :=
  t.portCounter p c = saturate (s.portCounter p c + 1)

/-- Nothing stands in a queue or on a transmitter that did not before, and nothing has left. -/
def State.sameSending (s t : State) : Prop :=
  ∀ p, t.queueOf p = s.queueOf p ∧ t.io.ports[p.val].sending = s.io.ports[p.val].sending

/-- The frame in progress is counted when it ends: there is one, and the pool has not refused it (R9). -/
def Reception.isJudged : Reception → Bool
  | .hunt => false
  | .header _ => true
  | .store _ => true
  | .discard _ (.failed _) => true
  | .discard _ .refused => false

/-- No reception moved and no handed frame was taken. -/
def State.sameIntake (s t : State) : Prop :=
  ∀ q, t.handedAt q = s.handedAt q ∧ receptionOf q t = receptionOf q s

/-- The oldest handed frame of one port was taken, and no other; no reception moved. -/
def State.tookHanded (p : PortNo) (s t : State) : Prop :=
  (∀ q, t.handedAt q = if q = p then (s.handedAt q).tail else s.handedAt q)
    ∧ ∀ q, receptionOf q t = receptionOf q s

/-- The transmitter of a port is SENDING and its queue has room: an entry placed there waits (R45). -/
def State.waitsAt (s : State) (p : PortNo) : Prop :=
  s.io.ports[p.val].sending.isSome = true ∧ (s.queueOf p).length < Config.queueCapacity

/-- A HO message is set aside: its frame is taken, it is counted as stale, and nothing but frames moves (R90). -/
def State.setsAside (l : LinkNo) (s t : State) : Prop :=
  s.tookHanded (linkPort l) t ∧ s.sameButIo t ∧ s.raised .staleHandover t
    ∧ (s.io.pool.noticePending = false → s.sameSending t)

/-- A buffer with these bytes is queued or being sent at a port. -/
def State.carries (s : State) (p : PortNo) (h : Handle) (bytes : List Byte) : Prop :=
  bytesOf h s.io = bytes
    ∧ ((∃ e ∈ s.queueOf p, e.handle = h)
      ∨ ∃ x, s.io.ports[p.val].sending = some x ∧ x.entry.handle = h ∧ x.frame = wireFrame bytes x.entry)

/-- The port a reply to a request leaves by: the route to its origin, failing that the arrival link
(R37). -/
def State.replyPort (s : State) (q : Request) : PortNo := linkPort ((s.net.route q.origin).getD q.link)

/-- A reply can be built and queued: a buffer is free, its port's queue has room, and its origin is another
site. -/
def State.canReply (s : State) (q : Request) (h : Handle) : Prop :=
  (∃ rest, s.io.pool.free = h :: rest) ∧ (s.queueOf (s.replyPort q)).length < Config.queueCapacity
    ∧ q.origin ≠ s.own

/-! ## Frames that a command builds -/

/-- A frame built for a site: with a buffer to be had and room on its route link, it stands on that link's
queue with the hop limit, its header naming the own site as origin (R21, R32, R35). -/
def State.builtForSite (hdr : Header) (site : SiteId) (s t : State) : Prop :=
  ∀ k rest j, s.io.pool.free = k :: rest → bufferOf k s.io = none → s.io.pool.noticePending = false →
    (hdr.frameClass = .priority ∨ s.active.bufferReserve < s.io.pool.free.length) →
    s.net.route site = some j → s.waitsAt (linkPort j) →
      t.queueOf (linkPort j)
          = insertEntry
              { handle := k
                cls := hdr.frameClass
                hop := s.active.hopLimit
                addressing := .destination site }
              (s.queueOf (linkPort j))
        ∧ bytesOf k t.io
          = frameBytes { hdr with origin := BitVec.ofNat 8 s.own, destination := BitVec.ofNat 8 site } []

/-- A frame built for a channel port: with a buffer to be had and room there, it stands on the port's queue
(R21, R44). -/
def State.builtOnChannel (n : ChannelNo) (hdr : Header) (s t : State) : Prop :=
  ∀ k rest, s.io.pool.free = k :: rest → bufferOf k s.io = none → s.io.pool.noticePending = false →
    (hdr.frameClass = .priority ∨ s.active.bufferReserve < s.io.pool.free.length) → s.waitsAt (chanPort n) →
      t.queueOf (chanPort n)
          = insertEntry { handle := k, cls := hdr.frameClass, hop := 0, addressing := .unaddressed }
              (s.queueOf (chanPort n))
        ∧ bytesOf k t.io = frameBytes hdr []

/-- A notice of any kind but POLL REPLY makes the activity of a record ACTIVE: with a fresh timer, and out of QUIET or
DORMANT with no poll and no miss (R58). -/
def State.activeAgain (s : State) (a : Activity) : Activity :=
  let timer := some (s.timeBase.toNat + s.active.runDownshift * 1000)
  if a.cls = .active then { a with timer := timer }
  else { cls := .active, timer := timer, poll := none, outstanding := none, misses := 0 }

/-! ## Members and windows -/

/-- A member whose radio has not been sent away: SERVED, PROPOSING, or DEPARTING with order sent clear. -/
def Phase.atHome : Phase → Bool
  | .served _ _ _ => true
  | .proposing _ _ _ => true
  | .departing _ _ sent => !sent
  | .arriving _ => false
  | .forward _ => false
  | .lost _ _ => false

/-- The good column of R149: a link's fields after a window is judged good. -/
def Link.afterGood (p : Params) (x : Link) : Link :=
  match x.state with
  | .disabled => x
  | .down =>
    if p.restoreCount ≤ 1 then { x with state := .up, errors := 0, goods := 0 }
    else { x with state := .trial, goods := 1 }
  | .trial =>
    if p.restoreCount ≤ x.goods + 1 then { x with state := .up, errors := 0, goods := 0 }
    else { x with goods := x.goods + 1 }
  | .up => { x with errors := x.errors - 1 }

/-- The error column of R149: a link's fields after a window is judged an error. -/
def Link.afterError (p : Params) (x : Link) : Link :=
  match x.state with
  | .disabled => x
  | .down => x
  | .trial => { x with state := .down, goods := 0 }
  | .up =>
    if p.failThreshold ≤ x.errors + 1 then { x with state := .down, errors := x.errors + 1, goods := 0 }
    else { x with errors := x.errors + 1 }

/-! ## Received headers by kind code (R4, R5, R7, R10) -/

/-- The payload length lies in the range that R4 and R7 give the kind, by its code; a kind or a notice type that they
do not know has no range (R10). -/
def Header.lengthInRange (h : Header) : Prop :=
  let k := h.kind.toNat
  let n := h.payloadLength.toNat
  (k ∈ [2, 3, 5, 6, 16, 18, 19, 20, 21, 22, 33, 48, 49, 50, 51, 52, 53, 80, 81] → n = 0)
    ∧ (k = 1 ∨ k = 7 → n = 1)
    ∧ (k = 4 → 2 ≤ n ∧ n ≤ 10 ∧ n % 2 = 0)
    ∧ (k = 17 → n ≤ 234)
    ∧ (k = 32 → n ≤ 200)
    ∧ (k = 64 → (h.subcode = 1 ∨ h.subcode = 2 → n = 0) ∧ (h.subcode = 3 → 2 ≤ n ∧ n ≤ 130))
    ∧ (k = 96 → 1 ≤ n ∧ n ≤ 234)
    ∧ (k = 97 → 4 ≤ n ∧ n ≤ 234)
    ∧ (k = 98 → n ≤ 234)

/-- The Header check of R10 at a port, by kind code: the kinds of the sort of port (R4), the subcodes of R7, the unit
id, the channel, the handover id, and at a link port the sites. -/
def State.headerInOrder (p : PortNo) (h : Header) (s : State) : Prop :=
  let k := h.kind.toNat
  (p.val < 6 → k ∈ [1, 4, 6, 16, 17, 18])
    ∧ (6 ≤ p.val → k ∈ [16, 17, 18, 32, 33, 48, 49, 50, 51, 52, 53, 64, 80, 81, 96, 97, 98])
    ∧ (∀ last, (k, last) ∈ [(1, 4), (33, 4), (50, 4), (52, 7), (64, 3), (98, 3)] →
      1 ≤ h.subcode.toNat ∧ h.subcode.toNat ≤ last)
    ∧ (k ∉ [64, 80, 81, 96, 97] → (k = 98 → h.subcode = 2) → 1 ≤ h.unit.toNat ∧ h.unit.toNat ≤ 16777214)
    ∧ (k = 49 → h.channel.toNat ≤ 5)
    ∧ (48 ≤ k → k ≤ 52 → h.tag.toNat % 256 ≠ 0)
    ∧ (6 ≤ p.val →
      (1 ≤ h.origin.toNat ∧ h.origin.toNat ≤ 32)
        ∧ (k ∈ [32, 33, 48, 49, 50, 51, 52, 53, 64, 96, 97, 98] →
          (1 ≤ h.destination.toNat ∧ h.destination.toNat ≤ 32)
            ∨ (k = 96 ∧ s.partState = .unconfigured ∧ h.destination = 0))
        ∧ (k ∈ [33, 97, 98] → h.destination.toNat ≠ s.own)
        ∧ (k ∈ [16, 17, 18] → h.targets ≠ 0))

/-- The kind codes of class priority, and those that are priority with the emergency marker set (R4, R5). -/
def Header.isUrgent (h : Header) : Prop :=
  h.kind.toNat ∈ [7, 22, 48, 49, 50, 51, 52, 53, 64, 80, 81, 96, 97, 98]
    ∨ (h.emergency = true ∧ h.kind.toNat ∈ [1, 16, 17, 18, 19, 20, 21, 32])

/-! ## Commands by what sets them off -/

/-- What a command stands for: the reset line, a line symbol at a port, the handling of the oldest frame
handed on at a port, the head of the request queue, a restart, the end of a transmission, a timer. -/
inductive Occasion where
  | reset
  | symbol (p : PortNo)
  | handed (p : PortNo)
  | request
  | restart
  | transmission (p : PortNo)
  | expiry
  deriving DecidableEq, Repr

/-- The occasion of a command. -/
def occasion : Instr → Occasion
  | .fullReset => .reset
  | .startDelimiter p => .symbol p
  | .abortSequence p => .symbol p
  | .frameHeaderComplete p _ => .symbol p
  | .frameTooLong p _ => .symbol p
  | .judgeFrame p => .symbol p
  | .register n => .handed (chanPort n)
  | .measure n => .handed (chanPort n)
  | .pollReply n => .handed (chanPort n)
  | .callStart n => .handed (chanPort n)
  | .voice n => .handed (chanPort n)
  | .callEnd n => .handed (chanPort n)
  | .forwardTargetSet l => .handed (linkPort l)
  | .forwardSingleDestination l => .handed (linkPort l)
  | .unitMessage l => .handed (linkPort l)
  | .hoRequest l => .handed (linkPort l)
  | .hoAccept l => .handed (linkPort l)
  | .hoRefuse l => .handed (linkPort l)
  | .hoComplete l => .handed (linkPort l)
  | .hoCancel l => .handed (linkPort l)
  | .hoClaim l => .handed (linkPort l)
  | .fullNotice l => .handed (linkPort l)
  | .joinNotice l => .handed (linkPort l)
  | .leaveNotice l => .handed (linkPort l)
  | .probe l => .handed (linkPort l)
  | .probeReply l => .handed (linkPort l)
  | .mgmtRequest l => .handed (linkPort l)
  | .unknownRequestCode => .request
  | .identify => .request
  | .loadSites => .request
  | .loadTalkgroups => .request
  | .loadNeighbors => .request
  | .writeParameters => .request
  | .applyParameters => .request
  | .readParameters => .request
  | .readUnits => .request
  | .readUnit => .request
  | .readLinks => .request
  | .readChannels => .request
  | .readTalkgroups => .request
  | .collectCounters => .request
  | .readCounters => .request
  | .clearUnit => .request
  | .clearEmergency => .request
  | .restart => .request
  | .restartTakesPlace => .restart
  | .transmissionComplete p => .transmission p
  | .activityTimerExpiry _ => .expiry
  | .pollTimerExpiry _ => .expiry
  | .pollReplyWaitExpiry _ => .expiry
  | .lostHoldExpiry _ => .expiry
  | .roamHoldExpiry _ => .expiry
  | .replyWaitExpiry _ => .expiry
  | .departureExpiry _ => .expiry
  | .arrivalExpiry _ => .expiry
  | .forwardHoldExpiry _ => .expiry
  | .refreshTimerExpiry => .expiry
  | .ageTimerExpiry _ => .expiry
  | .waitTimerExpiry _ _ => .expiry
  | .voiceGapExpiry _ => .expiry
  | .talkTimerExpiry _ => .expiry
  | .hangTimerExpiry _ => .expiry
  | .probeTimerExpiry _ => .expiry
  | .dataByte p _ => .symbol p
  | .fullResetEnd => .reset

/-! ## The events of commands -/

/-- The oldest frame handed on at a port meets a condition. -/
def State.handsOn (s : State) (p : PortNo) (f : Handed → Header → Bool) : Bool :=
  (s.handedAt p).head?.any fun x => f x (handedHeader x s)

/-- The oldest frame handed on at a channel port is of a kind (R11). -/
def State.hears (s : State) (n : ChannelNo) (k : Kind) : Bool := s.handsOn (chanPort n) fun _ hdr => hdr.isKind k

/-- The oldest frame handed on at a link port is of a kind and meant for the own site (R12). -/
def State.gets (s : State) (l : LinkNo) (k : Kind) : Bool :=
  s.handsOn (linkPort l) fun x hdr => hdr.isKind k && !x.toAgent && hdr.destination.toNat == s.own

/-- The oldest frame handed on at a link port is a membership notice of a type for the own site (R12). -/
def State.getsNotice (s : State) (l : LinkNo) (subcode : Byte) : Bool :=
  s.handsOn (linkPort l) fun x hdr =>
    hdr.isKind .membershipNotice && hdr.subcode == subcode && !x.toAgent && hdr.destination.toNat == s.own

/-- The agent can carry out the request at the head of the queue, and its code meets a condition (R154, R163). -/
def State.isAsked (s : State) (f : Byte → Bool) : Bool :=
  s.io.restart == .none && s.requests.head?.any fun q => f q.code

/-- The handover timer of a record in a state has run out (R94, R98, R101, R106). -/
def State.handoverDue (s : State) (u : UnitId) (number : Nat) : Bool :=
  (s.record u).any fun r => r.phase.number == number && r.phase.handover?.any fun ho => s.elapsed ho.deadline

/-- The activity fields of a record meet a condition. -/
def State.activityAny (s : State) (u : UnitId) (f : Activity → Bool) : Bool :=
  (s.record u).any fun r => r.phase.activity?.any f

/-- The hold of a LOST record. -/
def Phase.lostHold? : Phase → Option Nat
  | .served _ _ _ => none
  | .proposing _ _ _ => none
  | .departing _ _ _ => none
  | .arriving _ => none
  | .forward _ => none
  | .lost _ d => some d

/-- The timers of a channel's phase: its talk timer, its voice gap, its hang (R125). -/
def ChannelPhase.talkTimer : ChannelPhase → Timer
  | .idle => none
  | .active _ talk _ => talk
  | .hang _ _ _ => none

/-- The voice-gap timer of a channel's phase. -/
def ChannelPhase.voiceGap : ChannelPhase → Timer
  | .idle => none
  | .active _ _ gap => some gap
  | .hang _ _ _ => none

/-- The hang timer of a channel's phase. -/
def ChannelPhase.hangTimer : ChannelPhase → Timer
  | .idle => none
  | .active _ _ _ => none
  | .hang _ _ d => some d

/-- The event a command stands for is there: the line takes symbols and the byte is the one the command names, the
frame handed on is of the command's kind and meant for it, the request at the head of the queue carries its code,
the restart is due, a transmission is in progress, the timer runs and its duration has elapsed. -/
def State.isThere (s : State) : Instr → Bool
  | .fullReset => true
  | .startDelimiter _ => !s.resetHeld
  | .abortSequence _ => !s.resetHeld
  | .frameHeaderComplete p _ =>
    !s.resetHeld && match receptionOf p s with
      | .hunt => false
      | .header bytes => bytes.length == 19
      | .store _ => false
      | .discard _ _ => false
  | .frameTooLong p _ =>
    !s.resetHeld && match receptionOf p s with
      | .hunt => false
      | .header _ => false
      | .store h => 256 ≤ (bytesOf h s.io).length
      | .discard bytes _ => 256 ≤ bytes.length
  | .judgeFrame _ => !s.resetHeld
  | .register n => s.hears n .register
  | .measure n => s.hears n .measure
  | .pollReply n => s.hears n .pollReply
  | .callStart n => s.hears n .callStart
  | .voice n => s.hears n .voice
  | .callEnd n => s.hears n .callEnd
  | .forwardTargetSet l => s.handsOn (linkPort l) fun _ hdr => addressedAs .targetSet hdr
  | .forwardSingleDestination l =>
    s.handsOn (linkPort l) fun x hdr => addressedAs .single hdr && !x.toAgent && hdr.destination.toNat != s.own
  | .unitMessage l => s.gets l .unitMessage
  | .hoRequest l => s.gets l .hoRequest
  | .hoAccept l => s.gets l .hoAccept
  | .hoRefuse l => s.gets l .hoRefuse
  | .hoComplete l => s.gets l .hoComplete
  | .hoCancel l => s.gets l .hoCancel
  | .hoClaim l => s.gets l .hoClaim
  | .fullNotice l => s.getsNotice l 3
  | .joinNotice l => s.getsNotice l 1
  | .leaveNotice l => s.getsNotice l 2
  | .probe l => s.handsOn (linkPort l) fun _ hdr => hdr.isKind .probe
  | .probeReply l => s.handsOn (linkPort l) fun _ hdr => hdr.isKind .probeReply
  | .mgmtRequest l =>
    s.handsOn (linkPort l) fun x hdr => hdr.isKind .mgmtRequest && (x.toAgent || hdr.destination.toNat == s.own)
  | .unknownRequestCode => s.isAsked fun c => c == 0 || decide (17 < c.toNat)
  | .identify => s.isAsked (· == 1)
  | .loadSites => s.isAsked (· == 2)
  | .loadTalkgroups => s.isAsked (· == 3)
  | .loadNeighbors => s.isAsked (· == 4)
  | .writeParameters => s.isAsked (· == 5)
  | .applyParameters => s.isAsked (· == 6)
  | .readParameters => s.isAsked (· == 7)
  | .readUnits => s.isAsked (· == 8)
  | .readUnit => s.isAsked (· == 9)
  | .readLinks => s.isAsked (· == 10)
  | .readChannels => s.isAsked (· == 11)
  | .readTalkgroups => s.isAsked (· == 12)
  | .collectCounters => s.isAsked (· == 13)
  | .readCounters => s.isAsked (· == 14)
  | .clearUnit => s.isAsked (· == 15)
  | .clearEmergency => s.isAsked (· == 16)
  | .restart => s.isAsked (· == 17)
  | .restartTakesPlace => s.io.restart == .due
  | .transmissionComplete p => s.io.ports[p.val].sending.isSome
  | .activityTimerExpiry u => s.activityAny u fun a => s.due a.timer
  | .pollTimerExpiry u => s.activityAny u fun a => s.due a.poll && a.cls != .active && a.outstanding.isNone
  | .pollReplyWaitExpiry u => s.activityAny u fun a => s.due a.outstanding
  | .lostHoldExpiry u => (s.record u).any fun r => s.due r.phase.lostHold?
  | .roamHoldExpiry u => (s.record u).any fun r => s.due r.roamHold
  | .replyWaitExpiry u => s.handoverDue u 1
  | .departureExpiry u => s.handoverDue u 2
  | .arrivalExpiry u => s.handoverDue u 3
  | .forwardHoldExpiry u => s.handoverDue u 4
  | .refreshTimerExpiry => s.due s.refreshTimer
  | .ageTimerExpiry n => (findSite n s.sites).any fun e => s.due e.ageTimer
  | .waitTimerExpiry n id => ((s.channel n).waiting id).any fun w => s.elapsed w.deadline
  | .voiceGapExpiry n => s.due (s.channel n).phase.voiceGap
  | .talkTimerExpiry n => s.due (s.channel n).phase.talkTimer
  | .hangTimerExpiry n => s.due (s.channel n).phase.hangTimer
  | .probeTimerExpiry l => s.due (s.link l).timer
  | .dataByte _ _ => !s.resetHeld
  | .fullResetEnd => s.resetHeld

/-! ## Laws -/

/-- R16: every handle from 1 to 512 stands exactly once in the free list or belongs to an ALLOCATED
buffer. -/
def State.poolLaw (s : State) : Prop :=
  (s.io.pool.free ++ s.io.pool.allocated.map Buffer.handle).Perm (List.range' 1 Config.bufferCount)

/-! ### Target-set frames and the Forwarding Engine's work -/

/-- The entry for a link of a frame offered or received now is placed within the event itself: the link routes a site
of the set, and the entries of lower-numbered links leave room in the number that is placed at once, which is 0 behind
a frame that has not been placed whole (R38; the model's own input, log entry 36; the order, log entry 11). -/
def State.placesNow (set : SiteSet) (m : LinkNo) (s : State) : Bool :=
  s.net.sitesVia set m != 0
    && decide
      (([(0 : LinkNo), 1, 2, 3].countP fun k => decide (k < m) && s.net.sitesVia set k != 0)
        < if s.io.engine.work = [] then s.io.engine.atOnce.headD 4 else 0)

/-- What a frame for a set leaves to the Forwarding Engine: with no routed site nothing moves, and otherwise the next
of the numbers placed at once is used up and a frame with entries left joins the work, behind the others (R38, R39;
log entry 36). -/
def State.leavesWork (f : Fanout) (set : SiteSet) (s t : State) : Prop :=
  ((∀ m, s.net.sitesVia set m = 0) → t.io.engine = s.io.engine)
    ∧ ((∃ m, s.net.sitesVia set m ≠ 0) →
      t.io.engine.atOnce = s.io.engine.atOnce.tail
        ∧ ((∀ m, s.net.sitesVia set m ≠ 0 → s.placesNow set m = true) → t.io.engine.work = s.io.engine.work)
        ∧ ((∃ m, s.net.sitesVia set m ≠ 0 ∧ s.placesNow set m = false) →
          ∃ g : Fanout, t.io.engine.work = s.io.engine.work ++ [g] ∧ g = { f with groups := g.groups }
            ∧ ∀ m : LinkNo, g.groups[m.val] = if s.placesNow set m = true then 0 else s.net.sitesVia set m))

/-- Links have been lost to the frames that are not placed whole: each site of a frame's group for one of them joins the
group of its new route's link, in the entry still to be placed there or in a further one, or leaves the frame without a
route; the other groups stay, and a frame with no group left is done (R38, step 5). -/
def State.reroutes (lost : LinkNo → Bool) (s t : State) : Prop :=
  t.io.engine.atOnce = s.io.engine.atOnce
    ∧ ∃ anew : Fanout → Fanout,
      t.io.engine.work = (s.io.engine.work.map anew).filter (fun f => !f.isDone)
        ∧ ∀ f ∈ s.io.engine.work,
          anew f = { f with groups := (anew f).groups }
            ∧ ∀ (m : LinkNo) (n : SiteId),
              hasSite (anew f).groups[m.val] n
                = ((!lost m && hasSite f.groups[m.val] n)
                  || (([0, 1, 2, 3].any fun l : LinkNo => lost l && hasSite f.groups[l.val] n)
                    && t.net.route n == some m))

/-- R38: the Forwarding Engine has an entry left for a link alone that is UP, since a group leaves a link that is
lost. -/
def State.engineLaw (s : State) : Prop :=
  ∀ f ∈ s.io.engine.work, ∀ m : LinkNo, f.groups[m.val] ≠ 0 → (s.link m).state = .up

/-- The references to a buffer that a port holds: by the frame it is storing, by frames handed on, by queue
entries and by its transmission (R18). -/
def Port.references (h : Handle) (x : Port) : Nat :=
  (if x.reception = .store h then 1 else 0) + x.handed.countP (fun y => y.handle == h)
    + x.queue.countP (fun e => e.handle == h) + x.sending.toList.countP (fun y => y.entry.handle == h)

/-- All the references to a buffer that are held between two steps: by the ports, and by the frames that the
Forwarding Engine has not placed whole (R18, R38). -/
def State.references (s : State) (h : Handle) : Nat :=
  (s.io.ports.toList.map (Port.references h)).sum + s.io.engine.work.countP (fun f => f.handle == h)

/-- R18: the reference count of every ALLOCATED buffer is the number of its holders and never 0, and no
holder names a FREE buffer. -/
def State.referenceLaw (s : State) : Prop :=
  (∀ b ∈ s.io.pool.allocated, b.refs = s.references b.handle ∧ 1 ≤ b.refs)
    ∧ ∀ h, bufferOf h s.io = none → s.references h = 0

/-- R154: the request queue holds at most 4 requests. -/
def State.requestLaw (s : State) : Prop := s.requests.length ≤ Config.requestCapacity

/-- R155, R158: the agent is part of the way through a load or a WRITE PARAMETERS alone, with entries left. -/
def State.progressLaw (s : State) : Prop :=
  match s.requests with
  | [] => s.progress = Progress.start
  | q :: _ =>
    s.progress = Progress.start
      ∨ (2 ≤ q.code.toNat ∧ q.code.toNat ≤ 5 ∧ s.progress.taken < (byteAt q.fields 0).toNat
        ∧ s.progress.clamped ≤ s.progress.taken)

/-- R71: the Neighbor Table has eight positions, no two of one site. -/
def State.neighborLaw (s : State) : Prop :=
  s.neighbors.length = 8 ∧ (s.neighbors.filterMap (Option.map NeighborEntry.site)).Nodup

/-- R157: every value of a parameter set lies in its range. -/
def Params.inRange (p : Params) : Prop :=
  (∀ i, i < 29 → (paramRanges.getD i (0, 0)).1 ≤ p.values.getD i 0 ∧ p.values.getD i 0 ≤ (paramRanges.getD i (0, 0)).2)
    ∧ (p.failThreshold = 1 ∨ p.failThreshold = 4 ∨ p.failThreshold = 8)

/-- R157: both sets lie in their ranges. -/
def State.paramLaw (s : State) : Prop := s.staged.inRange ∧ s.active.inRange

/-- R153: the part is UNCONFIGURED exactly while its own site id is 0. -/
def State.siteLaw (s : State) : Prop := s.partState = .unconfigured ↔ s.own = 0

/-- R40: an entry's place in the class order. -/
def priorityFirst (q : List Entry) : Prop := q.Pairwise fun a b => b.isPriority = true → a.isPriority = true

/-- R40: hop count and addressing by the sort of port. -/
def entryFits (p : PortNo) (e : Entry) : Prop :=
  if isLinkPort p then 1 ≤ e.hop ∧ e.hop ≤ 15 else e.hop = 0 ∧ e.addressing = .unaddressed

/-- R33, R38, R40: the hop count that a frame's entries are to carry, where the frame has one of its own. -/
def fanoutFits (f : Fanout) : Prop := ∀ n, f.hop = some n → 1 ≤ n ∧ n ≤ 15

/-- R40: each queue holds at most 64 entries, priority entries ahead of routine ones, with the hop counts
of its sort of port, and so will the entries that the Forwarding Engine has left to place. -/
def State.queueLaw (s : State) : Prop :=
  (∀ p : PortNo,
    (s.queueOf p).length ≤ 64 ∧ priorityFirst (s.queueOf p) ∧ ∀ e ∈ s.queueOf p, entryFits p e)
    ∧ ∀ f ∈ s.io.engine.work, fanoutFits f

/-- R161 and section 5.7 of spec/00_scope.md: 158 counters, each at most 65 535. -/
def State.counterLaw (s : State) : Prop :=
  (s.io.live.length = 158 ∧ ∀ n ∈ s.io.live, n ≤ 65535)
    ∧ (s.snapshot.length = 158 ∧ ∀ n ∈ s.snapshot, n ≤ 65535)
    ∧ s.mergeCount ≤ 65535 ∧ s.restartCount ≤ 65535

/-- R50: at most 256 records, in slots 0 to 255, no two in one slot and no two of one unit. -/
def State.unitLaw (s : State) : Prop :=
  (s.units.map Record.slot).Pairwise (· < ·) ∧ (∀ r ∈ s.units, r.slot < 256)
    ∧ (s.units.map Record.unit).Nodup

/-- The number of records in a member state on a talkgroup. -/
def memberCount (g : TalkgroupId) (units : List Record) : Nat :=
  units.countP fun r => r.phase.isMember && r.talkgroup == g

/-- R112, R113: talkgroups have distinct ids, every member's talkgroup is in the table, and each local
member count is the number of member records on the talkgroup. -/
def State.memberLaw (s : State) : Prop :=
  (s.talkgroups.map TalkgroupEntry.id).Pairwise (· < ·)
    ∧ (∀ r ∈ s.units, r.phase.isMember = true → ∃ g ∈ s.talkgroups, g.id = r.talkgroup)
    ∧ ∀ g ∈ s.talkgroups, g.members = memberCount g.id s.units

/-- R112: a remote site set never holds the own site id. -/
def State.remoteLaw (s : State) : Prop := ∀ g ∈ s.talkgroups, hasSite g.remote s.own = false

/-- R75: a filtered level lies within -2240 to -320. -/
def levelOk (f : Int) : Prop := -2240 ≤ f ∧ f ≤ -320

/-- R75, R76, R79: four slots, levels and counts in their ranges, no two slots of one site. -/
def Record.roamOk (r : Record) : Prop :=
  (∀ f, r.serving = some f → levelOk f) ∧ r.candidates.length = 4
    ∧ (∀ c, some c ∈ r.candidates → levelOk c.level ∧ c.qualify ≤ 15 ∧ c.misses ≤ 2)
    ∧ (r.candidates.filterMap (Option.map Candidate.site)).Nodup

/-- R79: the Roam Selector's law. -/
def State.roamLaw (s : State) : Prop := ∀ r ∈ s.units, r.roamOk

/-- R126: emergency entries stand ahead of routine entries. -/
def emergencyFirst (l : List WaitEntry) : Prop := l.Pairwise fun a b => b.isEmergency = true → a.isEmergency = true

/-- R125, R126: the arbiter's law for one channel. -/
def Channel.lawful (x : Channel) : Prop :=
  x.waits.length ≤ 8 ∧ emergencyFirst x.waits ∧ x.heldIds.Nodup ∧ (x.phase = .idle → x.waits = [])

/-- R125, R126: the arbiters' law. -/
def State.callLaw (s : State) : Prop := ∀ n : ChannelNo, (s.channel n).lawful

/-- R143, R152: the supervisor's law for one link. -/
def State.linkOk (s : State) (l : LinkNo) : Prop :=
  let x := s.link l
  x.farSite = s.active.farSite l
    ∧ (x.state = .disabled ↔ x.farSite = 0)
    ∧ (x.state = .disabled → x.timer = none ∧ x.outstanding = false ∧ x.advance = false)
    ∧ (s.partState = .running → x.state ≠ .disabled → x.timer.isSome = true)
    ∧ (s.partState = .unconfigured →
        (x.state = .disabled ∨ x.state = .down) ∧ x.timer = none ∧ x.outstanding = false)
    ∧ x.errors ≤ 15 ∧ x.goods ≤ 15 ∧ (x.state = .up → x.errors < s.active.failThreshold)
    ∧ x.token ≠ 0

/-- R143: the supervisors' law. -/
def State.linkLaw (s : State) : Prop := ∀ l : LinkNo, s.linkOk l

/-! ## Events that send several frames -/

/-- Room for what an event sends: buffers beyond the reserve for a number of frames, and on every queue, none of
whose transmitters is idle, room for a number of entries (R19, R41, R45). -/
def State.roomFor (frames entries : Nat) (s : State) : Prop :=
  s.poolLaw ∧ s.io.pool.noticePending = false ∧ s.active.bufferReserve + frames ≤ s.io.pool.free.length
    ∧ ∀ p : PortNo, s.io.ports[p.val].sending.isSome = true ∧ (s.queueOf p).length + entries ≤ Config.queueCapacity

/-- A frame has been built and stands on a channel port's queue (R21, R44). -/
def State.queuedOn (n : ChannelNo) (hdr : Header) (payload : List Byte) (s t : State) : Prop :=
  ∃ k ∈ s.io.pool.free,
    ({ handle := k, cls := hdr.frameClass, hop := 0, addressing := .unaddressed } : Entry) ∈ t.queueOf (chanPort n)
      ∧ bytesOf k t.io = frameBytes hdr payload

/-- A frame has been built for a site and stands on the queue of the link that routes it, if one does (R21, R32,
R35). -/
def State.queuedFor (hdr : Header) (site : SiteId) (s t : State) : Prop :=
  ∀ j, s.net.route site = some j → ∃ k ∈ s.io.pool.free,
    ({ handle := k
       cls := hdr.frameClass
       hop := s.active.hopLimit
       addressing := .destination site } : Entry) ∈ t.queueOf (linkPort j)
      ∧ bytesOf k t.io
        = frameBytes { hdr with origin := BitVec.ofNat 8 s.own, destination := BitVec.ofNat 8 site } []

/-- A reply with this payload has been built last of all and stands on the queue of the port that the request's origin
is then reached by (R37, R155). -/
def State.replied (q : Request) (payload : List Byte) (s t : State) : Prop :=
  q.origin ≠ t.own → ∃ k ∈ s.io.pool.free,
    ({ handle := k
       cls := .priority
       hop := t.active.hopLimit
       addressing := .destination q.origin } : Entry) ∈ t.queueOf (t.replyPort q)
      ∧ bytesOf k t.io = frameBytes (replyHeader q t) payload

/-- A notice has been built once, with no destination in its buffer (log entry 13), and an entry for each of the
sites stands on the queue of the link that routes it; `c` gives the routes and parameters the notice met (R114, R116,
R164). -/
def State.noticed (c : Net) (hdr : Header) (payload : List Byte) (sites : List SiteId) (s t : State) : Prop :=
  sites ≠ [] → ∃ k ∈ s.io.pool.free,
    bytesOf k t.io = frameBytes { hdr with origin := BitVec.ofNat 8 c.active.ownSite } payload
      ∧ ∀ n ∈ sites, ∀ j, c.route n = some j →
        ({ handle := k
           cls := .priority
           hop := c.active.hopLimit
           addressing := .destination n } : Entry) ∈ t.queueOf (linkPort j)

/-- The entries of one notice for several sites join a link's queue in the order of the sites (R41, R114). -/
def Net.queuedVia (c : Net) (h : Handle) (sites : List SiteId) (j : LinkNo) (q : List Entry) : List Entry :=
  (sites.filter fun n => c.route n == some j).foldl
    (fun q n =>
      insertEntry { handle := h, cls := .priority, hop := c.active.hopLimit, addressing := .destination n } q)
    q

/-- With the engine idle before, a buffer's call frame stands on the queue of every link that routes sites of a set,
for those sites (R39). -/
def State.fannedOut (h : Handle) (cls : FrameClass) (set : SiteSet) (s t : State) : Prop :=
  s.io.engine = Engine.idle → ∀ m, s.net.sitesVia set m ≠ 0 →
    ({ handle := h
       cls := cls
       hop := s.active.hopLimit
       addressing := .subset (s.net.sitesVia set m) } : Entry) ∈ t.queueOf (linkPort m)

/-- The buffer of a received call frame that has been offered and stands on a queue, or waits for the Forwarding Engine,
holds the frame as it was received but for its header, whose origin is the own site (R32, R39). -/
def State.offeredAs (h : Handle) (hdr : Header) (set : SiteSet) (s t : State) : Prop :=
  s.referenceLaw → (∃ m, s.net.sitesVia set m ≠ 0) →
    bytesOf h t.io = encodeHeader { hdr with origin := BitVec.ofNat 8 s.own } ++ (bytesOf h s.io).drop 20

/-- A received call frame is offered toward a set with this header: where every link has room, one that routes sites of
the set takes an entry for them, now or when the Forwarding Engine comes to it (R38, R39). -/
def State.offers (p : PortNo) (h : Handle) (cls : FrameClass) (hdr : Header) (set : SiteSet) (s t : State) : Prop :=
  s.poolLaw → (∀ m, s.waitsAt (linkPort m)) → s.io.pool.noticePending = false → s.io.pool.free ≠ [] →
    (∀ m, t.queueOf (linkPort m)
      = if s.placesNow set m = true then
          insertEntry
            { handle := h, cls := cls, hop := s.active.hopLimit, addressing := .subset (s.net.sitesVia set m) }
            (s.queueOf (linkPort m))
        else s.queueOf (linkPort m))
      ∧ s.leavesWork { handle := h, cls := cls, hop := none, lostAt := some p, groups := Vector.replicate 4 0 } set t
      ∧ s.offeredAs h hdr set t

/-- A call frame that the arbiter builds has been offered toward a set (R39). That its buffer's target set is 0, the
entries having each their own, is the model's choice (log entry 13). -/
def State.offeredBuilt (hdr : Header) (set : SiteSet) (s t : State) : Prop :=
  (∃ m, s.net.sitesVia set m ≠ 0) → ∃ k ∈ s.io.pool.free,
    bytesOf k t.io = frameBytes { hdr with origin := BitVec.ofNat 8 s.own } []
      ∧ s.fannedOut k hdr.frameClass set t

/-! ## Calls that are decided and calls that follow -/

/-- The phase of a channel whose current call has just been granted (R131). -/
def State.grantedPhase (s : State) (call : Call) : ChannelPhase :=
  .active call
    (if call.isLocal && !call.emergency then some (s.timeBase.toNat + talkLimitOf call.talkgroup s) else none)
    (s.timeBase.toNat + s.active.voiceGap)

/-- The frames about a call that go to its talker: a kind with the unit, the call id, a cause and the class. -/
def Call.answer (k : Kind) (cause : Byte) (call : Call) : Header :=
  { Header.blank k with
    emergency := call.emergency
    unit := BitVec.ofNat 24 call.talker
    callId := BitVec.ofNat 16 call.id
    subcode := cause }

/-- A DEKEY ORDER to a call's talker; it carries no call id (R129, R132, R139). -/
def Call.dekey (cause : Byte) (call : Call) : Header :=
  { Header.blank .dekeyOrder with
    emergency := call.emergency
    unit := BitVec.ofNat 24 call.talker
    subcode := cause }

/-- The CALL START or CALL END that an arbiter builds of a call (R131, R132, R138). -/
def Call.frame (k : Kind) (call : Call) : Header :=
  { Header.blank k with
    emergency := call.emergency
    unit := BitVec.ofNat 24 call.talker
    talkgroup := BitVec.ofNat 16 call.talkgroup
    callId := BitVec.ofNat 16 call.id }

/-- A number of calls was counted as not carried (R133, R137). -/
def State.notCarried (k : Nat) (s t : State) : Prop :=
  s.counterLaw → t.devCounter .callsNotCarried = min 65535 (s.devCounter .callsNotCarried + k)

/-- A routine wait entry with no routine one behind it is the newest routine entry of a list (R133). -/
def newestRoutine (ahead : List WaitEntry) (w : WaitEntry) (behind : List WaitEntry) (l : List WaitEntry) : Prop :=
  l = ahead ++ w :: behind ∧ w.call.emergency = false ∧ ∀ v ∈ behind, v.call.emergency = true

/-- R133: a call that cannot be granted waits on a channel with record `b`; with the list full it is turned away
BUSY, unless it is an emergency call and a routine entry can make room. -/
def State.waitsFor (n : ChannelNo) (b : Channel) (call : Call) (s t : State) : Prop :=
  let entry : WaitEntry := { call := call, deadline := s.timeBase.toNat + s.active.waitTimeout * 1000 }
  (b.waits.length < 8 →
      t.channel n = { b with waits := joinEntry entry b.waits } ∧ s.notCarried 0 t
        ∧ (s.roomFor 4 4 → call.isLocal = true → s.queuedOn n (call.answer .callQueued 0) [] t))
    ∧ (8 ≤ b.waits.length → call.emergency = false ∨ (∀ w ∈ b.waits, w.call.emergency = true) →
      t.channel n = b ∧ s.notCarried 1 t
        ∧ (s.roomFor 4 4 → call.isLocal = true → s.queuedOn n (call.answer .callRefuse 1) [] t))
    ∧ ∀ ahead w behind, 8 ≤ b.waits.length → call.emergency = true → newestRoutine ahead w behind b.waits →
      t.channel n = { b with waits := joinEntry entry (ahead ++ behind) } ∧ s.notCarried 1 t
        ∧ (s.roomFor 4 4 →
          (w.call.isLocal = true → s.queuedOn n (w.call.answer .callRefuse 1) [] t)
            ∧ (call.isLocal = true → s.queuedOn n (call.answer .callQueued 0) [] t))

/-- R132: an emergency call takes a channel with record `b` from the routine call that is current there. A local
talker is dekeyed and its call ended toward the other sites; a remote call goes back to the head of the routine
entries, and with the list full the newest of them is turned away for it. -/
def State.preempts (n : ChannelNo) (b : Channel) (cur call : Call) (s t : State) : Prop :=
  let back : WaitEntry := { call := cur, deadline := s.timeBase.toNat + s.active.waitTimeout * 1000 }
  let granted := s.grantedPhase call
  (cur.isLocal = true →
      t.channel n = { phase := granted, waits := b.waits, lastEnded := some cur.id } ∧ s.notCarried 0 t
        ∧ (∀ r, s.record cur.talker = some r → cur.talker ≠ call.talker ∨ call.isLocal = false →
          t.record cur.talker = some { r with talking := false })
        ∧ (s.roomFor 4 4 →
          s.queuedOn n (cur.dekey 2) [] t
            ∧ s.offeredBuilt (cur.frame .callEnd) (remoteSet cur.talkgroup s) t))
    ∧ (cur.isLocal = false → b.waits.length < 8 →
      t.channel n = { b with phase := granted, waits := rejoinEntry back b.waits } ∧ s.notCarried 0 t)
    ∧ (cur.isLocal = false → 8 ≤ b.waits.length → (∀ w ∈ b.waits, w.call.emergency = true) →
      t.channel n = { b with phase := granted } ∧ s.notCarried 1 t)
    ∧ ∀ ahead w behind, cur.isLocal = false → 8 ≤ b.waits.length → newestRoutine ahead w behind b.waits →
      t.channel n = { b with phase := granted, waits := rejoinEntry back (ahead ++ behind) } ∧ s.notCarried 1 t
        ∧ (s.roomFor 4 4 → w.call.isLocal = true → s.queuedOn n (w.call.answer .callRefuse 1) [] t)

/-- R130: what a channel with record `b` makes of a call that has passed its checks. `granted` is what a grant
leaves beside the channel record. -/
def State.decides (n : ChannelNo) (b : Channel) (call : Call) (granted : State → Prop) (s t : State) : Prop :=
  (b.phase = .idle ∨ (∃ e d, b.phase = .hang call.talkgroup e d)
      ∨ (∃ g d, b.phase = .hang g false d ∧ call.emergency = true) →
    t.channel n = { b with phase := s.grantedPhase call } ∧ s.notCarried 0 t ∧ granted t)
    ∧ (∀ g e d, b.phase = .hang g e d → call.talkgroup ≠ g → call.emergency = false ∨ e = true →
      s.waitsFor n b call t)
    ∧ ∀ cur talk gap, b.phase = .active cur talk gap →
      (call.emergency = false ∨ cur.emergency = true → s.waitsFor n b call t)
        ∧ (call.emergency = true → cur.emergency = false → s.preempts n b cur call t ∧ granted t)

/-- R137: a waiting call can be granted. -/
def State.mayGrant (s : State) (w : WaitEntry) : Bool :=
  if w.call.isLocal then (s.record w.call.talker).any fun r => r.phase.isMember
  else decide (0 < membersOf w.call.talkgroup s)

/-- R137: a channel that is free for the waiting entries of `order` takes them in that order. Those that cannot be
granted are turned away NOT REGISTERED, the first that can be is granted, and with none left the channel record is
`left` without them. -/
def State.passesOn (n : ChannelNo) (order : List WaitEntry) (left : Channel) (s t : State) : Prop :=
  let without (gone : List WaitEntry) : List WaitEntry := left.waits.filter fun v => !gone.contains v
  let turnedAway (gone : List WaitEntry) : Prop :=
    s.notCarried gone.length t
      ∧ (s.roomFor 16 16 → ∀ v ∈ gone, v.call.isLocal = true → s.queuedOn n (v.call.answer .callRefuse 4) [] t)
  ((∀ v ∈ order, s.mayGrant v = false) → t.channel n = { left with waits := without order } ∧ turnedAway order)
    ∧ ∀ gone w rest, order = gone ++ w :: rest → (∀ v ∈ gone, s.mayGrant v = false) → s.mayGrant w = true →
      t.channel n = { left with phase := s.grantedPhase w.call, waits := without (gone ++ [w]) } ∧ turnedAway gone
        ∧ (w.call.isLocal = true →
          (∀ r, s.record w.call.talker = some r → ∃ r', t.record w.call.talker = some r' ∧ r'.talking = true)
            ∧ (s.roomFor 16 16 → s.queuedOn n (w.call.answer .callGrant 0) [] t
              ∧ s.offeredBuilt (w.call.frame .callStart) (remoteSet w.call.talkgroup s) t))
        ∧ (w.call.isLocal = false → s.roomFor 16 16 → s.queuedOn n (w.call.frame .callStart) [] t)

/-- R136, R137: the current call of a channel has ended as `call`. It is the last ended call, its talkgroup's
waiting entries are tried first, and with a hang time of 0 the others after them, also where entries of its talkgroup
waited and were all turned away (the model's choice, log entry 40). -/
def State.endsCall (n : ChannelNo) (call : Call) (s t : State) : Prop :=
  let b := s.channel n
  let hang := hangTimeOf call.talkgroup s
  let same := b.waits.filter fun w => w.call.talkgroup == call.talkgroup
  let others := b.waits.filter fun w => w.call.talkgroup != call.talkgroup
  s.passesOn n (if hang = 0 then same ++ others else same)
    { b with
      phase := if hang = 0 then .idle else .hang call.talkgroup call.emergency (s.timeBase.toNat + hang)
      lastEnded := some call.id }
    t

end Sys2Proof.Machine
end

