-- ==== Sys2Proof/Certificates/Slice0/Obligations.lean ====
section
/-! DEFINITION. The statements about the ED610 for the provers. Each docstring cites the rule it formalises
or says which log entry it rests on. -/

open Sys2Proof Sys2Proof.Machine

/-! ## The block and its queue of commands -/

/-- A step takes the command at the front of the queue and is its execution with the rest. -/
def Obligations.StepTakesFront : Prop :=
  ∀ (c : Instr) (rest : List Instr) (s : State), s.pending = c :: rest → step s = exec c { s with pending := rest }

/-- Every command answers a next state in every state and leaves the waiting commands alone, and one whose
event is not there changes nothing: the frame handed on is not of the command's kind, the request is not of its
code or a restart is pending, the timer is stopped or not due, and so on as `State.isThere` lists them (the model's
choice, log entry 1; the pending restart is R163). With no command waiting the Forwarding Engine goes on with a
target-set frame it has not placed whole (the model's choice, log entry 36), and with none a millisecond passes unless
the reset line is asserted (the model's choice, log entry 5). -/
def Obligations.EveryCommandGoesOn : Prop :=
  ∀ (c : Instr) (s : State),
    (s.pending = [] → s.io.engine.work = [] →
        ∃ t, step s = .next t ∧ t = { s with timeBase := if s.resetHeld then s.timeBase else s.timeBase + 1 })
      ∧ (s.pending = [] → s.io.engine.work ≠ [] → ∃ t, step s = .next t ∧ s.sameButIo t ∧ s.sameIntake t
        ∧ t.io.engine.work.length ≤ s.io.engine.work.length ∧ t.io.engine.atOnce = s.io.engine.atOnce
        ∧ (t.io.restart = s.io.restart ∨ (s.io.restart = .awaitingReply ∧ t.io.restart = .due)))
      ∧ (∃ t, exec c s = .next t ∧ t.pending = s.pending)
      ∧ (s.isThere c = false → exec c s = .next s)
      ∧ (∀ p, occasion c = .handed p → s.handedAt p = [] → exec c s = .next s)
      ∧ (occasion c = .request → s.requests = [] ∨ s.io.restart ≠ .none → exec c s = .next s)
      ∧ (∀ p, occasion c = .transmission p → s.io.ports[p.val].sending = none → exec c s = .next s)
      ∧ (occasion c = .restart → s.io.restart ≠ .due → exec c s = .next s)

/-! ## The resets -/

/-- What a full reset leaves (R15, R28, R47, R70, R87, R89, R111, R124, R142, R152, R165), the parameters at the
defaults of R157 in both sets, which meets every law. That the Forwarding Engine places every coming frame whole from
then on is the model's choice (log entry 36). -/
def Obligations.FullResetValues : Prop :=
  let s := State.reset
  let defaults : List Int :=
    [0, 0, 0, 0, 0, 6, 32, 4, 6, 3, -112, 10, 1000, 3000, 4000, 20, 30, 600, 60, 300, 3, 2, 120, 500, 4, 3, 30, 10, 2000]
  s.partState = .unconfigured ∧ s.staged.values = defaults ∧ s.active.values = defaults
    ∧ s.staged = Params.defaults ∧ s.active = Params.defaults ∧ s.requests = []
    ∧ s.io.engine = { atOnce := [], work := [] }
    ∧ s.progress = Progress.start ∧ s.io.restart = .none ∧ (∀ i, s.counter i = 0)
    ∧ s.snapshot = List.replicate 158 0 ∧ s.mergeCount = 0 ∧ s.snapshotRead = true ∧ s.restartCount = 0
    ∧ s.io.pool.free = List.range' 1 512 ∧ s.io.pool.allocated = [] ∧ s.io.pool.exhaustion = true
    ∧ s.io.pool.noticePending = false
    ∧ (∀ p, receptionOf p s = .hunt ∧ s.handedAt p = [] ∧ s.queueOf p = []
        ∧ s.io.ports[p.val].sending = none)
    ∧ s.sites = [] ∧ s.talkgroups = [] ∧ s.units = [] ∧ s.neighbors = List.replicate 8 none
    ∧ s.timeBase = 0#48 ∧ s.handoverCounter = 1 ∧ s.ownSequence = 0#8 ∧ s.refreshTimer = none
    ∧ s.callCounter = 0#8
    ∧ (∀ n, (s.channel n).phase = .idle ∧ (s.channel n).waits = [] ∧ (s.channel n).lastEnded = none)
    ∧ (∀ l, (s.link l).state = .disabled ∧ (s.link l).farSite = 0 ∧ (s.link l).token.toNat = l.val + 1
        ∧ (s.link l).timer = none ∧ (s.link l).outstanding = false ∧ (s.link l).advance = false
        ∧ (s.link l).errors = 0 ∧ (s.link l).goods = 0 ∧ (s.link l).looped = false)
    ∧ s.poolLaw ∧ s.referenceLaw ∧ s.queueLaw ∧ s.counterLaw ∧ s.requestLaw ∧ s.progressLaw ∧ s.paramLaw ∧ s.siteLaw
    ∧ s.neighborLaw ∧ s.unitLaw ∧ s.memberLaw ∧ s.remoteLaw ∧ s.roamLaw ∧ s.callLaw ∧ s.linkLaw ∧ s.engineLaw

/-- The reset line holds the part in its initial state, in which received symbols are ignored, and its
release leaves that state (R15); a release of a line that is not asserted changes nothing (the model's
choice, log entry 2). -/
def Obligations.FullResetHoldsAndReleases : Prop :=
  ∀ s : State,
    (∃ t, exec .fullReset s = .next t ∧ t = { State.reset with resetHeld := true, pending := s.pending })
      ∧ (s.resetHeld = true → ∃ t, exec .fullResetEnd s = .next t ∧ t = { State.reset with pending := s.pending })
      ∧ (s.resetHeld = false → ∃ t, exec .fullResetEnd s = .next t ∧ t = s)
      ∧ ∀ c p, occasion c = .symbol p → s.resetHeld = true → exec c s = .next s

/-- A restart that is due takes place: the dynamic state is as R28, R47, R70, R87, R111, R124, R142, R152 and
R165 give it, the links are seeded, and a RUNNING part enters RUNNING anew (R163). The pool is as after a full reset,
its exhaustion flag set and no notice pending (R28), but for the first buffers, one for the PROBE of each link with
a far site, which that link is sending; every queue is empty and every other transmitter is IDLE, and a
transmission that the restart met was ended with an abort sequence (R14, R47, R144, R145). That the links are seeded in
ascending number, so that the i-th probing link takes handle i + 1, is the model's choice (log entry 11). The frames that
the Forwarding Engine had not placed whole are abandoned with the rest (R28, R47). -/
def Obligations.RestartTakesEffect : Prop :=
  ∀ s : State, s.io.restart = .due → ∃ t, exec .restartTakesPlace s = .next t
    ∧ t.requests = [] ∧ t.progress = Progress.start ∧ t.io.restart = .none
    ∧ t.io.engine = { s.io.engine with work := [] }
    ∧ t.restartCount = saturate (s.restartCount + 1)
    ∧ t.io.live = s.io.live ∧ t.snapshot = s.snapshot ∧ t.mergeCount = s.mergeCount
    ∧ t.snapshotRead = s.snapshotRead
    ∧ t.partState = s.partState ∧ t.staged = s.staged ∧ t.active = s.active ∧ t.neighbors = s.neighbors
    ∧ t.timeBase = s.timeBase ∧ t.resetHeld = s.resetHeld
    ∧ (∀ p, receptionOf p t = .hunt ∧ t.handedAt p = [])
    ∧ (∀ n, t.queueOf (chanPort n) = [] ∧ t.io.ports[(chanPort n).val].sending = none)
    ∧ (let probing : List LinkNo :=
          if s.partState = .running then [0, 1, 2, 3].filter fun l => decide (s.active.farSite l ≠ 0) else []
        let probe (l : LinkNo) : List Byte :=
          frameBytes
            { Header.blank .probe with
              origin := BitVec.ofNat 8 s.own
              tag := BitVec.ofNat 16 (s.own * 257 + l.val + 1) }
            []
        t.io.pool.free = (List.range' 1 512).drop probing.length
          ∧ t.io.pool.exhaustion = true ∧ t.io.pool.noticePending = false
          ∧ (∀ h, bufferOf h t.io = none ↔ h = 0 ∨ probing.length < h)
          ∧ (∀ p, t.queueOf p = []
            ∧ t.io.ports[p.val].lastEnd
              = if s.io.ports[p.val].sending.isSome then some .abortSequence else s.io.ports[p.val].lastEnd)
          ∧ (∀ l, l ∉ probing → t.io.ports[(linkPort l).val].sending = none)
          ∧ ∀ i l, probing[i]? = some l →
            let entry : Entry :=
              { handle := i + 1, cls := .priority, hop := s.active.hopLimit, addressing := .unaddressed }
            bufferOf (i + 1) t.io = some { handle := i + 1, refs := 1, bytes := probe l, completion := none }
              ∧ t.io.ports[(linkPort l).val].sending = some { entry := entry, frame := wireFrame (probe l) entry })
    ∧ t.units = [] ∧ t.handoverCounter = 1 ∧ t.callCounter = 0#8
    ∧ (∀ n, t.channel n = Channel.initial)
    ∧ t.talkgroups = s.talkgroups.map (fun g => { g with members := 0, remote := 0 })
    ∧ t.sites = s.sites.map (fun e => { e with lastSequence := none, ageTimer := none, announcedPeriod := none })
    ∧ t.ownSequence = (if s.partState = .running then 1#8 else 0#8)
    ∧ t.refreshTimer = (if s.partState = .running then some (s.after (s.active.refreshPeriod * 1000)) else none)
    ∧ ∀ l, (t.link l).farSite = s.active.farSite l
        ∧ (t.link l).state = (if s.active.farSite l = 0 then .disabled else .down)
        ∧ (t.link l).token = BitVec.ofNat 16 (s.own * 257 + l.val + 1)
        ∧ (t.link l).errors = 0 ∧ (t.link l).goods = 0 ∧ (t.link l).looped = false ∧ (t.link l).advance = false
        ∧ (t.link l).outstanding = (decide (s.active.farSite l ≠ 0) && decide (s.partState = .running))
        ∧ (t.link l).timer
            = (if s.active.farSite l ≠ 0 ∧ s.partState = .running then some (s.after s.active.probePeriod) else none)

/-! ## Laws that every step keeps -/

/-- R16: every handle stands once in the free list or belongs to an ALLOCATED buffer. R18: the reference count of
an ALLOCATED buffer is the number of its holders, a frame that the Forwarding Engine has not placed whole among them,
and is never 0. -/
def Obligations.BufferLawsKept : Prop :=
  ∀ s t : State, step s = .next t → (s.poolLaw → t.poolLaw) ∧ (s.poolLaw → s.referenceLaw → t.referenceLaw)

/-- R40: the queues keep their bound, their order and the hop counts of their sort of port, and so will the entries
that the Forwarding Engine has left to place. R38: it has none left for a link that is not UP, since a link that is lost
has its groups routed anew. -/
def Obligations.QueueLawKept : Prop :=
  ∀ s t : State, step s = .next t →
    (s.paramLaw → s.queueLaw → t.queueLaw) ∧ (s.engineLaw → t.engineLaw)

/-- R50: at most 256 records, one to a slot and one to a unit. R112, R113: every member's talkgroup is in the
table, every local member count is the number of member records on its talkgroup, and no remote site set
holds the own site id. -/
def Obligations.RecordLawsKept : Prop :=
  ∀ s t : State, step s = .next t →
    (s.unitLaw → t.unitLaw) ∧ (s.unitLaw → s.memberLaw → t.memberLaw) ∧ (s.remoteLaw → t.remoteLaw)

/-- R79: every filtered level lies within -2240 to -320 and every qualify count within 0 to 15; no two slots
of a record name one site (R76). -/
def Obligations.RoamLawKept : Prop := ∀ s t : State, s.paramLaw → s.roamLaw → step s = .next t → t.roamLaw

/-- R125, R126: a channel holds no call id twice, at most 8 calls wait on it with the emergency calls ahead,
and none waits while it is IDLE. -/
def Obligations.CallLawKept : Prop := ∀ s t : State, s.callLaw → step s = .next t → t.callLaw

/-- R143, R152: a link is DISABLED exactly with far site 0, its counts lie within 0 to 15, a link in UP has
fewer errors than the fail threshold, and its token is not 0 (R144). -/
def Obligations.LinkLawKept : Prop := ∀ s t : State, s.paramLaw → s.linkLaw → step s = .next t → t.linkLaw

/-- R71, R153 to R155, R157, R161: every parameter of both sets lies in its range of R157, the part is UNCONFIGURED exactly
while its own site id is 0, at most 4 requests are queued, the agent is part of the way through a load or a WRITE
PARAMETERS alone, the Neighbor Table has eight positions with no site twice, and there are 158 counters within 0 to
65 535. -/
def Obligations.ManagementLawsKept : Prop :=
  (∀ p : Params, p.inRange ↔
      p.values.length = 29 ∧ (p.failThreshold = 1 ∨ p.failThreshold = 4 ∨ p.failThreshold = 8)
        ∧ ∀ x ∈ p.values.zip
            [((0 : Int), (32 : Int)), (0, 32), (0, 32), (0, 32), (0, 32), (1, 15), (0, 128), (1, 16), (0, 30), (1, 15),
              (-130, -80), (1, 60), (200, 5000), (500, 10000), (500, 10000), (1, 120), (10, 600), (60, 3600), (10, 600),
              (60, 3600), (1, 10), (1, 7), (10, 3600), (100, 2000), (1, 8), (1, 15), (5, 120), (1, 30), (500, 5000)],
          x.2.1 ≤ x.1 ∧ x.1 ≤ x.2.2)
  ∧ ∀ s t : State, step s = .next t →
    (s.paramLaw → s.siteLaw → t.paramLaw ∧ t.siteLaw) ∧ (s.requestLaw → t.requestLaw)
      ∧ (s.progressLaw → t.progressLaw) ∧ (s.neighborLaw → t.neighborLaw) ∧ (s.counterLaw → t.counterLaw)

/-! ## Rules over all commands -/

/-- A counter falls only by COLLECT COUNTERS or by the reset line (R161, R162, section 5.7). -/
def Obligations.CountersNeverFall : Prop :=
  ∀ (c : Instr) (s t : State), s.counterLaw → occasion c ≠ .reset → c ≠ .collectCounters → exec c s = .next t →
    ∀ i, s.counter i ≤ t.counter i

/-- Traffic, transmissions and timers leave the parameters, the part state, the Neighbor Table, the snapshot,
the restart count and the time base alone. The staged set moves by WRITE PARAMETERS and the active set by
APPLY PARAMETERS alone, short of the reset line, and a part that runs goes on running (R153, R158, R159). -/
def Obligations.ManagementMovesByRequests : Prop :=
  ∀ (c : Instr) (s t : State), occasion c ≠ .reset → exec c s = .next t →
    (occasion c ≠ .request → occasion c ≠ .restart → s.sameManagement t)
      ∧ (c ≠ .writeParameters → t.staged = s.staged) ∧ (c ≠ .applyParameters → t.active = s.active)
      ∧ (s.partState = .running → t.partState = .running) ∧ t.timeBase = s.timeBase

/-- A reception moves by a line symbol at its own port, by the restart and by the reset line alone (R8). A
command that handles a handed frame takes the oldest one of its port (the model's choice of the order of service,
log entry 4) or changes nothing (the model's choice, log entry 1). -/
def Obligations.FramesComeInByTheirPort : Prop :=
  ∀ (c : Instr) (s t : State) (p : PortNo), exec c s = .next t →
    (occasion c ≠ .reset → occasion c ≠ .restart → occasion c ≠ .symbol p → receptionOf p t = receptionOf p s)
      ∧ (occasion c = .handed p → t = s ∨ (s.handedAt p ≠ [] ∧ s.tookHanded p t))

/-! ## Frames -/

/-- R6: a header that is written is read back as it was, and so is the payload of a built frame. -/
def Obligations.HeaderRoundTrip : Prop :=
  (∀ (h : Header) (p : List Byte), parseHeader (encodeHeader h ++ p) = h)
    ∧ ∀ (h : Header) (p : List Byte), p.length < 256 →
        payloadOf (frameBytes h p) = p
          ∧ parseHeader (frameBytes h p) = { h with payloadLength := BitVec.ofNat 8 p.length }

/-- R2, R13: a transmitted frame is the buffered frame with class, hop count and addressing replaced by the
entry's, and a receiver finds its length right and its CRC good. -/
def Obligations.SentFrameIsGood : Prop :=
  ∀ (bs : List Byte) (e : Entry), e.hop < 16 → 20 + (parseHeader bs).payloadLength.toNat ≤ bs.length →
    let sent := wireFrame bs e
    let h := parseHeader sent
    sent.length = 22 + (parseHeader bs).payloadLength.toNat
      ∧ crcGood sent = true
      ∧ payloadOf sent = payloadOf bs
      ∧ h.priority = e.isPriority ∧ h.hop.toNat = e.hop
      ∧ (∀ n, e.addressing = .destination n → n < 256 → h.destination.toNat = n ∧ h.targets = 0)
      ∧ (∀ set, e.addressing = .subset set → h.targets = set ∧ h.destination = 0)
      ∧ (e.addressing = .unaddressed → h.targets = 0 ∧ h.destination = 0)
      ∧ { h with priority := false, hop := 0, destination := 0, targets := 0 }
          = { parseHeader bs with priority := false, hop := 0, destination := 0, targets := 0 }

/-- The numbers of the 158 counters (R161). -/
def Obligations.CounterNumbers : Prop :=
  [DevCounter.recordsCreated, .recordsDeleted, .recordsReclaimed, .unitsLost, .unknownUnitFrames, .roamsOut,
      .roamsFailed, .claimsSent, .claimsReceived, .staleHandover, .staleNotices, .talkLimitCutoffs, .waitExpiries,
      .callsNotCarried, .strayCallFrames, .internalDrops, .strayReplies, .deniedRequests].map DevCounter.number
      = List.range 18
    ∧ (∀ p : PortNo,
        [PortCounter.framesGood, .aborted, .tooLong, .lengthErrors, .crcErrors, .headerErrors, .hopExpired, .notRunning,
          .reserveDrops, .emptyDrops, .queueDrops, .displaced, .noRoute, .transmitted].map (portCounterNumber p)
          = List.range' (18 + 14 * p.val) 14)
    ∧ (∀ n : ChannelNo, (chanPort n).val = n.val) ∧ (∀ l : LinkNo, (linkPort l).val = 6 + l.val)
    ∧ portCounterNumber 9 .transmitted = 157

/-! ## Reception and transmission -/

/-- A start delimiter, an abort sequence or the 257th byte ends a frame in progress, which is counted as aborted
or too long unless it was refused a buffer, and its buffer is released; a start delimiter opens a frame (R8,
R9). -/
def Obligations.CutFramesAreCounted : Prop :=
  ∀ (p : PortNo) (s : State), s.resetHeld = false → s.counterLaw →
    let cut (why : PortCounter) (left : Reception) (t : State) : Prop :=
      receptionOf p t = left
        ∧ ((receptionOf p s).isJudged = true → s.raisedAt p why t)
        ∧ ((receptionOf p s).isJudged = false → t.io.live = s.io.live)
        ∧ (∀ q, q ≠ p → receptionOf q t = receptionOf q s) ∧ (∀ q, t.handedAt q = s.handedAt q)
        ∧ s.sameButIo t
        ∧ ∀ h b, receptionOf p s = .store h → bufferOf h s.io = some b → b.refs = 1 →
            s.io.pool.noticePending = false →
            bufferOf h t.io = none ∧ t.io.pool.free = s.io.pool.free ++ [h]
    (∃ t, exec (.startDelimiter p) s = .next t ∧ cut .aborted (.header []) t)
      ∧ (∃ t, exec (.abortSequence p) s = .next t ∧ cut .aborted .hunt t)
      ∧ ∀ b,
          (∃ h, receptionOf p s = .store h ∧ 256 ≤ (bytesOf h s.io).length)
            ∨ (∃ bytes why, receptionOf p s = .discard bytes why ∧ 256 ≤ bytes.length) →
          exec (.dataByte p b) s = exec (.frameTooLong p b) s
            ∧ ∃ t, exec (.frameTooLong p b) s = .next t ∧ cut .tooLong .hunt t

/-- A data byte is ignored in HUNT, joins the header in HEADER, is written to the buffer in STORE and is
counted in DISCARD (R8); the 20th and the 257th are other statements. -/
def Obligations.DataBytesFillFrames : Prop :=
  ∀ (p : PortNo) (b : Byte) (s : State), s.resetHeld = false →
    let receiving (r : Reception) : State :=
      { s with io := { s.io with ports := s.io.ports.set p.val { s.io.ports[p.val] with reception := r } } }
    (receptionOf p s = .hunt → ∃ t, exec (.dataByte p b) s = .next t ∧ t = s)
      ∧ (∀ bytes, receptionOf p s = .header bytes → bytes.length < 19 →
          ∃ t, exec (.dataByte p b) s = .next t ∧ t = receiving (.header (bytes ++ [b])))
      ∧ (∀ h x, receptionOf p s = .store h → bufferOf h s.io = some x → x.bytes.length < 256 →
          ∃ t, exec (.dataByte p b) s = .next t
            ∧ t = { s with io := { s.io with pool := { s.io.pool with allocated := t.io.pool.allocated } } }
            ∧ t.io.pool.allocated.map Buffer.handle = s.io.pool.allocated.map Buffer.handle
            ∧ bufferOf h t.io = some { x with bytes := x.bytes ++ [b] }
            ∧ ∀ k, k ≠ h → bufferOf k t.io = bufferOf k s.io)
      ∧ ∀ bytes why, receptionOf p s = .discard bytes why → bytes.length < 256 →
          ∃ t, exec (.dataByte p b) s = .next t ∧ t = receiving (.discard (bytes ++ [b]) why)

/-- At the 20th byte the header is checked and a buffer of the frame's class is asked for (R10, R19, R20). The checks
are those of R10 with the kinds, ranges and subcodes of R4 and R7, and the class is that of R5. -/
def Obligations.TwentiethByteDecides : Prop :=
  (∀ (p : PortNo) (h : Header) (s : State),
    let f := headerFailures p h s
    (f.length = false ↔ h.lengthInRange) ∧ (f.header = false ↔ s.headerInOrder p h)
      ∧ (f.hop = false ↔ (6 ≤ p.val → h.hop ≠ 0))
      ∧ (f.running = false ↔ s.partState = .running ∨ (6 ≤ p.val ∧ h.kind = 96))
      ∧ (f.any = false ↔ f.length = false ∧ f.header = false ∧ f.hop = false ∧ f.running = false)
      ∧ (h.frameClass = .priority ↔ h.isUrgent))
  ∧ ∀ (p : PortNo) (b : Byte) (bytes : List Byte) (s : State), s.resetHeld = false → s.counterLaw →
    receptionOf p s = .header bytes → bytes.length = 19 →
    let all := bytes ++ [b]
    let hdr := parseHeader all
    let f := headerFailures p hdr s
    exec (.dataByte p b) s = exec (.frameHeaderComplete p b) s
      ∧ ∃ t, exec (.frameHeaderComplete p b) s = .next t ∧ s.sameButIo t
        ∧ (∀ q, q ≠ p → receptionOf q t = receptionOf q s) ∧ (∀ q, t.handedAt q = s.handedAt q)
        ∧ (f.any = true → receptionOf p t = .discard all (.failed f) ∧ t.io.pool = s.io.pool ∧ t.io.live = s.io.live)
        ∧ (f.any = false →
            (∀ k rest, s.io.pool.free = k :: rest →
              hdr.frameClass = .priority ∨ s.active.bufferReserve < s.io.pool.free.length →
              receptionOf p t = .store k ∧ t.io.pool.free = rest ∧ t.io.live = s.io.live
                ∧ bufferOf k t.io = some { handle := k, refs := 1, bytes := all, completion := none })
            ∧ (s.io.pool.free ≠ [] → hdr.frameClass = .routine → s.io.pool.free.length ≤ s.active.bufferReserve →
              receptionOf p t = .discard all .refused ∧ t.io.pool.free = s.io.pool.free ∧ s.raisedAt p .reserveDrops t)
            ∧ (s.io.pool.free = [] → receptionOf p t = .discard all .refused ∧ s.raisedAt p .emptyDrops t))

/-- At its end delimiter a frame is judged by its first failing cause, or counted good and handed on; a stored frame
that fails has its buffer released. Its length is right when it has at least 22 bytes, as many as its payload length
field says, and a payload length in its kind's range, which for a FULL notice is that of its talkgroup count (R4, R7,
R8, R9, R11, R12). -/
def Obligations.EndedFrameIsJudged : Prop :=
  (∀ bytes : List Byte,
    let h := parseHeader bytes
    let count := (byteAt bytes 21).toNat
    frameLengthOk bytes = true ↔
      22 ≤ bytes.length ∧ bytes.length = 22 + h.payloadLength.toNat ∧ h.lengthInRange
        ∧ (h.kind = 64 → h.subcode = 3 → h.payloadLength.toNat = 2 + 2 * count ∧ count ≤ 64))
  ∧ ∀ (p : PortNo) (s : State), s.resetHeld = false → s.counterLaw →
    ∃ t, exec (.judgeFrame p) s = .next t ∧ receptionOf p t = .hunt
      ∧ (∀ q, q ≠ p → receptionOf q t = receptionOf q s) ∧ (∀ q, q ≠ p → t.handedAt q = s.handedAt q)
      ∧ s.sameButIo t
      ∧ (∀ h b, receptionOf p s = .store h → frameLengthOk (bytesOf h s.io) = false ∨ crcGood (bytesOf h s.io) = false →
          bufferOf h s.io = some b → b.refs = 1 → s.io.pool.noticePending = false →
          bufferOf h t.io = none ∧ t.io.pool.free = s.io.pool.free ++ [h])
      ∧ match receptionOf p s with
        | .hunt => t.io.live = s.io.live ∧ t.handedAt p = s.handedAt p
        | .header _ => s.raisedAt p .lengthErrors t ∧ t.handedAt p = s.handedAt p
        | .store h =>
          if frameLengthOk (bytesOf h s.io) = false then s.raisedAt p .lengthErrors t ∧ t.handedAt p = s.handedAt p
          else if crcGood (bytesOf h s.io) = false then s.raisedAt p .crcErrors t ∧ t.handedAt p = s.handedAt p
          else
            s.raisedAt p .framesGood t ∧ t.io.pool = s.io.pool
              ∧ t.handedAt p = s.handedAt p ++ [{ handle := h, toAgent := s.partState == .unconfigured }]
        | .discard bytes (.failed f) =>
          t.handedAt p = s.handedAt p
            ∧ (if frameLengthOk bytes = false then s.raisedAt p .lengthErrors t
              else if crcGood bytes = false then s.raisedAt p .crcErrors t
              else if f.header = true then s.raisedAt p .headerErrors t
              else if f.hop = true then s.raisedAt p .hopExpired t
              else s.raisedAt p .notRunning t)
        | .discard _ .refused => t.io.live = s.io.live ∧ t.handedAt p = s.handedAt p

/-- A completed transmission is counted, its completion request is answered SENT, its reference is dropped,
and the next entry is taken (R14, R25, R45, R95). -/
def Obligations.TransmissionCompletes : Prop :=
  ∀ (p : PortNo) (x : Transmission) (s : State), s.io.ports[p.val].sending = some x → s.counterLaw →
    ∃ t, exec (.transmissionComplete p) s = .next t ∧ s.raisedAt p .transmitted t
      ∧ t.io.ports[p.val].lastEnd = some .endDelimiter ∧ s.sameIntake t ∧ s.sameButUnits t
      ∧ t.talkgroups = s.talkgroups ∧ t.ownSequence = s.ownSequence ∧ t.handoverCounter = s.handoverCounter
      ∧ (∀ u id, completionOf x.entry.handle s.io = some (.roamOrder u id) →
          t.units = s.units.map fun r =>
            { r with
              phase :=
                match r.phase with
                | .departing ch ho sent => .departing ch ho (sent || (r.unit == u && ho.id == id))
                | other => other })
      ∧ ((∀ u id, completionOf x.entry.handle s.io ≠ some (.roamOrder u id)) → t.units = s.units)
      ∧ (completionOf x.entry.handle s.io = some .restartReply → s.io.restart = .awaitingReply → t.io.restart = .due)
      ∧ (s.io.pool.noticePending = false →
          t.queueOf p = (s.queueOf p).tail
            ∧ t.io.ports[p.val].sending.map Transmission.entry = (s.queueOf p).head?
            ∧ ∀ b, bufferOf x.entry.handle s.io = some b → b.refs = 1 →
                t.io.pool.free = s.io.pool.free ++ [x.entry.handle])

/-! ## The pool, the queues and the routes -/

/-- The pool grants or refuses by class against the reserve and keeps its exhaustion condition; a dropped
reference lowers the count, the last one releases the buffer, and a pending notice takes the released buffer: it
is built there and an entry for each management site with a route is placed, and with no such site it is let go
(R17, R19, R24, R26, R27, R164). That the notice stands in its buffer with destination 0 (log entry 13), and that its
entries join one link's queue in ascending order of their sites (log entry 11), are the model's choices. -/
def Obligations.PoolGrantsAndReleases : Prop :=
  (∀ (reserve : Nat) (cls : FrameClass) (io : Io),
    let r := allocate reserve cls io
    r.2.ports = io.ports ∧ r.2.live = io.live ∧ r.2.restart = io.restart
      ∧ (io.pool.free = [] → r.1 = .empty
          ∧ r.2.pool
            = { io.pool with exhaustion := false, noticePending := io.pool.noticePending || io.pool.exhaustion })
      ∧ (∀ h rest, io.pool.free = h :: rest → cls = .routine → io.pool.free.length ≤ reserve →
          r.1 = .reserve ∧ r.2.pool = io.pool)
      ∧ ∀ h rest, io.pool.free = h :: rest → cls = .priority ∨ reserve < io.pool.free.length →
          r.1 = .granted h ∧ r.2.pool.free = rest
            ∧ bufferOf h r.2 = some { handle := h, refs := 1, bytes := [], completion := none }
            ∧ (∀ k, k ≠ h → bufferOf k r.2 = bufferOf k io)
            ∧ r.2.pool.exhaustion = (io.pool.exhaustion || decide (reserve < io.pool.free.length))
            ∧ r.2.pool.noticePending = io.pool.noticePending)
    ∧ ∀ (c : Net) (h : Handle) (b : Buffer) (io : Io), bufferOf h io = some b →
      (2 ≤ b.refs → bufferOf h (dropReference c h io) = some { b with refs := b.refs - 1 }
          ∧ (dropReference c h io).pool.free = io.pool.free)
        ∧ (b.refs = 1 → io.pool.noticePending = false →
            bufferOf h (dropReference c h io) = none ∧ (dropReference c h io).pool.free = io.pool.free ++ [h]
              ∧ (dropReference c h io).pool.exhaustion
                = (io.pool.exhaustion || decide (c.active.bufferReserve < io.pool.free.length + 1)))
        ∧ (b.refs = 1 → io.pool.noticePending = true → io.pool.free = [] → c.managementSites = [] →
            (dropReference c h io).pool.noticePending = false ∧ (dropReference c h io).pool.free = [h]
              ∧ bufferOf h (dropReference c h io) = none)
        ∧ (b.refs = 1 → io.pool.noticePending = true → io.pool.free = [] → c.managementSites ≠ [] →
            (∀ p : PortNo, io.ports[p.val].sending.isSome = true
              ∧ io.ports[p.val].queue.length + c.managementSites.length ≤ 64) →
            let r := dropReference c h io
            r.pool.noticePending = false ∧ r.pool.free = [] ∧ r.live = io.live
              ∧ bufferOf h r
                = some
                    { handle := h
                      refs := c.managementSites.length
                      bytes :=
                        frameBytes
                          { Header.blank .mgmtNotice with
                            origin := BitVec.ofNat 8 c.active.ownSite
                            subcode := 3 }
                          []
                      completion := none }
              ∧ (∀ n : ChannelNo, r.ports[(chanPort n).val].queue = io.ports[(chanPort n).val].queue)
              ∧ ∀ j : LinkNo,
                r.ports[(linkPort j).val].queue
                  = c.queuedVia h c.managementSites j io.ports[(linkPort j).val].queue)

/-- An output queue places an entry by class, and decides a placement at a full queue by class (R41, R42,
R45). -/
def Obligations.QueuePlacesByClass : Prop :=
  ∀ (c : Net) (p : PortNo) (e : Entry) (io : Io), io.pool.noticePending = false →
    let q := io.ports[p.val].queue
    let r := placeEntry c p e io
    (∀ k, k ≠ p → r.ports[k.val].queue = io.ports[k.val].queue)
      ∧ (q.length < 64 → io.ports[p.val].sending.isSome = true → priorityFirst q →
          ∃ a b, q = a ++ b ∧ r.ports[p.val].queue = a ++ e :: b ∧ r.live = io.live
            ∧ (e.cls = .priority → (∀ x ∈ a, x.cls = .priority) ∧ ∀ x ∈ b, x.cls = .routine)
            ∧ (e.cls = .routine → b = []))
      ∧ (q = [] → io.ports[p.val].sending = none →
          r.ports[p.val].queue = []
            ∧ r.ports[p.val].sending = some { entry := e, frame := wireFrame (bytesOf e.handle io) e })
      ∧ (q.length = 64 → e.cls = .routine ∨ (∀ x ∈ q, x.cls = .priority) → r = countPort p .queueDrops io)
      ∧ (q.length = 64 → e.cls = .priority → (∃ x ∈ q, x.cls = .routine) → priorityFirst q →
          ∃ a b d w, q = a ++ b ++ [d] ∧ d.cls = .routine ∧ w = a ++ e :: b ∧ r.ports[p.val].queue = w
            ∧ (∀ x ∈ a, x.cls = .priority) ∧ (∀ x ∈ b, x.cls = .routine)
            ∧ r.live = (countPort p .displaced io).live)

/-- The route to a site is its primary link when that is UP, otherwise its alternate when that is UP; the own
site and a site that is not in the table have none. The subsets of a target set by route link hold exactly
the sites their link routes, and the unreachable sites are the others (R30, R38, R39). -/
def Obligations.RoutesPartitionTargetSets : Prop :=
  ∀ c : Net,
    (∀ (site : SiteId) (l : LinkNo), c.route site = some l ↔
      site ≠ c.active.ownSite ∧ ∃ e, findSite site c.sites = some e
        ∧ c.links[l.val].state = .up
        ∧ (e.primary = some l
          ∨ (e.alternate = some l ∧ ∀ k, e.primary = some k → c.links[k.val].state ≠ .up)))
      ∧ ∀ (set : SiteSet) (l : LinkNo) (n : SiteId),
        (hasSite (c.sitesVia set l) n = true ↔ hasSite set n = true ∧ c.route n = some l)
          ∧ (n ∈ c.unreachable set ↔ hasSite set n = true ∧ c.route n = none)
          ∧ (c.unreachable set).Nodup
          ∧ hasSite (c.sitesVia set l) c.active.ownSite = false
          ∧ (c.sitesVia set l = 0 ↔ ∀ m, hasSite set m = true → c.route m ≠ some l)

/-- A target-set frame from a link whose set does not hold the own site is fanned out with one entry for each
route link, its unreachable sites counted. A frame that is not placed whole within its event is placed entry by entry,
in the steps in which no command waits. A link that enters DOWN or DISABLED before the entry for its group has been
placed has the route of each site of the group found anew: the site joins the group of its new link, in the entry still
to be placed there or in a further one, or, with no route left, is counted as before (R38). How many entries are placed
within the event, and when the engine goes on, is the model's choice (log entry 36), and so is the ascending order of
the links (log entry 11). -/
def Obligations.TargetSetFansOut : Prop :=
  (∀ (l : LinkNo) (x : Handed) (s : State), s.counterLaw → s.io.pool.noticePending = false →
    headHanded (linkPort l) s = some x →
    let hdr := handedHeader x s
    addressedAs .targetSet hdr = true → hasSite hdr.targets s.own = false → (∀ m, s.waitsAt (linkPort m)) →
    ∃ t, exec (.forwardTargetSet l) s = .next t ∧ s.tookHanded (linkPort l) t ∧ s.sameButIo t
      ∧ (∀ n, t.queueOf (chanPort n) = s.queueOf (chanPort n))
      ∧ (hdr.targets = 0 ∨ hdr.hop.toNat ≤ 1 →
          (∀ m, t.queueOf (linkPort m) = s.queueOf (linkPort m)) ∧ t.io.engine = s.io.engine)
      ∧ (hdr.targets ≠ 0 → hdr.hop.toNat ≤ 1 → s.raisedAt (linkPort l) .hopExpired t)
      ∧ (hdr.targets ≠ 0 → 2 ≤ hdr.hop.toNat →
          t.portCounter (linkPort l) .noRoute
              = saturate (s.portCounter (linkPort l) .noRoute + (s.net.unreachable hdr.targets).length)
            ∧ (∀ m, t.queueOf (linkPort m)
              = if s.placesNow hdr.targets m = true then
                  insertEntry
                    { handle := x.handle
                      cls := hdr.frameClass
                      hop := hdr.hop.toNat - 1
                      addressing := .subset (s.net.sitesVia hdr.targets m) }
                    (s.queueOf (linkPort m))
                else s.queueOf (linkPort m))
            ∧ (s.io.engine = Engine.idle → ∀ m, s.placesNow hdr.targets m = (s.net.sitesVia hdr.targets m != 0))
            ∧ s.leavesWork
                { handle := x.handle
                  cls := hdr.frameClass
                  hop := some (hdr.hop.toNat - 1)
                  lostAt := some (linkPort l)
                  groups := Vector.replicate 4 0 }
                hdr.targets t))
    ∧ (∀ (l : LinkNo) (f : Fanout) (rest : List Fanout) (s : State), s.pending = [] → s.io.engine.work = f :: rest →
      s.io.pool.noticePending = false → f.groups[l.val] ≠ 0 → (∀ k : LinkNo, k < l → f.groups[k.val] = 0) →
      s.waitsAt (linkPort l) →
      ∃ t, step s = .next t ∧ s.sameButIo t ∧ s.sameIntake t ∧ t.io.engine.atOnce = s.io.engine.atOnce
        ∧ (∀ p, t.queueOf p
          = if p = linkPort l then
              insertEntry
                { handle := f.handle
                  cls := f.cls
                  hop := f.hop.getD s.active.hopLimit
                  addressing := .subset f.groups[l.val] }
                (s.queueOf p)
            else s.queueOf p)
        ∧ ((∀ k : LinkNo, l < k → f.groups[k.val] = 0) → t.io.engine.work = rest)
        ∧ ∀ k : LinkNo, l < k → f.groups[k.val] ≠ 0 →
          t.io.engine.work = { f with groups := f.groups.set l.val 0 } :: rest)
    ∧ ∀ (l : LinkNo) (new : LinkState) (s : State), new = .down ∨ new = .disabled → (s.link l).state ≠ new →
      s.counterLaw → s.io.pool.noticePending = false →
      let t := setLinkState l new s
      let lost (p : Option PortNo) : Nat :=
        ((s.io.engine.work.filter fun f => f.lostAt == p).map fun f => (t.net.unreachable f.groups[l.val]).length).sum
      (t.link l).state = new ∧ s.reroutes (· == l) t
        ∧ (∀ p, t.portCounter p .noRoute = saturate (s.portCounter p .noRoute + lost (some p)))
        ∧ t.devCounter .internalDrops = saturate (s.devCounter .internalDrops + lost none)

/-- A single-destination frame for another site leaves with its hop count lowered, or is counted under hop expired or
no route; a UNIT MESSAGE without a route is answered UNIT UNREACHABLE (NO ROUTE) (R33, R34). That a MGMT REQUEST with
destination 0, let in while the part was UNCONFIGURED and judged after it entered RUNNING, is one for another site is
the model's choice (log entry 41). -/
def Obligations.SingleDestinationForwarded : Prop :=
  ∀ (l : LinkNo) (x : Handed) (s : State), s.counterLaw → s.io.pool.noticePending = false →
    headHanded (linkPort l) s = some x →
    let hdr := handedHeader x s
    x.toAgent = false → addressedAs .single hdr = true → hdr.destination.toNat ≠ s.own →
    ∃ t, exec (.forwardSingleDestination l) s = .next t ∧ s.tookHanded (linkPort l) t ∧ s.sameButIo t
      ∧ (hdr.hop.toNat ≤ 1 → s.raisedAt (linkPort l) .hopExpired t ∧ s.sameSending t)
      ∧ (2 ≤ hdr.hop.toNat → s.net.route hdr.destination.toNat = none →
          s.raisedAt (linkPort l) .noRoute t ∧ (hdr.isKind .unitMessage = false → s.sameSending t)
            ∧ (hdr.isKind .unitMessage = true →
              s.builtForSite { Header.blank .unitUnreachable with unit := hdr.unit, subcode := 4 } hdr.origin.toNat t))
      ∧ ∀ m, 2 ≤ hdr.hop.toNat → s.net.route hdr.destination.toNat = some m → s.waitsAt (linkPort m) →
          ∀ p, t.queueOf p
            = if p = linkPort m then
                insertEntry
                  { handle := x.handle
                    cls := hdr.frameClass
                    hop := hdr.hop.toNat - 1
                    addressing := .destination hdr.destination.toNat }
                  (s.queueOf p)
              else s.queueOf p

/-- A UNIT MESSAGE for the own site is delivered on its unit's channel, redirected to the partner site, or
answered with UNIT UNREACHABLE; a redirect whose hop limit has run out is counted and dropped, and one without a
route is counted and answered UNIT UNREACHABLE (NO ROUTE) (R34, R36, R67, R68). -/
def Obligations.UnitMessageByRecord : Prop :=
  ∀ (l : LinkNo) (x : Handed) (s : State), s.holdsForOwn l x .unitMessage → s.io.pool.noticePending = false →
    let hdr := handedHeader x s
    let r := s.record hdr.unit.toNat
    let flag := r.any Record.emergency
    ∃ t, exec (.unitMessage l) s = .next t ∧ s.tookHanded (linkPort l) t ∧ s.sameButIo t
      ∧ (∀ ch, (∃ a b, r.map Record.phase = some (.served ch a b)) ∨ (∃ a ho, r.map Record.phase = some (.proposing ch a ho))
            ∨ (∃ ho, r.map Record.phase = some (.departing ch ho false)) →
          s.waitsAt (chanPort ch) →
          t.queueOf (chanPort ch)
            = insertEntry
                { handle := x.handle
                  cls := if hdr.emergency || flag then .priority else .routine
                  hop := 0
                  addressing := .unaddressed }
                (s.queueOf (chanPort ch)))
      ∧ (∀ ho m, (∃ ch, r.map Record.phase = some (.departing ch ho true)) ∨ r.map Record.phase = some (.forward ho) →
          2 ≤ hdr.hop.toNat → s.net.route ho.partner = some m → s.waitsAt (linkPort m) →
          t.queueOf (linkPort m)
            = insertEntry
                { handle := x.handle
                  cls := hdr.frameClass
                  hop := hdr.hop.toNat - 1
                  addressing := .destination ho.partner }
                (s.queueOf (linkPort m)))
      ∧ (∀ ho, (∃ ch, r.map Record.phase = some (.departing ch ho true)) ∨ r.map Record.phase = some (.forward ho) →
          s.counterLaw →
          (hdr.hop.toNat ≤ 1 → s.raisedAt (linkPort l) .hopExpired t ∧ s.sameSending t)
            ∧ (2 ≤ hdr.hop.toNat → s.net.route ho.partner = none →
              s.raisedAt (linkPort l) .noRoute t
                ∧ s.builtForSite { Header.blank .unitUnreachable with unit := hdr.unit, subcode := 4 }
                    hdr.origin.toNat t))
      ∧ ∀ cause k rest m,
          (r = none ∧ cause = 1#8) ∨ (∃ ch d, r.map Record.phase = some (.lost ch d) ∧ cause = 2#8)
            ∨ (∃ ho, r.map Record.phase = some (.arriving ho) ∧ cause = 3#8) →
          s.io.pool.free = k :: rest → s.active.bufferReserve < s.io.pool.free.length →
          s.net.route hdr.origin.toNat = some m → s.waitsAt (linkPort m) → x.handle ≠ k →
          t.queueOf (linkPort m)
              = insertEntry
                  { handle := k
                    cls := .routine
                    hop := s.active.hopLimit
                    addressing := .destination hdr.origin.toNat }
                  (s.queueOf (linkPort m))
            ∧ bytesOf k t.io
              = frameBytes
                  { Header.blank .unitUnreachable with
                    emergency := flag
                    unit := hdr.unit
                    subcode := cause
                    origin := BitVec.ofNat 8 s.own
                    destination := BitVec.ofNat 8 hdr.origin.toNat }
                  []

/-! ## The Unit Table -/

/-- A REGISTER for a unit without a record creates one in the lowest free slot, or reclaims the LOST or FORWARD
record with the earliest state entry time, the lowest slot among equals, or is refused UNKNOWN TALKGROUP or SITE
FULL. The new record's member report sends a JOIN when it is its talkgroup's first, a REGISTER ACCEPT answers, and
a HO CLAIM goes to a last site other than the own (R51, R54, R57, R107, R113, R114). That the JOIN stands in its buffer
with destination 0 is the model's choice (log entry 13). -/
def Obligations.RegisterCreatesRecord : Prop :=
  (∀ s : State,
      (∀ n, freeSlot s = some n ↔
          n < 256 ∧ (∀ r ∈ s.units, r.slot ≠ n) ∧ ∀ m, m < n → ∃ r ∈ s.units, r.slot = m)
        ∧ (reclaimCandidate s = none ↔ ∀ r ∈ s.units, r.phase.number ≠ 4 ∧ r.phase.number ≠ 5)
        ∧ ∀ r, s.unitLaw → reclaimCandidate s = some r →
            r ∈ s.units ∧ (r.phase.number = 4 ∨ r.phase.number = 5)
              ∧ ∀ x ∈ s.units, x.phase.number = 4 ∨ x.phase.number = 5 →
                  r.entryTime.toNat < x.entryTime.toNat
                    ∨ (r.entryTime.toNat = x.entryTime.toNat ∧ r.slot ≤ x.slot))
    ∧ ∀ (n : ChannelNo) (x : Handed) (s : State), s.holds (chanPort n) x .register → s.counterLaw → s.unitLaw →
      let hdr := handedHeader x s
      let g := registrationOf hdr (handedPayload x s)
      s.record g.unit = none →
      ∃ t, exec (.register n) s = .next t ∧ s.tookHanded (chanPort n) t ∧ s.sameButUnits t
        ∧ (findTalkgroup g.talkgroup s.talkgroups = none → s.sameButIo t
          ∧ s.builtOnChannel n
              { Header.blank .registerRefuse with unit := BitVec.ofNat 24 g.unit, subcode := 1 } t)
        ∧ (freeSlot s = none → reclaimCandidate s = none → s.sameButIo t
          ∧ ((findTalkgroup g.talkgroup s.talkgroups).isSome = true →
            s.builtOnChannel n
              { Header.blank .registerRefuse with unit := BitVec.ofNat 24 g.unit, subcode := 2 } t))
        ∧ ∀ e slot,
            findTalkgroup g.talkgroup s.talkgroups = some e →
            freeSlot s = some slot ∨ (freeSlot s = none ∧ (reclaimCandidate s).map Record.slot = some slot) →
            s.raised .recordsCreated t
              ∧ (freeSlot s = none → s.raised .recordsReclaimed t
                  ∧ ∀ r, reclaimCandidate s = some r → t.record r.unit = none)
              ∧ (freeSlot s = some slot → s.sameRecordsBut g.unit t)
              ∧ t.record g.unit
                = some
                    { slot := slot
                      unit := g.unit
                      phase :=
                        .served e.channel
                          { cls := .active
                            timer := some (s.after (s.active.runDownshift * 1000))
                            poll := none
                            outstanding := none
                            misses := 0 }
                          none
                      talkgroup := g.talkgroup
                      emergency := g.marker && !g.clears
                      talking := false
                      talkLimited := false
                      serving := none
                      candidates := [none, none, none, none]
                      roamHold := none
                      entryTime := s.timeBase
                      lastSite := g.lastSite }
              ∧ t.talkgroups
                = s.talkgroups.map (fun k => if k.id = g.talkgroup then { k with members := k.members + 1 } else k)
              ∧ t.ownSequence = (if e.members = 0 then s.ownSequence + 1 else s.ownSequence)
              ∧ (s.roomFor 4 (s.sites.length + 4) →
                s.queuedOn n
                    { Header.blank .registerAccept with
                      unit := BitVec.ofNat 24 g.unit
                      talkgroup := BitVec.ofNat 16 g.talkgroup
                      channel := BitVec.ofNat 8 e.channel.val }
                    [] t
                  ∧ (e.members = 0 →
                    s.noticed s.net
                      { Header.blank .membershipNotice with
                        subcode := 1
                        tag := (s.ownSequence + 1).setWidth 16
                        talkgroup := BitVec.ofNat 16 g.talkgroup }
                      [] s.net.routedSites t)
                  ∧ (g.lastSite ≠ 0 → g.lastSite ≠ s.own → s.raised .claimsSent t
                    ∧ s.queuedFor
                        { Header.blank .hoClaim with
                          emergency := g.marker && !g.clears
                          unit := BitVec.ofNat 24 g.unit }
                        g.lastSite t)
                  ∧ (g.lastSite = 0 ∨ g.lastSite = s.own → t.devCounter .claimsSent = s.devCounter .claimsSent))

/-- A REGISTER for a record in a member state keeps its state and takes its talkgroup, last site and flag; a talkgroup
change moves the record to the talkgroup's channel, and a REGISTER ACCEPT answers (R53 to R55, R58, R65, R96). A
REGISTER, MEASURE, POLL REPLY or CALL START of a LOST record revives it on its talkgroup's present channel with its
member report and a REGISTER ACCEPT, or deletes it when that talkgroup has been removed (R56). Any of the four from a
radio that was sent away makes its DEPARTING record SERVED afresh, tells the partner HO CANCEL (RETURNED), starts the
roam hold and counts a failed roam (R57, R83, R97). A REGISTER of a member that names a talkgroup not in the table is
answered REGISTER REFUSE (UNKNOWN TALKGROUP) and changes nothing but what its notice and, of a radio sent away, its
return do (R53, R55, R58, R96). Whatever the frame is, it is then handled as the same frame of the record as it now
is, or of a unit without one: a MEASURE is learnt from, a CALL START decided or refused, and a REGISTER updates the
member, as the statements on these say (R56, R97). -/
def Obligations.RegisterUpdatesServed : Prop :=
  let accept (u : UnitId) (g : TalkgroupId) (ch : ChannelNo) : Header :=
    { Header.blank .registerAccept with
      unit := BitVec.ofNat 24 u
      talkgroup := BitVec.ofNat 16 g
      channel := BitVec.ofNat 8 ch.val }
  let signs (n : ChannelNo) : List (Instr × Kind) :=
    [(.register n, .register), (.measure n, .measure), (.pollReply n, .pollReply), (.callStart n, .callStart)]
  let fresh (s : State) : Activity :=
    { cls := .active
      timer := some (s.after (s.active.runDownshift * 1000))
      poll := none
      outstanding := none
      misses := 0 }
  let refusal (u : UnitId) : Header :=
    { Header.blank .registerRefuse with unit := BitVec.ofNat 24 u, subcode := 1 }
  (∀ (n : ChannelNo) (x : Handed) (r : Record) (s : State), s.holds (chanPort n) x .register →
    let g := registrationOf (handedHeader x s) (handedPayload x s)
    s.record g.unit = some r → findTalkgroup g.talkgroup s.talkgroups = none → r.phase.atHome = true →
    ∃ t, exec (.register n) s = .next t ∧ s.tookHanded (chanPort n) t
      ∧ t = { s with io := t.io, units := t.units } ∧ s.sameRecordsBut g.unit t
      ∧ t.record g.unit
        = some { r with emergency := r.emergency || g.marker, phase := r.phase.mapActivity s.activeAgain }
      ∧ s.builtOnChannel n (refusal g.unit) t)
    ∧ (∀ (n : ChannelNo) (x : Handed) (r : Record) (ch : ChannelNo) (e : TalkgroupEntry) (s : State),
    s.holds (chanPort n) x .register →
    let g := registrationOf (handedHeader x s) (handedPayload x s)
    s.record g.unit = some r → findTalkgroup g.talkgroup s.talkgroups = some e →
    (∃ a b, r.phase = .served ch a b) ∨ (∃ a ho, r.phase = .proposing ch a ho) ∨ (∃ ho, r.phase = .departing ch ho false) →
    ∃ t r', exec (.register n) s = .next t ∧ s.tookHanded (chanPort n) t ∧ s.sameButUnits t
      ∧ s.sameRecordsBut g.unit t ∧ t.record g.unit = some r'
      ∧ r'.talkgroup = g.talkgroup ∧ r'.lastSite = g.lastSite
      ∧ r'.emergency = ((r.emergency || g.marker) && !g.clears)
      ∧ r'.phase.number = r.phase.number
      ∧ r'.phase.channel? = some (if g.talkgroup = r.talkgroup then ch else e.channel)
      ∧ r'.phase.handover? = r.phase.handover?
      ∧ (∀ a, r'.phase.activity? = some a →
          a.cls = .active ∧ a.timer = some (s.after (s.active.runDownshift * 1000)))
      ∧ r' = { r with
          talkgroup := r'.talkgroup, lastSite := r'.lastSite, emergency := r'.emergency, phase := r'.phase }
      ∧ (g.talkgroup = r.talkgroup → t.talkgroups = s.talkgroups ∧ t.ownSequence = s.ownSequence)
      ∧ (g.talkgroup ≠ r.talkgroup →
        t.talkgroups
          = s.talkgroups.map fun k =>
            if k.id = r.talkgroup then { k with members := k.members - 1 }
            else if k.id = g.talkgroup then { k with members := k.members + 1 }
            else k)
      ∧ (s.roomFor 4 (2 * s.sites.length + 4) →
        s.queuedOn n (accept g.unit g.talkgroup (if g.talkgroup = r.talkgroup then ch else e.channel)) [] t))
    ∧ (∀ (c : Instr) (k : Kind) (n : ChannelNo) (x : Handed) (r : Record) (ch : ChannelNo) (d : Nat) (s : State),
      (c, k) ∈ signs n → s.holds (chanPort n) x k → s.counterLaw →
      let hdr := handedHeader x s
      let u := hdr.unit.toNat
      s.record u = some r → r.phase = .lost ch d →
      let counted (g : TalkgroupId) := s.talkgroups.map fun y => if y.id = g then { y with members := y.members + 1 } else y
      ∃ t, exec c s = .next t ∧ s.tookHanded (chanPort n) t
        ∧ (∀ own, findTalkgroup r.talkgroup s.talkgroups = some own → k ≠ .register →
          ∃ r', t.record u = some r' ∧ r'.phase.number ≤ 1 ∧ (k ≠ .measure → r'.phase.number = 0)
            ∧ r'.phase.channel? = some own.channel ∧ r'.phase.activity? = some (fresh s)
            ∧ r'.talkgroup = r.talkgroup ∧ r'.slot = r.slot ∧ r'.emergency = (r.emergency || hdr.emergency)
            ∧ r'.entryTime = s.timeBase ∧ t.talkgroups = counted r.talkgroup
            ∧ (s.roomFor 8 (s.sites.length + 8) → s.queuedOn n (accept u r.talkgroup own.channel) [] t))
        ∧ (∀ own, findTalkgroup r.talkgroup s.talkgroups = some own → k = .register →
          let g := registrationOf hdr (handedPayload x s)
          (findTalkgroup g.talkgroup s.talkgroups = none →
              t.record u
                  = some
                      { r with
                        phase := .served own.channel (fresh s) none
                        emergency := r.emergency || hdr.emergency
                        entryTime := s.timeBase }
                ∧ t.talkgroups = counted r.talkgroup
                ∧ (s.roomFor 4 (s.sites.length + 4) →
                  s.queuedOn n { Header.blank .registerRefuse with unit := hdr.unit, subcode := 1 } [] t))
            ∧ ∀ e, findTalkgroup g.talkgroup s.talkgroups = some e →
              t.record u
                  = some
                      { r with
                        phase := .served e.channel (fresh s) none
                        talkgroup := g.talkgroup
                        emergency := (r.emergency || g.marker) && !g.clears
                        lastSite := g.lastSite
                        entryTime := s.timeBase }
                ∧ t.talkgroups = counted g.talkgroup
                ∧ (s.roomFor 6 (3 * s.sites.length + 4) → s.queuedOn n (accept u g.talkgroup e.channel) [] t))
        ∧ (findTalkgroup r.talkgroup s.talkgroups = none → s.raised .recordsDeleted t
          ∧ (k ≠ .register → t.record u = none ∧ t.talkgroups = s.talkgroups ∧ s.sameRecordsBut u t)
          ∧ (k = .measure ∨ k = .pollReply → s.raised .unknownUnitFrames t)
          ∧ (k = .register →
            let g := registrationOf hdr (handedPayload x s)
            (findTalkgroup g.talkgroup s.talkgroups = none → t.record u = none ∧ t.talkgroups = s.talkgroups)
              ∧ ∀ e, findTalkgroup g.talkgroup s.talkgroups = some e → s.unitLaw → s.raised .recordsCreated t
                ∧ (∃ r', t.record u = some r' ∧ r'.phase = .served e.channel (fresh s) none
                  ∧ r'.talkgroup = g.talkgroup ∧ r'.entryTime = s.timeBase)
                ∧ t.talkgroups = counted g.talkgroup)))
    ∧ (∀ (c : Instr) (k : Kind) (n : ChannelNo) (x : Handed) (r : Record) (s : State),
      (c, k) ∈ signs n → s.holds (chanPort n) x k → s.counterLaw → s.poolLaw → s.referenceLaw →
      let hdr := handedHeader x s
      let u := hdr.unit.toNat
      let goesOnAs (m : State) : Prop :=
        exec c s = exec c m ∧ m.holds (chanPort n) x k ∧ handedHeader x m = hdr
          ∧ handedPayload x m = handedPayload x s ∧ s.sameIntake m ∧ s.sameRecordsBut u m
      s.record u = some r →
      (∀ ch ho, r.phase = .departing ch ho true →
        ∃ m, goesOnAs m ∧ m = { s with io := m.io, units := m.units } ∧ s.raised .roamsFailed m
          ∧ m.record u
            = some
                { r with
                  phase := .served ch (fresh s) none
                  emergency := r.emergency || hdr.emergency
                  entryTime := s.timeBase
                  roamHold := some (s.after (s.active.roamHold * 1000)) }
          ∧ ∀ frames entries, s.roomFor (frames + 1) (entries + 1) → m.roomFor frames entries
            ∧ s.queuedFor
                { Header.blank .hoCancel with unit := hdr.unit, tag := BitVec.ofNat 16 ho.id, subcode := 4 }
                ho.partner m)
        ∧ ∀ ch d, r.phase = .lost ch d → k ≠ .register →
          (∀ own, findTalkgroup r.talkgroup s.talkgroups = some own →
            ∃ m, goesOnAs m
              ∧ m = { s with
                    io := m.io
                    units := m.units
                    talkgroups :=
                      s.talkgroups.map fun y => if y.id = r.talkgroup then { y with members := y.members + 1 } else y
                    ownSequence := if own.members = 0 then s.ownSequence + 1 else s.ownSequence }
              ∧ m.record u
                = some
                    { r with
                      phase := .served own.channel (fresh s) none
                      emergency := r.emergency || hdr.emergency
                      entryTime := s.timeBase }
              ∧ ∀ frames entries, s.roomFor (frames + 2) (entries + s.sites.length + 1) → m.roomFor frames entries
                ∧ s.queuedOn n (accept u r.talkgroup own.channel) [] m)
            ∧ (findTalkgroup r.talkgroup s.talkgroups = none →
              ∃ m, goesOnAs m ∧ m = { s with io := m.io, units := m.units } ∧ m.record u = none
                ∧ m.io.pool = s.io.pool ∧ m.io.ports = s.io.ports ∧ s.raised .recordsDeleted m))
    ∧ ∀ (c : Instr) (k : Kind) (n : ChannelNo) (x : Handed) (r : Record) (ch : ChannelNo) (ho : Handover) (s : State),
      (c, k) ∈ signs n → s.holds (chanPort n) x k → s.counterLaw →
      let hdr := handedHeader x s
      let u := hdr.unit.toNat
      s.record u = some r → r.phase = .departing ch ho true →
      ∃ t r', exec c s = .next t ∧ s.tookHanded (chanPort n) t ∧ t.record u = some r' ∧ r'.phase.number = 0
        ∧ (r'.phase.channel? = some ch ∨ k = .register) ∧ r'.phase.activity? = some (fresh s)
        ∧ r'.entryTime = s.timeBase ∧ r'.roamHold = some (s.after (s.active.roamHold * 1000)) ∧ s.raised .roamsFailed t
        ∧ (k = .register → findTalkgroup hdr.talkgroup.toNat s.talkgroups = none →
          r'
              = { r with
                  phase := .served ch (fresh s) none
                  emergency := r.emergency || hdr.emergency
                  entryTime := s.timeBase
                  roamHold := some (s.after (s.active.roamHold * 1000)) }
            ∧ t.talkgroups = s.talkgroups ∧ (s.roomFor 8 (2 * s.sites.length + 8) → s.queuedOn n (refusal u) [] t))
        ∧ (s.roomFor 8 (2 * s.sites.length + 8) →
          s.queuedFor
            { Header.blank .hoCancel with
              unit := hdr.unit
              tag := BitVec.ofNat 16 ho.id
              subcode := 4 }
            ho.partner t)

/-- A REGISTER ends a handover: an ARRIVING record enters SERVED with its roam hold running, a FORWARD record is
reclaimed from its partner, each with its member report. A REGISTER ACCEPT answers, and the partner is told HO
COMPLETE or HO CLAIM; with no talkgroup to serve the REGISTER is refused UNKNOWN TALKGROUP and the record stays as
it is (R54, R57, R83, R85, R102, R105, R107). That a marked REGISTER sets the flag of a FORWARD record too, by its
notice, is read from R53 and R65 against R101 (log entry 34). -/
def Obligations.RegisterEndsHandover : Prop :=
  (∀ (n : ChannelNo) (x : Handed) (r : Record) (ho : Handover) (e : TalkgroupEntry) (s : State),
    s.holds (chanPort n) x .register →
    let g := registrationOf (handedHeader x s) (handedPayload x s)
    s.record g.unit = some r →
    (r.phase = .arriving ho ∧ chosenTalkgroup g r s = some e)
      ∨ (r.phase = .forward ho ∧ findTalkgroup g.talkgroup s.talkgroups = some e) →
    ∃ t, exec (.register n) s = .next t ∧ s.tookHanded (chanPort n) t ∧ s.sameButUnits t
      ∧ s.sameRecordsBut g.unit t
      ∧ t.record g.unit
        = some
            { r with
              phase :=
                .served e.channel
                  { cls := .active
                    timer := some (s.after (s.active.runDownshift * 1000))
                    poll := none
                    outstanding := none
                    misses := 0 }
                  none
              talkgroup := e.id
              emergency := (r.emergency || g.marker) && !g.clears
              lastSite := g.lastSite
              entryTime := s.timeBase
              roamHold :=
                if r.phase = .arriving ho then some (s.after (s.active.roamHold * 1000)) else r.roamHold }
      ∧ t.talkgroups = s.talkgroups.map (fun k => if k.id = e.id then { k with members := k.members + 1 } else k)
      ∧ (s.counterLaw → r.phase = .forward ho → s.roomFor 4 (s.sites.length + 4) → s.raised .claimsSent t)
      ∧ (s.roomFor 4 (s.sites.length + 4) →
        s.queuedOn n
            { Header.blank .registerAccept with
              unit := BitVec.ofNat 24 g.unit
              talkgroup := BitVec.ofNat 16 e.id
              channel := BitVec.ofNat 8 e.channel.val }
            [] t
          ∧ (r.phase = .arriving ho →
            s.queuedFor
              { Header.blank .hoComplete with
                emergency := (r.emergency || g.marker) && !g.clears
                unit := BitVec.ofNat 24 g.unit
                tag := BitVec.ofNat 16 ho.id }
              ho.partner t)
          ∧ (r.phase = .forward ho →
            s.queuedFor
              { Header.blank .hoClaim with
                emergency := (r.emergency || g.marker) && !g.clears
                unit := BitVec.ofNat 24 g.unit }
              ho.partner t)))
    ∧ ∀ (n : ChannelNo) (x : Handed) (r : Record) (ho : Handover) (s : State), s.holds (chanPort n) x .register →
      let g := registrationOf (handedHeader x s) (handedPayload x s)
      s.record g.unit = some r → findTalkgroup g.talkgroup s.talkgroups = none →
      (r.phase = .arriving ho ∧ findTalkgroup r.talkgroup s.talkgroups = none) ∨ r.phase = .forward ho →
      ∃ t, exec (.register n) s = .next t ∧ s.tookHanded (chanPort n) t
        ∧ t = { s with io := t.io, units := t.units } ∧ s.sameRecordsBut g.unit t
        ∧ t.record g.unit = some { r with emergency := r.emergency || g.marker }
        ∧ s.builtOnChannel n { Header.blank .registerRefuse with unit := BitVec.ofNat 24 g.unit, subcode := 1 } t

/-- A POLL REPLY ends an outstanding poll without a miss and leaves the class as it was; with the marker it sets
the emergency flag, which makes a DORMANT record QUIET (R53, R59, R61, R65). One of a unit without a record is counted
under unknown unit frames, and one of an ARRIVING, a FORWARD or, with order sent clear, a DEPARTING record is set aside
without count, its marker setting the flag (R53, R69, R96, R101, R106; the flag of a FORWARD record, log entry 34). -/
def Obligations.PollReplyEndsPoll : Prop :=
  (∀ (n : ChannelNo) (x : Handed) (s : State), s.holds (chanPort n) x .pollReply → s.counterLaw →
    let hdr := handedHeader x s
    let u := hdr.unit.toNat
    (s.record u = none →
      ∃ t, exec (.pollReply n) s = .next t ∧ s.tookHanded (chanPort n) t ∧ s.sameButIo t ∧ s.raised .unknownUnitFrames t
        ∧ (s.io.pool.noticePending = false → s.sameSending t))
      ∧ ∀ r, s.record u = some r →
        (∃ ho, r.phase = .arriving ho ∨ r.phase = .forward ho ∨ ∃ ch, r.phase = .departing ch ho false) →
        ∃ t, exec (.pollReply n) s = .next t ∧ s.tookHanded (chanPort n) t
          ∧ t = { s with io := t.io, units := t.units } ∧ s.sameRecordsBut u t
          ∧ t.record u = some { r with emergency := r.emergency || hdr.emergency }
          ∧ t.devCounter .unknownUnitFrames = s.devCounter .unknownUnitFrames
          ∧ (s.io.pool.noticePending = false → s.sameSending t))
  ∧ ∀ (n : ChannelNo) (x : Handed) (r : Record) (a : Activity) (s : State), s.holds (chanPort n) x .pollReply →
    let hdr := handedHeader x s
    s.record hdr.unit.toNat = some r → r.phase.activity? = some a →
    let flag := r.emergency || hdr.emergency
    let woken : Bool := !r.emergency && hdr.emergency && a.cls == .dormant
    let cls := if woken then ActivityClass.quiet else a.cls
    ∃ t r' a', exec (.pollReply n) s = .next t ∧ s.tookHanded (chanPort n) t ∧ s.sameButUnits t
      ∧ s.sameRecordsBut hdr.unit.toNat t ∧ t.talkgroups = s.talkgroups
      ∧ t.record hdr.unit.toNat = some r' ∧ r' = { r with emergency := flag, phase := r'.phase }
      ∧ r'.phase.number = r.phase.number ∧ r'.phase.channel? = r.phase.channel?
      ∧ r'.phase.handover? = r.phase.handover? ∧ r'.phase.activity? = some a'
      ∧ a'.cls = cls ∧ a'.misses = 0 ∧ a'.outstanding = none ∧ a'.timer = a.timer
      ∧ a'.poll
        = (if a.outstanding.isSome || woken then some (s.after (pollInterval s.active cls * 1000)) else a.poll)

/-- The activity timer makes an ACTIVE record QUIET and a QUIET one DORMANT, unless in emergency. The poll timer of
a QUIET or DORMANT record places a POLL on its channel and starts its wait, or, refused its buffer, is started
again without a miss; the wait of an outstanding poll counts a miss, and at the limit the record goes LOST with
its member report, and with a record in emergency every management site with a route is told EMERGENCY UNIT LOST
(R58 to R60, R62, R63, R66, R164). That this notice stands in its buffer with destination 0 is the model's choice (log
entry 13). -/
def Obligations.PresenceTimersExpire : Prop :=
  (∀ (u : UnitId) (r : Record) (a : Activity) (s : State), s.record u = some r → r.phase.activity? = some a →
      s.due a.timer = true →
      ∃ t r' a', exec (.activityTimerExpiry u) s = .next t ∧ t.record u = some r' ∧ s.sameRecordsBut u t
        ∧ t = { s with units := t.units } ∧ r' = { r with phase := r'.phase }
        ∧ r'.phase.number = r.phase.number ∧ r'.phase.channel? = r.phase.channel?
        ∧ r'.phase.handover? = r.phase.handover? ∧ r'.phase.activity? = some a'
        ∧ a'.misses = a.misses ∧ a'.outstanding = a.outstanding
        ∧ (a.cls = .active → a'.cls = .quiet ∧ a'.timer = some (s.after (s.active.quietDownshift * 1000))
            ∧ a'.poll = some (s.after (s.active.quietPoll * 1000)))
        ∧ (a.cls = .quiet → r.emergency = true → a'.cls = .quiet ∧ a'.timer = none ∧ a'.poll = a.poll)
        ∧ (a.cls = .quiet → r.emergency = false → a'.cls = .dormant ∧ a'.timer = none
            ∧ a'.poll = (if a.outstanding.isNone then some (s.after (s.active.dormantPoll * 1000)) else a.poll)))
    ∧ (∀ (u : UnitId) (r : Record) (a : Activity) (ch : ChannelNo) (s : State), s.record u = some r →
      r.phase.activity? = some a → r.phase.channel? = some ch → s.due a.poll = true → a.cls ≠ .active →
      a.outstanding = none → s.counterLaw → s.io.pool.noticePending = false →
      ∃ t r' a', exec (.pollTimerExpiry u) s = .next t ∧ t.record u = some r' ∧ s.sameRecordsBut u t
        ∧ t = { s with io := t.io, units := t.units } ∧ s.sameIntake t ∧ r' = { r with phase := r'.phase }
        ∧ r'.phase.number = r.phase.number ∧ r'.phase.channel? = some ch ∧ r'.phase.activity? = some a'
        ∧ a'.cls = a.cls ∧ a'.timer = a.timer ∧ a'.misses = a.misses
        ∧ (s.io.pool.free.length ≤ s.active.bufferReserve → a'.outstanding = none
            ∧ a'.poll = some (s.after (pollInterval s.active a.cls * 1000)) ∧ s.raised .internalDrops t
            ∧ s.sameSending t)
        ∧ ∀ k rest, s.io.pool.free = k :: rest → s.active.bufferReserve < s.io.pool.free.length →
            a'.outstanding = some (s.after (s.active.pollReplyWait * 1000)) ∧ a'.poll = none
              ∧ (s.waitsAt (chanPort ch) →
                t.queueOf (chanPort ch)
                    = insertEntry { handle := k, cls := .routine, hop := 0, addressing := .unaddressed }
                        (s.queueOf (chanPort ch))
                  ∧ bytesOf k t.io
                    = frameBytes
                        { Header.blank .poll with emergency := r.emergency, unit := BitVec.ofNat 24 r.unit } []))
    ∧ ∀ (u : UnitId) (r : Record) (a : Activity) (ch : ChannelNo) (s : State), s.record u = some r →
      r.phase.activity? = some a → r.phase.channel? = some ch → s.due a.outstanding = true → s.counterLaw →
      ∃ t r', exec (.pollReplyWaitExpiry u) s = .next t ∧ t.record u = some r' ∧ s.sameRecordsBut u t
        ∧ s.sameButUnits t ∧ s.sameIntake t
        ∧ (a.misses + 1 < s.active.pollMissLimit →
            t = { s with units := t.units } ∧ r' = { r with phase := r'.phase }
              ∧ r'.phase.number = r.phase.number
              ∧ r'.phase.activity?
                = some
                    { a with
                      outstanding := none
                      misses := a.misses + 1
                      poll := some (s.after (pollInterval s.active a.cls * 1000)) })
        ∧ (s.active.pollMissLimit ≤ a.misses + 1 →
            s.raised .unitsLost t
              ∧ r' = { r with phase := .lost ch (s.after (s.active.lostHold * 1000)), entryTime := s.timeBase }
              ∧ t.talkgroups
                = s.talkgroups.map (fun k => if k.id = r.talkgroup then { k with members := k.members - 1 } else k)
              ∧ (r.emergency = true → s.roomFor 2 (2 * s.sites.length) →
                s.noticed s.net
                  { Header.blank .mgmtNotice with
                    unit := BitVec.ofNat 24 r.unit
                    talkgroup := BitVec.ofNat 16 r.talkgroup
                    subcode := 2 }
                  [] s.net.managementSites t)
              ∧ (r.emergency = false → (∀ g, findTalkgroup r.talkgroup s.talkgroups = some g → g.members ≠ 1) →
                s.sameSending t))

/-- The lost hold, the arrival timer and the forward hold delete their record when they expire, without a
member report (R52, R64, R101, R106). -/
def Obligations.ExpiredRecordsAreDeleted : Prop :=
  ∀ (u : UnitId) (r : Record) (s : State), s.record u = some r → s.counterLaw →
    let gone (t : State) : Prop :=
      t.record u = none ∧ s.sameRecordsBut u t ∧ s.raised .recordsDeleted t
        ∧ t = { s with io := t.io, units := t.units } ∧ s.sameIntake t ∧ s.sameSending t ∧ t.io.pool = s.io.pool
    (∀ ch d, r.phase = .lost ch d → s.elapsed d = true → ∃ t, exec (.lostHoldExpiry u) s = .next t ∧ gone t)
      ∧ (∀ ho, r.phase = .arriving ho → s.elapsed ho.deadline = true →
          ∃ t, exec (.arrivalExpiry u) s = .next t ∧ gone t)
      ∧ (∀ ho, r.phase = .forward ho → s.elapsed ho.deadline = true →
          ∃ t, exec (.forwardHoldExpiry u) s = .next t ∧ gone t)

/-! ## The Roam Selector -/

/-- A filtered level moves toward the reported level without passing it, by the quotient truncated toward zero,
and all the way with a weight of 16; the sieve keeps the pairs of Neighbor Table sites other than the own
site, the first of each site (R74, R75). -/
def Obligations.FilterAndSieve : Prop :=
  (∀ (k : Nat) (level f : Int), k ≤ 16 →
    (f ≤ level * 16 → f ≤ filterStep k level f ∧ filterStep k level f ≤ level * 16)
      ∧ (level * 16 ≤ f → level * 16 ≤ filterStep k level f ∧ filterStep k level f ≤ f)
      ∧ 16 * (filterStep k level f - f).natAbs ≤ (level * 16 - f).natAbs * k
      ∧ (level * 16 - f).natAbs * k < 16 * (filterStep k level f - f).natAbs + 16
      ∧ filterStep 16 level f = level * 16)
    ∧ ∀ (own : SiteId) (t : List (Option NeighborEntry)) (pairs : List (SiteId × Int)),
      let kept := sieve own t [] pairs
      kept.Sublist pairs ∧ (kept.map Prod.fst).Nodup
        ∧ (∀ x ∈ kept, x.1 ≠ 0 ∧ x.1 ≠ own ∧ (findNeighbor x.1 t).isSome = true)
        ∧ ∀ n, n ≠ 0 → n ≠ own → (findNeighbor n t).isSome = true →
            ∀ level, pairs.find? (fun x => x.1 == n) = some (n, level) → (n, level) ∈ kept

/-- A MEASURE of a member steps the serving filter, ages the candidate slots, admits newcomers and judges the slots;
no other record moves (R73 to R79). A slot is aged by its reported level, or by a miss that clears its count and
frees it at the third; a newcomer takes the lowest empty slot, or the slot of the lowest score when it beats that
score; a reported slot's count rises to 15 while it qualifies and is cleared when it does not (R76 to R79). Two
points are the model's choice: that a newcomer's having no slot is judged at its turn (log entry 27), and that a
slot whose site the report leaves out is not judged (log entry 33). A SERVED record's trigger makes it PROPOSING
with the named site as partner, the own handover counter as id and the reply wait running, and sends HO REQUEST;
with no buffer the roam hold starts and a failed roam is counted (R81, R83, R89, R91). The report makes a SERVED or
PROPOSING record ACTIVE and starts its activity timer again (R58). One of a unit without a record is counted under
unknown unit frames, and one of an ARRIVING or FORWARD record is set aside, its marker setting the flag (R53, R69, R73,
R101, R106; the flag of a FORWARD record, log entry 34). -/
def Obligations.MeasureLearns : Prop :=
  (∀ (n : ChannelNo) (x : Handed) (s : State), s.holds (chanPort n) x .measure → s.counterLaw →
    let hdr := handedHeader x s
    let u := hdr.unit.toNat
    (s.record u = none →
      ∃ t, exec (.measure n) s = .next t ∧ s.tookHanded (chanPort n) t ∧ s.sameButIo t ∧ s.raised .unknownUnitFrames t
        ∧ (s.io.pool.noticePending = false → s.sameSending t))
      ∧ ∀ r ho, s.record u = some r → r.phase = .arriving ho ∨ r.phase = .forward ho →
        ∃ t, exec (.measure n) s = .next t ∧ s.tookHanded (chanPort n) t
          ∧ t = { s with io := t.io, units := t.units } ∧ s.sameRecordsBut u t
          ∧ t.record u = some { r with emergency := r.emergency || hdr.emergency }
          ∧ t.devCounter .unknownUnitFrames = s.devCounter .unknownUnitFrames
          ∧ (s.io.pool.noticePending = false → s.sameSending t))
    ∧ (∀ (n : ChannelNo) (x : Handed) (r : Record) (s : State), s.holds (chanPort n) x .measure →
    let hdr := handedHeader x s
    let payload := handedPayload x s
    s.record hdr.unit.toNat = some r → r.phase.isMember = true →
    (∀ ch ho, r.phase ≠ .departing ch ho true) →
    let nbs := sieve s.own s.neighbors [] (measurePairs payload)
    let level := levelOf (byteAt payload 0)
    let serving := match r.serving with
      | none => level * 16
      | some f => filterStep s.active.filterWeight level f
    let learned : Record :=
      { r with
        emergency := r.emergency || hdr.emergency
        serving := some serving
        candidates :=
          (nbs.foldl (admitTo s.neighbors) (r.candidates.map (ageSlot s.active.filterWeight nbs))).map
            (Option.map (judgeReported s.active s.neighbors serving nbs)) }
    let trigger := triggerSite s.net s.neighbors learned
    ∃ t r', exec (.measure n) s = .next t ∧ s.tookHanded (chanPort n) t ∧ s.sameButUnits t
      ∧ s.sameRecordsBut hdr.unit.toNat t ∧ t.record hdr.unit.toNat = some r'
      ∧ r'.serving = learned.serving ∧ r'.candidates = learned.candidates ∧ r'.emergency = learned.emergency
      ∧ r'.talkgroup = r.talkgroup ∧ r'.slot = r.slot
      ∧ r'.phase.channel? = r.phase.channel? ∧ r'.phase.activity? = r.phase.activity?.map s.activeAgain
      ∧ (r'.phase.number = r.phase.number
          ∨ (r.phase.number = 0 ∧ r'.phase.number = 1
            ∧ t.handoverCounter = if 255 ≤ s.handoverCounter then 1 else s.handoverCounter + 1))
      ∧ t.talkgroups = s.talkgroups
      ∧ (r.phase.number ≠ 0 ∨ trigger = none →
        r'.phase.number = r.phase.number ∧ r'.roamHold = r.roamHold ∧ t.handoverCounter = s.handoverCounter)
      ∧ ∀ site, r.phase.number = 0 → trigger = some site →
          (s.io.pool.free ≠ [] →
            r'.phase.number = 1 ∧ r'.entryTime = s.timeBase ∧ r'.roamHold = r.roamHold
              ∧ r'.phase.handover?
                = some { partner := site, id := s.handoverCounter, deadline := s.timeBase.toNat + s.active.replyWait }
              ∧ s.builtForSite
                  { Header.blank .hoRequest with
                    emergency := learned.emergency
                    unit := hdr.unit
                    talkgroup := BitVec.ofNat 16 r.talkgroup
                    tag := BitVec.ofNat 16 s.handoverCounter }
                  site t)
            ∧ (s.io.pool.free = [] →
              r'.phase.number = 0 ∧ t.handoverCounter = s.handoverCounter
                ∧ r'.roamHold = some (s.timeBase.toNat + s.active.roamHold * 1000)
                ∧ (s.counterLaw → s.raised .roamsFailed t ∧ s.raised .internalDrops t)))
    ∧ (∀ (k : Nat) (nbs : List (SiteId × Int)) (c : Candidate),
      ageSlot k nbs none = none
        ∧ (∀ level, nbs.lookup c.site = some level →
          ageSlot k nbs (some c) = some { c with level := filterStep k level c.level, misses := 0 })
        ∧ (nbs.lookup c.site = none →
          ageSlot k nbs (some c)
            = if c.misses + 1 < 3 then some { c with misses := c.misses + 1, qualify := 0 } else none))
    ∧ (∀ (t : List (Option NeighborEntry)) (slots : List (Option Candidate)) (n : SiteId) (level : Int),
      let new : Option Candidate := some { site := n, level := level * 16, qualify := 0, misses := 0 }
      let score (c : Candidate) : Int := c.level + 16 * biasOf c.site t
      ((∃ c, some c ∈ slots ∧ c.site = n) → admitTo t slots (n, level) = slots)
        ∧ ((∀ c, some c ∈ slots → c.site ≠ n) →
          (∀ i, slots[i]? = some none → (∀ j, j < i → slots[j]? ≠ some none) →
            admitTo t slots (n, level) = slots.set i new)
            ∧ (none ∉ slots → ∀ i c, slots[i]? = some (some c) →
              (∀ j d, slots[j]? = some (some d) → score c < score d ∨ (score c = score d ∧ i ≤ j)) →
              admitTo t slots (n, level) = if score c < level * 16 + 16 * biasOf n t then slots.set i new else slots)))
    ∧ ∀ (p : Params) (t : List (Option NeighborEntry)) (serving : Int) (nbs : List (SiteId × Int)) (c : Candidate),
      let advantage := c.level + 16 * biasOf c.site t - serving
      (nbs.lookup c.site = none → judgeReported p t serving nbs c = c)
        ∧ (nbs.lookup c.site ≠ none →
          judgeReported p t serving nbs c
            = { c with
                qualify :=
                  if 16 * (p.hysteresis : Int) ≤ advantage ∨ (serving < 16 * p.coverageFloor ∧ 0 < advantage) then
                    min 15 (c.qualify + 1)
                  else 0 })

/-- The trigger names the eligible slot that has dwelt with the largest advantage, the lowest Neighbor Table
index among equals (R80, R81). -/
def Obligations.TriggerIsTheBestSlot : Prop :=
  ∀ (c : Net) (t : List (Option NeighborEntry)) (r : Record) (serving : Int), r.serving = some serving →
    let ready (x : Candidate) : Prop :=
      some x ∈ r.candidates ∧ (∃ e, findNeighbor x.site t = some e ∧ e.enabled = true)
        ∧ (∃ l, c.route x.site = some l) ∧ r.roamHold = none ∧ r.talking = false
        ∧ (r.emergency = true → serving < 16 * c.active.coverageFloor) ∧ c.active.dwell ≤ x.qualify
    (triggerSite c t r = none ↔ ∀ x, ¬ready x)
      ∧ ∀ n, triggerSite c t r = some n →
          ∃ x, ready x ∧ x.site = n
            ∧ ∀ y, ready y → y.advantage t serving < x.advantage t serving
                ∨ (y.advantage t serving = x.advantage t serving ∧ neighborIndex x.site t ≤ neighborIndex y.site t)

/-! ## Handover -/

/-- A HO REQUEST is checked in order: while a restart is pending, for an unknown talkgroup, for a member and for
a full table it is refused and changes no record; otherwise its unit's record is ARRIVING for its origin, in the
record there is or in one created in the slot a REGISTER would take, and a HO ACCEPT answers it; a record taken over
from another partner has that partner told HO CANCEL (SUPERSEDED) with the old handover id (R90, R103, R104). That its
state entry time is set is read from R104 against R48 (log entry 37). A request from the own site is set aside and counted as
stale alone (R90). -/
def Obligations.HoRequestMakesArriving : Prop :=
  (∀ (l : LinkNo) (x : Handed) (s : State), s.holdsForOwn l x .hoRequest → (s.hoMessage x).origin = s.own →
    s.counterLaw → ∃ t, exec (.hoRequest l) s = .next t ∧ s.setsAside l t)
  ∧ ∀ (l : LinkNo) (x : Handed) (s : State), s.holdsHo l x .hoRequest → s.counterLaw → s.unitLaw →
    let m := s.hoMessage x
    let refusal (cause : Byte) : Header :=
      { Header.blank .hoRefuse with
        unit := BitVec.ofNat 24 m.unit
        tag := BitVec.ofNat 16 m.id
        subcode := cause }
    let acceptance (g : TalkgroupEntry) : Header :=
      { Header.blank .hoAccept with
        unit := BitVec.ofNat 24 m.unit
        tag := BitVec.ofNat 16 m.id
        channel := BitVec.ofNat 8 g.channel.val }
    let arriving : Phase :=
      .arriving { partner := m.origin, id := m.id, deadline := s.timeBase.toNat + s.active.arrival }
    ∃ t, exec (.hoRequest l) s = .next t ∧ s.tookHanded (linkPort l) t
      ∧ t = { s with io := t.io, units := t.units }
      ∧ (s.io.restart ≠ .none → t.units = s.units ∧ s.builtForSite (refusal 4) m.origin t)
      ∧ (s.io.restart = .none → findTalkgroup m.talkgroup s.talkgroups = none →
          t.units = s.units ∧ s.builtForSite (refusal 2) m.origin t)
      ∧ ∀ g, s.io.restart = .none → findTalkgroup m.talkgroup s.talkgroups = some g →
          (∀ r, s.record m.unit = some r →
            (r.phase.isMember = true → t.units = s.units ∧ s.builtForSite (refusal 3) m.origin t)
              ∧ (r.phase.isMember = false →
                s.sameRecordsBut m.unit t
                  ∧ t.record m.unit
                    = some
                        { r with
                          phase := arriving
                          talkgroup := m.talkgroup
                          emergency := m.marker
                          serving := none
                          candidates := [none, none, none, none]
                          roamHold := none
                          entryTime :=
                            if r.phase.number == 3 && r.phase.handover?.any (fun ho => ho.partner == m.origin) then
                              r.entryTime
                            else s.timeBase }
                  ∧ ((∀ ho, r.phase = .arriving ho → ho.partner = m.origin) →
                    s.builtForSite (acceptance g) m.origin t)
                  ∧ ∀ ho, r.phase = .arriving ho → ho.partner ≠ m.origin → s.roomFor 2 2 →
                    s.queuedFor
                        { Header.blank .hoCancel with
                          unit := BitVec.ofNat 24 m.unit
                          tag := BitVec.ofNat 16 ho.id
                          subcode := 5 }
                        ho.partner t
                      ∧ s.queuedFor (acceptance g) m.origin t))
            ∧ (s.record m.unit = none →
              (freeSlot s = none → reclaimCandidate s = none →
                t.units = s.units ∧ s.builtForSite (refusal 1) m.origin t)
                ∧ ∀ slot,
                  freeSlot s = some slot ∨ (freeSlot s = none ∧ (reclaimCandidate s).map Record.slot = some slot) →
                  s.raised .recordsCreated t ∧ s.builtForSite (acceptance g) m.origin t
                    ∧ t.record m.unit
                      = some
                          { slot := slot
                            unit := m.unit
                            phase := arriving
                            talkgroup := m.talkgroup
                            emergency := m.marker
                            talking := false
                            talkLimited := false
                            serving := none
                            candidates := [none, none, none, none]
                            roamHold := none
                            entryTime := s.timeBase
                            lastSite := 0 })

/-- A HO ACCEPT that matches a PROPOSING record sends the ROAM ORDER and makes it DEPARTING, or, while its radio
talks, is answered HO CANCEL (BUSY) and returns it to SERVED; one that matches nothing is answered HO CANCEL
(LATE), and every one that is not taken is counted as stale, one from the own site without an answer (R90, R92). -/
def Obligations.HoAcceptAnswered : Prop :=
  (∀ (l : LinkNo) (x : Handed) (s : State), s.holdsForOwn l x .hoAccept → (s.hoMessage x).origin = s.own →
    s.counterLaw → ∃ t, exec (.hoAccept l) s = .next t ∧ s.setsAside l t)
  ∧ ∀ (l : LinkNo) (x : Handed) (s : State), s.holdsHo l x .hoAccept → s.counterLaw →
    let m := s.hoMessage x
    let cancel (id : Nat) (reason : Byte) : Header :=
      { Header.blank .hoCancel with
        unit := BitVec.ofNat 24 m.unit
        tag := BitVec.ofNat 16 id
        subcode := reason }
    ∃ t, exec (.hoAccept l) s = .next t ∧ s.tookHanded (linkPort l) t
      ∧ t = { s with io := t.io, units := t.units } ∧ s.sameRecordsBut m.unit t
      ∧ (∀ r ch a ho, s.record m.unit = some r → r.phase = .proposing ch a ho → m.origin = ho.partner → m.id = ho.id →
          (r.talking = true →
            t.record m.unit
                = some
                    { r with
                      phase := .served ch a none
                      entryTime := s.timeBase
                      roamHold := some (s.timeBase.toNat + s.active.roamHold * 1000) }
              ∧ s.raised .roamsFailed t ∧ s.builtForSite (cancel ho.id 3) ho.partner t)
            ∧ (r.talking = false →
              t.record m.unit
                  = some
                      { r with
                        phase := .departing ch { ho with deadline := s.timeBase.toNat + s.active.departure } false
                        entryTime := s.timeBase }
                ∧ ∀ k rest, s.io.pool.free = k :: rest → bufferOf k s.io = none → s.io.pool.noticePending = false →
                    s.waitsAt (chanPort ch) →
                    t.queueOf (chanPort ch)
                        = insertEntry { handle := k, cls := .priority, hop := 0, addressing := .unaddressed }
                            (s.queueOf (chanPort ch))
                      ∧ completionOf k t.io = some (.roamOrder m.unit ho.id)
                      ∧ bytesOf k t.io
                        = frameBytes
                            { Header.blank .roamOrder with
                              emergency := r.emergency
                              unit := BitVec.ofNat 24 m.unit
                              talkgroup := BitVec.ofNat 16 r.talkgroup
                              channel := m.channel }
                            [BitVec.ofNat 8 ho.partner]))
      ∧ (∀ r ch ho sent, s.record m.unit = some r → r.phase = .departing ch ho sent → m.origin = ho.partner →
          m.id = ho.id → t.units = s.units ∧ s.raised .staleHandover t)
      ∧ ((∀ r ho, s.record m.unit = some r → (r.phase.number = 1 ∨ r.phase.number = 2) →
            r.phase.handover? = some ho → ¬(m.origin = ho.partner ∧ m.id = ho.id)) →
          t.units = s.units ∧ s.raised .staleHandover t ∧ s.builtForSite (cancel m.id 2) m.origin t)

/-- R93: a HO REFUSE that matches a record in PROPOSING returns the record to SERVED with its roam hold running
and is counted under roams failed; no answer is sent; in any other case it is set aside and counted as stale;
the cause it carries makes no difference. -/
def Obligations.HoRefuseReturnsToServed : Prop :=
  ∀ (l : LinkNo) (x : Handed) (s : State), s.holdsForOwn l x .hoRefuse → s.counterLaw →
    let m := s.hoMessage x
    ∃ t, exec (.hoRefuse l) s = .next t ∧ s.tookHanded (linkPort l) t
      ∧ t = { s with io := t.io, units := t.units } ∧ (s.io.pool.noticePending = false → s.sameSending t)
      ∧ (∀ r ch a ho, s.record m.unit = some r → r.phase = .proposing ch a ho → m.origin ≠ s.own →
          m.origin = ho.partner → m.id = ho.id →
          t.record m.unit
              = some
                  { r with
                    phase := .served ch a none
                    entryTime := s.timeBase
                    roamHold := some (s.timeBase.toNat + s.active.roamHold * 1000) }
            ∧ s.sameRecordsBut m.unit t ∧ s.raised .roamsFailed t
            ∧ t.devCounter .staleHandover = s.devCounter .staleHandover)
      ∧ ((m.origin = s.own
            ∨ ∀ r ch a ho, s.record m.unit = some r → r.phase = .proposing ch a ho →
                ¬(m.origin = ho.partner ∧ m.id = ho.id)) →
          t.units = s.units ∧ s.raised .staleHandover t ∧ t.devCounter .roamsFailed = s.devCounter .roamsFailed)

/-- A HO COMPLETE makes the DEPARTING record it matches FORWARD, and so the SERVED record whose abandoned
handover it matches; a HO CLAIM makes any record FORWARD to the claimant. A member leaves its talkgroup, and the
Roam Selector's fields are cleared (R66, R85, R99, R108). That a claimed record keeps the handover id it had, a
FORWARD record among them, and takes 0 where it had none, is the model's choice (log entry 16). A claim ends a
handover in progress with a HO CANCEL (CLAIMED) to the partner. A COMPLETE that matches nothing is set aside and counted
as stale, and so is a CLAIM for a unit without a record, which is counted under claims received as well. Each of the two
from the own site is set aside and counted as stale alone (R90, R99, R108); that a CLAIM from there is not counted under
claims received is the model's choice (log entry 15). -/
def Obligations.CompleteAndClaimForward : Prop :=
  (∀ (l : LinkNo) (x : Handed) (s : State), s.counterLaw →
    let m := s.hoMessage x
    (s.holdsForOwn l x .hoComplete →
      (m.origin = s.own
        ∨ ∀ r, s.record m.unit = some r →
          (∀ ch ho sent, r.phase = .departing ch ho sent → ¬(m.origin = ho.partner ∧ m.id = ho.id))
            ∧ ∀ ch a k, r.phase = .served ch a (some k) → ¬(m.origin = k.site ∧ m.id = k.id)) →
      ∃ t, exec (.hoComplete l) s = .next t ∧ s.setsAside l t ∧ t.devCounter .roamsOut = s.devCounter .roamsOut)
      ∧ (s.holdsForOwn l x .hoClaim → m.origin = s.own →
        ∃ t, exec (.hoClaim l) s = .next t ∧ s.setsAside l t
          ∧ t.devCounter .claimsReceived = s.devCounter .claimsReceived)
      ∧ (s.holdsHo l x .hoClaim → s.record m.unit = none →
        ∃ t, exec (.hoClaim l) s = .next t ∧ s.setsAside l t ∧ s.raised .claimsReceived t))
  ∧ ∀ (l : LinkNo) (x : Handed) (r : Record) (s : State), s.counterLaw →
    let m := s.hoMessage x
    s.record m.unit = some r →
    let forward (partner : SiteId) (id : Nat) : Phase :=
      .forward { partner := partner, id := id, deadline := s.timeBase.toNat + s.active.forwardHold * 1000 }
    let entered (ph : Phase) : Record :=
      { r with
        phase := ph
        entryTime := s.timeBase
        serving := none
        candidates := [none, none, none, none]
        roamHold := none }
    let left := s.talkgroups.map fun k => if k.id = r.talkgroup then { k with members := k.members - 1 } else k
    (s.holdsHo l x .hoComplete →
      (∃ ch ho sent, r.phase = .departing ch ho sent ∧ m.origin = ho.partner ∧ m.id = ho.id)
        ∨ (∃ ch a k, r.phase = .served ch a (some k) ∧ m.origin = k.site ∧ m.id = k.id) →
      ∃ t, exec (.hoComplete l) s = .next t ∧ s.tookHanded (linkPort l) t ∧ s.sameButUnits t
        ∧ s.sameRecordsBut m.unit t ∧ s.raised .roamsOut t ∧ t.handoverCounter = s.handoverCounter
        ∧ t.record m.unit = some (entered (forward m.origin m.id)) ∧ t.talkgroups = left)
      ∧ (s.holdsHo l x .hoClaim →
        ∃ t, exec (.hoClaim l) s = .next t ∧ s.tookHanded (linkPort l) t ∧ s.sameButUnits t
          ∧ s.sameRecordsBut m.unit t ∧ s.raised .claimsReceived t ∧ t.handoverCounter = s.handoverCounter
          ∧ (r.phase.number ≠ 4 →
              t.record m.unit = some (entered (forward m.origin ((r.phase.handover?.map Handover.id).getD 0)))
                ∧ t.talkgroups = (if r.phase.isMember then left else s.talkgroups))
          ∧ (∀ ho, (∃ ch a, r.phase = .proposing ch a ho) ∨ (∃ ch sent, r.phase = .departing ch ho sent) →
              s.roomFor 2 (s.sites.length + 1) →
              s.queuedFor
                { Header.blank .hoCancel with
                  unit := BitVec.ofNat 24 r.unit
                  tag := BitVec.ofNat 16 ho.id
                  subcode := 6 }
                ho.partner t)
          ∧ ∀ ho, r.phase = .forward ho →
              t.record m.unit = some { r with phase := forward m.origin ho.id } ∧ t.talkgroups = s.talkgroups)

/-- A HO CANCEL that matches returns a PROPOSING or DEPARTING record to SERVED with its roam hold running, and
deletes an ARRIVING one, whatever its reason; any other is set aside and counted as stale (R52, R57, R90, R100). -/
def Obligations.HoCancelEndsHandover : Prop :=
  ∀ (l : LinkNo) (x : Handed) (s : State), s.holdsForOwn l x .hoCancel → s.counterLaw →
    let m := s.hoMessage x
    let returned (r : Record) (ph : Phase) : Record :=
      { r with
        phase := ph
        entryTime := s.timeBase
        roamHold := some (s.timeBase.toNat + s.active.roamHold * 1000) }
    ∃ t, exec (.hoCancel l) s = .next t ∧ s.tookHanded (linkPort l) t
      ∧ t = { s with io := t.io, units := t.units } ∧ s.sameRecordsBut m.unit t
      ∧ (s.io.pool.noticePending = false → s.sameSending t)
      ∧ (∀ r ho, m.origin ≠ s.own → s.record m.unit = some r → r.phase.handover? = some ho → m.origin = ho.partner →
          m.id = ho.id →
          (∀ ch a, r.phase = .proposing ch a ho →
            t.record m.unit = some (returned r (.served ch a none)) ∧ s.raised .roamsFailed t)
            ∧ (∀ ch sent, r.phase = .departing ch ho sent →
              t.record m.unit
                  = some
                      (returned r
                        (.served ch
                          { cls := .active
                            timer := some (s.timeBase.toNat + s.active.runDownshift * 1000)
                            poll := none
                            outstanding := none
                            misses := 0 }
                          none))
                ∧ s.raised .roamsFailed t)
            ∧ (r.phase = .arriving ho → t.record m.unit = none ∧ s.raised .recordsDeleted t))
      ∧ ((m.origin = s.own
            ∨ ∀ r ho, s.record m.unit = some r → r.phase.number ≤ 3 → r.phase.handover? = some ho →
                ¬(m.origin = ho.partner ∧ m.id = ho.id)) →
          t.units = s.units ∧ s.raised .staleHandover t)

/-- The reply wait and the departure timer return their record to SERVED with its roam hold running, the second
with the abandoned handover kept and a HO CANCEL (TIMEOUT) sent; a roam hold that expires is no longer running
(R84, R94, R98). -/
def Obligations.HandoverTimersExpire : Prop :=
  ∀ (u : UnitId) (r : Record) (s : State), s.record u = some r → s.counterLaw →
    let returned (ph : Phase) : Record :=
      { r with
        phase := ph
        entryTime := s.timeBase
        roamHold := some (s.timeBase.toNat + s.active.roamHold * 1000) }
    (∀ ch a ho, r.phase = .proposing ch a ho → ho.deadline ≤ s.timeBase.toNat →
      ∃ t, exec (.replyWaitExpiry u) s = .next t ∧ t = { s with io := t.io, units := t.units } ∧ s.sameIntake t
        ∧ s.sameRecordsBut u t ∧ t.record u = some (returned (.served ch a none)) ∧ s.raised .roamsFailed t
        ∧ s.sameSending t)
      ∧ (∀ ch ho sent, r.phase = .departing ch ho sent → ho.deadline ≤ s.timeBase.toNat →
        ∃ t, exec (.departureExpiry u) s = .next t ∧ t = { s with io := t.io, units := t.units } ∧ s.sameIntake t
          ∧ s.sameRecordsBut u t ∧ s.raised .roamsFailed t
          ∧ t.record u
            = some
                (returned
                  (.served ch
                    { cls := .active
                      timer := some (s.timeBase.toNat + s.active.runDownshift * 1000)
                      poll := none
                      outstanding := none
                      misses := 0 }
                    (some { site := ho.partner, id := ho.id })))
          ∧ s.builtForSite
              { Header.blank .hoCancel with
                unit := BitVec.ofNat 24 u
                tag := BitVec.ofNat 16 ho.id
                subcode := 1 }
              ho.partner t)
      ∧ ∀ d, r.roamHold = some d → d ≤ s.timeBase.toNat →
        ∃ t, exec (.roamHoldExpiry u) s = .next t ∧ t.record u = some { r with roamHold := none }
          ∧ s.sameRecordsBut u t ∧ t = { s with units := t.units }

/-! ## Membership -/

/-- A FULL, JOIN or LEAVE notice from a site of the table moves that site in the remote site sets and writes its
dynamic part; a JOIN or LEAVE that is not newer, and any notice from elsewhere, is set aside and counted as
stale. The age timer of a site takes it out of every set; the refresh timer advances the own sequence, sends a
FULL notice of the talkgroups with members, and starts again (R115, R116, R118 to R121). A talkgroup's first member
sends a JOIN and its last one's leaving a LEAVE to every routed site, the own sequence advanced (R113, R114). That a
notice for several sites stands in its buffer with destination 0 is the model's choice (log entry 13). -/
def Obligations.MembershipFollowsNotices : Prop :=
  (∀ (l : LinkNo) (x : Handed) (kind : Fin 3) (s : State), s.holdsForOwn l x .membershipNotice →
      (handedHeader x s).subcode.toNat = kind.val + 1 → s.counterLaw →
      let hdr := handedHeader x s
      let payload := handedPayload x s
      let n := hdr.origin.toNat
      let seq := hdr.tag.setWidth 8
      let period := max 5 (min 120 (byteAt payload 0).toNat)
      ∃ t, exec (if kind = 0 then .joinNotice l else if kind = 1 then .leaveNotice l else .fullNotice l) s = .next t
        ∧ s.tookHanded (linkPort l) t ∧ s.sameButMembership t
        ∧ (n = s.own ∨ findSite n s.sites = none → s.sameButIo t ∧ s.raised .staleNotices t)
        ∧ ∀ e, n ≠ s.own → findSite n s.sites = some e → siteIdOk n = true →
            let fresh := ∀ q, e.lastSequence = some q → 1 ≤ (seq - q).toNat ∧ (seq - q).toNat ≤ 127
            (kind ≠ 2 → ¬fresh → s.sameButIo t ∧ s.raised .staleNotices t)
              ∧ (kind = 2 ∨ fresh →
                (∀ k, k ≠ n → findSite k t.sites = findSite k s.sites)
                  ∧ findSite n t.sites
                    = some
                        { e with
                          lastSequence := some seq
                          announcedPeriod := if kind = 2 then some period else e.announcedPeriod
                          ageTimer :=
                            if kind = 2 then some (s.timeBase.toNat + 3 * period * 1000)
                            else
                              e.ageTimer.or
                                (some
                                  (s.timeBase.toNat + 3 * e.announcedPeriod.getD s.active.refreshPeriod * 1000)) }
                  ∧ ∃ f : TalkgroupEntry → SiteSet,
                      t.talkgroups = s.talkgroups.map (fun g => { g with remote := f g })
                        ∧ ∀ g k, hasSite (f g) k
                          = if k = n then
                              if kind = 2 then (fullTalkgroups payload).contains g.id
                              else if g.id = hdr.talkgroup.toNat then decide (kind = 0)
                              else hasSite g.remote n
                            else hasSite g.remote k))
    ∧ (∀ s : State,
      (∀ n e d, findSite n s.sites = some e → e.ageTimer = some d → d ≤ s.timeBase.toNat →
        ∃ t, exec (.ageTimerExpiry n) s = .next t ∧ t = { s with sites := t.sites, talkgroups := t.talkgroups }
          ∧ (∀ k, k ≠ n → findSite k t.sites = findSite k s.sites)
          ∧ findSite n t.sites = some { e with lastSequence := none, ageTimer := none }
          ∧ ∃ f : TalkgroupEntry → SiteSet,
              t.talkgroups = s.talkgroups.map (fun g => { g with remote := f g })
                ∧ ∀ g k, hasSite (f g) k = (hasSite g.remote k && decide (k ≠ n)))
        ∧ ∀ d, s.refreshTimer = some d → d ≤ s.timeBase.toNat →
          ∃ t, exec .refreshTimerExpiry s = .next t
            ∧ t = { s with io := t.io, ownSequence := t.ownSequence, refreshTimer := t.refreshTimer }
            ∧ s.sameIntake t ∧ t.ownSequence = s.ownSequence + 1
            ∧ t.refreshTimer = some (s.timeBase.toNat + s.active.refreshPeriod * 1000)
            ∧ (s.net.routedSites = [] → t.io = s.io)
            ∧ (s.roomFor 1 s.sites.length →
              let ids := (s.talkgroups.filter fun g => decide (0 < g.members)).map TalkgroupEntry.id
              s.noticed s.net
                { Header.blank .membershipNotice with subcode := 3, tag := (s.ownSequence + 1).setWidth 16 }
                (BitVec.ofNat 8 s.active.refreshPeriod :: BitVec.ofNat 8 ids.length :: ids.flatMap (beBytes 2))
                s.net.routedSites t)
            ∧ ∀ n j k rest, s.net.routedSites = [n] → s.net.route n = some j → s.io.pool.free = k :: rest →
                bufferOf k s.io = none → s.waitsAt (linkPort j) →
                let ids := (s.talkgroups.filter fun g => decide (0 < g.members)).map TalkgroupEntry.id
                t.queueOf (linkPort j)
                    = insertEntry
                        { handle := k
                          cls := .priority
                          hop := s.active.hopLimit
                          addressing := .destination n }
                        (s.queueOf (linkPort j))
                  ∧ bytesOf k t.io
                    = frameBytes
                        { Header.blank .membershipNotice with
                          origin := BitVec.ofNat 8 s.own
                          subcode := 3
                          tag := (s.ownSequence + 1).setWidth 16 }
                        (BitVec.ofNat 8 s.active.refreshPeriod :: BitVec.ofNat 8 ids.length :: ids.flatMap (beBytes 2)))
    ∧ ∀ (g : TalkgroupId) (e : TalkgroupEntry) (s : State), findTalkgroup g s.talkgroups = some e →
      let sent (change : Nat → Nat) (first : Nat) (subcode : Byte) (t : State) : Prop :=
        t = { s with io := t.io, talkgroups := t.talkgroups, ownSequence := t.ownSequence }
          ∧ t.talkgroups = s.talkgroups.map (fun k => if k.id = g then { k with members := change k.members } else k)
          ∧ t.ownSequence = (if e.members = first then s.ownSequence + 1 else s.ownSequence)
          ∧ (e.members ≠ first ∨ s.net.routedSites = [] → t.io = s.io)
          ∧ (e.members = first → s.roomFor 1 s.sites.length →
            s.noticed s.net
              { Header.blank .membershipNotice with
                subcode := subcode
                tag := (s.ownSequence + 1).setWidth 16
                talkgroup := BitVec.ofNat 16 g }
              [] s.net.routedSites t)
      sent (· + 1) 0 1 (memberEntry g s) ∧ sent (· - 1) 1 2 (memberExit g s)

/-! ## Calls -/

/-- A CALL START of a member who may talk: its current call on the channel is granted again and its waiting one queued
again; otherwise a call with a fresh id is decided by the channel (R127, R129). It is granted from IDLE, from the hang
of its talkgroup and, an emergency call, from a routine hang; it waits behind any other hang and a current call that
its class does not preempt, with a full list turned away BUSY or displacing the newest routine entry; an emergency
call preempts a routine one (R130 to R133). The offered CALL START carries the call id and the marker of the call
(R127, R131). That a waiting routine call which is asked for again as an emergency call is decided as this CALL
START's call with its id, and that of two entries of one talker the first in list order is taken, are the model's
choices (log entry 20), and so are the target set 0 in the buffer of a call frame that the arbiter builds (log entry
13) and the number of link entries placed within the event (log entry 36). -/
def Obligations.CallStartDecided : Prop :=
  (∀ (n : ChannelNo) (x : Handed) (r : Record) (g : TalkgroupEntry) (s : State), s.holds (chanPort n) x .callStart →
    let hdr := handedHeader x s
    let u := hdr.unit.toNat
    let before := s.channel n
    s.record u = some r → r.phase.atHome = true → r.talkLimited = false →
    findTalkgroup hdr.talkgroup.toNat s.talkgroups = some g → g.channel = n →
    let urgent : Bool := r.emergency || hdr.emergency || g.cls == .priority
    let callOf (id : CallId) : Call :=
      { id := id, talkgroup := g.id, talker := u, site := s.own, emergency := urgent, isLocal := true }
    let noted (talking : Bool) : Record :=
      { r with
        emergency := r.emergency || hdr.emergency
        talking := talking
        phase :=
          r.phase.mapActivity fun a =>
            if a.cls = .active then { a with timer := some (s.timeBase.toNat + s.active.runDownshift * 1000) }
            else
              { cls := .active
                timer := some (s.timeBase.toNat + s.active.runDownshift * 1000)
                poll := none
                outstanding := none
                misses := 0 } }
    let grant (id : CallId) : Header := (callOf id).answer .callGrant 0
    let cls : FrameClass := if urgent then .priority else .routine
    let started (id : CallId) : Header := { hdr with emergency := urgent, callId := BitVec.ofNat 16 id }
    let granted (id : CallId) (t : State) : Prop :=
      t.record u = some (noted true)
        ∧ (s.roomFor 4 4 →
          s.queuedOn n (grant id) [] t ∧ s.fannedOut x.handle cls g.remote t
            ∧ s.offeredAs x.handle (started id) g.remote t)
    let elsewhere : Prop := ∀ c, before.phase.call? = some c → c.talker ≠ u
    let again := before.waits.find? fun w => w.call.talker == u
    ∃ t, exec (.callStart n) s = .next t ∧ s.tookHanded (chanPort n) t ∧ s.sameButCalls t
      ∧ (∀ k, k ≠ n → t.channel k = s.channel k)
      ∧ (t.record u = some (noted r.talking) ∨ t.record u = some (noted true))
      ∧ (∀ cur, before.phase.call? = some cur → cur.talker = u →
        t.channel n = before ∧ t.callCounter = s.callCounter ∧ t.record u = some (noted r.talking)
          ∧ s.sameRecordsBut u t ∧ s.builtOnChannel n (cur.answer .callGrant 0) t)
      ∧ (∀ w, elsewhere → again = some w →
        t.callCounter = s.callCounter
          ∧ (urgent = false ∨ w.call.emergency = true →
            t.channel n = before ∧ t.record u = some (noted r.talking) ∧ s.sameRecordsBut u t
              ∧ s.builtOnChannel n (w.call.answer .callQueued 0) t)
          ∧ (urgent = true → w.call.emergency = false →
            s.decides n { before with waits := before.waits.eraseP fun v => v.call.id == w.call.id }
              (callOf w.call.id) (granted w.call.id) t))
      ∧ (elsewhere → again = none → r.talking = false →
        let id := (assignCallId s).1
        t.callCounter = (assignCallId s).2.callCounter ∧ s.decides n before (callOf id) (granted id) t
          ∧ (before.phase = .idle ∨ (∃ e d, before.phase = .hang g.id e d) → s.sameRecordsBut u t
            ∧ ((∀ m, s.waitsAt (linkPort m)) → s.builtOnChannel n (grant id) t)
            ∧ (s.waitsAt (chanPort n) → s.offers (chanPort n) x.handle cls (started id) g.remote t))
          ∧ ∀ cur talk gap, before.phase = .active cur talk gap → urgent = false ∨ cur.emergency = true →
            t.record u = some (noted false)
              ∧ (before.waits.length < 8 → s.builtOnChannel n ((callOf id).answer .callQueued 0) t)))
    ∧ ∀ s : State, s.callLaw →
      let counter (d : Nat) : Byte := s.callCounter + BitVec.ofNat 8 d
      let given := assignCallId s
      given.1 ∉ heldIds s
        ∧ ∃ d, d < 256 ∧ given.1 = s.own * 256 + (counter d).toNat
          ∧ given.2 = { s with callCounter := counter (d + 1) }
          ∧ ∀ i, i < d → s.own * 256 + (counter i).toNat ∈ heldIds s

/-- A CALL START that a check of R129 turns away leaves every channel and the call counter alone and is answered
CALL REFUSE with call id 0: NOT REGISTERED, TALK LIMIT, UNKNOWN TALKGROUP, WRONG CHANNEL, or BUSY for a talker
already talking elsewhere, who has neither the current call nor a waiting one on this channel (R69, R129). The
repeat checks read the talker of a call alone, as R129's table has them; what is left of them to choose is log
entry 20's, and no clause here rests on it. -/
def Obligations.CallStartRefused : Prop :=
  ∀ (n : ChannelNo) (x : Handed) (cause : Byte) (s : State), s.holds (chanPort n) x .callStart →
    let hdr := handedHeader x s
    let u := hdr.unit.toNat
    let table := findTalkgroup hdr.talkgroup.toNat s.talkgroups
    (cause = 4 ∧ (s.record u = none
        ∨ ∃ r ho, s.record u = some r ∧ (r.phase = .arriving ho ∨ r.phase = .forward ho)))
      ∨ (∃ r, s.record u = some r ∧ r.phase.atHome = true
        ∧ ((cause = 3 ∧ r.talkLimited = true)
          ∨ (cause = 5 ∧ r.talkLimited = false ∧ table = none)
          ∨ (cause = 6 ∧ r.talkLimited = false ∧ ∃ g, table = some g ∧ g.channel ≠ n)
          ∨ (cause = 1 ∧ r.talkLimited = false ∧ r.talking = true ∧ (∃ g, table = some g ∧ g.channel = n)
            ∧ (∀ c, (s.channel n).phase.call? = some c → c.talker ≠ u)
            ∧ ∀ w ∈ (s.channel n).waits, w.call.talker ≠ u))) →
    ∃ t, exec (.callStart n) s = .next t ∧ s.tookHanded (chanPort n) t
      ∧ t = { s with io := t.io, units := t.units } ∧ s.sameRecordsBut u t
      ∧ s.builtOnChannel n
          { Header.blank .callRefuse with
            emergency := hdr.emergency || (s.record u).any Record.emergency
            unit := hdr.unit
            subcode := cause }
          t

/-- A local VOICE of the current call starts its voice gap again and is offered to the talkgroup's remote sites, and
its CALL END ends it; either makes the call an emergency call when its talker is in emergency. The offered frame
carries the marker of the call. Any other VOICE is stray, the CALL END of a waiting talker removes its entry, and any
other CALL END is stray unless it has cleared a talk-limited flag. A channel whose call has ended goes on to the calls
that wait on it (R127, R135 to R137). Either frame makes the talker's SERVED or PROPOSING record ACTIVE and starts its
activity timer again (R53, R58). The target set 0 in the buffer of a call frame that the arbiter builds (log entry 13)
and the number of link entries placed within the event (log entry 36) are the model's choices. That with a hang time
of 0 the other waiting calls are tried also after those of the ended call's talkgroup were all turned away is the
model's choice (log entry 40). That a marked frame sets the flag of a FORWARD record too is read from R53 and R65
against R101 (log entry 34). -/
def Obligations.VoiceAndCallEnd : Prop :=
  ∀ (n : ChannelNo) (x : Handed) (s : State), s.counterLaw →
    let hdr := handedHeader x s
    let u := hdr.unit.toNat
    let before := s.channel n
    let flagged : Bool := (s.record u).any Record.emergency
    (s.holds (chanPort n) x .voice →
      ∃ t, exec (.voice n) s = .next t ∧ s.tookHanded (chanPort n) t ∧ s.sameButCalls t
        ∧ t.callCounter = s.callCounter ∧ (∀ k, k ≠ n → t.channel k = s.channel k) ∧ s.sameRecordsBut u t
        ∧ (∀ r, s.record u = some r →
          t.record u
            = some { r with emergency := r.emergency || hdr.emergency, phase := r.phase.mapActivity s.activeAgain })
        ∧ (∀ cur talk gap, before.phase = .active cur talk gap → cur.isLocal = true → cur.id = hdr.callId.toNat →
            cur.talker = u → (s.record u).any Record.talkLimited = false →
            let urgent := cur.emergency || hdr.emergency || flagged
            t.channel n
                = { before with
                    phase :=
                      .active { cur with emergency := urgent } (if urgent then none else talk)
                        (s.timeBase.toNat + s.active.voiceGap) }
              ∧ s.offers (chanPort n) x.handle (if urgent then .priority else .routine)
                  { hdr with emergency := urgent } (remoteSet cur.talkgroup s) t)
        ∧ ((∀ cur talk gap, before.phase = .active cur talk gap →
              ¬(cur.isLocal = true ∧ cur.id = hdr.callId.toNat ∧ cur.talker = u
                ∧ (s.record u).any Record.talkLimited = false)) →
            t.channel n = before ∧ s.raised .strayCallFrames t
              ∧ (s.io.pool.noticePending = false → s.sameSending t)))
      ∧ (s.holds (chanPort n) x .callEnd →
        ∃ t, exec (.callEnd n) s = .next t ∧ s.tookHanded (chanPort n) t ∧ s.sameButCalls t
          ∧ t.callCounter = s.callCounter ∧ (∀ k, k ≠ n → t.channel k = s.channel k)
          ∧ (∀ r, s.record u = some r →
            ∃ r', t.record u = some r' ∧ r'.talkLimited = false ∧ r'.emergency = (r.emergency || hdr.emergency)
              ∧ r'.phase = r.phase.mapActivity s.activeAgain)
          ∧ (∀ cur talk gap, before.phase = .active cur talk gap → cur.isLocal = true → cur.id = hdr.callId.toNat →
              cur.talker = u → before.waits = [] →
              let urgent := cur.emergency || hdr.emergency || flagged
              t.channel n
                  = { phase :=
                        if hangTimeOf cur.talkgroup s = 0 then .idle
                        else .hang cur.talkgroup urgent (s.timeBase.toNat + hangTimeOf cur.talkgroup s)
                      waits := []
                      lastEnded := some cur.id }
                ∧ (∀ r, s.record u = some r → ∃ r', t.record u = some r' ∧ r'.talking = false)
                ∧ s.offers (chanPort n) x.handle (if urgent then .priority else .routine)
                    { hdr with emergency := urgent } (remoteSet cur.talkgroup s) t)
          ∧ (∀ cur talk gap, before.phase = .active cur talk gap → cur.isLocal = true → cur.id = hdr.callId.toNat →
              cur.talker = u → before.lawful →
              s.endsCall n { cur with emergency := cur.emergency || hdr.emergency || flagged } t)
          ∧ ((∀ cur, before.phase.call? = some cur → cur.id ≠ hdr.callId.toNat) →
              ∀ w ∈ before.waits, w.call.isLocal = true → w.call.talker = u → w.call.id = hdr.callId.toNat →
                t.channel n = { before with waits := before.waits.eraseP fun v => v.call.id == w.call.id })
          ∧ ((∀ cur, before.phase.call? = some cur →
                ¬(cur.isLocal = true ∧ cur.id = hdr.callId.toNat ∧ cur.talker = u)) →
              (∀ w ∈ before.waits, ¬(w.call.isLocal = true ∧ w.call.talker = u ∧ w.call.id = hdr.callId.toNat)) →
              t.channel n = before ∧ (s.io.pool.noticePending = false → s.sameSending t)
                ∧ ((s.record u).any Record.talkLimited = false → s.raised .strayCallFrames t)
                ∧ ((s.record u).any Record.talkLimited = true →
                  t.devCounter .strayCallFrames = s.devCounter .strayCallFrames)))

/-- A call frame from a link whose set holds the own site reaches the channel of its talkgroup: a CALL START is stray
for a call that is held or has just ended, not carried without members, and otherwise decided as any call is: granted,
waiting, or preempting a routine call. A VOICE of the current call goes on with it and its CALL END ends it; a VOICE
of another call is a late entry, decided as its CALL START would be, unless the call waits or has just ended; a CALL
END of another call removes its entry or is stray. A granted, carried or ended frame is delivered on the channel port,
and the rest of its set is forwarded (R38, R128, R130 to R137). A frame of the current call is carried or ends it
where the talker is a local one too, and one whose talkgroup is not in the table is not carried and only forwarded
(R128, R135, R136). The target set 0 in the buffer of a call frame that the arbiter builds is the model's choice (log
entry 13). That with a hang time of 0 the other waiting calls are tried also after those of the ended call's talkgroup
were all turned away is the model's choice (log entry 40). -/
def Obligations.RemoteCallFramesTaken : Prop :=
  (∀ (l : LinkNo) (x : Handed) (s : State), headHanded (linkPort l) s = some x → s.counterLaw →
    let hdr := handedHeader x s
    addressedAs .targetSet hdr = true → hasSite hdr.targets s.own = true →
    findTalkgroup hdr.talkgroup.toNat s.talkgroups = none →
    ∃ t, exec (.forwardTargetSet l) s = .next t ∧ s.tookHanded (linkPort l) t ∧ s.sameButIo t
      ∧ s.raised .callsNotCarried t
      ∧ (s.io.pool.noticePending = false → (∀ m, s.waitsAt (linkPort m)) →
        (∀ n, t.queueOf (chanPort n) = s.queueOf (chanPort n))
          ∧ (hdr.hop.toNat ≤ 1 → ∀ m, t.queueOf (linkPort m) = s.queueOf (linkPort m))
          ∧ (2 ≤ hdr.hop.toNat → s.io.engine = Engine.idle → ∀ m, t.queueOf (linkPort m)
            = if s.net.sitesVia hdr.targets m = 0 then s.queueOf (linkPort m)
              else
                insertEntry
                  { handle := x.handle
                    cls := hdr.frameClass
                    hop := hdr.hop.toNat - 1
                    addressing := .subset (s.net.sitesVia hdr.targets m) }
                  (s.queueOf (linkPort m)))))
  ∧ ∀ (l : LinkNo) (x : Handed) (g : TalkgroupEntry) (s : State), headHanded (linkPort l) s = some x → s.counterLaw →
    let hdr := handedHeader x s
    let id := hdr.callId.toNat
    let n := g.channel
    let before := s.channel n
    addressedAs .targetSet hdr = true → hasSite hdr.targets s.own = true →
    findTalkgroup hdr.talkgroup.toNat s.talkgroups = some g →
    let call : Call :=
      { id := id
        talkgroup := g.id
        talker := hdr.unit.toNat
        site := hdr.origin.toNat
        emergency := hdr.emergency || g.cls == .priority
        isLocal := false }
    let delivered (t : State) : Prop :=
      (s.io.pool.noticePending = false →
        (s.waitsAt (chanPort n) →
          t.queueOf (chanPort n)
            = insertEntry { handle := x.handle, cls := hdr.frameClass, hop := 0, addressing := .unaddressed }
                (s.queueOf (chanPort n)))
          ∧ ((∀ m, s.waitsAt (linkPort m)) → 2 ≤ hdr.hop.toNat → s.waitsAt (chanPort n) → s.io.engine = Engine.idle → ∀ m,
            t.queueOf (linkPort m)
              = if s.net.sitesVia hdr.targets m = 0 then s.queueOf (linkPort m)
                else
                  insertEntry
                    { handle := x.handle
                      cls := hdr.frameClass
                      hop := hdr.hop.toNat - 1
                      addressing := .subset (s.net.sitesVia hdr.targets m) }
                    (s.queueOf (linkPort m))))
    let queued (t : State) : Prop :=
      s.roomFor 4 4 →
        ({ handle := x.handle, cls := hdr.frameClass, hop := 0, addressing := .unaddressed } : Entry)
          ∈ t.queueOf (chanPort n)
    let gap := s.timeBase.toNat + s.active.voiceGap
    let ended := (∃ k e d, before.phase = .hang k e d) ∧ before.lastEnded = some id
    ∃ t, exec (.forwardTargetSet l) s = .next t ∧ s.tookHanded (linkPort l) t ∧ s.sameButCalls t
      ∧ t.callCounter = s.callCounter ∧ (∀ k, k ≠ n → t.channel k = s.channel k)
      ∧ (hdr.isKind .callStart = true →
        (id ∈ before.heldIds ∨ ended → t.channel n = before ∧ s.raised .strayCallFrames t)
          ∧ (id ∉ before.heldIds → ¬ended →
            (g.members = 0 → t.channel n = before ∧ s.raised .callsNotCarried t)
              ∧ (0 < g.members → s.decides n before call queued t)
              ∧ (0 < g.members → before.phase = .idle ∨ (∃ e d, before.phase = .hang g.id e d) →
                t.channel n = { before with phase := .active call none gap } ∧ t.units = s.units ∧ delivered t)))
      ∧ (hdr.isKind .voice = true → (∀ cur, before.phase.call? = some cur → cur.id ≠ id) →
        ((∃ w ∈ before.waits, w.call.id = id) ∨ ended → t.channel n = before ∧ s.raised .strayCallFrames t)
          ∧ ((∀ w ∈ before.waits, w.call.id ≠ id) → ¬ended →
            (g.members = 0 → t.channel n = before ∧ s.raised .callsNotCarried t)
              ∧ (0 < g.members → s.decides n before call queued t)))
      ∧ (hdr.isKind .callEnd = true → (∀ cur, before.phase.call? = some cur → cur.id ≠ id) →
        ((∃ w ∈ before.waits, w.call.id = id) →
            t.channel n = { before with waits := before.waits.eraseP fun v => v.call.id == id })
          ∧ ((∀ w ∈ before.waits, w.call.id ≠ id) → t.channel n = before ∧ s.raised .strayCallFrames t))
      ∧ ∀ cur talk d, before.phase = .active cur talk d → cur.id = id →
          let urgent : Bool :=
            cur.emergency || hdr.emergency || (cur.isLocal && (s.record cur.talker).any Record.emergency)
          (hdr.isKind .voice = true →
            t.channel n
                = { before with
                    phase := .active { cur with emergency := urgent } (if urgent then none else talk) gap }
              ∧ t.units = s.units ∧ delivered t)
            ∧ (hdr.isKind .callEnd = true → before.waits = [] →
              t.channel n
                  = { phase :=
                        if hangTimeOf cur.talkgroup s = 0 then .idle
                        else .hang cur.talkgroup urgent (s.timeBase.toNat + hangTimeOf cur.talkgroup s)
                      waits := []
                      lastEnded := some id }
                ∧ (cur.isLocal = false → t.units = s.units)
                ∧ (cur.isLocal = true → s.sameRecordsBut cur.talker t
                  ∧ ∀ r, s.record cur.talker = some r → t.record cur.talker = some { r with talking := false })
                ∧ delivered t)
            ∧ (hdr.isKind .callEnd = true → before.lawful →
              s.endsCall n { cur with emergency := urgent } t
                ∧ (s.roomFor 16 16 →
                  ({ handle := x.handle, cls := hdr.frameClass, hop := 0, addressing := .unaddressed } : Entry)
                    ∈ t.queueOf (chanPort n)))

/-- The timers of a channel: a wait that has lasted too long removes its entry; a voice gap and a talk limit end the
current call into the hang of its talkgroup, or IDLE with a hang time of 0, and the limit latches its talker; a hang
ends in IDLE or grants the head of the wait list. A channel that is free goes on to the calls that wait on it: those
of the ended call's talkgroup first, then with a hang time of 0, and when the hang has run out, every other in list
order; one that cannot be granted is turned away NOT REGISTERED (R131, R137 to R140). The target set 0 in the buffer
of a call frame that the arbiter builds is the model's choice (log entry 13). That with a hang time of 0 the other
waiting calls are tried also after those of the ended call's talkgroup were all turned away is the model's choice (log
entry 40). -/
def Obligations.CallTimersExpire : Prop :=
  ∀ (n : ChannelNo) (s : State), s.counterLaw →
    let before := s.channel n
    let ended (call : Call) : Channel :=
      { phase :=
          if hangTimeOf call.talkgroup s = 0 then .idle
          else .hang call.talkgroup call.emergency (s.timeBase.toNat + hangTimeOf call.talkgroup s)
        waits := []
        lastEnded := some call.id }
    let quiet (u : UnitId) (limited : Option Bool) (t : State) : Prop :=
      s.sameRecordsBut u t ∧ ∀ r, s.record u = some r →
        t.record u = some { r with talking := false, talkLimited := limited.getD r.talkLimited }
    let frame (t : State) : Prop :=
      t = { s with io := t.io, units := t.units, channels := t.channels } ∧ s.sameIntake t
        ∧ ∀ k, k ≠ n → t.channel k = s.channel k
    (∀ id w, before.waiting id = some w → w.deadline ≤ s.timeBase.toNat →
      ∃ t, exec (.waitTimerExpiry n id) s = .next t ∧ frame t ∧ t.units = s.units ∧ s.raised .waitExpiries t
        ∧ t.channel n = { before with waits := before.waits.eraseP fun v => v.call.id == id }
        ∧ (w.call.isLocal = false → s.sameSending t)
        ∧ (w.call.isLocal = true →
          s.builtOnChannel n
            { Header.blank .callRefuse with
              emergency := w.call.emergency
              unit := BitVec.ofNat 24 w.call.talker
              callId := BitVec.ofNat 16 w.call.id
              subcode := 2 }
            t))
      ∧ (∀ call talk gap, before.phase = .active call talk gap → gap ≤ s.timeBase.toNat → before.lawful →
        ∃ t, exec (.voiceGapExpiry n) s = .next t ∧ frame t ∧ s.endsCall n call t
          ∧ (s.roomFor 16 16 →
            (call.isLocal = true → s.offeredBuilt (call.frame .callEnd) (remoteSet call.talkgroup s) t)
              ∧ (call.isLocal = false → s.queuedOn n (call.frame .callEnd) [] t)))
      ∧ (∀ call d gap, before.phase = .active call (some d) gap → d ≤ s.timeBase.toNat → call.isLocal = true →
        before.lawful →
        ∃ t, exec (.talkTimerExpiry n) s = .next t ∧ frame t ∧ s.endsCall n call t ∧ s.raised .talkLimitCutoffs t
          ∧ (∀ r, s.record call.talker = some r → ∃ r', t.record call.talker = some r' ∧ r'.talkLimited = true)
          ∧ (s.roomFor 16 16 → s.queuedOn n (call.dekey 1) [] t
            ∧ s.offeredBuilt (call.frame .callEnd) (remoteSet call.talkgroup s) t))
      ∧ (∀ call talk gap, before.phase = .active call talk gap → gap ≤ s.timeBase.toNat → before.waits = [] →
        ∃ t, exec (.voiceGapExpiry n) s = .next t ∧ frame t ∧ t.channel n = ended call
          ∧ (call.isLocal = true → quiet call.talker none t)
          ∧ (call.isLocal = false → t.units = s.units
            ∧ s.builtOnChannel n
                { Header.blank .callEnd with
                  emergency := call.emergency
                  unit := BitVec.ofNat 24 call.talker
                  talkgroup := BitVec.ofNat 16 call.talkgroup
                  callId := BitVec.ofNat 16 call.id }
                t))
      ∧ (∀ call d gap, before.phase = .active call (some d) gap → d ≤ s.timeBase.toNat → call.isLocal = true →
        before.waits = [] →
        ∃ t, exec (.talkTimerExpiry n) s = .next t ∧ frame t ∧ t.channel n = ended call
          ∧ quiet call.talker (some true) t ∧ s.raised .talkLimitCutoffs t
          ∧ (s.poolLaw → (∀ m, s.waitsAt (linkPort m)) →
            s.builtOnChannel n
              { Header.blank .dekeyOrder with
                emergency := call.emergency
                unit := BitVec.ofNat 24 call.talker
                subcode := 1 }
              t))
      ∧ ∀ g e d, before.phase = .hang g e d → d ≤ s.timeBase.toNat →
        (before.waits = [] →
          ∃ t, exec (.hangTimerExpiry n) s = .next t ∧ frame t ∧ t.channel n = { before with phase := .idle })
          ∧ (before.lawful → ∃ t, exec (.hangTimerExpiry n) s = .next t ∧ frame t
            ∧ s.passesOn n before.waits { before with phase := .idle } t)
          ∧ ∀ w rest, before.waits = w :: rest →
            (w.call.isLocal = true → (s.record w.call.talker).any (fun r => r.phase.isMember) = true) →
            (w.call.isLocal = false → 0 < membersOf w.call.talkgroup s) →
            ∃ t, exec (.hangTimerExpiry n) s = .next t ∧ frame t
              ∧ t.channel n
                = { before with
                    phase :=
                      .active w.call
                        (if w.call.isLocal && !w.call.emergency then
                          some (s.timeBase.toNat + talkLimitOf w.call.talkgroup s)
                        else none)
                        (s.timeBase.toNat + s.active.voiceGap)
                    waits := rest }
              ∧ (w.call.isLocal = true → ∀ r, s.record w.call.talker = some r →
                t.record w.call.talker = some { r with talking := true })

/-! ## Links -/

/-- A PROBE from another site is answered with the complement of its token unless its link is DISABLED; one of
the part's own sets the loop flag and judges an open window an error. A PROBE REPLY judges the open window by its
answer and its replier, and is stray when none is open; a link that fails is flushed. A link that enters or leaves UP
sends LINK CHANGE to every management site with a route, and one that enters UP makes a FULL round (R46, R116, R146 to
R150, R164; the destination 0 in the buffer of a notice for several sites is the model's choice, log entry 13). A link
that fails has the frames not yet placed whole routed anew (R38). That a PROBE of the part's own at a DISABLED link sets
its loop flag is the model's choice between two bullets of R146 (log entry 38). -/
def Obligations.ProbesAndRepliesJudged : Prop :=
  ∀ (l : LinkNo) (x : Handed) (s : State), s.counterLaw →
    let hdr := handedHeader x s
    let before := s.link l
    let judged (y : Link) (t : State) : Prop :=
      t.link l = y ∧ (∀ k, k ≠ l → t.link k = s.link k)
        ∧ t.ownSequence = (if before.state ≠ .up ∧ y.state = .up then s.ownSequence + 1 else s.ownSequence)
        ∧ (before.state = .up → y.state = .down →
          t.queueOf (linkPort l) = (s.queueOf (linkPort l)).filter (isProbeEntry s.io) ∧ s.reroutes (· == l) t)
        ∧ ((before.state = .up ↔ y.state ≠ .up) → s.roomFor 2 (2 * s.sites.length) →
          s.noticed t.net { Header.blank .mgmtNotice with subcode := 1 }
            [BitVec.ofNat 8 l.val, BitVec.ofNat 8 y.state.number, BitVec.ofNat 8 before.farSite]
            t.net.managementSites t)
        ∧ (before.state ≠ .up → y.state = .up → s.roomFor 2 (2 * s.sites.length) →
          let ids := (s.talkgroups.filter fun g => decide (0 < g.members)).map TalkgroupEntry.id
          s.noticed t.net
            { Header.blank .membershipNotice with subcode := 3, tag := (s.ownSequence + 1).setWidth 16 }
            (BitVec.ofNat 8 s.active.refreshPeriod :: BitVec.ofNat 8 ids.length :: ids.flatMap (beBytes 2))
            t.net.routedSites t)
    (s.holds (linkPort l) x .probe →
      ∃ t, exec (.probe l) s = .next t ∧ s.tookHanded (linkPort l) t ∧ s.sameButLinks t
        ∧ (hdr.origin.toNat = s.own →
          judged
            (if before.outstanding then { before with looped := true, outstanding := false }.afterError s.active
              else { before with looped := true })
            t)
        ∧ (hdr.origin.toNat ≠ s.own → s.sameButIo t)
        ∧ (hdr.origin.toNat ≠ s.own → before.state = .disabled → s.io.pool.noticePending = false → s.sameSending t)
        ∧ ∀ k rest, hdr.origin.toNat ≠ s.own → before.state ≠ .disabled → s.io.pool.free = k :: rest →
            bufferOf k s.io = none → s.io.pool.noticePending = false → s.waitsAt (linkPort l) →
            t.queueOf (linkPort l)
                = insertEntry { handle := k, cls := .priority, hop := s.active.hopLimit, addressing := .unaddressed }
                    (s.queueOf (linkPort l))
              ∧ bytesOf k t.io
                = frameBytes
                    { Header.blank .probeReply with
                      origin := BitVec.ofNat 8 s.own
                      tag := BitVec.ofNat 16 (65535 - hdr.tag.toNat) }
                    [])
      ∧ (s.holds (linkPort l) x .probeReply →
        ∃ t, exec (.probeReply l) s = .next t ∧ s.tookHanded (linkPort l) t ∧ s.sameButLinks t
          ∧ (before.state = .disabled ∨ before.outstanding = false → s.sameButIo t ∧ s.raised .strayReplies t)
          ∧ (before.state ≠ .disabled → before.outstanding = true →
            let right := hdr.tag.toNat = 65535 - before.token.toNat ∧ hdr.origin.toNat = before.farSite
            (right →
              judged ({ before with outstanding := false, advance := true, looped := false }.afterGood s.active) t)
              ∧ (¬right → judged ({ before with outstanding := false }.afterError s.active) t)))

/-- The probe timer judges an open window an error, advances the token after a good one, sends the next PROBE
with the token, opens its window, and starts again; a link that fails by it is flushed and sends LINK CHANGE to every
management site with a route, and has the frames not yet placed whole routed anew (R38, R46, R144, R145, R149, R150,
R164; the destination 0 in the notice's buffer is the model's choice, log entry 13). -/
def Obligations.ProbeTimerOpensWindow : Prop :=
  ∀ (l : LinkNo) (d : Nat) (s : State), (s.link l).timer = some d → d ≤ s.timeBase.toNat →
    let before := s.link l
    let judged := if before.outstanding then { before with outstanding := false }.afterError s.active else before
    ∃ t, exec (.probeTimerExpiry l) s = .next t ∧ s.sameButLinks t ∧ s.sameIntake t
      ∧ t.ownSequence = s.ownSequence ∧ (∀ k, k ≠ l → t.link k = s.link k)
      ∧ t.link l
        = { judged with
            token := (t.link l).token
            advance := false
            outstanding := judged.outstanding || decide (judged.state ≠ .disabled)
            timer := some (s.timeBase.toNat + s.active.probePeriod) }
      ∧ (before.advance = false → (t.link l).token = before.token)
      ∧ (before.advance = true →
        (∀ i, i < 15 → (t.link l).token.getLsbD (i + 1) = before.token.getLsbD i)
          ∧ (t.link l).token.getLsbD 0
            = ((before.token.getLsbD 15 ^^ before.token.getLsbD 13)
              ^^ (before.token.getLsbD 12 ^^ before.token.getLsbD 10)))
      ∧ (before.state = .up → judged.state = .down → s.reroutes (· == l) t)
      ∧ (before.state = .up → judged.state = .down → s.roomFor 2 (s.sites.length + 1) →
        (∀ e ∈ s.queueOf (linkPort l), e.handle ∉ s.io.pool.free →
            (e ∈ t.queueOf (linkPort l) ↔ isProbeEntry s.io e = true))
          ∧ s.noticed t.net { Header.blank .mgmtNotice with subcode := 1 }
              [BitVec.ofNat 8 l.val, 1, BitVec.ofNat 8 before.farSite] t.net.managementSites t)
      ∧ ∀ k rest, before.outstanding = false → before.state ≠ .disabled → s.io.pool.free = k :: rest →
          bufferOf k s.io = none → s.waitsAt (linkPort l) →
          t.queueOf (linkPort l)
              = insertEntry { handle := k, cls := .priority, hop := s.active.hopLimit, addressing := .unaddressed }
                  (s.queueOf (linkPort l))
            ∧ bytesOf k t.io
              = frameBytes
                  { Header.blank .probe with origin := BitVec.ofNat 8 s.own, tag := (t.link l).token } []

/-! ## Management -/

/-- A MGMT REQUEST for the agent is denied to a site without the management flag, answered BUSY with four requests
queued or a restart pending, and otherwise queued; RESTART is answered DONE and waits for its reply's end, or is due
at once without a buffer (R12, R154, R163). Every reply carries the request's tag, the request's origin as
destination, and as origin the own site, or while the part is UNCONFIGURED the request's destination when that is a
site id and otherwise 0, and is of class priority (R4, R5, R32, R155). That a BUSY reply carries no data, so that its
bytes are [1, 0, 0, 0] for a request of any code, is deduced (log entry 25). -/
def Obligations.RequestsQueuedAndRestart : Prop :=
  (∀ (q : Request) (s : State),
    let h := replyHeader q s
    h = { Header.blank .mgmtReply with origin := h.origin, destination := BitVec.ofNat 8 q.origin, tag := q.tag }
      ∧ h.frameClass = .priority
      ∧ (s.partState = .running → h.origin = BitVec.ofNat 8 s.own)
      ∧ (s.partState = .unconfigured → 1 ≤ q.destination → q.destination ≤ 32 → h.origin = BitVec.ofNat 8 q.destination)
      ∧ (s.partState = .unconfigured → q.destination = 0 ∨ 32 < q.destination → h.origin = 0))
  ∧ (∀ (l : LinkNo) (x : Handed) (s : State), s.holds (linkPort l) x .mgmtRequest → s.counterLaw →
    let hdr := handedHeader x s
    let payload := handedPayload x s
    (x.toAgent = true ∨ hdr.destination.toNat = s.own) →
    let q : Request :=
      { tag := hdr.tag
        origin := hdr.origin.toNat
        destination := hdr.destination.toNat
        link := l
        code := byteAt payload 0
        fields := payload.drop 1 }
    let granted := s.partState = .unconfigured ∨ ∃ e, findSite q.origin s.sites = some e ∧ e.management = true
    ∃ t, exec (.mgmtRequest l) s = .next t ∧ s.tookHanded (linkPort l) t
      ∧ t = { s with io := t.io, requests := t.requests }
      ∧ (¬granted → t.requests = s.requests ∧ s.raised .deniedRequests t)
      ∧ (granted → s.io.restart = .none → s.requests.length < 4 → t.requests = s.requests ++ [q])
      ∧ (granted → s.io.restart ≠ .none ∨ 4 ≤ s.requests.length → t.requests = s.requests
          ∧ ∀ k, s.canReply q k → bufferOf k s.io = none → s.io.pool.noticePending = false →
              t.carries (s.replyPort q) k (frameBytes (replyHeader q s) [1, 0, 0, 0])))
    ∧ ∀ (q : Request) (rest : List Request) (s : State), s.serves q rest 17 → q.fields = [] →
      ∃ t, exec .restart s = .next t ∧ t = { s with io := t.io, requests := rest } ∧ s.sameIntake t
        ∧ (s.io.pool.free = [] → t.io.restart = .due)
        ∧ ∀ k, s.canReply q k → t.io.restart = .awaitingReply
            ∧ completionOf k t.io = some .restartReply
            ∧ t.carries (s.replyPort q) k (frameBytes (replyHeader q s) [0, 0, 0, 0])

/-- The reading requests are answered with their data, laid out field by field as R155 lists them, and change nothing
else; a request of another length is answered BAD VALUE, one of the other fixed sizes among them, and one of an
unknown code REFUSED (R154, R155, R158, R160). That a BAD VALUE, a NOT FOUND and a REFUSED reply carry no data is
deduced (log entry 25). -/
def Obligations.ReadRequestsAnswered : Prop :=
  ∀ (q : Request) (rest : List Request) (s : State),
    let byte (n : Nat) : Byte := BitVec.ofNat 8 n
    let flag (b : Bool) : Byte := if b then 1 else 0
    let start := (byteAt q.fields 0).toNat
    let count := (byteAt q.fields 1).toNat
    let channelOf (r : Record) : Byte := (r.phase.channel?.map fun n => byte n.val).getD 255
    let summary (r : Record) : List Byte :=
      [byte r.slot] ++ beBytes 3 r.unit ++ [byte r.phase.number] ++ beBytes 2 r.talkgroup
        ++ [channelOf r, flag r.emergency]
    let candidate (o : Option Candidate) : List Byte :=
      match o with
      | none => [0, 0, 0, 0, 0]
      | some c => [byte c.site] ++ signedBytes c.level ++ [byte c.qualify, byte c.misses]
    let whole (r : Record) : List Byte :=
      let a := r.phase.activity?
      let cls : Byte := match a.map Activity.cls with
        | none => 255
        | some .active => 0
        | some .quiet => 1
        | some .dormant => 2
      let sent : Bool := match r.phase with
        | .departing _ _ sent => sent
        | _ => false
      let kept : Option Abandoned := match r.phase with
        | .served _ _ kept => kept
        | _ => none
      let ho := r.phase.handover?
      beBytes 3 r.unit ++ [byte r.slot, byte r.phase.number] ++ beBytes 2 r.talkgroup
        ++ [channelOf r, cls, byte ((a.map Activity.misses).getD 0), flag r.emergency, flag r.talking,
          flag r.talkLimited, flag (a.any fun x => x.outstanding.isSome), flag sent, flag r.roamHold.isSome,
          byte r.lastSite, byte ((ho.map Handover.partner).getD 0), byte ((ho.map Handover.id).getD 0),
          byte ((kept.map Abandoned.site).getD 0), byte ((kept.map Abandoned.id).getD 0)]
        ++ signedBytes (r.serving.getD 0) ++ r.candidates.flatMap candidate
    let linkOf (x : Link) : List Byte :=
      let state : Byte := match x.state with
        | .disabled => 0
        | .down => 1
        | .trial => 2
        | .up => 3
      [state, byte x.farSite] ++ beBytes 2 x.token.toNat ++ [byte x.errors, byte x.goods, flag x.looped]
    let callOf (c : Call) : List Byte :=
      beBytes 2 c.id ++ beBytes 2 c.talkgroup ++ beBytes 3 c.talker ++ [byte c.site, flag c.emergency]
    let channel (x : Channel) : List Byte :=
      (match x.phase with
        | .idle => 0 :: ([0, 0, 0, 0, 0, 0, 0, 0, 255] : List Byte)
        | .active c _ _ => 1 :: callOf c
        | .hang _ _ _ => 2 :: ([0, 0, 0, 0, 0, 0, 0, 0, 255] : List Byte))
        ++ beBytes 2 (x.lastEnded.getD 0) ++ [byte x.waits.length] ++ x.waits.flatMap fun w => callOf w.call
    let talkgroup (g : TalkgroupEntry) : List Byte :=
      beBytes 2 g.id ++ [byte g.channel.val, if g.cls = .priority then 1 else 0] ++ beBytes 2 g.talkLimit
        ++ [byte g.hangTime] ++ beBytes 2 g.members ++ beBytes 4 g.remote.toNat
    let reads : List (Instr × Byte × Nat × Reply) :=
      [(.identify, 1, 0,
          Reply.done
            ([0x45, 0x44, 0x36, 0x31, 0x30, 3, 1, 0, 64, 8, 32, 2, 0, 6, 4, byte s.own,
              if s.partState = .running then 1 else 0] ++ beBytes 2 s.restartCount)),
        (.readParameters, 7, 1,
          if q.fields = [0] then Reply.done (s.active.values.flatMap signedBytes)
          else if q.fields = [1] then Reply.done (s.staged.values.flatMap signedBytes)
          else Reply.badValue),
        (.readUnits, 8, 2,
          let found := s.units.filter fun r => decide (start ≤ r.slot)
          if 1 ≤ count ∧ count ≤ 8 then
            Reply.doneLeaving (found.length - count) ((found.take count).flatMap summary)
          else Reply.badValue),
        (.readUnit, 9, 3,
          match s.record (fieldAt q.fields 0 3) with
          | some r => Reply.done (whole r)
          | none => Reply.notFound),
        (.readLinks, 10, 0, Reply.done ([0, 1, 2, 3].flatMap fun l => linkOf (s.link l))),
        (.readChannels, 11, 1,
          if h : start < 6 then Reply.done (channel (s.channel ⟨start, h⟩)) else Reply.badValue),
        (.readTalkgroups, 12, 1,
          let found := s.talkgroups.drop start
          if start ≤ 63 then Reply.doneLeaving (found.length - 17) ((found.take 17).flatMap talkgroup)
          else Reply.badValue)]
    (∀ c code size reply, (c, code, size, reply) ∈ reads → s.serves q rest code →
      ∃ t, exec c s = .next t ∧ t = { s with io := t.io, requests := rest } ∧ s.sameIntake t
        ∧ ∀ k, s.canReply q k →
            t.carries (s.replyPort q) k
              (frameBytes (replyHeader q s)
                (if q.fields.length = size then reply else Reply.badValue).payload))
      ∧ (∀ remaining data,
          (Reply.done data).payload = [0, 0, 0, 0] ++ data
            ∧ (Reply.doneLeaving remaining data).payload = 0 :: (beBytes 2 remaining ++ 0 :: data))
      ∧ Reply.badValue.payload = [4, 0, 0, 0] ∧ Reply.notFound.payload = [3, 0, 0, 0]
      ∧ (∀ c code size, (c, code, size) ∈
            [(Instr.collectCounters, (13 : Byte), 0), (.readCounters, 14, 1), (.restart, 17, 0)] →
          s.serves q rest code → q.fields.length ≠ size →
          ∃ t, exec c s = .next t ∧ t = { s with io := t.io, requests := rest } ∧ t.io.restart = s.io.restart
            ∧ s.sameIntake t
            ∧ ∀ k, s.canReply q k → t.carries (s.replyPort q) k (frameBytes (replyHeader q s) [4, 0, 0, 0]))
      ∧ ((q.code = 0 ∨ 17 < q.code.toNat) → s.serves q rest q.code →
        ∃ t, exec .unknownRequestCode s = .next t ∧ t = { s with io := t.io, requests := rest } ∧ s.sameIntake t
          ∧ ∀ k, s.canReply q k → t.carries (s.replyPort q) k (frameBytes (replyHeader q s) [2, 0, 0, 0]))

/-- WRITE PARAMETERS writes its pairs into the staged set in list order, each within its range and a fail threshold as
the nearest of 1, 4 and 8, up to the first bad parameter number, and leaves the active set alone (R157, R158). The
agent takes the list pair by pair (R155): a command takes the next one, and until the last is written or one has a bad
number the request stays at the head with its progress, so that other events fall between two pairs; that a command is
one pair is the model's choice (log entry 8). A list whose length does not match its count is answered BAD VALUE. That
the BAD VALUE for a length that does not match carries no data, where the one that stops at a bad number gives the
pairs written and the values clamped, is deduced (log entry 25). -/
def Obligations.WriteMovesStagedSet : Prop :=
  (∀ (q : Request) (rest : List Request) (s : State), s.serves q rest 5 →
      let count := (byteAt q.fields 0).toNat
      let begun := s.progress.taken
      let number (i : Nat) : Nat := (byteAt q.fields (1 + 3 * i)).toNat
      let value (i : Nat) : Int := (BitVec.ofNat 16 (fieldAt q.fields (2 + 3 * i) 2)).toInt
      let good (i : Nat) : Prop := 1 ≤ number i ∧ number i ≤ 29
      let changed (i : Nat) : Nat := if clampParam (number i) (value i) = value i then 0 else 1
      let written (i : Nat) (p : Params) : Params := Params.write (number i) (clampParam (number i) (value i)) p
      let ends (staged : Params) (payload : List Byte) (t : State) : Prop :=
        t = { s with io := t.io, requests := rest, progress := Progress.start, staged := staged }
          ∧ ∀ k, s.canReply q k → t.carries (s.replyPort q) k (frameBytes (replyHeader q s) payload)
      (∃ t, exec .writeParameters s = .next t ∧ s.sameIntake t
        ∧ (q.fields.length ≠ 1 + 3 * count → ends s.staged [4, 0, 0, 0] t)
        ∧ (q.fields.length = 1 + 3 * count →
          (count = 0 → s.progress = Progress.start → ends s.staged [0, 0, 0, 0, 0, 0] t)
            ∧ (begun + 1 < count → good begun →
              t = { s with
                    staged := written begun s.staged
                    progress := { taken := begun + 1, clamped := s.progress.clamped + changed begun } })
            ∧ (begun + 1 = count → good begun →
              ends (written begun s.staged)
                [0, 0, 0, 0, BitVec.ofNat 8 count, BitVec.ofNat 8 (s.progress.clamped + changed begun)] t)
            ∧ (begun < count → ¬good begun →
              ends s.staged
                (4 :: (beBytes 2 (count - begun)
                  ++ [BitVec.ofNat 8 begun, BitVec.ofNat 8 begun, BitVec.ofNat 8 s.progress.clamped]))
                t)))
        ∧ (q.fields.length = 1 + 3 * count → s.progress = Progress.start →
          ∀ k, k < count → (∀ i, i < k → good i) →
            ∃ run : Nat → State, run 0 = s ∧ (∀ i, i < k → exec .writeParameters (run i) = .next (run (i + 1)))
              ∧ run k
                = { s with
                    staged := (List.range k).foldl (fun p i => written i p) s.staged
                    progress := { taken := k, clamped := (List.range k).foldl (fun m i => m + changed i) 0 } }))
    ∧ (∀ n v, 1 ≤ n → n ≤ 29 → n ≠ 25 →
      let range : Int × Int :=
        [(0, 32), (0, 32), (0, 32), (0, 32), (0, 32), (1, 15), (0, 128), (1, 16), (0, 30), (1, 15), (-130, -80), (1, 60),
          (200, 5000), (500, 10000), (500, 10000), (1, 120), (10, 600), (60, 3600), (10, 600), (60, 3600), (1, 10), (1, 7),
          (10, 3600), (100, 2000), (1, 8), (1, 15), (5, 120), (1, 30), (500, 5000)].getD (n - 1) (0, 0)
      range.1 ≤ clampParam n v ∧ clampParam n v ≤ range.2
        ∧ (range.1 ≤ v → v ≤ range.2 → clampParam n v = v)
        ∧ (v < range.1 → clampParam n v = range.1) ∧ (range.2 < v → clampParam n v = range.2))
      ∧ (∀ v, clampParam 25 v = 1 ∨ clampParam 25 v = 4 ∨ clampParam 25 v = 8)
      ∧ (∀ v w, w = 1 ∨ w = 4 ∨ w = 8 → (clampParam 25 v - v).natAbs ≤ (w - v).natAbs)
      ∧ clampParam 25 6 = 4
      ∧ ∀ (p : Params) (n : Nat) (v : Int), 1 ≤ n → n ≤ 29 → (0 ≤ v ∨ n = 11) →
          (Params.write n v p).values = p.values.set (n - 1) v

/-- APPLY PARAMETERS is refused IN USE when a RUNNING part's own site id would change; otherwise the staged set
becomes active, links are seeded or taken down where it asks for it, and a part given an own site id enters RUNNING:
the site's own entry loses its dynamic part, the site leaves every remote site set, and nothing else of the two tables
moves (R29, R112, R115, R117, R144, R151, R152, R153, R159). One with fields is answered BAD VALUE (R155). A taken
APPLY is answered DONE. A link that it takes into DOWN or DISABLED is flushed of all but probe entries (R46; from
DISABLED into DOWN too, log entry 23), one that leaves UP has the frames not yet placed whole routed anew (R38) and
sends LINK CHANGE with the far site it had (R150, R164; the far site, log entry 24; the destination 0 in the notice's
buffer, log entry 13), and one that is seeded to probe has its first PROBE queued (R144, R145). That the links are
taken in ascending number, so that a notice meets the links up to its own as they are left and the higher ones as they
were, is the model's choice (log entry 11). The FULL round of the entry into RUNNING meets no route, since every link
has just been seeded, and sends nothing (R116). That the reply is the last act, so that its port, its hop limit and
its header are those of the state that the APPLY has left, of a RUNNING part too, is deduced (log entry 32), and so is
that a BAD VALUE and an IN USE reply carry no data (log entry 25). -/
def Obligations.ApplyTakesEffect : Prop :=
  ∀ (q : Request) (rest : List Request) (s : State), s.serves q rest 6 →
    let p := s.staged
    let seeded (l : LinkNo) (probes : Bool) : Link :=
      { state := if p.farSite l = 0 then .disabled else .down
        farSite := p.farSite l
        token := BitVec.ofNat 16 (p.ownSite * 257 + l.val + 1)
        advance := false
        outstanding := probes && decide (p.farSite l ≠ 0)
        timer := if probes && decide (p.farSite l ≠ 0) then some (s.timeBase.toNat + p.probePeriod) else none
        errors := 0
        goods := 0
        looped := false }
    let room : Prop := s.referenceLaw ∧ s.roomFor 10 (5 * s.sites.length + 5)
    let leaves (l : LinkNo) : Bool :=
      (s.link l).state == .up && ((s.link l).farSite != p.farSite l || decide (p.failThreshold ≤ (s.link l).errors))
    let probed (l : LinkNo) (t : State) : Prop :=
      ∃ k ∈ s.io.pool.free,
        ({ handle := k, cls := .priority, hop := p.hopLimit, addressing := .unaddressed } : Entry)
            ∈ t.queueOf (linkPort l)
          ∧ bytesOf k t.io
            = frameBytes
                { Header.blank .probe with
                  origin := BitVec.ofNat 8 p.ownSite
                  tag := BitVec.ofNat 16 (p.ownSite * 257 + l.val + 1) }
                []
    (q.fields ≠ [] →
      ∃ t, exec .applyParameters s = .next t ∧ t = { s with io := t.io, requests := rest } ∧ s.sameIntake t
        ∧ ∀ k, s.canReply q k → t.carries (s.replyPort q) k (frameBytes (replyHeader q s) [4, 0, 0, 0]))
    ∧ (q.fields = [] → ∃ t, exec .applyParameters s = .next t ∧ s.sameIntake t
      ∧ (s.partState = .unconfigured ∨ p.ownSite = s.own → room →
          s.replied q [0, 0, 0, 0] t
            ∧ ∀ l, (t.link l).state ≠ (s.link l).state → ∀ e ∈ s.queueOf (linkPort l),
              e ∈ t.queueOf (linkPort l) ↔ isProbeEntry s.io e = true)
      ∧ (s.partState = .running → p.ownSite ≠ s.own →
          t = { s with io := t.io, requests := rest }
            ∧ ∀ k, s.canReply q k → t.carries (s.replyPort q) k (frameBytes (replyHeader q s) [6, 0, 0, 0]))
      ∧ (s.partState = .running → p.ownSite = s.own →
          t = { s with io := t.io, requests := rest, active := p, links := t.links }
            ∧ ∀ l,
                ((s.link l).farSite ≠ p.farSite l → t.link l = seeded l true)
                  ∧ ((s.link l).farSite = p.farSite l →
                    t.link l
                      = if (s.link l).state = .up ∧ p.failThreshold ≤ (s.link l).errors then
                          { s.link l with state := .down, goods := 0 }
                        else s.link l))
      ∧ (s.partState = .running → p.ownSite = s.own →
          (s.engineLaw → s.reroutes leaves t)
            ∧ (room → ∀ l,
              (leaves l = true →
                let met : Net :=
                  { active := p, sites := s.sites, links := Vector.ofFn fun k => if k ≤ l then t.link k else s.link k }
                let disabled := (s.link l).farSite ≠ p.farSite l ∧ p.farSite l = 0
                s.noticed met { Header.blank .mgmtNotice with subcode := 1 }
                  [BitVec.ofNat 8 l.val, if disabled then 0 else 1, BitVec.ofNat 8 (s.link l).farSite]
                  (met.managementSites.filter fun n => (met.route n).any fun j => (t.link j).state == .up) t)
                ∧ ((s.link l).farSite ≠ p.farSite l → p.farSite l ≠ 0 → probed l t)))
      ∧ (s.partState = .unconfigured → p.ownSite = 0 →
          t = { s with io := t.io, requests := rest, active := p, links := t.links }
            ∧ ∀ l, t.link l = if (s.link l).farSite = p.farSite l then s.link l else seeded l false)
      ∧ (s.partState = .unconfigured → p.ownSite ≠ 0 →
          t = { s with
                io := t.io
                requests := rest
                active := p
                partState := .running
                refreshTimer := some (s.timeBase.toNat + p.refreshPeriod * 1000)
                ownSequence := s.ownSequence + 1
                links := t.links
                sites :=
                  s.sites.map fun e =>
                    if e.site = p.ownSite then
                      { e with lastSequence := none, ageTimer := none, announcedPeriod := none }
                    else e
                talkgroups := s.talkgroups.map fun g => { g with remote := dropSite g.remote p.ownSite } }
            ∧ (∀ l, t.link l = seeded l true) ∧ t.net.routedSites = []
            ∧ (room → (∀ l, p.farSite l ≠ 0 → probed l t)
              ∧ ∀ port, ∀ e ∈ t.queueOf port, e ∈ s.queueOf port
                ∨ ∃ l, port = linkPort l
                  ∧ (e.addressing = .unaddressed ∨ e.addressing = .destination q.origin))))

/-- The loads take their entries in list order up to the first that fails a check: the entries before it stay, it and
those behind it are not taken, and the reply says how many were and why it stopped. The agent takes a load entry by
entry (R155): a command checks and takes the next one, and until the last is taken or one fails the request stays at
the head with its progress, so that other events fall between two entries; that a command is one entry is the model's
choice (log entry 8). A load whose length does not match its count is answered BAD VALUE. A field out of range is BAD
VALUE, a new key in a table of 64 talkgroups or 8 neighbours TABLE FULL, a removal or a change of channel of a
talkgroup in use IN USE (R71, R112, R156). That the BAD VALUE for a length that does not match carries no data,
without the entries taken and the cause, and that a removal is checked by its key and its marker, the own site's key
among the neighbours being BAD VALUE, are deduced (log entry 25). -/
def Obligations.LoadsStopAtFirstFailure : Prop :=
  (∀ (q : Request) (rest : List Request) (s : State),
    let count := (byteAt q.fields 0).toNat
    let begun := s.progress.taken
    let loads (size : Nat) (c : Instr) (check : List Byte → State → Option Byte)
        (take : List Byte → State → State) : Prop :=
      let entry (i : Nat) : List Byte := (q.fields.drop (1 + size * i)).take size
      let after (k : Nat) : State := (List.range k).foldl (fun s i => take (entry i) s) s
      let ends (s : State) (payload : List Byte) (t : State) : Prop :=
        t = { s with io := t.io, requests := rest, progress := Progress.start }
          ∧ ∀ h, s.canReply q h → t.carries (s.replyPort q) h (frameBytes (replyHeader q s) payload)
      (∃ t, exec c s = .next t ∧ s.sameIntake t
        ∧ (q.fields.length ≠ 1 + size * count → ends s [4, 0, 0, 0] t)
        ∧ (q.fields.length = 1 + size * count →
          (count = 0 → begun = 0 → ends s [0, 0, 0, 0, 0, 0] t)
            ∧ (begun + 1 < count → check (entry begun) s = none →
              t = { take (entry begun) s with progress := { s.progress with taken := begun + 1 } })
            ∧ (begun + 1 = count → check (entry begun) s = none →
              ends (take (entry begun) s) [0, 0, 0, 0, BitVec.ofNat 8 count, 0] t)
            ∧ ∀ cause, begun < count → check (entry begun) s = some cause →
              ends s
                ((if begun = 0 then cause else 7) :: (beBytes 2 (count - begun)
                  ++ [BitVec.ofNat 8 begun, BitVec.ofNat 8 begun, cause]))
                t))
        ∧ (q.fields.length = 1 + size * count → begun = 0 →
          ∀ k, k < count → (∀ i, i < k → check (entry i) (after i) = none) →
            ∃ run : Nat → State, run 0 = s ∧ (∀ i, i < k → exec c (run i) = .next (run (i + 1)))
              ∧ run k = { after k with progress := { s.progress with taken := k } })
    (s.serves q rest 2 → loads 5 .loadSites checkSite takeSite)
      ∧ (s.serves q rest 3 → loads 8 .loadTalkgroups checkTalkgroup takeTalkgroup)
      ∧ (s.serves q rest 4 → loads 4 .loadNeighbors checkNeighbor takeNeighbor))
    ∧ ∀ (s : State) (a b c d e f g h : Byte),
      let oneBit (x : Byte) : Prop := x = 0 ∨ x = 1
      (let ok :=
          1 ≤ a.toNat ∧ a.toNat ≤ 32
            ∧ (e = 1 ∨ (e = 0 ∧ (b.toNat ≤ 3 ∨ b = 255) ∧ (c.toNat ≤ 3 ∨ c = 255) ∧ oneBit d))
        let check := checkSite [a, b, c, d, e] s
        (ok → check = none) ∧ (¬ok → check = some 4))
        ∧ (let id := a.toNat * 256 + b.toNat
          let limit := e.toNat * 256 + f.toNat
          let ok :=
            1 ≤ id ∧ id ≤ 65534
              ∧ (h = 1 ∨ (h = 0 ∧ c.toNat ≤ 5 ∧ oneBit d ∧ 10 ≤ limit ∧ limit ≤ 300 ∧ g.toNat ≤ 100))
          let inUse (y : TalkgroupEntry) : Prop :=
            0 < y.members
              ∨ ∃ n, (∃ call, (s.channel n).phase.call? = some call ∧ call.talkgroup = id)
                ∨ ∃ w ∈ (s.channel n).waits, w.call.talkgroup = id
          let check := checkTalkgroup [a, b, c, d, e, f, g, h] s
          (¬ok → check = some 4)
            ∧ (ok → findTalkgroup id s.talkgroups = none →
              check = if h = 0 ∧ 64 ≤ s.talkgroups.length then some 5 else none)
            ∧ ∀ y, ok → findTalkgroup id s.talkgroups = some y →
              (inUse y → h = 1 ∨ c.toNat ≠ y.channel.val → check = some 6)
                ∧ (¬(inUse y ∧ (h = 1 ∨ c.toNat ≠ y.channel.val)) → check = none))
        ∧ (let n := a.toNat
          let ok :=
            1 ≤ n ∧ n ≤ 32 ∧ n ≠ s.own ∧ (d = 1 ∨ (d = 0 ∧ -20 ≤ b.toInt ∧ b.toInt ≤ 20 ∧ oneBit c))
          let check := checkNeighbor [a, b, c, d] s
          (¬ok → check = some 4)
            ∧ (ok → d = 1 ∨ (findNeighbor n s.neighbors).isSome = true → check = none)
            ∧ (ok → s.neighborLaw → d = 0 → findNeighbor n s.neighbors = none →
              check = if (s.neighbors.filterMap id).length = 8 then some 5 else none))

/-- A load's entry that is taken is what every lookup sees from then on, with the dynamic fields of a kept entry
kept; a removed one is gone, a removed site leaves every remote site set, and a removed neighbour's candidate
slot is freed in every record (R29, R31, R71, R72, R112, R117, R156). -/
def Obligations.LoadedEntriesAreSeen : Prop :=
  ∀ (s : State) (a b c d e f g h : Byte),
    (let n := a.toNat
      let t := takeSite [a, b, c, d, e] s
      (∀ k, k ≠ n → findSite k t.sites = findSite k s.sites)
        ∧ (e = 1 → findSite n t.sites = none
          ∧ ∀ x, findSite n s.sites = some x → ∀ y ∈ t.talkgroups, hasSite y.remote n = false)
        ∧ (e = 0 → t = { s with sites := t.sites }
          ∧ ∃ x, findSite n t.sites = some x
            ∧ (∀ l : LinkNo, x.primary = some l ↔ b.toNat = l.val) ∧ (∀ l : LinkNo, x.alternate = some l ↔ c.toNat = l.val)
            ∧ x.management = (d == 1)
            ∧ (∀ y, findSite n s.sites = some y → x.lastSequence = y.lastSequence ∧ x.ageTimer = y.ageTimer
              ∧ x.announcedPeriod = y.announcedPeriod)
            ∧ (findSite n s.sites = none → x.lastSequence = none ∧ x.ageTimer = none ∧ x.announcedPeriod = none)))
      ∧ (let n := a.toNat * 256 + b.toNat
        let t := takeTalkgroup [a, b, c, d, e, f, g, h] s
        t = { s with talkgroups := t.talkgroups }
          ∧ (∀ k, k ≠ n → findTalkgroup k t.talkgroups = findTalkgroup k s.talkgroups)
          ∧ (h = 1 → findTalkgroup n t.talkgroups = none)
          ∧ (h = 0 → c.toNat ≤ 5 → ∃ x, findTalkgroup n t.talkgroups = some x ∧ x.channel.val = c.toNat
            ∧ x.cls = (if d = 1 then .priority else .routine) ∧ x.talkLimit = e.toNat * 256 + f.toNat
            ∧ x.hangTime = g.toNat
            ∧ x.members = ((findTalkgroup n s.talkgroups).map TalkgroupEntry.members).getD 0
            ∧ x.remote = ((findTalkgroup n s.talkgroups).map TalkgroupEntry.remote).getD 0))
      ∧ (let n := a.toNat
        let t := takeNeighbor [a, b, c, d] s
        (d = 1 → findNeighbor n t.neighbors = none
          ∧ (∀ k, k ≠ n → findNeighbor k t.neighbors = findNeighbor k s.neighbors)
          ∧ ((findNeighbor n s.neighbors).isSome = true →
            ∀ r ∈ t.units, ∀ x, some x ∈ r.candidates → x.site ≠ n))
          ∧ (d = 0 → (findNeighbor n s.neighbors).isSome = true ∨ none ∈ s.neighbors →
            (∀ k, k ≠ n → findNeighbor k t.neighbors = findNeighbor k s.neighbors)
              ∧ findNeighbor n t.neighbors = some { site := n, bias := b.toInt, enabled := c == 1 }
              ∧ t = { s with neighbors := t.neighbors }))

/-- COLLECT COUNTERS moves every live counter into the snapshot, merging with one that was not read, and READ COUNTERS
returns up to 114 of the snapshot, marking it read with counter 157 (R161, R162). That the mark is set even when the
reply is refused its buffer is the model's choice (log entry 26). That the BAD VALUE for a start above 157 carries no
data, no merge count either, is deduced (log entry 25). -/
def Obligations.SnapshotCollectsAndReads : Prop :=
  ∀ (q : Request) (rest : List Request) (s : State), s.counterLaw →
    (s.serves q rest 13 → q.fields = [] →
      ∃ t, exec .collectCounters s = .next t ∧ s.sameIntake t
        ∧ t = { s with
              io := t.io
              requests := rest
              snapshot := t.snapshot
              mergeCount := t.mergeCount
              snapshotRead := false }
        ∧ t.mergeCount = (if s.snapshotRead then 0 else min 65535 (s.mergeCount + 1))
        ∧ (∀ i, i < 158 →
          t.snapshot.getD i 0 = min 65535 ((if s.snapshotRead then 0 else s.snapshot.getD i 0) + s.counter i))
        ∧ ∀ k, s.canReply q k → (∀ i, t.counter i = 0)
            ∧ t.carries (s.replyPort q) k (frameBytes (replyHeader q s) [0, 0, 0, 0]))
      ∧ ∀ b, s.serves q rest 14 → q.fields = [b] →
        ∃ t, exec .readCounters s = .next t ∧ s.sameIntake t
          ∧ t = { s with
                io := t.io
                requests := rest
                snapshotRead := s.snapshotRead || decide (44 ≤ b.toNat ∧ b.toNat ≤ 157) }
          ∧ ∀ k, s.canReply q k →
              t.carries (s.replyPort q) k
                (frameBytes (replyHeader q s)
                  (if b.toNat ≤ 157 then
                    0 :: (beBytes 2 (44 - b.toNat) ++ 0 :: (beBytes 2 s.mergeCount
                      ++ ((s.snapshot.drop b.toNat).take 114).flatMap (beBytes 2)))
                  else [4, 0, 0, 0]))

/-- CLEAR UNIT deletes a unit's record with its member report, and its partner is told HO CANCEL (CLEARED); CLEAR
EMERGENCY clears its flag and lets a QUIET record go dormant again; a unit without a record is answered NOT FOUND, and
a request of another length BAD VALUE (R59, R65, R109, R155, R160). That a NOT FOUND and a BAD VALUE reply carry no
data is deduced (log entry 25). -/
def Obligations.ClearsActOnRecords : Prop :=
  (∀ (q : Request) (rest : List Request) (s : State) (c : Instr) (code : Byte),
    (c, code) ∈ [(Instr.clearUnit, (15 : Byte)), (.clearEmergency, 16)] → s.serves q rest code → q.fields.length ≠ 3 →
    ∃ t, exec c s = .next t ∧ t = { s with io := t.io, requests := rest } ∧ s.sameIntake t
      ∧ ∀ k, s.canReply q k → t.carries (s.replyPort q) k (frameBytes (replyHeader q s) [4, 0, 0, 0]))
  ∧ ∀ (q : Request) (rest : List Request) (s : State), q.fields.length = 3 → s.counterLaw →
    let u := fieldAt q.fields 0 3
    (s.serves q rest 15 →
      ∃ t, exec .clearUnit s = .next t ∧ s.sameIntake t
        ∧ t = { s with
              io := t.io
              requests := rest
              units := t.units
              talkgroups := t.talkgroups
              ownSequence := t.ownSequence }
        ∧ s.sameRecordsBut u t ∧ t.record u = none
        ∧ (s.record u = none → t.talkgroups = s.talkgroups ∧ t.ownSequence = s.ownSequence
          ∧ ∀ k, s.canReply q k → t.carries (s.replyPort q) k (frameBytes (replyHeader q s) [3, 0, 0, 0]))
        ∧ ∀ r, s.record u = some r → s.raised .recordsDeleted t
          ∧ (r.phase.isMember = true →
            t.talkgroups
              = s.talkgroups.map fun k => if k.id = r.talkgroup then { k with members := k.members - 1 } else k)
          ∧ (r.phase.isMember = false → t.talkgroups = s.talkgroups ∧ t.ownSequence = s.ownSequence)
          ∧ (r.phase.isMember = false → r.phase.handover? = none → ∀ k, s.canReply q k →
            t.carries (s.replyPort q) k (frameBytes (replyHeader q s) [0, 0, 0, 0]))
          ∧ (s.roomFor 3 (s.sites.length + 2) → s.replied q [0, 0, 0, 0] t)
          ∧ (∀ ho, (∃ ch a, r.phase = .proposing ch a ho) ∨ (∃ ch sent, r.phase = .departing ch ho sent)
                ∨ r.phase = .arriving ho →
              s.roomFor 3 (s.sites.length + 2) →
              s.queuedFor
                { Header.blank .hoCancel with
                  unit := BitVec.ofNat 24 u
                  tag := BitVec.ofNat 16 ho.id
                  subcode := 7 }
                ho.partner t)
          ∧ ∀ ho j, r.phase = .arriving ho → s.net.route ho.partner = some j → s.replyPort q ≠ linkPort j →
            s.poolLaw → s.waitsAt (s.replyPort q) →
            s.builtForSite
              { Header.blank .hoCancel with
                unit := BitVec.ofNat 24 u
                tag := BitVec.ofNat 16 ho.id
                subcode := 7 }
              ho.partner t)
      ∧ (s.serves q rest 16 →
        ∃ t, exec .clearEmergency s = .next t ∧ s.sameIntake t
          ∧ t = { s with io := t.io, requests := rest, units := t.units } ∧ s.sameRecordsBut u t
          ∧ (s.record u = none → t.units = s.units)
          ∧ (∀ r, s.record u = some r → ∃ ph, t.record u = some { r with emergency := false, phase := ph }
            ∧ (r.emergency = false ∨ r.phase.activity? = none → ph = r.phase)
            ∧ ∀ a, r.emergency = true → r.phase.activity? = some a →
                ph.number = r.phase.number ∧ ph.channel? = r.phase.channel? ∧ ph.handover? = r.phase.handover?
                  ∧ ph.activity?
                    = some
                        { a with
                          timer :=
                            if a.cls = .quiet ∧ a.timer = none then
                              some (s.timeBase.toNat + s.active.quietDownshift * 1000)
                            else a.timer })
          ∧ ∀ k, s.canReply q k →
              t.carries (s.replyPort q) k
                (frameBytes (replyHeader q s) (if (s.record u).isSome then [0, 0, 0, 0] else [3, 0, 0, 0])))
end

