-- ==== Sys2Proof/Laws/State.lean ====
section
/-! SUPPORT. What each update of the state does to each field, one lemma for each, and what a change of one
port, one channel or one link does to the others. -/

namespace Sys2Proof.Machine

variable (s : State)

/-! ## State.onIo -/

@[simp] theorem State_onIo_resetHeld (f : Net → Io → Io) : (s.onIo f).resetHeld = s.resetHeld := rfl
@[simp] theorem State_onIo_timeBase (f : Net → Io → Io) : (s.onIo f).timeBase = s.timeBase := rfl
@[simp] theorem State_onIo_partState (f : Net → Io → Io) : (s.onIo f).partState = s.partState := rfl
@[simp] theorem State_onIo_staged (f : Net → Io → Io) : (s.onIo f).staged = s.staged := rfl
@[simp] theorem State_onIo_active (f : Net → Io → Io) : (s.onIo f).active = s.active := rfl
@[simp] theorem State_onIo_requests (f : Net → Io → Io) : (s.onIo f).requests = s.requests := rfl
@[simp] theorem State_onIo_progress (f : Net → Io → Io) : (s.onIo f).progress = s.progress := rfl
@[simp] theorem State_onIo_restartCount (f : Net → Io → Io) : (s.onIo f).restartCount = s.restartCount := rfl
@[simp] theorem State_onIo_snapshot (f : Net → Io → Io) : (s.onIo f).snapshot = s.snapshot := rfl
@[simp] theorem State_onIo_mergeCount (f : Net → Io → Io) : (s.onIo f).mergeCount = s.mergeCount := rfl
@[simp] theorem State_onIo_snapshotRead (f : Net → Io → Io) : (s.onIo f).snapshotRead = s.snapshotRead := rfl
@[simp] theorem State_onIo_io (f : Net → Io → Io) : (s.onIo f).io = f s.net s.io := rfl
@[simp] theorem State_onIo_sites (f : Net → Io → Io) : (s.onIo f).sites = s.sites := rfl
@[simp] theorem State_onIo_neighbors (f : Net → Io → Io) : (s.onIo f).neighbors = s.neighbors := rfl
@[simp] theorem State_onIo_talkgroups (f : Net → Io → Io) : (s.onIo f).talkgroups = s.talkgroups := rfl
@[simp] theorem State_onIo_units (f : Net → Io → Io) : (s.onIo f).units = s.units := rfl
@[simp] theorem State_onIo_handoverCounter (f : Net → Io → Io) : (s.onIo f).handoverCounter = s.handoverCounter := rfl
@[simp] theorem State_onIo_ownSequence (f : Net → Io → Io) : (s.onIo f).ownSequence = s.ownSequence := rfl
@[simp] theorem State_onIo_refreshTimer (f : Net → Io → Io) : (s.onIo f).refreshTimer = s.refreshTimer := rfl
@[simp] theorem State_onIo_channels (f : Net → Io → Io) : (s.onIo f).channels = s.channels := rfl
@[simp] theorem State_onIo_callCounter (f : Net → Io → Io) : (s.onIo f).callCounter = s.callCounter := rfl
@[simp] theorem State_onIo_links (f : Net → Io → Io) : (s.onIo f).links = s.links := rfl
@[simp] theorem State_onIo_pending (f : Net → Io → Io) : (s.onIo f).pending = s.pending := rfl

/-! ## State.count -/

@[simp] theorem State_count_resetHeld (c : DevCounter) : (s.count c).resetHeld = s.resetHeld := rfl
@[simp] theorem State_count_timeBase (c : DevCounter) : (s.count c).timeBase = s.timeBase := rfl
@[simp] theorem State_count_partState (c : DevCounter) : (s.count c).partState = s.partState := rfl
@[simp] theorem State_count_staged (c : DevCounter) : (s.count c).staged = s.staged := rfl
@[simp] theorem State_count_active (c : DevCounter) : (s.count c).active = s.active := rfl
@[simp] theorem State_count_requests (c : DevCounter) : (s.count c).requests = s.requests := rfl
@[simp] theorem State_count_progress (c : DevCounter) : (s.count c).progress = s.progress := rfl
@[simp] theorem State_count_restartCount (c : DevCounter) : (s.count c).restartCount = s.restartCount := rfl
@[simp] theorem State_count_snapshot (c : DevCounter) : (s.count c).snapshot = s.snapshot := rfl
@[simp] theorem State_count_mergeCount (c : DevCounter) : (s.count c).mergeCount = s.mergeCount := rfl
@[simp] theorem State_count_snapshotRead (c : DevCounter) : (s.count c).snapshotRead = s.snapshotRead := rfl
@[simp] theorem State_count_io (c : DevCounter) : (s.count c).io = countDev c s.io := rfl
@[simp] theorem State_count_sites (c : DevCounter) : (s.count c).sites = s.sites := rfl
@[simp] theorem State_count_neighbors (c : DevCounter) : (s.count c).neighbors = s.neighbors := rfl
@[simp] theorem State_count_talkgroups (c : DevCounter) : (s.count c).talkgroups = s.talkgroups := rfl
@[simp] theorem State_count_units (c : DevCounter) : (s.count c).units = s.units := rfl
@[simp] theorem State_count_handoverCounter (c : DevCounter) : (s.count c).handoverCounter = s.handoverCounter := rfl
@[simp] theorem State_count_ownSequence (c : DevCounter) : (s.count c).ownSequence = s.ownSequence := rfl
@[simp] theorem State_count_refreshTimer (c : DevCounter) : (s.count c).refreshTimer = s.refreshTimer := rfl
@[simp] theorem State_count_channels (c : DevCounter) : (s.count c).channels = s.channels := rfl
@[simp] theorem State_count_callCounter (c : DevCounter) : (s.count c).callCounter = s.callCounter := rfl
@[simp] theorem State_count_links (c : DevCounter) : (s.count c).links = s.links := rfl
@[simp] theorem State_count_pending (c : DevCounter) : (s.count c).pending = s.pending := rfl

/-! ## modUnit -/

@[simp] theorem modUnit_resetHeld (u : UnitId) (f : Record → Record) : (modUnit u f s).resetHeld = s.resetHeld := rfl
@[simp] theorem modUnit_timeBase (u : UnitId) (f : Record → Record) : (modUnit u f s).timeBase = s.timeBase := rfl
@[simp] theorem modUnit_partState (u : UnitId) (f : Record → Record) : (modUnit u f s).partState = s.partState := rfl
@[simp] theorem modUnit_staged (u : UnitId) (f : Record → Record) : (modUnit u f s).staged = s.staged := rfl
@[simp] theorem modUnit_active (u : UnitId) (f : Record → Record) : (modUnit u f s).active = s.active := rfl
@[simp] theorem modUnit_requests (u : UnitId) (f : Record → Record) : (modUnit u f s).requests = s.requests := rfl
@[simp] theorem modUnit_progress (u : UnitId) (f : Record → Record) : (modUnit u f s).progress = s.progress := rfl
@[simp] theorem modUnit_restartCount (u : UnitId) (f : Record → Record) : (modUnit u f s).restartCount = s.restartCount := rfl
@[simp] theorem modUnit_snapshot (u : UnitId) (f : Record → Record) : (modUnit u f s).snapshot = s.snapshot := rfl
@[simp] theorem modUnit_mergeCount (u : UnitId) (f : Record → Record) : (modUnit u f s).mergeCount = s.mergeCount := rfl
@[simp] theorem modUnit_snapshotRead (u : UnitId) (f : Record → Record) : (modUnit u f s).snapshotRead = s.snapshotRead := rfl
@[simp] theorem modUnit_io (u : UnitId) (f : Record → Record) : (modUnit u f s).io = s.io := rfl
@[simp] theorem modUnit_sites (u : UnitId) (f : Record → Record) : (modUnit u f s).sites = s.sites := rfl
@[simp] theorem modUnit_neighbors (u : UnitId) (f : Record → Record) : (modUnit u f s).neighbors = s.neighbors := rfl
@[simp] theorem modUnit_talkgroups (u : UnitId) (f : Record → Record) : (modUnit u f s).talkgroups = s.talkgroups := rfl
@[simp] theorem modUnit_units (u : UnitId) (f : Record → Record) : (modUnit u f s).units = s.units.map fun r => if r.unit == u then f r else r := rfl
@[simp] theorem modUnit_handoverCounter (u : UnitId) (f : Record → Record) : (modUnit u f s).handoverCounter = s.handoverCounter := rfl
@[simp] theorem modUnit_ownSequence (u : UnitId) (f : Record → Record) : (modUnit u f s).ownSequence = s.ownSequence := rfl
@[simp] theorem modUnit_refreshTimer (u : UnitId) (f : Record → Record) : (modUnit u f s).refreshTimer = s.refreshTimer := rfl
@[simp] theorem modUnit_channels (u : UnitId) (f : Record → Record) : (modUnit u f s).channels = s.channels := rfl
@[simp] theorem modUnit_callCounter (u : UnitId) (f : Record → Record) : (modUnit u f s).callCounter = s.callCounter := rfl
@[simp] theorem modUnit_links (u : UnitId) (f : Record → Record) : (modUnit u f s).links = s.links := rfl
@[simp] theorem modUnit_pending (u : UnitId) (f : Record → Record) : (modUnit u f s).pending = s.pending := rfl

/-! ## removeRecord -/

@[simp] theorem removeRecord_resetHeld (u : UnitId) : (removeRecord u s).resetHeld = s.resetHeld := rfl
@[simp] theorem removeRecord_timeBase (u : UnitId) : (removeRecord u s).timeBase = s.timeBase := rfl
@[simp] theorem removeRecord_partState (u : UnitId) : (removeRecord u s).partState = s.partState := rfl
@[simp] theorem removeRecord_staged (u : UnitId) : (removeRecord u s).staged = s.staged := rfl
@[simp] theorem removeRecord_active (u : UnitId) : (removeRecord u s).active = s.active := rfl
@[simp] theorem removeRecord_requests (u : UnitId) : (removeRecord u s).requests = s.requests := rfl
@[simp] theorem removeRecord_progress (u : UnitId) : (removeRecord u s).progress = s.progress := rfl
@[simp] theorem removeRecord_restartCount (u : UnitId) : (removeRecord u s).restartCount = s.restartCount := rfl
@[simp] theorem removeRecord_snapshot (u : UnitId) : (removeRecord u s).snapshot = s.snapshot := rfl
@[simp] theorem removeRecord_mergeCount (u : UnitId) : (removeRecord u s).mergeCount = s.mergeCount := rfl
@[simp] theorem removeRecord_snapshotRead (u : UnitId) : (removeRecord u s).snapshotRead = s.snapshotRead := rfl
@[simp] theorem removeRecord_io (u : UnitId) : (removeRecord u s).io = s.io := rfl
@[simp] theorem removeRecord_sites (u : UnitId) : (removeRecord u s).sites = s.sites := rfl
@[simp] theorem removeRecord_neighbors (u : UnitId) : (removeRecord u s).neighbors = s.neighbors := rfl
@[simp] theorem removeRecord_talkgroups (u : UnitId) : (removeRecord u s).talkgroups = s.talkgroups := rfl
@[simp] theorem removeRecord_units (u : UnitId) : (removeRecord u s).units = s.units.filter fun r => r.unit != u := rfl
@[simp] theorem removeRecord_handoverCounter (u : UnitId) : (removeRecord u s).handoverCounter = s.handoverCounter := rfl
@[simp] theorem removeRecord_ownSequence (u : UnitId) : (removeRecord u s).ownSequence = s.ownSequence := rfl
@[simp] theorem removeRecord_refreshTimer (u : UnitId) : (removeRecord u s).refreshTimer = s.refreshTimer := rfl
@[simp] theorem removeRecord_channels (u : UnitId) : (removeRecord u s).channels = s.channels := rfl
@[simp] theorem removeRecord_callCounter (u : UnitId) : (removeRecord u s).callCounter = s.callCounter := rfl
@[simp] theorem removeRecord_links (u : UnitId) : (removeRecord u s).links = s.links := rfl
@[simp] theorem removeRecord_pending (u : UnitId) : (removeRecord u s).pending = s.pending := rfl

/-! ## insertRecord -/

@[simp] theorem insertRecord_resetHeld (r : Record) : (insertRecord r s).resetHeld = s.resetHeld := rfl
@[simp] theorem insertRecord_timeBase (r : Record) : (insertRecord r s).timeBase = s.timeBase := rfl
@[simp] theorem insertRecord_partState (r : Record) : (insertRecord r s).partState = s.partState := rfl
@[simp] theorem insertRecord_staged (r : Record) : (insertRecord r s).staged = s.staged := rfl
@[simp] theorem insertRecord_active (r : Record) : (insertRecord r s).active = s.active := rfl
@[simp] theorem insertRecord_requests (r : Record) : (insertRecord r s).requests = s.requests := rfl
@[simp] theorem insertRecord_progress (r : Record) : (insertRecord r s).progress = s.progress := rfl
@[simp] theorem insertRecord_restartCount (r : Record) : (insertRecord r s).restartCount = s.restartCount := rfl
@[simp] theorem insertRecord_snapshot (r : Record) : (insertRecord r s).snapshot = s.snapshot := rfl
@[simp] theorem insertRecord_mergeCount (r : Record) : (insertRecord r s).mergeCount = s.mergeCount := rfl
@[simp] theorem insertRecord_snapshotRead (r : Record) : (insertRecord r s).snapshotRead = s.snapshotRead := rfl
@[simp] theorem insertRecord_io (r : Record) : (insertRecord r s).io = s.io := rfl
@[simp] theorem insertRecord_sites (r : Record) : (insertRecord r s).sites = s.sites := rfl
@[simp] theorem insertRecord_neighbors (r : Record) : (insertRecord r s).neighbors = s.neighbors := rfl
@[simp] theorem insertRecord_talkgroups (r : Record) : (insertRecord r s).talkgroups = s.talkgroups := rfl
@[simp] theorem insertRecord_units (r : Record) : (insertRecord r s).units = insertKeyed Record.slot r s.units := rfl
@[simp] theorem insertRecord_handoverCounter (r : Record) : (insertRecord r s).handoverCounter = s.handoverCounter := rfl
@[simp] theorem insertRecord_ownSequence (r : Record) : (insertRecord r s).ownSequence = s.ownSequence := rfl
@[simp] theorem insertRecord_refreshTimer (r : Record) : (insertRecord r s).refreshTimer = s.refreshTimer := rfl
@[simp] theorem insertRecord_channels (r : Record) : (insertRecord r s).channels = s.channels := rfl
@[simp] theorem insertRecord_callCounter (r : Record) : (insertRecord r s).callCounter = s.callCounter := rfl
@[simp] theorem insertRecord_links (r : Record) : (insertRecord r s).links = s.links := rfl
@[simp] theorem insertRecord_pending (r : Record) : (insertRecord r s).pending = s.pending := rfl

/-! ## modChannel -/

@[simp] theorem modChannel_resetHeld (n : ChannelNo) (f : Channel → Channel) : (modChannel n f s).resetHeld = s.resetHeld := rfl
@[simp] theorem modChannel_timeBase (n : ChannelNo) (f : Channel → Channel) : (modChannel n f s).timeBase = s.timeBase := rfl
@[simp] theorem modChannel_partState (n : ChannelNo) (f : Channel → Channel) : (modChannel n f s).partState = s.partState := rfl
@[simp] theorem modChannel_staged (n : ChannelNo) (f : Channel → Channel) : (modChannel n f s).staged = s.staged := rfl
@[simp] theorem modChannel_active (n : ChannelNo) (f : Channel → Channel) : (modChannel n f s).active = s.active := rfl
@[simp] theorem modChannel_requests (n : ChannelNo) (f : Channel → Channel) : (modChannel n f s).requests = s.requests := rfl
@[simp] theorem modChannel_progress (n : ChannelNo) (f : Channel → Channel) : (modChannel n f s).progress = s.progress := rfl
@[simp] theorem modChannel_restartCount (n : ChannelNo) (f : Channel → Channel) : (modChannel n f s).restartCount = s.restartCount := rfl
@[simp] theorem modChannel_snapshot (n : ChannelNo) (f : Channel → Channel) : (modChannel n f s).snapshot = s.snapshot := rfl
@[simp] theorem modChannel_mergeCount (n : ChannelNo) (f : Channel → Channel) : (modChannel n f s).mergeCount = s.mergeCount := rfl
@[simp] theorem modChannel_snapshotRead (n : ChannelNo) (f : Channel → Channel) : (modChannel n f s).snapshotRead = s.snapshotRead := rfl
@[simp] theorem modChannel_io (n : ChannelNo) (f : Channel → Channel) : (modChannel n f s).io = s.io := rfl
@[simp] theorem modChannel_sites (n : ChannelNo) (f : Channel → Channel) : (modChannel n f s).sites = s.sites := rfl
@[simp] theorem modChannel_neighbors (n : ChannelNo) (f : Channel → Channel) : (modChannel n f s).neighbors = s.neighbors := rfl
@[simp] theorem modChannel_talkgroups (n : ChannelNo) (f : Channel → Channel) : (modChannel n f s).talkgroups = s.talkgroups := rfl
@[simp] theorem modChannel_units (n : ChannelNo) (f : Channel → Channel) : (modChannel n f s).units = s.units := rfl
@[simp] theorem modChannel_handoverCounter (n : ChannelNo) (f : Channel → Channel) : (modChannel n f s).handoverCounter = s.handoverCounter := rfl
@[simp] theorem modChannel_ownSequence (n : ChannelNo) (f : Channel → Channel) : (modChannel n f s).ownSequence = s.ownSequence := rfl
@[simp] theorem modChannel_refreshTimer (n : ChannelNo) (f : Channel → Channel) : (modChannel n f s).refreshTimer = s.refreshTimer := rfl
@[simp] theorem modChannel_channels (n : ChannelNo) (f : Channel → Channel) : (modChannel n f s).channels = s.channels.set n.val (f s.channels[n.val]) := rfl
@[simp] theorem modChannel_callCounter (n : ChannelNo) (f : Channel → Channel) : (modChannel n f s).callCounter = s.callCounter := rfl
@[simp] theorem modChannel_links (n : ChannelNo) (f : Channel → Channel) : (modChannel n f s).links = s.links := rfl
@[simp] theorem modChannel_pending (n : ChannelNo) (f : Channel → Channel) : (modChannel n f s).pending = s.pending := rfl

/-! ## modLink -/

@[simp] theorem modLink_resetHeld (l : LinkNo) (f : Link → Link) : (modLink l f s).resetHeld = s.resetHeld := rfl
@[simp] theorem modLink_timeBase (l : LinkNo) (f : Link → Link) : (modLink l f s).timeBase = s.timeBase := rfl
@[simp] theorem modLink_partState (l : LinkNo) (f : Link → Link) : (modLink l f s).partState = s.partState := rfl
@[simp] theorem modLink_staged (l : LinkNo) (f : Link → Link) : (modLink l f s).staged = s.staged := rfl
@[simp] theorem modLink_active (l : LinkNo) (f : Link → Link) : (modLink l f s).active = s.active := rfl
@[simp] theorem modLink_requests (l : LinkNo) (f : Link → Link) : (modLink l f s).requests = s.requests := rfl
@[simp] theorem modLink_progress (l : LinkNo) (f : Link → Link) : (modLink l f s).progress = s.progress := rfl
@[simp] theorem modLink_restartCount (l : LinkNo) (f : Link → Link) : (modLink l f s).restartCount = s.restartCount := rfl
@[simp] theorem modLink_snapshot (l : LinkNo) (f : Link → Link) : (modLink l f s).snapshot = s.snapshot := rfl
@[simp] theorem modLink_mergeCount (l : LinkNo) (f : Link → Link) : (modLink l f s).mergeCount = s.mergeCount := rfl
@[simp] theorem modLink_snapshotRead (l : LinkNo) (f : Link → Link) : (modLink l f s).snapshotRead = s.snapshotRead := rfl
@[simp] theorem modLink_io (l : LinkNo) (f : Link → Link) : (modLink l f s).io = s.io := rfl
@[simp] theorem modLink_sites (l : LinkNo) (f : Link → Link) : (modLink l f s).sites = s.sites := rfl
@[simp] theorem modLink_neighbors (l : LinkNo) (f : Link → Link) : (modLink l f s).neighbors = s.neighbors := rfl
@[simp] theorem modLink_talkgroups (l : LinkNo) (f : Link → Link) : (modLink l f s).talkgroups = s.talkgroups := rfl
@[simp] theorem modLink_units (l : LinkNo) (f : Link → Link) : (modLink l f s).units = s.units := rfl
@[simp] theorem modLink_handoverCounter (l : LinkNo) (f : Link → Link) : (modLink l f s).handoverCounter = s.handoverCounter := rfl
@[simp] theorem modLink_ownSequence (l : LinkNo) (f : Link → Link) : (modLink l f s).ownSequence = s.ownSequence := rfl
@[simp] theorem modLink_refreshTimer (l : LinkNo) (f : Link → Link) : (modLink l f s).refreshTimer = s.refreshTimer := rfl
@[simp] theorem modLink_channels (l : LinkNo) (f : Link → Link) : (modLink l f s).channels = s.channels := rfl
@[simp] theorem modLink_callCounter (l : LinkNo) (f : Link → Link) : (modLink l f s).callCounter = s.callCounter := rfl
@[simp] theorem modLink_links (l : LinkNo) (f : Link → Link) : (modLink l f s).links = s.links.set l.val (f s.links[l.val]) := rfl
@[simp] theorem modLink_pending (l : LinkNo) (f : Link → Link) : (modLink l f s).pending = s.pending := rfl

/-! ## advanceSequence -/

@[simp] theorem advanceSequence_resetHeld : (advanceSequence s).resetHeld = s.resetHeld := rfl
@[simp] theorem advanceSequence_timeBase : (advanceSequence s).timeBase = s.timeBase := rfl
@[simp] theorem advanceSequence_partState : (advanceSequence s).partState = s.partState := rfl
@[simp] theorem advanceSequence_staged : (advanceSequence s).staged = s.staged := rfl
@[simp] theorem advanceSequence_active : (advanceSequence s).active = s.active := rfl
@[simp] theorem advanceSequence_requests : (advanceSequence s).requests = s.requests := rfl
@[simp] theorem advanceSequence_progress : (advanceSequence s).progress = s.progress := rfl
@[simp] theorem advanceSequence_restartCount : (advanceSequence s).restartCount = s.restartCount := rfl
@[simp] theorem advanceSequence_snapshot : (advanceSequence s).snapshot = s.snapshot := rfl
@[simp] theorem advanceSequence_mergeCount : (advanceSequence s).mergeCount = s.mergeCount := rfl
@[simp] theorem advanceSequence_snapshotRead : (advanceSequence s).snapshotRead = s.snapshotRead := rfl
@[simp] theorem advanceSequence_io : (advanceSequence s).io = s.io := rfl
@[simp] theorem advanceSequence_sites : (advanceSequence s).sites = s.sites := rfl
@[simp] theorem advanceSequence_neighbors : (advanceSequence s).neighbors = s.neighbors := rfl
@[simp] theorem advanceSequence_talkgroups : (advanceSequence s).talkgroups = s.talkgroups := rfl
@[simp] theorem advanceSequence_units : (advanceSequence s).units = s.units := rfl
@[simp] theorem advanceSequence_handoverCounter : (advanceSequence s).handoverCounter = s.handoverCounter := rfl
@[simp] theorem advanceSequence_ownSequence : (advanceSequence s).ownSequence = s.ownSequence + 1 := rfl
@[simp] theorem advanceSequence_refreshTimer : (advanceSequence s).refreshTimer = s.refreshTimer := rfl
@[simp] theorem advanceSequence_channels : (advanceSequence s).channels = s.channels := rfl
@[simp] theorem advanceSequence_callCounter : (advanceSequence s).callCounter = s.callCounter := rfl
@[simp] theorem advanceSequence_links : (advanceSequence s).links = s.links := rfl
@[simp] theorem advanceSequence_pending : (advanceSequence s).pending = s.pending := rfl

/-! ## startRefresh -/

@[simp] theorem startRefresh_resetHeld : (startRefresh s).resetHeld = s.resetHeld := rfl
@[simp] theorem startRefresh_timeBase : (startRefresh s).timeBase = s.timeBase := rfl
@[simp] theorem startRefresh_partState : (startRefresh s).partState = s.partState := rfl
@[simp] theorem startRefresh_staged : (startRefresh s).staged = s.staged := rfl
@[simp] theorem startRefresh_active : (startRefresh s).active = s.active := rfl
@[simp] theorem startRefresh_requests : (startRefresh s).requests = s.requests := rfl
@[simp] theorem startRefresh_progress : (startRefresh s).progress = s.progress := rfl
@[simp] theorem startRefresh_restartCount : (startRefresh s).restartCount = s.restartCount := rfl
@[simp] theorem startRefresh_snapshot : (startRefresh s).snapshot = s.snapshot := rfl
@[simp] theorem startRefresh_mergeCount : (startRefresh s).mergeCount = s.mergeCount := rfl
@[simp] theorem startRefresh_snapshotRead : (startRefresh s).snapshotRead = s.snapshotRead := rfl
@[simp] theorem startRefresh_io : (startRefresh s).io = s.io := rfl
@[simp] theorem startRefresh_sites : (startRefresh s).sites = s.sites := rfl
@[simp] theorem startRefresh_neighbors : (startRefresh s).neighbors = s.neighbors := rfl
@[simp] theorem startRefresh_talkgroups : (startRefresh s).talkgroups = s.talkgroups := rfl
@[simp] theorem startRefresh_units : (startRefresh s).units = s.units := rfl
@[simp] theorem startRefresh_handoverCounter : (startRefresh s).handoverCounter = s.handoverCounter := rfl
@[simp] theorem startRefresh_ownSequence : (startRefresh s).ownSequence = s.ownSequence := rfl
@[simp] theorem startRefresh_refreshTimer : (startRefresh s).refreshTimer = some (s.after (s.active.refreshPeriod * 1000)) := rfl
@[simp] theorem startRefresh_channels : (startRefresh s).channels = s.channels := rfl
@[simp] theorem startRefresh_callCounter : (startRefresh s).callCounter = s.callCounter := rfl
@[simp] theorem startRefresh_links : (startRefresh s).links = s.links := rfl
@[simp] theorem startRefresh_pending : (startRefresh s).pending = s.pending := rfl

/-! ## Reads that an update leaves alone -/

@[simp] theorem onIo_own (f : Net → Io → Io) : (s.onIo f).own = s.own := rfl
@[simp] theorem onIo_net (f : Net → Io → Io) : (s.onIo f).net = s.net := rfl
@[simp] theorem onIo_record (f : Net → Io → Io) (u : UnitId) : (s.onIo f).record u = s.record u := rfl
@[simp] theorem onIo_channel (f : Net → Io → Io) (n : ChannelNo) : (s.onIo f).channel n = s.channel n := rfl
@[simp] theorem onIo_link (f : Net → Io → Io) (l : LinkNo) : (s.onIo f).link l = s.link l := rfl
@[simp] theorem count_own (c : DevCounter) : (s.count c).own = s.own := rfl
@[simp] theorem count_net (c : DevCounter) : (s.count c).net = s.net := rfl
@[simp] theorem count_record (c : DevCounter) (u : UnitId) : (s.count c).record u = s.record u := rfl
@[simp] theorem count_channel (c : DevCounter) (n : ChannelNo) : (s.count c).channel n = s.channel n := rfl
@[simp] theorem count_link (c : DevCounter) (l : LinkNo) : (s.count c).link l = s.link l := rfl
@[simp] theorem modUnit_net (u : UnitId) (f : Record → Record) : (modUnit u f s).net = s.net := rfl
@[simp] theorem modUnit_own (u : UnitId) (f : Record → Record) : (modUnit u f s).own = s.own := rfl

/-! ## One of several -/

/-- The unit of the record found for a unit. -/
theorem unit_of_record {u : UnitId} {r : Record} (h : s.record u = some r) : r.unit = u := by
  simpa using List.find?_some h

/-- The record found for a unit stands in the table. -/
theorem mem_of_record {u : UnitId} {r : Record} (h : s.record u = some r) : r ∈ s.units :=
  List.mem_of_find?_eq_some h

/-- The record of a unit after one unit's record is changed by a function that keeps its unit id. -/
theorem record_modUnit (u v : UnitId) (f : Record → Record) (hf : ∀ r, (f r).unit = r.unit) :
    (modUnit u f s).record v = if v = u then (s.record u).map f else s.record v := by
  have hp : ((fun r : Record => r.unit == v) ∘ fun r => if r.unit == u then f r else r)
      = fun r => r.unit == v := by
    funext r; by_cases h : r.unit = u <;> simp [h, hf]
  have he : (modUnit u f s).record v = (s.record v).map fun r => if r.unit == u then f r else r := by
    simp only [State.record, modUnit_units, List.find?_map, hp]
  rw [he]
  cases hr : s.record v with
  | none => by_cases hv : v = u <;> simp_all
  | some r =>
    have := unit_of_record s hr
    by_cases hv : v = u <;> simp_all

/-- A channel after one channel is changed. -/
theorem channel_modChannel (n m : ChannelNo) (f : Channel → Channel) :
    (modChannel n f s).channel m = if m = n then f (s.channel n) else s.channel m := by
  simp only [State.channel, modChannel_channels, Vector.getElem_set, Fin.ext_iff]
  by_cases h : n.val = m.val
  · simp [h]
  · have : ¬ m.val = n.val := fun e => h e.symm
    simp [h, this]

/-- A link after one link is changed. -/
theorem link_modLink (l k : LinkNo) (f : Link → Link) :
    (modLink l f s).link k = if k = l then f (s.link l) else s.link k := by
  simp only [State.link, modLink_links, Vector.getElem_set, Fin.ext_iff]
  by_cases h : l.val = k.val
  · simp [h]
  · have : ¬ k.val = l.val := fun e => h e.symm
    simp [h, this]

/-- A port after one port is changed. -/
theorem port_modPort (p q : PortNo) (f : Port → Port) (io : Io) :
    (modPort p f io).ports[q.val] = if q = p then f io.ports[p.val] else io.ports[q.val] := by
  simp only [modPort, Vector.getElem_set, Fin.ext_iff]
  by_cases h : p.val = q.val
  · simp [h]
  · have : ¬ q.val = p.val := fun e => h e.symm
    simp [h, this]

/-- A link's port is a link port. -/
@[simp] theorem isLinkPort_linkPort (l : LinkNo) : isLinkPort (linkPort l) = true := by
  simp [isLinkPort, linkPort]

/-- A channel's port is no link port. -/
@[simp] theorem isLinkPort_chanPort (n : ChannelNo) : isLinkPort (chanPort n) = false := by
  have := n.isLt
  exact decide_eq_false (show ¬6 ≤ n.val by omega)

end Sys2Proof.Machine
end

