-- ==== Sys2Proof/Laws/Moves.lean ====
section
/-! SUPPORT. What handling frames can do to the pool, the ports and the counters, said once: `Moves`
generates every change that allocating, building, placing, sending, flushing and releasing make, each
operation has one lemma that it only moves so, and each law is an induction over the generators. -/

namespace Sys2Proof.Machine

/-- The hop limit of a parameter set lies in its range. -/
def hopOk (p : Params) : Prop := 1 ≤ p.hopLimit ∧ p.hopLimit ≤ 15

/-- The counters that sending can raise: claims sent, internal drops, and at a port hop expired, queue drops,
displaced and no route (R161). -/
def sendCounter (i : Nat) : Prop :=
  i = 7 ∨ i = 15
    ∨ (18 ≤ i ∧ ((i - 18) % 14 = 6 ∨ (i - 18) % 14 = 10 ∨ (i - 18) % 14 = 11 ∨ (i - 18) % 14 = 12))

/-- The changes that handling frames makes to pool, queues, transmitters and counters. `P` is what the
entries' hop counts rest on. -/
inductive Moves (P : Prop) : Io → Io → Prop
  | refl (io : Io) : Moves P io io
  | trans {a b c : Io} : Moves P a b → Moves P b c → Moves P a c
  | bump (i : Nat) (io : Io) : sendCounter i → Moves P io (bumpAt i io)
  | write (h : Handle) (f : Buffer → Buffer) (hf : ∀ b, (f b).handle = b.handle) (io : Io) :
      Moves P io (modBuffer h f io)
  | take (h : Handle) (rest : List Handle) (io : Io) : io.pool.free = h :: rest → Moves P io (takeBuffer h rest io)
  | flags (e n : Bool) (io : Io) :
      Moves P io { io with pool := { io.pool with exhaustion := e, noticePending := n } }
  | release (reserve : Nat) (b : Buffer) (io : Io) : bufferOf b.handle io = some b → Moves P io (releaseBuffer reserve b io)
  | insert (p : PortNo) (e : Entry) (io : Io) : io.ports[p.val].queue.length < 64 → (P → entryFits p e) →
      Moves P io (modPort p (fun x => { x with queue := insertEntry e x.queue }) io)
  | displace (p : PortNo) (e d : Entry) (q : List Entry) (io : Io) :
      removeNewestRoutine io.ports[p.val].queue = some (d, q) →
      (P → entryFits p e) → Moves P io (modPort p (fun x => { x with queue := insertEntry e q }) io)
  | start (p : PortNo) (io : Io) : Moves P io (startTransmission p io)
  | flush (p : PortNo) (keep : Entry → Bool) (io : Io) :
      Moves P io (modPort p (fun x => { x with queue := x.queue.filter keep }) io)
  | answer (io : Io) : Moves P io (answerRestart io)
  | engine (e : Engine) (io : Io) : (P → (∀ f ∈ io.engine.work, fanoutFits f) → ∀ f ∈ e.work, fanoutFits f) →
      Moves P io { io with engine := e }

namespace Moves

variable {P : Prop} {io io' : Io}

theorem internalDrop (io : Io) : Moves P io (Machine.countDev .internalDrops io) :=
  .bump _ io (Or.inr (Or.inl rfl))

theorem claimSent (io : Io) : Moves P io (Machine.countDev .claimsSent io) := .bump _ io (Or.inl rfl)

/-- The counters of a port that sending can raise. -/
theorem sendCounter_port (p : PortNo) {c : PortCounter}
    (hc : c = .hopExpired ∨ c = .queueDrops ∨ c = .displaced ∨ c = .noRoute) :
    sendCounter (portCounterNumber p c) := by
  unfold sendCounter portCounterNumber
  rcases hc with rfl | rfl | rfl | rfl <;> simp only [PortCounter.offset] <;> omega

theorem countPort (p : PortNo) (c : PortCounter) (io : Io)
    (hc : c = .hopExpired ∨ c = .queueDrops ∨ c = .displaced ∨ c = .noRoute) :
    Moves P io (Machine.countPort p c io) := .bump _ io (sendCounter_port p hc)

theorem noRouteTimes (p : PortNo) :
    ∀ (n : Nat) (io : Io), Moves P io (Machine.countPortTimes p .noRoute n io)
  | 0, io => .refl io
  | n + 1, io => (countPort p .noRoute io (by simp)).trans (noRouteTimes p n _)

theorem queueDropTimes (p : PortNo) :
    ∀ (n : Nat) (io : Io), Moves P io (Machine.countPortTimes p .queueDrops n io)
  | 0, io => .refl io
  | n + 1, io => (countPort p .queueDrops io (by simp)).trans (queueDropTimes p n _)

theorem internalDropTimes :
    ∀ (n : Nat) (io : Io), Moves P io (Machine.countDevTimes .internalDrops n io)
  | 0, io => .refl io
  | n + 1, io => (internalDrop io).trans (internalDropTimes n _)

theorem modHeader (h : Handle) (f : Header → Header) (io : Io) : Moves P io (Machine.modHeader h f io) :=
  .write h _ (by intro; rfl) io

theorem addReference (h : Handle) (io : Io) : Moves P io (Machine.addReference h io) :=
  .write h _ (by intro; rfl) io

theorem noteExcess (reserve : Nat) (io : Io) : Moves P io (Machine.noteExcess reserve io) := .flags _ _ io

theorem noteEmpty (io : Io) : Moves P io (Machine.noteEmpty io) := by
  unfold Machine.noteEmpty; split
  · exact .flags _ _ io
  · exact .refl io

theorem allocate (reserve : Nat) (cls : FrameClass) (io : Io) :
    Moves P io (Machine.allocate reserve cls io).2 := by
  unfold Machine.allocate
  refine (noteExcess reserve io).trans ?_
  simp only
  split
  · exact noteEmpty _
  · rename_i h rest hf
    split
    · exact .refl _
    · exact .take h rest _ hf

theorem dropReferenceQuietly (reserve : Nat) (h : Handle) (io : Io) :
    Moves P io (Machine.dropReferenceQuietly reserve h io) := by
  unfold Machine.dropReferenceQuietly
  split
  · exact .refl io
  · rename_i b hb
    split
    · refine .release reserve b io ?_
      have : b.handle = h := by simpa using List.find?_some hb
      rw [this]; exact hb
    · exact .write h _ (by intro; rfl) io

theorem placeWithRoom (p : PortNo) (e : Entry) (io : Io) (hq : io.ports[p.val].queue.length < 64)
    (hf : P → entryFits p e) : Moves P io (Machine.placeWithRoom p e io) := by
  unfold Machine.placeWithRoom
  simp only
  split
  · exact ((Moves.insert p e io hq hf).trans (addReference _ _)).trans (.start p _)
  · exact (Moves.insert p e io hq hf).trans (addReference _ _)

theorem placeEntryWith (drop : Handle → Io → Io) (hd : ∀ h io, Moves P io (drop h io)) (p : PortNo) (e : Entry)
    (io : Io) (hf : P → entryFits p e) : Moves P io (Machine.placeEntryWith drop p e io) := by
  unfold Machine.placeEntryWith
  simp only
  split
  · rename_i hq; exact placeWithRoom p e io hq hf
  · split
    · exact countPort _ _ io (by simp)
    · split
      · exact countPort _ _ io (by simp)
      · rename_i d q hr
        refine Moves.trans ?_ (hd _ _)
        refine Moves.trans ?_ (addReference _ _)
        exact (countPort p .displaced io (by simp)).trans (.displace p e d q _ hr hf)

theorem entryFits_site {c : Net} (hc : hopOk c.active) (l : LinkNo) (h : Handle) (cls : FrameClass)
    (a : Addressing) : entryFits (linkPort l) { handle := h, cls := cls, hop := c.active.hopLimit, addressing := a } := by
  simp only [entryFits, isLinkPort_linkPort, if_true]
  exact hc

variable {c : Net}

theorem placeForSiteWith (drop : Handle → Io → Io) (hd : ∀ h io, Moves P io (drop h io)) (hc : P → hopOk c.active)
    (cls : FrameClass) (h : Handle) (site : SiteId) (io : Io) :
    Moves P io (Machine.placeForSiteWith drop c cls h site io) := by
  unfold Machine.placeForSiteWith
  split
  · exact internalDrop io
  · exact placeEntryWith drop hd _ _ io fun hp => entryFits_site (hc hp) _ _ _ _

theorem placeForSitesWith (drop : Handle → Io → Io) (hd : ∀ h io, Moves P io (drop h io)) (hc : P → hopOk c.active)
    (cls : FrameClass) (h : Handle) (sites : List SiteId) (io : Io) :
    Moves P io (Machine.placeForSitesWith drop c cls h sites io) := by
  unfold Machine.placeForSitesWith
  induction sites generalizing io with
  | nil => exact .refl io
  | cons n ns ih => exact (placeForSiteWith drop hd hc cls h n io).trans (ih _)

theorem sendPoolExhausted (hc : P → hopOk c.active) (io : Io) : Moves P io (Machine.sendPoolExhausted c io) := by
  unfold Machine.sendPoolExhausted
  split
  · exact .refl io
  · rename_i h rest hf
    simp only
    refine Moves.trans ?_ (dropReferenceQuietly _ _ _)
    refine Moves.trans ?_ (placeForSitesWith _ (fun _ _ => dropReferenceQuietly _ _ _) hc _ _ _ _)
    refine Moves.trans ?_ (.write h _ (by intro; rfl) _)
    exact (Moves.flags io.pool.exhaustion false io).trans (.take h rest _ hf)

theorem dropReference (hc : P → hopOk c.active) (h : Handle) (io : Io) :
    Moves P io (Machine.dropReference c h io) := by
  unfold Machine.dropReference
  simp only
  split
  · exact (dropReferenceQuietly _ _ _).trans (sendPoolExhausted hc _)
  · exact dropReferenceQuietly _ _ _

theorem placeEntry (hc : P → hopOk c.active) (p : PortNo) (e : Entry) (io : Io) (hf : P → entryFits p e) :
    Moves P io (Machine.placeEntry c p e io) := placeEntryWith _ (fun _ _ => dropReference hc _ _) p e io hf

theorem placeForSite (hc : P → hopOk c.active) (cls : FrameClass) (h : Handle) (site : SiteId) (io : Io) :
    Moves P io (Machine.placeForSite c cls h site io) :=
  placeForSiteWith _ (fun _ _ => dropReference hc _ _) hc cls h site io

theorem placeForSites (hc : P → hopOk c.active) (cls : FrameClass) (h : Handle) (sites : List SiteId) (io : Io) :
    Moves P io (Machine.placeForSites c cls h sites io) :=
  placeForSitesWith _ (fun _ _ => dropReference hc _ _) hc cls h sites io

theorem buildFrame (hdr : Header) (payload : List Byte) (done : Option Completion) (io : Io) :
    Moves P io (Machine.buildFrame c hdr payload done io).2 := by
  unfold Machine.buildFrame
  have h := allocate (P := P) c.active.bufferReserve hdr.frameClass io
  split <;> rename_i heq <;> rw [heq] at h
  · exact h.trans (.write _ _ (by intro; rfl) _)
  · exact h.trans (internalDrop _)
  · exact h.trans (internalDrop _)

theorem sendBuilt (hc : P → hopOk c.active) (hdr : Header) (payload : List Byte) (done : Option Completion)
    (place : Handle → Io → Io) (hp : ∀ h io, Moves P io (place h io)) (io : Io) :
    Moves P io (Machine.sendBuilt c hdr payload done place io) := by
  unfold Machine.sendBuilt
  have h := buildFrame (P := P) (c := c) hdr payload done io
  split <;> rename_i heq <;> rw [heq] at h
  · exact (h.trans (hp _ _)).trans (dropReference hc _ _)
  · exact h

theorem sendToSite (hc : P → hopOk c.active) (hdr : Header) (site : SiteId) (io : Io) :
    Moves P io (Machine.sendToSite c hdr site io) :=
  sendBuilt hc _ _ _ _ (fun _ _ => placeForSite hc _ _ _ _) io

theorem sendToSites (hc : P → hopOk c.active) (hdr : Header) (payload : List Byte) (sites : List SiteId) (io : Io) :
    Moves P io (Machine.sendToSites c hdr payload sites io) := by
  unfold Machine.sendToSites
  split
  · exact .refl io
  · exact sendBuilt hc _ _ _ _ (fun _ _ => placeForSites hc _ _ _ _) io

theorem deliver (hc : P → hopOk c.active) (n : ChannelNo) (cls : FrameClass) (h : Handle) (io : Io) :
    Moves P io (Machine.deliver c n cls h io) := by
  refine placeEntry hc _ _ io fun _ => ?_
  simp [entryFits, channelEntry]

theorem sendToChannel (hc : P → hopOk c.active) (n : ChannelNo) (hdr : Header) (payload : List Byte)
    (done : Option Completion) (io : Io) : Moves P io (Machine.sendToChannel c n hdr payload done io) :=
  sendBuilt hc _ _ _ _ (fun _ _ => deliver hc _ _ _ _) io

theorem sendLinkLocal (hc : P → hopOk c.active) (l : LinkNo) (hdr : Header) (io : Io) :
    Moves P io (Machine.sendLinkLocal c l hdr io) :=
  sendBuilt hc _ _ _ _ (fun _ _ => placeEntry hc _ _ _ fun hp => entryFits_site (hc hp) _ _ _ _) io

theorem placeReply (hc : P → hopOk c.active) (arrival : LinkNo) (h : Handle) (site : SiteId) (io : Io) :
    Moves P io (Machine.placeReply c arrival h site io) := by
  unfold Machine.placeReply
  split
  · exact internalDrop io
  · exact placeEntry hc _ _ _ fun hp => entryFits_site (hc hp) _ _ _ _

theorem sendMgmtNotice (hc : P → hopOk c.active) (subcode : Byte) (unit talkgroup : Nat) (payload : List Byte)
    (io : Io) : Moves P io (Machine.sendMgmtNotice c subcode unit talkgroup payload io) :=
  sendToSites hc _ _ _ io

theorem sendUnreachable (hc : P → hopOk c.active) (cause : Byte) (emergency : Bool) (msg : Header) (io : Io) :
    Moves P io (Machine.sendUnreachable c cause emergency msg io) := sendToSite hc _ _ io

/-- A forwarded entry carries a hop count of 1 to 14. -/
theorem entryFits_hop {hop : Nat} (h1 : ¬hop ≤ 1) (h2 : hop ≤ 15) (l : LinkNo) (h : Handle) (cls : FrameClass)
    (a : Addressing) : entryFits (linkPort l) { handle := h, cls := cls, hop := hop - 1, addressing := a } := by
  simp only [entryFits, isLinkPort_linkPort, if_true]
  omega

/-- A hop count is at most 15. -/
theorem hop_le (hdr : Header) : hdr.hop.toNat ≤ 15 := by have := hdr.hop.isLt; omega

theorem forwardSingle (hc : P → hopOk c.active) (l : LinkNo) (h : Handle) (hdr : Header) (site : SiteId) (io : Io) :
    Moves P io (Machine.forwardSingle c l h hdr site io) := by
  unfold Machine.forwardSingle
  split
  · exact countPort _ _ io (by simp)
  · rename_i hh
    split
    · simp only
      split
      · exact (countPort _ _ io (by simp)).trans (sendUnreachable hc _ _ _ _)
      · exact countPort _ _ io (by simp)
    · exact placeEntry hc _ _ _ fun _ => entryFits_hop hh (hop_le hdr) _ _ _ _

theorem placeSubset (hc : P → hopOk c.active) (h : Handle) (cls : FrameClass) (hop : Nat) (set : SiteSet) (io : Io)
    (l : LinkNo) (hh : P → 1 ≤ hop ∧ hop ≤ 15) : Moves P io (Machine.placeSubset c h cls hop set io l) := by
  unfold Machine.placeSubset
  simp only
  split
  · exact .refl io
  · refine placeEntry hc _ _ _ fun hp => ?_
    simp only [entryFits, isLinkPort_linkPort, if_true]
    exact hh hp

theorem placeSubsets (hc : P → hopOk c.active) (h : Handle) (cls : FrameClass) (hop : Nat) (set : SiteSet) (io : Io)
    (hh : P → 1 ≤ hop ∧ hop ≤ 15) : Moves P io (Machine.placeSubsets c h cls hop set io) := by
  unfold Machine.placeSubsets
  generalize [(0 : LinkNo), 1, 2, 3] = ls
  induction ls generalizing io with
  | nil => exact .refl io
  | cons l ls ih => exact (placeSubset hc h cls hop set io l hh).trans (ih _)

theorem countLost (lostAt : Option PortNo) (n : Nat) (io : Io) : Moves P io (Machine.countLost lostAt n io) := by
  cases lostAt with
  | none => exact internalDropTimes n io
  | some p => exact noRouteTimes p n io

/-- An entry of a frame carries the frame's hop count or the hop limit. -/
theorem entryFits_fanout (hc : hopOk c.active) {f : Fanout} (hf : fanoutFits f) (l : LinkNo) :
    entryFits (linkPort l) (f.entry c l) := by
  simp only [entryFits, isLinkPort_linkPort, if_true, Fanout.entry]
  cases h : f.hop with
  | none => exact hc
  | some n => exact hf n h

/-- A frame keeps its hop count as its entries are placed. -/
theorem placeGroup_hop (f : Fanout) (io : Io) : (Machine.placeGroup c f io).1.hop = f.hop := by
  unfold Machine.placeGroup; split <;> rfl

theorem placeGroup (hc : P → hopOk c.active) (f : Fanout) (hf : P → fanoutFits f) (io : Io) :
    Moves P io (Machine.placeGroup c f io).2 := by
  unfold Machine.placeGroup
  split
  · exact .refl io
  · exact placeEntry hc _ _ _ fun hp => entryFits_fanout (hc hp) (hf hp) _

theorem placeGroups (hc : P → hopOk c.active) : ∀ (n : Nat) (f : Fanout), (P → fanoutFits f) → ∀ io : Io,
    Moves P io (Machine.placeGroups c n f io).2 ∧ (Machine.placeGroups c n f io).1.hop = f.hop
  | 0, _, _, io => ⟨.refl io, rfl⟩
  | n + 1, f, hf, io => by
    have hk := placeGroup_hop (c := c) f io
    have ih := placeGroups hc n (Machine.placeGroup c f io).1 (fun hp m hm => hf hp m (hk ▸ hm))
      (Machine.placeGroup c f io).2
    exact ⟨(placeGroup hc f hf io).trans ih.1, ih.2.trans hk⟩

theorem takeUp (hc : P → hopOk c.active) (f : Fanout) (hf : P → fanoutFits f) (io : Io) :
    Moves P io (Machine.takeUp c f io) := by
  unfold Machine.takeUp
  split
  · exact .refl io
  · simp only
    generalize (if io.engine.work.isEmpty then _ else _) = n
    have hr := placeGroups hc n f hf { io with engine := { io.engine with atOnce := io.engine.atOnce.tail } }
    have h0 := (Moves.engine (P := P) { io.engine with atOnce := io.engine.atOnce.tail } io fun _ h => h).trans hr.1
    split
    · exact h0
    · refine (h0.trans (.engine _ _ ?_)).trans (addReference _ _)
      intro hp hw g hg
      rcases List.mem_append.mp hg with h | h
      · exact hw g h
      · obtain rfl := List.mem_singleton.mp h
        exact fun m hm => hf hp m (hr.2 ▸ hm)

theorem fanOutSet (hc : P → hopOk c.active) (h : Handle) (cls : FrameClass) (hop : Option Nat)
    (lostAt : Option PortNo) (set : SiteSet) (hh : P → ∀ n, hop = some n → 1 ≤ n ∧ n ≤ 15) (io : Io) :
    Moves P io (Machine.fanOutSet c h cls hop lostAt set io) := by
  unfold Machine.fanOutSet
  split
  · refine placeSubsets hc _ _ _ _ _ fun hp => ?_
    cases hop with
    | none => exact hc hp
    | some n => exact hh hp n rfl
  · exact takeUp hc _ (fun hp n hn => hh hp n hn) io

theorem dropWork (hc : P → hopOk c.active) (gone : List Fanout) (io : Io) :
    Moves P io (gone.foldl (fun io f => Machine.dropReference c f.handle io) io) := by
  induction gone generalizing io with
  | nil => exact .refl _
  | cons f fs ih => exact (dropReference hc f.handle _).trans (ih _)

/-- What is lost by a frame in the engine is counted, and the engine is as it was. -/
theorem countWork (count : Fanout → Nat) (work : List Fanout) (io : Io) :
    Moves P io (work.foldl (fun io f => Machine.countLost f.lostAt (count f) io) io) := by
  induction work generalizing io with
  | nil => exact .refl _
  | cons f fs ih => exact (countLost _ _ _).trans (ih _)

theorem forwardTargets (hc : P → hopOk c.active) (l : LinkNo) (h : Handle) (hdr : Header) (io : Io) :
    Moves P io (Machine.forwardTargets c l h hdr io) := by
  unfold Machine.forwardTargets
  simp only
  split
  · exact .refl io
  · split
    · exact countPort _ _ io (by simp)
    · rename_i hh
      have := hop_le hdr
      refine (countLost _ _ io).trans (fanOutSet hc _ _ _ _ _ (fun _ n hn => ?_) _)
      cases hn
      omega

theorem offerTargets (hc : P → hopOk c.active) (lostAt : Option PortNo) (h : Handle) (cls : FrameClass)
    (targets : SiteSet) (io : Io) : Moves P io (Machine.offerTargets c lostAt h cls targets io) :=
  ((modHeader h c.fromOwn io).trans (countLost _ _ _)).trans
    (fanOutSet hc _ _ _ _ _ (fun _ _ hn => by cases hn) _)

theorem offerReceived (hc : P → hopOk c.active) (n : ChannelNo) (h : Handle) (targets : SiteSet) (io : Io) :
    Moves P io (Machine.offerReceived c n h targets io) :=
  offerTargets hc _ _ _ _ io

theorem offerBuilt (hc : P → hopOk c.active) (hdr : Header) (targets : SiteSet) (io : Io) :
    Moves P io (Machine.offerBuilt c hdr targets io) :=
  sendBuilt hc _ _ _ _ (fun _ _ => offerTargets hc _ _ _ _ _) io

theorem dropAll (hc : P → hopOk c.active) (gone : List Entry) (io : Io) :
    Moves P io (gone.foldl (fun io e => Machine.dropReference c e.handle io) io) := by
  induction gone generalizing io with
  | nil => exact .refl _
  | cons e es ih => exact (dropReference hc e.handle _).trans (ih _)

theorem flushQueue (hc : P → hopOk c.active) (l : LinkNo) (io : Io) : Moves P io (Machine.flushQueue c l io) :=
  ((Moves.flush (linkPort l) (isProbeEntry io) io).trans (queueDropTimes _ _ _)).trans (dropAll hc _ _)

end Moves

end Sys2Proof.Machine
end

