-- ==== Sys2Proof/Laws/MovesKeep.lean ====
section
/-! SUPPORT. What every handling of frames keeps: the pool's law (R16), the queues' law (R40), the counters
(R161), and the receptions and handed frames of every port. -/

namespace Sys2Proof.Machine

variable {P : Prop} {a b : Io}

/-! ## The ports -/

/-- The queue of a port after the transmitter of one port has started. -/
theorem startTransmission_ports (p : PortNo) (io : Io) (q : PortNo) :
    (startTransmission p io).ports[q.val].queue
        = (if q = p then io.ports[q.val].queue.tail else io.ports[q.val].queue)
      ∧ (startTransmission p io).ports[q.val].reception = io.ports[q.val].reception
      ∧ (startTransmission p io).ports[q.val].handed = io.ports[q.val].handed
      ∧ (startTransmission p io).ports[q.val].lastEnd = io.ports[q.val].lastEnd := by
  unfold startTransmission
  split
  · rename_i h
    by_cases hq : q = p
    · subst hq; simp [h]
    · simp [hq]
  · rename_i h
    simp only [port_modPort]
    by_cases hq : q = p
    · subst hq; simp [h]
    · simp [hq]

/-- Handling frames moves no reception and takes no handed frame. -/
theorem Moves.ports (h : Moves P a b) (q : PortNo) :
    b.ports[q.val].reception = a.ports[q.val].reception ∧ b.ports[q.val].handed = a.ports[q.val].handed
      ∧ b.ports[q.val].lastEnd = a.ports[q.val].lastEnd := by
  induction h with
  | refl => exact ⟨rfl, rfl, rfl⟩
  | trans _ _ ih1 ih2 =>
    exact ⟨ih2.1.trans ih1.1, ih2.2.1.trans ih1.2.1, ih2.2.2.trans ih1.2.2⟩
  | bump | write | take | flags | engine => exact ⟨rfl, rfl, rfl⟩
  | release reserve b io _ =>
    unfold releaseBuffer answerUnsent answerRestart
    split <;> try exact ⟨rfl, rfl, rfl⟩
    split <;> exact ⟨rfl, rfl, rfl⟩
  | insert p | displace p | flush p =>
    simp only [port_modPort]; split <;> simp_all
  | start p io => exact (startTransmission_ports p io q).2
  | answer io => unfold answerRestart; split <;> exact ⟨rfl, rfl, rfl⟩

/-! ## The counters -/

/-- The length, the bound and the growth of a list of counters. -/
def countersGrow (l m : List Nat) : Prop :=
  m.length = l.length ∧ ((∀ n ∈ l, n ≤ 65535) → (∀ n ∈ m, n ≤ 65535) ∧ ∀ i, l.getD i 0 ≤ m.getD i 0)

/-- Raising one counter keeps the number and the bound of the counters and lowers none. -/
theorem bumpAt_grow (i : Nat) (io : Io) : countersGrow io.live (bumpAt i io).live := by
  refine ⟨by simp [bumpAt], fun hb => ⟨?_, ?_⟩⟩
  · intro n hn
    simp only [bumpAt, List.mem_iff_getElem?, List.getElem?_modify] at hn
    obtain ⟨j, hj⟩ := hn
    split at hj
    · simp only [Option.map_eq_map, Option.map_eq_some_iff] at hj
      obtain ⟨m, _, rfl⟩ := hj
      exact Nat.min_le_right _ _
    · simp only [Option.map_eq_map, Option.map_id_fun', id_eq] at hj
      exact hb n (List.mem_of_getElem? (by simpa using hj))
  · intro j
    simp only [bumpAt, List.getD_eq_getElem?_getD, List.getElem?_modify]
    cases hj : io.live[j]? with
    | none => simp
    | some m =>
      have := hb m (List.mem_of_getElem? hj)
      by_cases hij : i = j <;> simp [hij, saturate, Config.counterMax]
      omega

/-- Handling frames only raises counters (R161). -/
theorem Moves.counters (h : Moves P a b) : countersGrow a.live b.live := by
  have same : ∀ l : List Nat, countersGrow l l := fun l => ⟨rfl, fun hb => ⟨hb, fun _ => le_refl _⟩⟩
  induction h with
  | refl => exact same _
  | trans _ _ ih1 ih2 =>
    refine ⟨ih2.1.trans ih1.1, fun hb => ?_⟩
    have h1 := ih1.2 hb
    have h2 := ih2.2 h1.1
    exact ⟨h2.1, fun i => (h1.2 i).trans (h2.2 i)⟩
  | bump i io _ => exact bumpAt_grow i io
  | write | take | flags | insert | displace | flush | engine => exact same _
  | release reserve b io _ =>
    unfold releaseBuffer answerUnsent answerRestart
    split <;> try exact same _
    split <;> exact same _
  | start p io => unfold startTransmission; split <;> exact same _
  | answer io => unfold answerRestart; split <;> exact same _

/-- A counter that is not the one raised. -/
theorem bumpAt_other {i j : Nat} (h : j ≠ i) (io : Io) : (bumpAt i io).live.getD j 0 = io.live.getD j 0 := by
  simp [bumpAt, List.getD_eq_getElem?_getD, Ne.symm h]

/-- The counter that is raised. -/
theorem bumpAt_self {i : Nat} {io : Io} (h : i < io.live.length) :
    (bumpAt i io).live.getD i 0 = saturate (io.live.getD i 0 + 1) := by
  simp [bumpAt, List.getD_eq_getElem?_getD, h]

/-- Handling frames leaves a counter that sending cannot raise. -/
theorem Moves.kept (h : Moves P a b) {i : Nat} (hi : ¬sendCounter i) : b.live.getD i 0 = a.live.getD i 0 := by
  induction h with
  | refl => rfl
  | trans _ _ ih1 ih2 => exact ih2.trans ih1
  | bump j io hj => exact bumpAt_other (fun he : i = j => hi (by rw [he]; exact hj)) io
  | write | take | flags | insert | displace | flush | engine => rfl
  | release reserve b io _ =>
    unfold releaseBuffer answerUnsent answerRestart
    split <;> try rfl
    split <;> rfl
  | start p io => unfold startTransmission; split <;> rfl
  | answer io => unfold answerRestart; split <;> rfl

/-! ## The pool -/

/-- The handles of the pool, FREE and ALLOCATED (R16). -/
def Io.handles (io : Io) : List Handle := io.pool.free ++ io.pool.allocated.map Buffer.handle

/-- A list without repeats holds the handle of a listed buffer once. -/
theorem perm_release {l : List Buffer} {b : Buffer} (hn : (l.map Buffer.handle).Nodup) (hb : b ∈ l) :
    (b.handle :: (l.filter fun x => x.handle != b.handle).map Buffer.handle).Perm (l.map Buffer.handle) := by
  induction l with
  | nil => cases hb
  | cons x xs ih =>
    simp only [List.map_cons, List.nodup_cons] at hn
    by_cases hx : x.handle = b.handle
    · have hk : xs.filter (fun y => y.handle != b.handle) = xs := by
        rw [List.filter_eq_self]
        intro y hy
        simp only [bne_iff_ne, ne_eq]
        intro hyb
        exact hn.1 (hx ▸ hyb ▸ List.mem_map_of_mem hy)
      simp [hx, hk]
    · have hbx : b ∈ xs := by
        rcases List.mem_cons.mp hb with rfl | h
        · exact absurd rfl hx
        · exact h
      simp only [List.map_cons, List.filter_cons, bne_iff_ne, ne_eq, hx, not_false_eq_true, if_true]
      exact (List.Perm.swap _ _ _).trans ((ih hn.2 hbx).cons _)

/-- Answering a completion request moves no handle. -/
theorem answerUnsent_pool (c : Option Completion) (io : Io) : (answerUnsent c io).pool = io.pool := by
  unfold answerUnsent answerRestart
  split <;> try rfl
  split <;> rfl

/-- Handling frames keeps every handle where R16 wants it: once in the pool. -/
theorem Moves.pool (h : Moves P a b) (hn : a.handles.Nodup) : b.handles.Perm a.handles := by
  induction h with
  | refl => exact List.Perm.refl _
  | trans _ _ ih1 ih2 =>
    have h1 := ih1 hn
    exact (ih2 (h1.nodup_iff.mpr hn)).trans h1
  | bump | flags | insert | displace | flush | engine => exact List.Perm.refl _
  | write h f hf io =>
    have : (io.pool.allocated.map fun b => if b.handle == h then f b else b).map Buffer.handle
        = io.pool.allocated.map Buffer.handle := by
      simp only [List.map_map]
      refine List.map_congr_left fun b _ => ?_
      simp only [Function.comp_apply]
      split <;> simp [hf]
    simp only [Io.handles, modBuffer, this]
    exact List.Perm.refl _
  | take h rest io hf =>
    simp only [Io.handles, takeBuffer, hf, List.map_cons]
    exact List.perm_middle
  | release reserve b io hb =>
    have hm : b ∈ io.pool.allocated := List.mem_of_find?_eq_some hb
    have hp := perm_release (List.Nodup.of_append_right hn) hm
    simp only [Io.handles, releaseBuffer, answerUnsent_pool, List.append_assoc, List.singleton_append]
    exact hp.append_left _
  | start p io => unfold startTransmission; split <;> exact List.Perm.refl _
  | answer io => unfold answerRestart; split <;> exact List.Perm.refl _

/-! ## The queues -/

/-- The law of one queue (R40). -/
def queueOk (p : PortNo) (q : List Entry) : Prop := q.length ≤ 64 ∧ priorityFirst q ∧ ∀ e ∈ q, entryFits p e

/-- Placing an entry by its class keeps priority entries ahead (R41). -/
theorem priorityFirst_insert (e : Entry) (q : List Entry) (h : priorityFirst q) : priorityFirst (insertEntry e q) := by
  unfold insertEntry
  have hd : ∀ q : List Entry, priorityFirst q → ∀ x ∈ q.dropWhile Entry.isPriority, x.isPriority = false := by
    intro q
    induction q with
    | nil => simp
    | cons y ys ih =>
      intro hq x hx
      simp only [priorityFirst, List.pairwise_cons] at hq
      rw [List.dropWhile_cons] at hx
      split at hx
      · exact ih hq.2 x hx
      · rename_i hy
        rcases List.mem_cons.mp hx with rfl | hx
        · simpa using hy
        · by_contra hc
          exact hy (hq.1 x hx (by simpa using hc))
  split
  · rename_i he
    unfold priorityFirst
    rw [List.pairwise_append]
    refine ⟨h.sublist (List.takeWhile_sublist _), ?_, ?_⟩
    · rw [List.pairwise_cons]
      exact ⟨fun _ _ _ => he, h.sublist (List.dropWhile_sublist _)⟩
    · intro x hx y _ _
      exact List.mem_takeWhile_imp hx
  · rename_i he
    unfold priorityFirst
    rw [List.pairwise_append]
    exact ⟨h, List.pairwise_singleton _ _, fun x _ y hy hp => absurd (by simpa using List.mem_singleton.mp hy ▸ hp) he⟩

/-- What a placement puts in a queue. -/
theorem mem_insertEntry (e x : Entry) (q : List Entry) : x ∈ insertEntry e q ↔ x = e ∨ x ∈ q := by
  unfold insertEntry
  split
  · have h : x ∈ q ↔ x ∈ q.takeWhile Entry.isPriority ∨ x ∈ q.dropWhile Entry.isPriority := by
      conv_lhs => rw [← List.takeWhile_append_dropWhile (p := Entry.isPriority) (l := q)]
      exact List.mem_append
    simp only [List.mem_append, List.mem_cons, h]
    tauto
  · simp [or_comm]

/-- A placement makes a queue one longer. -/
theorem length_insertEntry (e : Entry) (q : List Entry) : (insertEntry e q).length = q.length + 1 := by
  unfold insertEntry
  split
  · have := congrArg List.length (List.takeWhile_append_dropWhile (p := Entry.isPriority) (l := q))
    simp only [List.length_append, List.length_cons] at this ⊢
    omega
  · simp

/-- Taking the newest routine entry out leaves a sublist one shorter. -/
theorem removeNewestRoutine_sublist {q q' : List Entry} {d : Entry} (h : removeNewestRoutine q = some (d, q')) :
    q'.Sublist q ∧ q'.length + 1 = q.length := by
  induction q generalizing q' with
  | nil => simp [removeNewestRoutine] at h
  | cons e es ih =>
    simp only [removeNewestRoutine] at h
    split at h
    · rename_i d' q'' hq
      simp only [Option.some.injEq, Prod.mk.injEq] at h
      obtain ⟨rfl, rfl⟩ := h
      have := ih hq
      exact ⟨this.1.cons_cons e, by simp [this.2]⟩
    · split at h
      · cases h
      · simp only [Option.some.injEq, Prod.mk.injEq] at h
        obtain ⟨rfl, rfl⟩ := h
        exact ⟨List.sublist_cons_self _ _, rfl⟩

/-- A queue's law holds of every sublist. -/
theorem queueOk_sublist {p : PortNo} {q q' : List Entry} (h : queueOk p q) (hs : q'.Sublist q) : queueOk p q' :=
  ⟨hs.length_le.trans h.1, h.2.1.sublist hs, fun e he => h.2.2 e (hs.subset he)⟩

/-- Handling frames keeps the law of every queue (R40 to R42, R46). -/
theorem Moves.queues (h : Moves P a b) (hP : P) (ha : ∀ p : PortNo, queueOk p a.ports[p.val].queue) (p : PortNo) :
    queueOk p b.ports[p.val].queue := by
  induction h generalizing p with
  | refl => exact ha p
  | trans _ _ ih1 ih2 => exact ih2 (ih1 ha) p
  | bump | write | take | flags | engine => exact ha p
  | release reserve b io _ =>
    unfold releaseBuffer answerUnsent answerRestart
    split <;> try exact ha p
    split <;> exact ha p
  | insert r e io hl hf =>
    simp only [port_modPort]
    split
    · rename_i hp; subst hp
      refine ⟨by rw [length_insertEntry]; omega, priorityFirst_insert _ _ (ha p).2.1, fun x hx => ?_⟩
      rcases (mem_insertEntry _ _ _).mp hx with rfl | hx
      · exact hf hP
      · exact (ha p).2.2 x hx
    · exact ha p
  | displace r e d q io hr hf =>
    simp only [port_modPort]
    split
    · rename_i hp; subst hp
      have hs := removeNewestRoutine_sublist hr
      have hq := queueOk_sublist (ha p) hs.1
      refine ⟨?_, priorityFirst_insert _ _ hq.2.1, fun x hx => ?_⟩
      · have := (ha p).1
        rw [length_insertEntry]; omega
      · rcases (mem_insertEntry _ _ _).mp hx with rfl | hx
        · exact hf hP
        · exact hq.2.2 x hx
    · exact ha p
  | start r io =>
    rw [(startTransmission_ports r io p).1]
    split
    · exact queueOk_sublist (ha p) (List.tail_sublist _)
    · exact ha p
  | flush r keep io =>
    simp only [port_modPort]
    split
    · rename_i hp; subst hp; exact queueOk_sublist (ha p) List.filter_sublist
    · exact ha p
  | answer io => unfold answerRestart; split <;> exact ha p

/-- Handling frames keeps the hop counts of the frames that the Forwarding Engine has left (R40). -/
theorem Moves.work (h : Moves P a b) (hP : P) (ha : ∀ f ∈ a.engine.work, fanoutFits f) :
    ∀ f ∈ b.engine.work, fanoutFits f := by
  induction h with
  | refl => exact ha
  | trans _ _ ih1 ih2 => exact ih2 (ih1 ha)
  | bump | write | take | flags | insert | displace | flush => exact ha
  | release reserve b io _ =>
    unfold releaseBuffer answerUnsent answerRestart
    split <;> try exact ha
    split <;> exact ha
  | start p io => unfold startTransmission; split <;> exact ha
  | answer io => unfold answerRestart; split <;> exact ha
  | engine e io he => exact he hP ha

/-! ## What the Forwarding Engine does by itself -/

/-- The hop count of a frame stays as it is when its groups are routed anew. -/
theorem Fanout.reroute_hop (c : Net) (l : LinkNo) (f : Fanout) : (f.reroute c l).hop = f.hop := rfl

variable {c : Net}

/-- A turn of the engine handles frames, for entries whose hop counts rest on the work's law. -/
theorem Moves.engineTurn (hc : P → hopOk c.active) (io : Io) (hw : P → ∀ f ∈ io.engine.work, fanoutFits f) :
    Moves P io (Machine.engineTurn c io) := by
  unfold Machine.engineTurn
  split
  · exact .refl io
  · rename_i f rest hs
    have hf : P → fanoutFits f := fun hp => hw hp f (by simp [hs])
    have hr : P → ∀ g ∈ rest, fanoutFits g := fun hp g hg => hw hp g (by simp [hs, hg])
    simp only
    split
    · exact ((placeGroup hc f hf io).trans (.engine _ _ fun hp _ => hr hp)).trans (dropReference hc _ _)
    · refine (placeGroup hc f hf io).trans (.engine _ _ fun hp _ g hg => ?_)
      rcases List.mem_cons.mp hg with rfl | hg
      · exact fun n hn => hf hp n (placeGroup_hop (c := c) f io ▸ hn)
      · exact hr hp g hg

/-- Raising counters leaves the engine as it is. -/
theorem countLost_engine (lostAt : Option PortNo) (n : Nat) (io : Io) : (countLost lostAt n io).engine = io.engine := by
  have ports : ∀ (p : PortNo) (n : Nat) (io : Io), (countPortTimes p .noRoute n io).engine = io.engine := by
    intro p n
    induction n with
    | zero => exact fun _ => rfl
    | succ n ih => exact fun io => ih _
  have devs : ∀ (n : Nat) (io : Io), (countDevTimes .internalDrops n io).engine = io.engine := by
    intro n
    induction n with
    | zero => exact fun _ => rfl
    | succ n ih => exact fun io => ih _
  cases lostAt with
  | none => exact devs n io
  | some p => exact ports p n io

/-- Counting what frames lose leaves the engine as it is. -/
theorem countWork_engine (count : Fanout → Nat) (work : List Fanout) :
    ∀ io : Io, (work.foldl (fun io f => countLost f.lostAt (count f) io) io).engine = io.engine := by
  induction work with
  | nil => exact fun _ => rfl
  | cons f fs ih => exact fun io => (ih _).trans (countLost_engine _ _ _)

/-- The loss of a link only counts, routes anew and lets go. -/
theorem Moves.rerouteWork (hc : P → hopOk c.active) (l : LinkNo) (io : Io) : Moves P io (Machine.rerouteWork c l io) := by
  unfold Machine.rerouteWork
  refine ((countWork _ _ io).trans (.engine _ _ ?_)).trans (dropWork hc _ _)
  intro _ hw g hg
  simp only [countWork_engine] at hw
  obtain ⟨f, hf, rfl⟩ := List.mem_map.mp (List.mem_filter.mp hg).1
  exact fun n hn => hw f hf n hn

end Sys2Proof.Machine
end

