-- ==== Sys2Proof/Laws/Acts.lean ====
section
/-! SUPPORT. What traffic and timers can do to the state, said once: `Acts` generates every change the
blocks make while they handle a frame or an expiry, and each operation of the blocks has one lemma that it
only acts so. The laws of the blocks are inductions over the generators (Laws/ActsKeep.lean). -/

namespace Sys2Proof.Machine

/-- A record is changed and keeps its slot, its unit and the Roam Selector's law. -/
def Record.touched (p : Params) (r r' : Record) : Prop :=
  r'.slot = r.slot ∧ r'.unit = r.unit ∧ (p.inRange → r.roamOk → r'.roamOk)

/-- The changes that traffic and timers make. -/
inductive Acts : State → State → Prop
  | refl (s : State) : Acts s s
  | trans {s t u : State} : Acts s t → Acts t u → Acts s u
  | io (s : State) (io : Io) : (∀ P : Prop, (P → hopOk s.active) → Moves P s.io io) → Acts s { s with io := io }
  | count (s : State) (c : DevCounter) : Acts s (s.count c)
  | touch (s : State) (u : UnitId) (f : Record → Record) :
      (∀ r ∈ s.units, r.unit = u → r.touched s.active (f r)) → Acts s (modUnit u f s)
  | remove (s : State) (u : UnitId) : Acts s (removeRecord u s)
  | insert (s : State) (r : Record) : (∀ x ∈ s.units, x.unit ≠ r.unit) → (∀ x ∈ s.units, x.slot ≠ r.slot) →
      r.slot < 256 → r.roamOk → Acts s (insertRecord r s)
  | reclaim (s : State) (x r : Record) : x ∈ s.units → (∀ y ∈ s.units, y.unit ≠ r.unit) → r.slot = x.slot →
      r.roamOk → Acts s (insertRecord r (removeRecord x.unit s))
  | members (s : State) (g : TalkgroupId) (f : Nat → Nat) :
      Acts s { s with talkgroups := modTalkgroup g (fun e => { e with members := f e.members }) s.talkgroups }
  | remote (s : State) (f : TalkgroupEntry → SiteSet) :
      (∀ e ∈ s.talkgroups, hasSite e.remote s.own = false → hasSite (f e) s.own = false) →
      Acts s { s with talkgroups := s.talkgroups.map fun e => { e with remote := f e } }
  | sequence (s : State) (q : Byte) : Acts s { s with ownSequence := q }
  | counter (s : State) (n : Nat) : Acts s { s with handoverCounter := n }
  | sites (s : State) (l : List SiteEntry) : Acts s { s with sites := l }
  | channel (s : State) (n : ChannelNo) (f : Channel → Channel) : Acts s (modChannel n f s)
  | calls (s : State) (b : Byte) : Acts s { s with callCounter := b }
  | link (s : State) (l : LinkNo) (f : Link → Link) : Acts s (modLink l f s)
  | refresh (s : State) (t : Timer) : Acts s { s with refreshTimer := t }

namespace Acts

variable {s t : State}

/-- A change of frames alone. -/
theorem onIo (s : State) (f : Net → Io → Io)
    (hf : ∀ P : Prop, (P → hopOk s.net.active) → Moves P s.io (f s.net s.io)) : Acts s (s.onIo f) := .io s _ hf

/-- A record keeps its slot, its unit and the Roam Selector's fields. -/
theorem touchKeep (s : State) (u : UnitId) (f : Record → Record)
    (hf : ∀ r, (f r).slot = r.slot ∧ (f r).unit = r.unit ∧ (f r).serving = r.serving
      ∧ (f r).candidates = r.candidates) : Acts s (modUnit u f s) := by
  refine .touch s u f fun r _ _ => ⟨(hf r).1, (hf r).2.1, fun _ h => ?_⟩
  unfold Record.roamOk at *
  rw [(hf r).2.2.1, (hf r).2.2.2]
  exact h

/-- Cleared roam fields are lawful. -/
theorem roamOk_clear (r : Record) (h1 : r.serving = none) (h2 : r.candidates = List.replicate 4 none) : r.roamOk := by
  unfold Record.roamOk
  rw [h1, h2]
  simp [List.replicate]

/-- A record keeps its slot and its unit, and its roam fields are cleared. -/
theorem touchClear (s : State) (u : UnitId) (f : Record → Record)
    (hf : ∀ r, (f r).slot = r.slot ∧ (f r).unit = r.unit ∧ (f r).serving = none
      ∧ (f r).candidates = List.replicate 4 none) : Acts s (modUnit u f s) :=
  .touch s u f fun r _ _ => ⟨(hf r).1, (hf r).2.1, fun _ _ => roamOk_clear _ (hf r).2.2.1 (hf r).2.2.2⟩

/-! ## Membership -/

theorem sendMembership (subcode : Byte) (g : TalkgroupId) (s : State) : Acts s (Machine.sendMembership subcode g s) := by
  unfold Machine.sendMembership
  refine Acts.trans ?_ (.onIo _ _ fun _ hc => .sendToSites hc _ _ _ _)
  exact .sequence s _

theorem fullRound (s : State) : Acts s (Machine.fullRound s) := by
  unfold Machine.fullRound
  refine Acts.trans ?_ (.onIo _ _ fun _ hc => .sendToSites hc _ _ _ _)
  exact .sequence s _

theorem startRefresh (s : State) : Acts s (Machine.startRefresh s) := .refresh s _

theorem memberEntry (g : TalkgroupId) (s : State) : Acts s (Machine.memberEntry g s) := by
  unfold Machine.memberEntry
  split
  · exact .refl s
  · simp only
    have h := Acts.members s g (· + 1)
    split
    · exact h.trans (sendMembership _ _ _)
    · exact h

theorem memberExit (g : TalkgroupId) (s : State) : Acts s (Machine.memberExit g s) := by
  unfold Machine.memberExit
  split
  · exact .refl s
  · simp only
    have h := Acts.members s g (· - 1)
    split
    · exact h.trans (sendMembership _ _ _)
    · exact h

theorem exitReport (r : Record) (s : State) : Acts s (Machine.exitReport r s) := by
  unfold Machine.exitReport
  split
  · exact memberExit _ s
  · exact .refl s

/-- A site taken out of a set takes no other site into it. -/
theorem hasSite_drop {set : SiteSet} {n m : SiteId} (h : hasSite set m = false) : hasSite (dropSite set n) m = false := by
  unfold hasSite dropSite at *
  simp only [Bool.and_eq_false_iff, BitVec.getLsbD_and] at *
  rcases h with h | h
  · exact Or.inl h
  · exact Or.inr (Or.inl h)

/-- Distinct positive numbers have distinct predecessors. -/
theorem pred_ne {n m : Nat} (h : n ≠ m) (hn : 1 ≤ n) (hm : 1 ≤ m) : ¬n - 1 = m - 1 := by omega

/-- A site placed in a set takes no other site into it. -/
theorem hasSite_add {set : SiteSet} {n m : SiteId} (hn : n ≠ m) (h : hasSite set m = false) :
    hasSite (addSite set n) m = false := by
  cases hm : siteIdOk m with
  | false => simp [hasSite, hm]
  | true =>
    simp only [hasSite, hm, Bool.true_and] at h
    simp only [hasSite, hm, Bool.true_and, addSite, BitVec.getLsbD_or, h, Bool.false_or, siteBit]
    cases hs : siteIdOk n with
    | false => simp
    | true =>
      simp only [siteIdOk, Config.maxSiteId, Bool.and_eq_true, decide_eq_true_eq] at hm hs
      simp only [if_true, BitVec.getLsbD_ofNat, Nat.testBit_two_pow, Bool.and_eq_false_iff,
        decide_eq_false_iff_not]
      exact Or.inr (pred_ne hn hs.1 hm.1)

theorem dropFromSets (n : SiteId) (s : State) : Acts s (Machine.dropFromSets n s) :=
  .remote s (fun e => dropSite e.remote n) fun _ _ h => hasSite_drop h

theorem senderEntry_ne {hdr : Header} {s : State} {e : SiteEntry} (h : Machine.senderEntry hdr s = some e) :
    e.site ≠ s.own := by
  unfold Machine.senderEntry at h
  split at h
  · cases h
  · rename_i hne
    have : e.site = hdr.origin.toNat := by simpa using List.find?_some h
    exact this ▸ hne

theorem takeFull (hdr : Header) (payload : List Byte) (s : State) : Acts s (Machine.takeFull hdr payload s) := by
  unfold Machine.takeFull
  split
  · exact count s _
  · rename_i e he
    refine (Acts.remote s (fun g => if (fullTalkgroups payload).contains g.id then addSite g.remote e.site
      else dropSite g.remote e.site) ?_).trans (Acts.sites _ _)
    intro g _ h
    split
    · exact hasSite_add (senderEntry_ne he) h
    · exact hasSite_drop h

theorem takeChange (change : SiteSet → SiteId → SiteSet) (hdr : Header) (s : State)
    (hc : ∀ set n, n ≠ s.own → hasSite set s.own = false → hasSite (change set n) s.own = false) :
    Acts s (Machine.takeChange change hdr s) := by
  unfold Machine.takeChange
  split
  · exact count s _
  · rename_i e he
    split
    · refine Acts.trans (t := { s with talkgroups := (modTalkgroup hdr.talkgroup.toNat
        (fun g => { g with remote := change g.remote e.site }) s.talkgroups) }) ?_ (Acts.sites _ _)
      have h := Acts.remote s (fun g => if g.id == hdr.talkgroup.toNat then change g.remote e.site else g.remote)
        (fun g _ hg => by
          split
          · exact hc _ _ (senderEntry_ne he) hg
          · exact hg)
      have heq : (modTalkgroup hdr.talkgroup.toNat (fun g => { g with remote := change g.remote e.site }) s.talkgroups)
          = s.talkgroups.map fun g =>
            { g with remote := if g.id == hdr.talkgroup.toNat then change g.remote e.site else g.remote } := by
        unfold modTalkgroup
        refine List.map_congr_left fun g _ => ?_
        by_cases hg : g.id = hdr.talkgroup.toNat <;> simp [hg]
      rw [heq]
      exact h
    · exact count s _

theorem expireAge (n : SiteId) (s : State) : Acts s (Machine.expireAge n s) := by
  unfold Machine.expireAge
  split
  · exact .refl s
  · split
    · exact (dropFromSets n s).trans (Acts.sites _ _)
    · exact .refl s

theorem expireRefresh (s : State) : Acts s (Machine.expireRefresh s) := by
  unfold Machine.expireRefresh
  split
  · exact (fullRound s).trans (startRefresh _)
  · exact .refl s

/-! ## Messages -/

theorem sendAccept (n : ChannelNo) (u : UnitId) (g : TalkgroupId) (ch : ChannelNo) (s : State) :
    Acts s (Machine.sendAccept n u g ch s) := .onIo s _ fun _ hc => .sendToChannel hc _ _ _ _ _

theorem sendRefuse (n : ChannelNo) (u : UnitId) (cause : Byte) (s : State) : Acts s (Machine.sendRefuse n u cause s) :=
  .onIo s _ fun _ hc => .sendToChannel hc _ _ _ _ _

theorem sendRoamOrder (n : ChannelNo) (r : Record) (target : Byte) (ho : Handover) (s : State) :
    Acts s (Machine.sendRoamOrder n r target ho s) := .onIo s _ fun _ hc => .sendToChannel hc _ _ _ _ _

theorem sendCancel (u : UnitId) (id : Nat) (reason : Byte) (site : SiteId) (s : State) :
    Acts s (Machine.sendCancel u id reason site s) := .onIo s _ fun _ hc => .sendToSite hc _ _ _

theorem sendHoRefuse (u : UnitId) (id : Nat) (cause : Byte) (site : SiteId) (s : State) :
    Acts s (Machine.sendHoRefuse u id cause site s) := .onIo s _ fun _ hc => .sendToSite hc _ _ _

theorem sendHoAccept (u : UnitId) (id : Nat) (ch : ChannelNo) (site : SiteId) (s : State) :
    Acts s (Machine.sendHoAccept u id ch site s) := .onIo s _ fun _ hc => .sendToSite hc _ _ _

theorem sendHoComplete (u : UnitId) (id : Nat) (emergency : Bool) (site : SiteId) (s : State) :
    Acts s (Machine.sendHoComplete u id emergency site s) := .onIo s _ fun _ hc => .sendToSite hc _ _ _

theorem sendClaim (u : UnitId) (emergency : Bool) (site : SiteId) (s : State) :
    Acts s (Machine.sendClaim u emergency site s) :=
  .onIo s _ fun _ hc => .sendBuilt hc _ _ _ _
    (fun _ _ => (Moves.claimSent _).trans (.placeForSite hc _ _ _ _)) _

theorem enterPhase (u : UnitId) (ph : Phase) (s : State) : Acts s (Machine.enterPhase u ph s) :=
  touchKeep s u _ (by intro _; exact ⟨rfl, rfl, rfl, rfl⟩)

theorem startRoamHold (u : UnitId) (s : State) : Acts s (Machine.startRoamHold u s) :=
  touchKeep s u _ (by intro _; exact ⟨rfl, rfl, rfl, rfl⟩)

theorem mapActivity (u : UnitId) (f : State → Record → Activity → Activity) (s : State) :
    Acts s (modUnit u (fun r => { r with phase := r.phase.mapActivity (f s r) }) s) :=
  touchKeep s u _ (by intro _; exact ⟨rfl, rfl, rfl, rfl⟩)

/-! ## Units -/

theorem deleteRecord (u : UnitId) (s : State) : Acts s (Machine.deleteRecord u s) := by
  unfold Machine.deleteRecord
  split
  · exact .refl s
  · exact ((exitReport _ s).trans (.remove _ _)).trans (count _ _)

/-- A slot is taken and a new record put in it (R51). -/
theorem takeSlot {s t : State} {n : Nat} (h : Machine.takeSlot s = some (n, t)) (r : Record) (hr : r.slot = n)
    (hu : s.record r.unit = none) (hok : r.roamOk) : Acts s (insertRecord r t) := by
  have hne : ∀ x ∈ s.units, x.unit ≠ r.unit := by
    intro x hx hxu
    have := List.find?_eq_none.mp hu x hx
    simp [hxu] at this
  unfold Machine.takeSlot at h
  split at h
  · rename_i m hm
    simp only [Option.some.injEq, Prod.mk.injEq] at h
    obtain ⟨rfl, rfl⟩ := h
    unfold freeSlot at hm
    have h1 := List.mem_of_find?_eq_some hm
    have h2 := List.find?_some hm
    simp only [List.mem_range, Config.unitSlots] at h1
    refine .insert s r hne ?_ (hr ▸ h1) hok
    intro x hx hxs
    simp only [Bool.not_eq_true', List.any_eq_false, beq_iff_eq] at h2
    exact h2 x hx (hxs.trans hr)
  · split at h
    · rename_i x hx
      simp only [Option.some.injEq, Prod.mk.injEq] at h
      obtain ⟨rfl, rfl⟩ := h
      have hmem : ∀ (l : List Record) (b : Option Record) (y : Record),
          l.foldl reclaimFirst b = some y → y ∈ l ∨ b = some y := by
        intro l
        induction l with
        | nil => intro b y hy; exact Or.inr hy
        | cons z zs ih =>
          intro b y hy
          rcases ih _ _ hy with hz | hz
          · exact Or.inl (List.mem_cons_of_mem _ hz)
          · unfold reclaimFirst at hz
            split at hz
            · simp only [Option.some.injEq] at hz; exact Or.inl (hz ▸ List.mem_cons_self ..)
            · split at hz
              · simp only [Option.some.injEq] at hz; exact Or.inl (hz ▸ List.mem_cons_self ..)
              · exact Or.inr hz
      have hxm : x ∈ s.units := by
        rcases hmem _ _ _ hx with h | h
        · exact List.mem_of_mem_filter h
        · cases h
      exact (Acts.reclaim s x r hxm hne hr hok).trans (count _ .recordsReclaimed)
    · cases h

theorem reviveRecord (r : Record) (g : TalkgroupEntry) (s : State) : Acts s (Machine.reviveRecord r g s) :=
  (enterPhase _ _ s).trans (memberEntry _ _)

theorem reviveOrDelete (r : Record) (s : State) : Acts s (Machine.reviveOrDelete r s) := by
  unfold Machine.reviveOrDelete
  split
  · exact reviveRecord _ _ s
  · exact deleteRecord _ s

theorem reviveByNotice (n : ChannelNo) (r : Record) (s : State) : Acts s (Machine.reviveByNotice n r s) := by
  unfold Machine.reviveByNotice
  split
  · exact (reviveRecord _ _ s).trans (sendAccept _ _ _ _ _)
  · exact deleteRecord _ s

theorem attemptFailed (u : UnitId) (s : State) : Acts s ((Machine.startRoamHold u s).count .roamsFailed) :=
  (startRoamHold u s).trans (count _ _)

theorem radioReturned (u : UnitId) (ch : ChannelNo) (ho : Handover) (s : State) :
    Acts s (Machine.radioReturned u ch ho s) :=
  ((enterPhase _ _ s).trans (sendCancel _ _ _ _ _)).trans (attemptFailed u _)

theorem noticeByState (n : ChannelNo) (k : Kind) (r : Record) (s : State) : Acts s (Machine.noticeByState n k r s) := by
  unfold Machine.noticeByState
  split
  · split
    · exact .refl s
    · exact mapActivity _ (fun s _ => touchActivity s) s
  · split
    · exact .refl s
    · exact mapActivity _ (fun s _ => touchActivity s) s
  · split
    · exact radioReturned _ _ _ s
    · exact .refl s
  · exact .refl s
  · exact .refl s
  · split
    · exact reviveByNotice _ _ s
    · exact .refl s

theorem setEmergency (u : UnitId) (s : State) : Acts s (modUnit u (Machine.setEmergency s) s) := by
  refine touchKeep s u _ fun r => ?_
  unfold Machine.setEmergency
  split <;> exact ⟨rfl, rfl, rfl, rfl⟩

theorem unitNotice (n : ChannelNo) (u : UnitId) (k : Kind) (marker : Bool) (s : State) :
    Acts s (Machine.unitNotice n u k marker s) := by
  unfold Machine.unitNotice
  split
  · exact .refl s
  · split
    · exact (setEmergency u s).trans (noticeByState _ _ _ _)
    · exact noticeByState _ _ _ s

theorem claimLastSite (g : Registration) (e : Bool) (s : State) : Acts s (Machine.claimLastSite g e s) := by
  unfold Machine.claimLastSite
  split
  · exact .refl s
  · exact sendClaim _ _ _ s

theorem registerNew (n : ChannelNo) (g : Registration) (s : State) (hu : s.record g.unit = none) :
    Acts s (Machine.registerNew n g s) := by
  unfold Machine.registerNew
  split
  · exact sendRefuse _ _ _ s
  · split
    · exact sendRefuse _ _ _ s
    · rename_i h
      simp only
      refine Acts.trans ?_ (claimLastSite _ _ _)
      refine Acts.trans ?_ (sendAccept _ _ _ _ _)
      refine Acts.trans ?_ (count _ _)
      refine Acts.trans ?_ (memberEntry _ _)
      exact takeSlot h _ rfl hu (roamOk_clear _ rfl rfl)

theorem registerServed (n : ChannelNo) (g : Registration) (r : Record) (s : State) :
    Acts s (Machine.registerServed n g r s) := by
  unfold Machine.registerServed
  split
  · exact sendRefuse _ _ _ s
  · split
    · exact (touchKeep s _ _ (by intro _; exact ⟨rfl, rfl, rfl, rfl⟩)).trans (sendAccept _ _ _ _ _)
    · simp only
      refine Acts.trans ?_ (sendAccept _ _ _ _ _)
      refine Acts.trans ?_ (touchKeep _ _ _ (by intro _; exact ⟨rfl, rfl, rfl, rfl⟩))
      exact (memberExit _ s).trans (memberEntry _ _)

theorem enterServed (g : Registration) (tg : TalkgroupId) (ch : ChannelNo) (s : State) :
    Acts s (Machine.enterServed g tg ch s) := touchKeep s _ _ (by intro _; exact ⟨rfl, rfl, rfl, rfl⟩)

theorem registerForward (n : ChannelNo) (g : Registration) (r : Record) (ho : Handover) (s : State) :
    Acts s (Machine.registerForward n g r ho s) := by
  unfold Machine.registerForward
  split
  · exact sendRefuse _ _ _ s
  · exact (((enterServed _ _ _ s).trans (memberEntry _ _)).trans (sendAccept _ _ _ _ _)).trans (sendClaim _ _ _ _)

theorem registerArriving (n : ChannelNo) (g : Registration) (r : Record) (ho : Handover) (s : State) :
    Acts s (Machine.registerArriving n g r ho s) := by
  unfold Machine.registerArriving
  split
  · exact sendRefuse _ _ _ s
  · exact ((((enterServed _ _ _ s).trans (memberEntry _ _)).trans (sendAccept _ _ _ _ _)).trans
      (sendHoComplete _ _ _ _ _)).trans (startRoamHold _ _)

theorem registerRevived (n : ChannelNo) (g : Registration) (s : State) : Acts s (Machine.registerRevived n g s) := by
  unfold Machine.registerRevived
  split
  · exact registerServed _ _ _ s
  · exact registerNew _ _ s (by assumption)

theorem registerByState (n : ChannelNo) (g : Registration) (s : State) : Acts s (Machine.registerByState n g s) := by
  unfold Machine.registerByState
  split
  · exact registerNew _ _ s (by assumption)
  · split
    · exact registerServed _ _ _ s
    · exact registerServed _ _ _ s
    · exact registerServed _ _ _ s
    · exact registerArriving _ _ _ _ s
    · exact registerForward _ _ _ _ s
    · exact (reviveOrDelete _ s).trans (registerRevived _ _ _)

theorem activityExpiry (u : UnitId) (s : State) : Acts s (Machine.activityExpiry u s) := by
  unfold Machine.activityExpiry
  split
  · exact .refl s
  · split
    · exact .refl s
    · split
      · exact mapActivity u expireActivity s
      · exact .refl s

theorem sendPoll (ch : ChannelNo) (r : Record) (s : State) : Acts s (Machine.sendPoll ch r s) := by
  unfold Machine.sendPoll
  have h : ∀ P : Prop, (P → hopOk s.active) → Moves P s.io (buildFrame s.net (pollHeader r) [] none s.io).2 :=
    fun P _ => Moves.buildFrame _ _ _ _
  split <;> rename_i heq <;> rw [heq] at h
  · refine Acts.trans (.io s _ fun P hc => ((h P hc).trans (Moves.deliver (c := s.net) hc _ _ _ _)).trans
      (Moves.dropReference (c := s.net) hc _ _)) (touchKeep _ _ _ (by intro _; exact ⟨rfl, rfl, rfl, rfl⟩))
  · exact (Acts.io s _ h).trans (touchKeep _ _ _ (by intro _; exact ⟨rfl, rfl, rfl, rfl⟩))

theorem pollExpiry (u : UnitId) (s : State) : Acts s (Machine.pollExpiry u s) := by
  unfold Machine.pollExpiry
  split
  · exact .refl s
  · split
    · split
      · exact sendPoll _ _ s
      · exact .refl s
    all_goals exact .refl s

theorem goLost (r : Record) (ch : ChannelNo) (s : State) : Acts s (Machine.goLost r ch s) := by
  unfold Machine.goLost
  have h := ((exitReport r s).trans (enterPhase r.unit
    (.lost ch ((Machine.exitReport r s).after ((Machine.exitReport r s).active.lostHold * 1000))) _)).trans
    (count _ .unitsLost)
  simp only
  split
  · exact h.trans (.onIo _ _ fun _ hc => .sendMgmtNotice hc _ _ _ _ _)
  · exact h

theorem missPoll (ch : ChannelNo) (r : Record) (a : Activity) (s : State) : Acts s (Machine.missPoll ch r a s) := by
  unfold Machine.missPoll
  split
  · exact goLost _ _ s
  · exact touchKeep s _ _ (by intro _; exact ⟨rfl, rfl, rfl, rfl⟩)

theorem pollWaitExpiry (u : UnitId) (s : State) : Acts s (Machine.pollWaitExpiry u s) := by
  unfold Machine.pollWaitExpiry
  split
  · exact .refl s
  · split
    · split
      · exact missPoll _ _ _ s
      · exact .refl s
    all_goals exact .refl s

theorem pollReplyByState (u : UnitId) (s : State) : Acts s (Machine.pollReplyByState u s) := by
  unfold Machine.pollReplyByState
  split
  · exact count s _
  · exact mapActivity u (fun s _ => answerPoll s) s

theorem lostExpiry (u : UnitId) (s : State) : Acts s (Machine.lostExpiry u s) := by
  unfold Machine.lostExpiry
  split
  · exact .refl s
  · split
    · split
      · exact deleteRecord u s
      · exact .refl s
    all_goals exact .refl s

theorem takeUnitMessage (l : LinkNo) (h : Handle) (hdr : Header) (s : State) :
    Acts s (Machine.takeUnitMessage l h hdr s) := by
  unfold Machine.takeUnitMessage
  simp only
  split
  · refine .onIo s _ fun _ hc => ?_
    split
    · exact (Moves.modHeader _ _ _).trans (.deliver hc _ _ _ _)
    · exact .deliver hc _ _ _ _
  · exact .onIo s _ fun _ hc => .forwardSingle hc _ _ _ _ _
  · exact .onIo s _ fun _ hc => .sendUnreachable hc _ _ _ _

end Acts

end Sys2Proof.Machine
end

