-- ==== Sys2Proof/Laws/Roam.lean ====
section
/-! SUPPORT. The Roam Selector's arithmetic and slots: what one step of a filter, one ageing, one admission
and one judgement can do (R74 to R79). -/

namespace Sys2Proof.Machine

/-! ## The filter (R75) -/

/-- A quotient truncated toward zero lies between 0 and what it divides. -/
theorem tdiv_between (d : Int) (k : Nat) (hk : k ≤ 16) :
    (0 ≤ d → 0 ≤ Int.tdiv (d * k) 16 ∧ Int.tdiv (d * k) 16 ≤ d)
      ∧ (d ≤ 0 → d ≤ Int.tdiv (d * k) 16 ∧ Int.tdiv (d * k) 16 ≤ 0) := by
  have key : ∀ d : Int, 0 ≤ d → 0 ≤ Int.tdiv (d * k) 16 ∧ Int.tdiv (d * k) 16 ≤ d := by
    intro d hd
    have h0 : 0 ≤ d * (k : Int) := mul_nonneg hd (Int.natCast_nonneg k)
    have h1 : d * (k : Int) ≤ d * 16 := mul_le_mul_of_nonneg_left (by exact_mod_cast hk) hd
    rw [Int.tdiv_eq_ediv_of_nonneg h0]
    omega
  refine ⟨key d, fun hd => ?_⟩
  have h := key (-d) (by omega)
  rw [neg_mul, Int.neg_tdiv] at h
  omega

/-- A filtered level moves toward the reported level and does not pass it (R75). -/
theorem filterStep_between (k : Nat) (hk : k ≤ 16) (level f : Int) :
    (f ≤ level * 16 → f ≤ filterStep k level f ∧ filterStep k level f ≤ level * 16)
      ∧ (level * 16 ≤ f → level * 16 ≤ filterStep k level f ∧ filterStep k level f ≤ f) := by
  have h := tdiv_between (level * 16 - f) k hk
  unfold filterStep
  constructor
  · intro hf
    have := h.1 (by omega)
    omega
  · intro hf
    have := h.2 (by omega)
    omega

/-- A reported level lies within -140 to -20 (R74). -/
theorem levelOf_range (b : Byte) : -140 ≤ levelOf b ∧ levelOf b ≤ -20 := by
  unfold levelOf
  omega

/-- A step keeps a filtered level in its range (R75). -/
theorem levelOk_step (k : Nat) (hk : k ≤ 16) {level f : Int} (hl : -140 ≤ level ∧ level ≤ -20) (hf : levelOk f) :
    levelOk (filterStep k level f) := by
  have h := filterStep_between k hk level f
  unfold levelOk at *
  by_cases hc : f ≤ level * 16
  · have := h.1 hc; omega
  · have := h.2 (by omega); omega

/-- A seed lies in the range (R75). -/
theorem levelOk_seed {level : Int} (hl : -140 ≤ level ∧ level ≤ -20) : levelOk (level * 16) := by
  unfold levelOk; omega

/-! ## The report (R74) -/

/-- Every level a report carries lies in its range. -/
theorem measurePairs_range (payload : List Byte) : ∀ x ∈ measurePairs payload, -140 ≤ x.2 ∧ x.2 ≤ -20 := by
  intro x hx
  simp only [measurePairs, List.mem_map] at hx
  obtain ⟨i, _, rfl⟩ := hx
  exact levelOf_range _

/-- The sieve keeps pairs of the report alone (R74). -/
theorem sieve_sublist (own : SiteId) (t : List (Option NeighborEntry)) (seen : List SiteId)
    (l : List (SiteId × Int)) : (sieve own t seen l).Sublist l := by
  induction l generalizing seen with
  | nil => exact List.Sublist.refl _
  | cons x xs ih =>
    obtain ⟨n, level⟩ := x
    simp only [sieve]
    split
    · exact (ih _).cons _
    · exact (ih _).cons_cons _

/-! ## The slots (R76, R77, R79) -/

/-- What the Roam Selector's law says of a slot. -/
def slotOk (o : Option Candidate) : Prop := ∀ c, o = some c → levelOk c.level ∧ c.qualify ≤ 15 ∧ c.misses ≤ 2

/-- The sites of the occupied slots. -/
def slotSites (l : List (Option Candidate)) : List SiteId := l.filterMap (Option.map Candidate.site)

/-- What the Roam Selector's law says of a record's slots. -/
def slotsOk (l : List (Option Candidate)) : Prop := l.length = 4 ∧ (∀ o ∈ l, slotOk o) ∧ (slotSites l).Nodup

/-- The law of a record, by its serving level and its slots. -/
theorem roamOk_iff (r : Record) :
    r.roamOk ↔ (∀ f, r.serving = some f → levelOk f) ∧ slotsOk r.candidates := by
  unfold Record.roamOk slotsOk slotOk slotSites
  constructor
  · rintro ⟨h1, h2, h3, h4⟩
    exact ⟨h1, h2, fun o ho c hc => h3 c (hc ▸ ho), h4⟩
  · rintro ⟨h1, h2, h3, h4⟩
    exact ⟨h1, h2, fun c hc => h3 _ hc c rfl, h4⟩

/-- A change of the slots one by one that frees slots or keeps their sites keeps the law. -/
theorem slotsOk_map (f : Option Candidate → Option Candidate) {l : List (Option Candidate)} (h : slotsOk l)
    (hok : ∀ o ∈ l, slotOk o → slotOk (f o))
    (hs : ∀ o, (f o).map Candidate.site = none ∨ (f o).map Candidate.site = o.map Candidate.site) :
    slotsOk (l.map f) := by
  refine ⟨by simp [h.1], ?_, ?_⟩
  · intro o ho
    obtain ⟨o', ho', rfl⟩ := List.mem_map.mp ho
    exact hok o' ho' (h.2.1 o' ho')
  · have : (slotSites (l.map f)).Sublist (slotSites l) := by
      clear h hok
      induction l with
      | nil => exact List.Sublist.refl _
      | cons o os ih =>
        simp only [slotSites, List.map_cons, List.filterMap_cons] at ih ⊢
        rcases hs o with h | h
        · rw [h]
          cases o.map Candidate.site with
          | none => exact ih
          | some n => exact ih.cons _
        · rw [h]
          cases o.map Candidate.site with
          | none => exact ih
          | some n => exact ih.cons_cons _
    exact h.2.2.sublist this

/-- A slot seeded for a site without one keeps the law. -/
theorem slotsOk_set {l : List (Option Candidate)} (h : slotsOk l) (i : Nat) (c : Candidate) (hc : slotOk (some c))
    (hn : c.site ∉ slotSites l) : slotsOk (l.set i (some c)) := by
  refine ⟨by simp [h.1], ?_, ?_⟩
  · intro o ho
    rcases List.mem_or_eq_of_mem_set ho with ho | rfl
    · exact h.2.1 o ho
    · exact hc
  · have hm : ∀ (l : List (Option Candidate)) (i : Nat) (n : SiteId),
        n ∈ slotSites (l.set i (some c)) → n = c.site ∨ n ∈ slotSites l := by
      intro l i n hn
      simp only [slotSites, List.mem_filterMap] at hn ⊢
      obtain ⟨o, ho, hon⟩ := hn
      rcases List.mem_or_eq_of_mem_set ho with ho | rfl
      · exact Or.inr ⟨o, ho, hon⟩
      · exact Or.inl (by simpa using hon.symm)
    have key : ∀ (l : List (Option Candidate)) (i : Nat), (slotSites l).Nodup → c.site ∉ slotSites l →
        (slotSites (l.set i (some c))).Nodup := by
      intro l
      induction l with
      | nil => intro i h _; simpa using h
      | cons o os ih =>
        intro i h hn
        cases i with
        | zero =>
          simp only [List.set_cons_zero, slotSites, List.filterMap_cons, Option.map_some] at h hn ⊢
          cases ho : o.map Candidate.site with
          | none => rw [ho] at h hn; exact List.nodup_cons.mpr ⟨hn, h⟩
          | some m =>
            rw [ho] at h hn
            exact List.nodup_cons.mpr ⟨fun hx => hn (List.mem_cons_of_mem _ hx), (List.nodup_cons.mp h).2⟩
        | succ i =>
          simp only [List.set_cons_succ, slotSites, List.filterMap_cons] at h hn ⊢
          cases ho : o.map Candidate.site with
          | none => rw [ho] at h hn; exact ih i h hn
          | some m =>
            rw [ho] at h hn
            have h' := List.nodup_cons.mp h
            refine List.nodup_cons.mpr ⟨fun hx => ?_, ih i h'.2 fun hx => hn (List.mem_cons_of_mem _ hx)⟩
            rcases hm os i m hx with rfl | hx
            · exact hn (List.mem_cons_self ..)
            · exact h'.1 hx
    exact key l i h.2.2 hn

/-- Step 3 of R73 keeps the law (R76). -/
theorem slotsOk_age (k : Nat) (hk : k ≤ 16) (nbs : List (SiteId × Int)) (hn : ∀ x ∈ nbs, -140 ≤ x.2 ∧ x.2 ≤ -20)
    {l : List (Option Candidate)} (h : slotsOk l) : slotsOk (l.map (ageSlot k nbs)) := by
  refine slotsOk_map _ h ?_ ?_
  · intro o _ ho c hc
    cases o with
    | none => cases hc
    | some x =>
      have hx := ho x rfl
      simp only [ageSlot] at hc
      split at hc
      · rename_i level hl
        simp only [Option.some.injEq] at hc
        subst hc
        have hmem : (x.site, level) ∈ nbs := by
          obtain ⟨l1, l2, rfl, _⟩ := List.lookup_eq_some_iff.mp hl
          simp
        exact ⟨levelOk_step k hk (hn _ hmem) hx.1, hx.2.1, Nat.zero_le _⟩
      · split at hc
        · cases hc
        · simp only [Option.some.injEq] at hc
          subst hc
          exact ⟨hx.1, Nat.zero_le _, show x.misses + 1 ≤ 2 by omega⟩
  · intro o
    cases o with
    | none => exact Or.inl rfl
    | some x =>
      simp only [ageSlot]
      split
      · exact Or.inr rfl
      · split
        · exact Or.inl rfl
        · exact Or.inr rfl

/-- Step 4 of R73 for one neighbour keeps the law (R77). -/
theorem slotsOk_admit (t : List (Option NeighborEntry)) (nb : SiteId × Int) (hn : -140 ≤ nb.2 ∧ nb.2 ≤ -20)
    {l : List (Option Candidate)} (h : slotsOk l) : slotsOk (admitTo t l nb) := by
  have hc : slotOk (seedSlot nb.1 nb.2) := by
    intro c hc
    simp only [seedSlot, Option.some.injEq] at hc
    subst hc
    exact ⟨levelOk_seed hn, Nat.zero_le _, Nat.zero_le _⟩
  unfold admitTo
  split
  · exact h
  · rename_i hno
    have hns : nb.1 ∉ slotSites l := by
      intro hm
      simp only [slotSites, List.mem_filterMap] at hm
      obtain ⟨o, ho, hon⟩ := hm
      obtain ⟨c, rfl, hcs⟩ := Option.map_eq_some_iff.mp hon
      apply hno
      simp only [List.any_eq_true]
      exact ⟨some c, ho, by simp [hcs]⟩
    split
    · exact slotsOk_set h _ _ hc hns
    · split
      · exact h
      · split
        · exact slotsOk_set h _ _ hc hns
        · exact h

/-- Step 4 of R73 keeps the law. -/
theorem slotsOk_admitAll (t : List (Option NeighborEntry)) (nbs : List (SiteId × Int))
    (hn : ∀ x ∈ nbs, -140 ≤ x.2 ∧ x.2 ≤ -20) {l : List (Option Candidate)} (h : slotsOk l) :
    slotsOk (nbs.foldl (admitTo t) l) := by
  induction nbs generalizing l with
  | nil => exact h
  | cons x xs ih =>
    exact ih (fun y hy => hn y (List.mem_cons_of_mem _ hy)) (slotsOk_admit t x (hn x (List.mem_cons_self ..)) h)

/-- Step 5 of R73 keeps the law, whether a slot's site was reported or not (R79). -/
theorem slotsOk_judge (p : Params) (t : List (Option NeighborEntry)) (serving : Int) (nbs : List (SiteId × Int))
    {l : List (Option Candidate)} (h : slotsOk l) :
    slotsOk (l.map (Option.map (judgeReported p t serving nbs))) := by
  refine slotsOk_map _ h ?_ ?_
  · intro o _ ho c hc
    obtain ⟨x, rfl, rfl⟩ := Option.map_eq_some_iff.mp hc
    have hx := ho x rfl
    unfold judgeReported
    split
    · refine ⟨hx.1, ?_, hx.2.2⟩
      unfold judgeSlot
      simp only
      split
      · exact Nat.min_le_left _ _
      · exact Nat.zero_le _
    · exact hx
  · intro o
    cases o with
    | none => exact Or.inr rfl
    | some c =>
      refine Or.inr ?_
      simp only [Option.map_some, judgeReported]
      split <;> rfl

/-- Steps 1 to 5 of R73 keep the law (R75 to R79). -/
theorem roamOk_learn (p : Params) (hk : p.filterWeight ≤ 16) (t : List (Option NeighborEntry)) (payload : List Byte)
    (r : Record) (h : r.roamOk) : (learn p t payload r).roamOk := by
  rw [roamOk_iff] at h ⊢
  have hn : ∀ x ∈ sieve p.ownSite t [] (measurePairs payload), -140 ≤ x.2 ∧ x.2 ≤ -20 := fun x hx =>
    measurePairs_range payload x ((sieve_sublist _ _ _ _).subset hx)
  refine ⟨?_, ?_⟩
  · intro f hf
    simp only [learn, Option.some.injEq] at hf
    subst hf
    cases hs : r.serving with
    | none => exact levelOk_seed (levelOf_range _)
    | some g => exact levelOk_step _ hk (levelOf_range _) (h.1 g hs)
  · exact slotsOk_judge _ _ _ _ (slotsOk_admitAll _ _ hn (slotsOk_age _ hk _ hn h.2))

/-- A freed slot keeps the law (R72). -/
theorem roamOk_freeSlots (n : SiteId) (r : Record) (h : r.roamOk) : (freeSlotsOf n r).roamOk := by
  rw [roamOk_iff] at h ⊢
  refine ⟨h.1, slotsOk_map _ h.2 ?_ ?_⟩
  · intro o _ ho c hc
    exact ho c ((Option.filter_eq_some_iff.mp hc).1)
  · intro o
    cases o with
    | none => exact Or.inl rfl
    | some c => by_cases hc : c.site = n <;> simp [hc]

end Sys2Proof.Machine
end

