-- ==== Sys2Proof/Laws/ActsMore.lean ====
section
/-! SUPPORT. The Roam Selector, the Handover Controller, the Channel Arbiters and the Link Supervisors only
act as `Acts` says: one lemma for each operation. -/

namespace Sys2Proof.Machine.Acts

variable {s t : State}

/-! ## The Roam Selector -/

theorem takeTrigger (r : Record) (ch : ChannelNo) (a : Activity) (target : SiteId) (s : State) :
    Acts s (Machine.takeTrigger r ch a target s) := by
  unfold Machine.takeTrigger
  simp only
  have h : ∀ P : Prop, (P → hopOk s.active) → Moves P s.io
      (buildFrame s.net { s.net.fromOwn (requestHeader r s.handoverCounter) with
        destination := BitVec.ofNat 8 target } [] none s.io).2 := fun P _ => Moves.buildFrame _ _ _ _
  split <;> rename_i heq <;> rw [heq] at h
  · refine Acts.trans ?_ (count _ _)
    exact (Acts.io s _ h).trans (startRoamHold _ _)
  · refine Acts.trans ?_ (.onIo _ _ fun _ hc => (Moves.placeForSite hc _ _ _ _).trans (.dropReference hc _ _))
    refine Acts.trans ?_ (enterPhase _ _ _)
    exact (Acts.io s _ h).trans (.counter _ _)

theorem triggerRoam (u : UnitId) (s : State) : Acts s (Machine.triggerRoam u s) := by
  unfold Machine.triggerRoam
  split
  · exact .refl s
  · split
    · exact takeTrigger _ _ _ _ s
    all_goals exact .refl s

theorem learn (u : UnitId) (payload : List Byte) (s : State) :
    Acts s (modUnit u (Machine.learn s.active s.neighbors payload) s) := by
  refine .touch s u _ fun r _ _ => ⟨rfl, rfl, fun hp hr => roamOk_learn _ ?_ _ _ _ hr⟩
  have := hp.1 7 (by decide)
  simp [paramRanges, Params.values] at this
  omega

theorem measureByState (u : UnitId) (payload : List Byte) (s : State) : Acts s (Machine.measureByState u payload s) := by
  unfold Machine.measureByState
  split
  · exact count s _
  · split
    · exact (learn u payload s).trans (triggerRoam _ _)
    · exact .refl s

theorem roamHoldEnds (u : UnitId) (s : State) : Acts s (Machine.roamHoldEnds u s) := by
  unfold Machine.roamHoldEnds
  split
  · exact .refl s
  · split
    · exact touchKeep s u _ (by intro _; exact ⟨rfl, rfl, rfl, rfl⟩)
    · exact .refl s

/-! ## The Handover Controller -/

theorem failed (u : UnitId) (s : State) : Acts s (Machine.attemptFailed u s) := attemptFailed u s

theorem returnFromProposing (u : UnitId) (ch : ChannelNo) (a : Activity) (s : State) :
    Acts s (Machine.returnFromProposing u ch a s) := enterPhase _ _ s

theorem returnFromDeparting (u : UnitId) (ch : ChannelNo) (kept : Option Abandoned) (s : State) :
    Acts s (Machine.returnFromDeparting u ch kept s) := enterPhase _ _ s

theorem setForward (u : UnitId) (partner : SiteId) (id : Nat) (s : State) : Acts s (Machine.setForward u partner id s) :=
  touchClear s u _ (by intro _; exact ⟨rfl, rfl, rfl, rfl⟩)

theorem enterForward (r : Record) (partner : SiteId) (id : Nat) (s : State) :
    Acts s (Machine.enterForward r partner id s) := (exitReport r s).trans (setForward _ _ _ _)

theorem claimHandover (r : Record) (ho : Handover) (claimant : SiteId) (s : State) :
    Acts s (Machine.claimHandover r ho claimant s) :=
  ((exitReport r s).trans (sendCancel _ _ _ _ _)).trans (setForward _ _ _ _)

theorem acceptProposing (m : HoMessage) (r : Record) (ch : ChannelNo) (a : Activity) (ho : Handover) (s : State) :
    Acts s (Machine.acceptProposing m r ch a ho s) := by
  unfold Machine.acceptProposing
  split
  · exact ((sendCancel _ _ _ _ s).trans (returnFromProposing _ _ _ _)).trans (failed _ _)
  · exact (sendRoamOrder _ _ _ _ s).trans (enterPhase _ _ _)

theorem acceptLate (m : HoMessage) (s : State) : Acts s (Machine.acceptLate m s) :=
  (sendCancel _ _ _ _ s).trans (count _ _)

theorem takeAccept (m : HoMessage) (s : State) : Acts s (Machine.takeAccept m s) := by
  unfold Machine.takeAccept
  split
  · exact acceptLate m s
  · split
    · split
      · exact acceptProposing _ _ _ _ _ s
      · exact acceptLate m s
    · split
      · exact count s _
      · exact acceptLate m s
    all_goals exact acceptLate m s

theorem takeRefuse (m : HoMessage) (s : State) : Acts s (Machine.takeRefuse m s) := by
  unfold Machine.takeRefuse
  split
  · exact count s _
  · split
    · split
      · exact (returnFromProposing _ _ _ s).trans (failed _ _)
      · exact count s _
    all_goals exact count s _

theorem takeComplete (m : HoMessage) (s : State) : Acts s (Machine.takeComplete m s) := by
  unfold Machine.takeComplete
  split
  · exact count s _
  · split
    · split
      · exact (enterForward _ _ _ s).trans (count _ _)
      · exact count s _
    · split
      · split
        · exact (enterForward _ _ _ s).trans (count _ _)
        · exact count s _
      · exact count s _
    all_goals exact count s _

theorem takeCancel (m : HoMessage) (s : State) : Acts s (Machine.takeCancel m s) := by
  unfold Machine.takeCancel
  split
  · exact count s _
  · split
    · split
      · exact (returnFromProposing _ _ _ s).trans (failed _ _)
      · exact count s _
    · split
      · exact (returnFromDeparting _ _ _ s).trans (failed _ _)
      · exact count s _
    · split
      · exact deleteRecord _ s
      · exact count s _
    all_goals exact count s _

theorem setArriving (m : HoMessage) (keep : Bool) (s : State) : Acts s (Machine.setArriving m keep s) :=
  touchClear s m.unit _ (by intro _; exact ⟨rfl, rfl, rfl, rfl⟩)

theorem requestNew (m : HoMessage) (g : TalkgroupEntry) (s : State) (hu : s.record m.unit = none) :
    Acts s (Machine.requestNew m g s) := by
  unfold Machine.requestNew
  split
  · exact sendHoRefuse _ _ _ _ s
  · rename_i h
    refine Acts.trans ?_ (sendHoAccept _ _ _ _ _)
    refine Acts.trans ?_ (count _ _)
    exact takeSlot h _ rfl hu (roamOk_clear _ rfl rfl)

theorem requestByState (m : HoMessage) (g : TalkgroupEntry) (s : State) : Acts s (Machine.requestByState m g s) := by
  unfold Machine.requestByState
  split
  · exact requestNew m g s (by assumption)
  · split
    · exact sendHoRefuse _ _ _ _ s
    · exact sendHoRefuse _ _ _ _ s
    · exact sendHoRefuse _ _ _ _ s
    · split
      · exact (setArriving _ _ s).trans (sendHoAccept _ _ _ _ _)
      · exact ((sendCancel _ _ _ _ s).trans (setArriving _ _ _)).trans (sendHoAccept _ _ _ _ _)
    · exact (setArriving _ _ s).trans (sendHoAccept _ _ _ _ _)
    · exact (setArriving _ _ s).trans (sendHoAccept _ _ _ _ _)

theorem takeRequest (m : HoMessage) (s : State) : Acts s (Machine.takeRequest m s) := by
  unfold Machine.takeRequest
  split
  · exact sendHoRefuse _ _ _ _ s
  · split
    · exact sendHoRefuse _ _ _ _ s
    · exact requestByState _ _ s

theorem takeClaim (m : HoMessage) (s : State) : Acts s (Machine.takeClaim m s) := by
  unfold Machine.takeClaim
  refine (count s .claimsReceived).trans ?_
  simp only
  split
  · exact count _ _
  · split
    · exact enterForward _ _ _ _
    · exact enterForward _ _ _ _
    · exact enterForward _ _ _ _
    · exact claimHandover _ _ _ _
    · exact claimHandover _ _ _ _
    · exact enterPhase _ _ _

theorem unlessOwn (m : HoMessage) (f : State → State) (s : State) (hf : Acts s (f s)) :
    Acts s (Machine.unlessOwn m f s) := by
  unfold Machine.unlessOwn
  split
  · exact count s _
  · exact hf

theorem replyWaitEnds (u : UnitId) (s : State) : Acts s (Machine.replyWaitEnds u s) := by
  unfold Machine.replyWaitEnds
  split
  · exact .refl s
  · split
    · split
      · exact (returnFromProposing _ _ _ s).trans (failed _ _)
      · exact .refl s
    all_goals exact .refl s

theorem departureEnds (u : UnitId) (s : State) : Acts s (Machine.departureEnds u s) := by
  unfold Machine.departureEnds
  split
  · exact .refl s
  · split
    · split
      · exact ((returnFromDeparting _ _ _ s).trans (sendCancel _ _ _ _ _)).trans (failed _ _)
      · exact .refl s
    all_goals exact .refl s

theorem arrivalEnds (u : UnitId) (s : State) : Acts s (Machine.arrivalEnds u s) := by
  unfold Machine.arrivalEnds
  split
  · exact .refl s
  · split
    · split
      · exact deleteRecord _ s
      · exact .refl s
    all_goals exact .refl s

theorem forwardHoldEnds (u : UnitId) (s : State) : Acts s (Machine.forwardHoldEnds u s) := by
  unfold Machine.forwardHoldEnds
  split
  · exact .refl s
  · split
    · split
      · exact deleteRecord _ s
      · exact .refl s
    all_goals exact .refl s

theorem clearRecord (r : Record) (s : State) : Acts s (Machine.clearRecord r s) := by
  unfold Machine.clearRecord
  split
  · exact (sendCancel _ _ _ _ s).trans (deleteRecord _ _)
  · exact (sendCancel _ _ _ _ s).trans (deleteRecord _ _)
  · exact (sendCancel _ _ _ _ s).trans (deleteRecord _ _)
  all_goals exact deleteRecord _ s

theorem clearEmergency (u : UnitId) (s : State) : Acts s (modUnit u (clearFlag s) s) := by
  refine touchKeep s u _ fun r => ?_
  unfold clearFlag
  split <;> exact ⟨rfl, rfl, rfl, rfl⟩

/-! ## The Channel Arbiters -/

theorem setPhase (n : ChannelNo) (ph : ChannelPhase) (s : State) : Acts s (Machine.setPhase n ph s) := .channel s n _

theorem removeWait (n : ChannelNo) (id : CallId) (s : State) : Acts s (Machine.removeWait n id s) := .channel s n _

theorem setTalking (u : UnitId) (v : Bool) (s : State) : Acts s (Machine.setTalking u v s) :=
  touchKeep s u _ (by intro _; exact ⟨rfl, rfl, rfl, rfl⟩)

theorem setLimited (u : UnitId) (v : Bool) (s : State) : Acts s (Machine.setLimited u v s) :=
  touchKeep s u _ (by intro _; exact ⟨rfl, rfl, rfl, rfl⟩)

theorem sendAnswer (n : ChannelNo) (hdr : Header) (s : State) : Acts s (Machine.sendAnswer n hdr s) :=
  .onIo s _ fun _ hc => .sendToChannel hc _ _ _ _ _

theorem offerCall (k : Kind) (call : Call) (s : State) : Acts s (Machine.offerCall k call s) :=
  .onIo s _ fun _ hc => .offerBuilt hc _ _ _

theorem deliverCall (k : Kind) (n : ChannelNo) (call : Call) (s : State) : Acts s (Machine.deliverCall k n call s) :=
  .onIo s _ fun _ hc => .sendToChannel hc _ _ _ _ _

theorem deliverReceived (n : ChannelNo) (h : Handle) (s : State) : Acts s (Machine.deliverReceived n h s) :=
  .onIo s _ fun _ hc => .deliver hc _ _ _ _

theorem offerFrame (n : ChannelNo) (h : Handle) (call : Call) (s : State) : Acts s (Machine.offerFrame n h call s) := by
  refine .onIo s _ fun _ hc => ?_
  split
  · exact (Moves.modHeader _ _ _).trans (.offerReceived hc _ _ _ _)
  · exact .offerReceived hc _ _ _ _

theorem makeCurrent (n : ChannelNo) (call : Call) (s : State) : Acts s (Machine.makeCurrent n call s) := by
  unfold Machine.makeCurrent
  simp only
  split
  · exact (setPhase _ _ s).trans (setTalking _ _ _)
  · exact setPhase _ _ s

theorem grantArrival (n : ChannelNo) (call : Call) (src : Arrival) (s : State) :
    Acts s (Machine.grantArrival n call src s) := by
  unfold Machine.grantArrival
  refine (makeCurrent n call s).trans ?_
  simp only
  split
  · exact ((sendAnswer _ _ _).trans (.onIo _ _ fun _ _ => .modHeader _ _ _)).trans (offerFrame _ _ _ _)
  · exact deliverReceived _ _ _

theorem grantWaiting (n : ChannelNo) (call : Call) (s : State) : Acts s (Machine.grantWaiting n call s) := by
  unfold Machine.grantWaiting
  refine (makeCurrent n call s).trans ?_
  simp only
  split
  · exact (sendAnswer _ _ _).trans (offerCall _ _ _)
  · exact deliverCall _ _ _ _

theorem turnAway (n : ChannelNo) (call : Call) (cause : Byte) (s : State) : Acts s (Machine.turnAway n call cause s) := by
  unfold Machine.turnAway
  refine Acts.trans ?_ (count _ _)
  split
  · exact sendAnswer _ _ s
  · exact .refl s

theorem joinList (n : ChannelNo) (call : Call) (s : State) : Acts s (Machine.joinList n call s) := by
  unfold Machine.joinList
  simp only
  split
  · exact (Acts.channel s n _).trans (sendAnswer _ _ _)
  · exact .channel s n _

theorem joinWait (n : ChannelNo) (call : Call) (s : State) : Acts s (Machine.joinWait n call s) := by
  unfold Machine.joinWait
  simp only
  split
  · exact joinList _ _ s
  · split
    · split
      · exact turnAway _ _ _ s
      · exact ((Acts.channel s n _).trans (turnAway _ _ _ _)).trans (joinList _ _ _)
    · exact turnAway _ _ _ s

theorem requeueRemote (n : ChannelNo) (call : Call) (s : State) : Acts s (Machine.requeueRemote n call s) := by
  unfold Machine.requeueRemote
  simp only
  split
  · exact .channel s n _
  · split
    · exact count s _
    · exact ((Acts.channel s n _).trans (turnAway _ _ _ _)).trans (.channel _ n _)

theorem preemptCall (n : ChannelNo) (call : Call) (s : State) : Acts s (Machine.preemptCall n call s) := by
  unfold Machine.preemptCall
  split
  · exact (((sendAnswer _ _ s).trans (setTalking _ _ _)).trans (offerCall _ _ _)).trans (.channel _ n _)
  · exact requeueRemote _ _ s

theorem decideCall (n : ChannelNo) (call : Call) (src : Arrival) (s : State) :
    Acts s (Machine.decideCall n call src s) := by
  unfold Machine.decideCall
  split
  · exact grantArrival _ _ _ s
  · split
    · exact grantArrival _ _ _ s
    · split
      · exact grantArrival _ _ _ s
      · exact joinWait _ _ s
  · split
    · exact (preemptCall _ _ s).trans (grantArrival _ _ _ _)
    · exact joinWait _ _ s

theorem newStart (n : ChannelNo) (h : Handle) (hdr : Header) (s : State) : Acts s (Machine.newStart n h hdr s) := by
  unfold Machine.newStart
  refine Acts.trans ?_ (decideCall _ _ _ _)
  exact .calls s _

theorem reaskStart (n : ChannelNo) (h : Handle) (hdr : Header) (w : WaitEntry) (s : State) :
    Acts s (Machine.reaskStart n h hdr w s) := by
  unfold Machine.reaskStart
  simp only
  split
  · exact (removeWait _ _ s).trans (decideCall _ _ _ _)
  · exact sendAnswer _ _ s

theorem startOnChannel (n : ChannelNo) (h : Handle) (hdr : Header) (r : Record) (s : State) :
    Acts s (Machine.startOnChannel n h hdr r s) := by
  unfold Machine.startOnChannel
  split
  · exact sendAnswer _ _ s
  · split
    · exact reaskStart _ _ _ _ s
    · split
      · exact sendAnswer _ _ s
      · exact newStart _ _ _ s

theorem takeLocalStart (n : ChannelNo) (h : Handle) (hdr : Header) (s : State) :
    Acts s (Machine.takeLocalStart n h hdr s) := by
  unfold Machine.takeLocalStart
  split
  · exact sendAnswer _ _ s
  · split
    · exact sendAnswer _ _ s
    · split
      · exact sendAnswer _ _ s
      · split
        · exact sendAnswer _ _ s
        · split
          · exact startOnChannel _ _ _ _ s
          · exact sendAnswer _ _ s

theorem continueCall (n : ChannelNo) (call : Call) (talk : Timer) (s : State) :
    Acts s (Machine.continueCall n call talk s) := setPhase _ _ s

theorem takeLocalVoice (n : ChannelNo) (h : Handle) (hdr : Header) (s : State) :
    Acts s (Machine.takeLocalVoice n h hdr s) := by
  unfold Machine.takeLocalVoice
  split
  · exact count s _
  · exact count s _
  · split
    · exact (continueCall _ _ _ s).trans (offerFrame _ _ _ _)
    · exact count s _

theorem grantFrom (n : ChannelNo) (ok : WaitEntry → Bool) (k : Nat) (s : State) :
    Acts s (Machine.grantFrom n ok k s).2 := by
  induction k generalizing s with
  | zero => exact .refl s
  | succ k ih =>
    unfold Machine.grantFrom
    split
    · exact .refl s
    · simp only
      split
      · exact (removeWait _ _ s).trans (grantWaiting _ _ _)
      · exact ((removeWait _ _ s).trans (turnAway _ _ _ _)).trans (ih _)

theorem enterIdle (n : ChannelNo) (s : State) : Acts s (Machine.enterIdle n s) :=
  (setPhase _ _ s).trans (grantFrom _ _ _ _)

theorem enterHang (n : ChannelNo) (call : Call) (s : State) : Acts s (Machine.enterHang n call s) := by
  unfold Machine.enterHang
  simp only
  have h (f : Channel → Channel) : Acts s (modChannel n f s) := .channel s n f
  split
  · exact (h _).trans (grantFrom _ _ _ _)
  · split
    · exact ((h _).trans (grantFrom _ _ _ _)).trans (enterIdle _ _)
    · exact (h _).trans (grantFrom _ _ _ _)

theorem endTalking (call : Call) (s : State) : Acts s (Machine.endTalking call s) := by
  unfold Machine.endTalking
  split
  · exact setTalking _ _ s
  · exact .refl s

theorem endWaiting (n : ChannelNo) (hdr : Header) (s : State) (cleared : Bool) :
    Acts s (Machine.endLocal.endWaiting n hdr s cleared) := by
  unfold Machine.endLocal.endWaiting
  split
  · exact removeWait _ _ s
  · split
    · exact .refl s
    · exact count s _

theorem endLocal (n : ChannelNo) (h : Handle) (hdr : Header) (cleared : Bool) (s : State) :
    Acts s (Machine.endLocal n h hdr cleared s) := by
  unfold Machine.endLocal
  split
  · split
    · exact ((endTalking _ s).trans (offerFrame _ _ _ _)).trans (enterHang _ _ _)
    · exact endWaiting _ _ s _
  · exact endWaiting _ _ s _

theorem takeLocalEnd (n : ChannelNo) (h : Handle) (hdr : Header) (s : State) :
    Acts s (Machine.takeLocalEnd n h hdr s) := (setLimited _ _ s).trans (endLocal _ _ _ _ _)

theorem admitRemote (n : ChannelNo) (h : Handle) (hdr : Header) (s : State) :
    Acts s (Machine.admitRemote n h hdr s) := by
  unfold Machine.admitRemote
  split
  · exact count s _
  · exact decideCall _ _ _ s

theorem takeRemoteStart (n : ChannelNo) (h : Handle) (hdr : Header) (s : State) :
    Acts s (Machine.takeRemoteStart n h hdr s) := by
  unfold Machine.takeRemoteStart
  simp only
  split
  · exact count s _
  · exact admitRemote _ _ _ s

theorem takeOtherVoice (n : ChannelNo) (h : Handle) (hdr : Header) (s : State) :
    Acts s (Machine.takeOtherVoice n h hdr s) := by
  unfold Machine.takeOtherVoice
  simp only
  split
  · exact count s _
  · exact admitRemote _ _ _ s

theorem takeRemoteVoice (n : ChannelNo) (h : Handle) (hdr : Header) (s : State) :
    Acts s (Machine.takeRemoteVoice n h hdr s) := by
  unfold Machine.takeRemoteVoice
  split
  · exact takeOtherVoice _ _ _ s
  · exact takeOtherVoice _ _ _ s
  · split
    · exact (deliverReceived _ _ s).trans (continueCall _ _ _ _)
    · exact takeOtherVoice _ _ _ s

theorem endOther (n : ChannelNo) (hdr : Header) (s : State) : Acts s (Machine.endOther n hdr s) := by
  unfold Machine.endOther
  split
  · exact removeWait _ _ s
  · exact count s _

theorem takeRemoteEnd (n : ChannelNo) (h : Handle) (hdr : Header) (s : State) :
    Acts s (Machine.takeRemoteEnd n h hdr s) := by
  unfold Machine.takeRemoteEnd
  split
  · exact endOther _ _ s
  · exact endOther _ _ s
  · split
    · exact ((deliverReceived _ _ s).trans (endTalking _ _)).trans (enterHang _ _ _)
    · exact endOther _ _ s

theorem localCopy (h : Handle) (hdr : Header) (s : State) : Acts s (Machine.localCopy h hdr s) := by
  unfold Machine.localCopy
  split
  · exact count s _
  · split
    · exact takeRemoteStart _ _ _ s
    · split
      · exact takeRemoteVoice _ _ _ s
      · exact takeRemoteEnd _ _ _ s

theorem voiceGapEnds (n : ChannelNo) (s : State) : Acts s (Machine.voiceGapEnds n s) := by
  unfold Machine.voiceGapEnds
  split
  · exact .refl s
  · exact .refl s
  · split
    · simp only
      refine Acts.trans ?_ (enterHang _ _ _)
      split
      · exact (setTalking _ _ s).trans (offerCall _ _ _)
      · exact deliverCall _ _ _ s
    · exact .refl s

theorem talkTimerEnds (n : ChannelNo) (s : State) : Acts s (Machine.talkTimerEnds n s) := by
  unfold Machine.talkTimerEnds
  split
  · exact .refl s
  · exact .refl s
  · split
    · exact (((((sendAnswer _ _ s).trans (setTalking _ _ _)).trans (offerCall _ _ _)).trans (enterHang _ _ _)).trans
        (setLimited _ _ _)).trans (count _ _)
    · exact .refl s

theorem hangTimerEnds (n : ChannelNo) (s : State) : Acts s (Machine.hangTimerEnds n s) := by
  unfold Machine.hangTimerEnds
  split
  · exact .refl s
  · exact .refl s
  · split
    · exact enterIdle _ s
    · exact .refl s

theorem waitTimerEnds (n : ChannelNo) (id : CallId) (s : State) : Acts s (Machine.waitTimerEnds n id s) := by
  unfold Machine.waitTimerEnds
  split
  · exact .refl s
  · split
    · simp only
      refine Acts.trans ?_ (count _ _)
      split
      · exact (removeWait _ _ s).trans (sendAnswer _ _ _)
      · exact removeWait _ _ s
    · exact .refl s

/-! ## The Link Supervisors -/

theorem setLinkState (l : LinkNo) (new : LinkState) (s : State) : Acts s (Machine.setLinkState l new s) := by
  unfold Machine.setLinkState
  simp only
  split
  · exact ((Acts.link s l _).trans (.onIo _ _ fun _ hc => .flushQueue hc _ _)).trans
      (.onIo _ _ fun _ hc => .rerouteWork hc _ _)
  · exact .link s l _

theorem sendLinkChange (l : LinkNo) (reported : LinkState) (s : State) : Acts s (Machine.sendLinkChange l reported s) :=
  .onIo s _ fun _ hc => .sendMgmtNotice hc _ _ _ _ _

theorem linkUp (l : LinkNo) (s : State) : Acts s (Machine.linkUp l s) :=
  (((Acts.link s l _).trans (setLinkState _ _ _)).trans (sendLinkChange _ _ _)).trans (fullRound _)

theorem linkLost (l : LinkNo) (reported : LinkState) (s : State) : Acts s (Machine.linkLost l reported s) :=
  ((Acts.link s l _).trans (setLinkState _ _ _)).trans (sendLinkChange _ _ _)

theorem goodInTrial (l : LinkNo) (goods : Nat) (s : State) : Acts s (Machine.goodInTrial l goods s) := by
  unfold Machine.goodInTrial
  split
  · exact linkUp _ s
  · exact (Acts.link s l _).trans (setLinkState _ _ _)

theorem judgedGood (l : LinkNo) (s : State) : Acts s (Machine.judgedGood l s) := by
  unfold Machine.judgedGood
  split
  · exact .refl s
  · exact goodInTrial _ _ s
  · exact goodInTrial _ _ s
  · exact .link s l _

theorem judgedError (l : LinkNo) (s : State) : Acts s (Machine.judgedError l s) := by
  unfold Machine.judgedError
  split
  · exact .refl s
  · exact .refl s
  · exact (Acts.link s l _).trans (setLinkState _ _ _)
  · simp only
    split
    · exact (Acts.link s l _).trans (linkLost _ _ _)
    · exact .link s l _

theorem sendProbe (l : LinkNo) (s : State) : Acts s (Machine.sendProbe l s) := by
  unfold Machine.sendProbe
  refine Acts.trans ?_ (.link _ l _)
  exact .onIo s _ fun _ hc => .sendLinkLocal hc _ _ _

theorem startProbeTimer (l : LinkNo) (s : State) : Acts s (Machine.startProbeTimer l s) := .link s l _

theorem closeWindow (l : LinkNo) (s : State) : Acts s (Machine.closeWindow l s) := by
  unfold Machine.closeWindow
  split
  · exact (Acts.link s l _).trans (judgedError _ _)
  · exact .refl s

theorem probeTimerEnds (l : LinkNo) (s : State) : Acts s (Machine.probeTimerEnds l s) := by
  unfold Machine.probeTimerEnds
  split
  · simp only
    refine Acts.trans ?_ (startProbeTimer _ _)
    split
    · exact (closeWindow l s).trans (.link _ l _)
    · exact ((closeWindow l s).trans (.link _ l _)).trans (sendProbe _ _)
  · exact .refl s

theorem seedLink (s : State) (l : LinkNo) : Acts s (Machine.seedLink s l) := by
  unfold Machine.seedLink
  simp only
  have h := setLinkState l (if s.active.farSite l = 0 then .disabled else .down) s
  generalize Machine.setLinkState l _ s = t at h ⊢
  have h' := h.trans (.link t l (seededLink t.own (s.active.farSite l) l))
  split
  · exact (h'.trans (sendProbe _ _)).trans (startProbeTimer _ _)
  · exact h'

/-- A fold of operations that act only acts. -/
theorem foldl {α : Type} (f : State → α → State) (hf : ∀ s a, Acts s (f s a)) (l : List α) (s : State) :
    Acts s (l.foldl f s) := by
  induction l generalizing s with
  | nil => exact .refl s
  | cons a as ih => exact (hf s a).trans (ih _)

theorem seedAll (s : State) : Acts s (Machine.seedAll s) := foldl _ seedLink _ s

theorem takeLoopedProbe (l : LinkNo) (s : State) : Acts s (Machine.takeLoopedProbe l s) :=
  (Acts.link s l _).trans (closeWindow _ _)

theorem answerProbe (l : LinkNo) (token : BitVec 16) (s : State) : Acts s (Machine.answerProbe l token s) :=
  .onIo s _ fun _ hc => .sendLinkLocal hc _ _ _

theorem takeProbe (l : LinkNo) (hdr : Header) (s : State) : Acts s (Machine.takeProbe l hdr s) := by
  unfold Machine.takeProbe
  split
  · exact takeLoopedProbe _ s
  · split
    · exact .refl s
    · exact answerProbe _ _ s

theorem takeProbeReply (l : LinkNo) (hdr : Header) (s : State) : Acts s (Machine.takeProbeReply l hdr s) := by
  unfold Machine.takeProbeReply
  simp only
  split
  · exact count s _
  · split
    · exact ((Acts.link s l _).trans (.link _ l _)).trans (judgedGood _ _)
    · exact (Acts.link s l _).trans (judgedError _ _)

theorem reconsiderLink (s : State) (l : LinkNo) : Acts s (Machine.reconsiderLink s l) := by
  unfold Machine.reconsiderLink
  simp only
  split
  · refine Acts.trans ?_ (seedLink _ _)
    split
    · exact linkLost _ _ s
    · exact .refl s
  · split
    · exact linkLost _ _ s
    · exact .refl s

theorem enterRunning (s : State) : Acts s (Machine.enterRunning s) :=
  ((seedAll s).trans (startRefresh _)).trans (fullRound _)

/-! ## Handling a frame -/

theorem fanOut (l : LinkNo) (h : Handle) (hdr : Header) (s : State) : Acts s (Machine.fanOut l h hdr s) := by
  unfold Machine.fanOut
  refine Acts.trans ?_ (.onIo _ _ fun _ hc => .forwardTargets hc _ _ _ _)
  split
  · exact localCopy _ _ s
  · exact .refl s

theorem sendReply (q : Request) (r : Reply) (done : Option Completion) (s : State) :
    Acts s (Machine.sendReply q r done s) :=
  .onIo s _ fun _ hc => .sendBuilt hc _ _ _ _ (fun _ _ => .placeReply hc _ _ _ _) _

end Sys2Proof.Machine.Acts
end

