-- ==== Sys2Proof/Laws/ActsKeep.lean ====
section
/-! SUPPORT. What every handling of a frame or of an expiry keeps: the fields that traffic does not move, the
frames' laws (through `Moves`), the Unit Table's law (R50), the Roam Selector's (R79) and the remote site
sets' (R112). -/

namespace Sys2Proof.Machine.Acts

variable {s t : State}

/-- Traffic and timers leave the management state as it was. -/
theorem management (h : Acts s t) : s.sameManagement t ∧ t.requests = s.requests := by
  induction h with
  | trans _ _ ih1 ih2 =>
    obtain ⟨⟨a1, a2, a3, a4, a5, a6, a7, a8, a9, a10, a11, a12⟩, a13⟩ := ih1
    obtain ⟨⟨b1, b2, b3, b4, b5, b6, b7, b8, b9, b10, b11, b12⟩, b13⟩ := ih2
    exact ⟨⟨b1.trans a1, b2.trans a2, b3.trans a3, b4.trans a4, b5.trans a5, b6.trans a6, b7.trans a7, b8.trans a8,
      b9.trans a9, b10.trans a10, b11.trans a11, b12.trans a12⟩, b13.trans a13⟩
  | _ => exact ⟨⟨rfl, rfl, rfl, rfl, rfl, rfl, rfl, rfl, rfl, rfl, rfl, rfl⟩, rfl⟩

/-- The active parameters stay. -/
theorem active (h : Acts s t) : t.active = s.active := h.management.1.2.2.2.2.1

/-- The hop limit of a set in range is a hop limit. -/
theorem hop_of_inRange {p : Params} (h : p.inRange) : hopOk p := by
  have := h.1 5 (by decide)
  simp only [paramRanges, Params.values, List.getD_cons_succ, List.getD_cons_zero] at this
  unfold hopOk
  omega

/-- No reception moves and no handed frame is taken. -/
theorem ports (h : Acts s t) (q : PortNo) :
    t.io.ports[q.val].reception = s.io.ports[q.val].reception ∧ t.io.ports[q.val].handed = s.io.ports[q.val].handed
      ∧ t.io.ports[q.val].lastEnd = s.io.ports[q.val].lastEnd := by
  induction h with
  | trans _ _ ih1 ih2 =>
    exact ⟨ih2.1.trans ih1.1, ih2.2.1.trans ih1.2.1, ih2.2.2.trans ih1.2.2⟩
  | io s io h => exact (h False False.elim).ports q
  | _ => exact ⟨rfl, rfl, rfl⟩

/-- Counters are only raised. -/
theorem counters (h : Acts s t) : countersGrow s.io.live t.io.live := by
  have same : ∀ l : List Nat, countersGrow l l := fun l => ⟨rfl, fun hb => ⟨hb, fun _ => le_refl _⟩⟩
  induction h with
  | trans _ _ ih1 ih2 =>
    refine ⟨ih2.1.trans ih1.1, fun hb => ?_⟩
    have h1 := ih1.2 hb
    have h2 := ih2.2 h1.1
    exact ⟨h2.1, fun i => (h1.2 i).trans (h2.2 i)⟩
  | io s io h => exact (h False False.elim).counters
  | count s c => exact bumpAt_grow _ _
  | _ => exact same _

/-- The pool keeps its law. -/
theorem pool (h : Acts s t) (hs : s.poolLaw) : t.poolLaw := by
  induction h with
  | trans _ _ ih1 ih2 => exact ih2 (ih1 hs)
  | io s io h => exact ((h False False.elim).pool (hs.nodup_iff.mpr List.nodup_range')).trans hs
  | _ => exact hs

/-- The queues keep their law. -/
theorem queues (h : Acts s t) (hp : s.active.inRange) (hs : s.queueLaw) : t.queueLaw := by
  induction h with
  | trans h1 _ ih1 ih2 => exact ih2 (h1.active ▸ hp) (ih1 hp hs)
  | io s io h =>
    have hm := h True fun _ => hop_of_inRange hp
    exact ⟨hm.queues trivial hs.1, hm.work trivial hs.2⟩
  | _ => exact hs

/-! ## The Unit Table (R50) -/

/-- What an insertion into a keyed table holds. -/
theorem mem_insertKeyed {α : Type} (key : α → Nat) (x : α) {l : List α} {y : α}
    (h : y ∈ insertKeyed key x l) : y = x ∨ y ∈ l := by
  induction l with
  | nil => simpa [insertKeyed] using h
  | cons z zs ih =>
    unfold insertKeyed at h
    split at h
    · simpa using h
    · split at h
      · rcases List.mem_cons.mp h with h | h
        · exact Or.inl h
        · exact Or.inr (List.mem_cons_of_mem _ h)
      · rcases List.mem_cons.mp h with h | h
        · exact Or.inr (h ▸ List.mem_cons_self ..)
        · rcases ih h with h | h
          · exact Or.inl h
          · exact Or.inr (List.mem_cons_of_mem _ h)

/-- An insertion into a keyed table keeps the keys rising. -/
theorem sorted_insertKeyed {α : Type} (key : α → Nat) (x : α) {l : List α} (h : (l.map key).Pairwise (· < ·)) :
    ((insertKeyed key x l).map key).Pairwise (· < ·) := by
  induction l with
  | nil => simp [insertKeyed]
  | cons z zs ih =>
    simp only [List.map_cons, List.pairwise_cons, List.forall_mem_map] at h
    unfold insertKeyed
    split
    · rename_i hlt
      simp only [List.map_cons, List.pairwise_cons, List.mem_cons, forall_eq_or_imp,
        List.mem_map, forall_exists_index, and_imp, forall_apply_eq_imp_iff₂]
      exact ⟨⟨hlt, fun y hy => lt_trans hlt (h.1 y hy)⟩, h.1, h.2⟩
    · split
      · rename_i heq
        simp only [List.map_cons, List.pairwise_cons, List.forall_mem_map]
        exact ⟨heq ▸ h.1, h.2⟩
      · simp only [List.map_cons, List.pairwise_cons, List.forall_mem_map]
        refine ⟨fun y hy => ?_, ih h.2⟩
        rcases mem_insertKeyed key x hy with rfl | hy
        · omega
        · exact h.1 y hy

/-- An insertion of a new key into a keyed table adds one entry. -/
theorem perm_insertKeyed {α : Type} (key : α → Nat) (x : α) {l : List α} (h : ∀ y ∈ l, key y ≠ key x) :
    (insertKeyed key x l).Perm (x :: l) := by
  induction l with
  | nil => exact List.Perm.refl _
  | cons z zs ih =>
    unfold insertKeyed
    split
    · exact List.Perm.refl _
    · rw [if_neg fun he => h z (List.mem_cons_self ..) he.symm]
      exact ((ih fun y hy => h y (List.mem_cons_of_mem _ hy)).cons z).trans (List.Perm.swap _ _ _)

/-- The law of a list of records. -/
def unitsOk (l : List Record) : Prop :=
  (l.map Record.slot).Pairwise (· < ·) ∧ (∀ r ∈ l, r.slot < 256) ∧ (l.map Record.unit).Nodup

theorem unitsOk_filter {l : List Record} (h : unitsOk l) (p : Record → Bool) : unitsOk (l.filter p) :=
  ⟨h.1.sublist (List.filter_sublist.map _), fun r hr => h.2.1 r (List.mem_of_mem_filter hr),
    h.2.2.sublist (List.filter_sublist.map _)⟩

theorem unitsOk_map {l : List Record} (h : unitsOk l) (f : Record → Record)
    (hf : ∀ r ∈ l, (f r).slot = r.slot ∧ (f r).unit = r.unit) : unitsOk (l.map f) := by
  have h1 : (l.map f).map Record.slot = l.map Record.slot := by
    rw [List.map_map]; exact List.map_congr_left fun r hr => (hf r hr).1
  have h2 : (l.map f).map Record.unit = l.map Record.unit := by
    rw [List.map_map]; exact List.map_congr_left fun r hr => (hf r hr).2
  refine ⟨h1 ▸ h.1, fun r hr => ?_, h2 ▸ h.2.2⟩
  obtain ⟨x, hx, rfl⟩ := List.mem_map.mp hr
  exact (hf x hx).1 ▸ h.2.1 x hx

theorem unitsOk_insert {l : List Record} (h : unitsOk l) (r : Record) (hu : ∀ x ∈ l, x.unit ≠ r.unit)
    (hs : ∀ x ∈ l, x.slot ≠ r.slot) (hr : r.slot < 256) : unitsOk (insertKeyed Record.slot r l) := by
  refine ⟨sorted_insertKeyed _ _ h.1, fun x hx => ?_, ?_⟩
  · rcases mem_insertKeyed _ _ hx with rfl | hx
    · exact hr
    · exact h.2.1 x hx
  · rw [((perm_insertKeyed Record.slot r hs).map Record.unit).nodup_iff]
    simp only [List.map_cons, List.nodup_cons, List.mem_map, not_exists, not_and]
    exact ⟨hu, h.2.2⟩

/-- Two records of one slot are one record. -/
theorem slot_unique {l : List Record} (h : (l.map Record.slot).Pairwise (· < ·)) {x y : Record} (hx : x ∈ l)
    (hy : y ∈ l) (he : x.slot = y.slot) : x = y := by
  have hn : (l.map Record.slot).Nodup := h.imp fun h => Nat.ne_of_lt h
  exact List.inj_on_of_nodup_map hn hx hy he

/-- The Unit Table keeps its law. -/
theorem units (h : Acts s t) (hs : s.unitLaw) : t.unitLaw := by
  induction h with
  | trans _ _ ih1 ih2 => exact ih2 (ih1 hs)
  | touch s u f hf =>
    refine unitsOk_map hs _ fun r hr => ?_
    split
    · rename_i he
      have := hf r hr (by simpa using he)
      exact ⟨this.1, this.2.1⟩
    · exact ⟨rfl, rfl⟩
  | remove s u => exact unitsOk_filter hs _
  | insert s r hu hsl hr _ => exact unitsOk_insert hs r hu hsl hr
  | reclaim s x r hx hu hsl _ =>
    refine unitsOk_insert (unitsOk_filter hs _) r (fun y hy => hu y (List.mem_of_mem_filter hy)) ?_
      (hsl ▸ hs.2.1 x hx)
    intro y hy he
    have h1 := List.mem_filter.mp hy
    have := slot_unique hs.1 h1.1 hx (he.trans hsl)
    simp [this] at h1
  | _ => exact hs

/-- The Roam Selector keeps its law. -/
theorem roams (h : Acts s t) (hp : s.active.inRange) (hs : s.roamLaw) : t.roamLaw := by
  induction h with
  | trans h1 _ ih1 ih2 => exact ih2 (h1.active ▸ hp) (ih1 hp hs)
  | touch s u f hf =>
    intro r hr
    obtain ⟨x, hx, rfl⟩ := List.mem_map.mp hr
    split
    · rename_i he
      exact (hf x hx (by simpa using he)).2.2 hp (hs x hx)
    · exact hs x hx
  | remove s u => exact fun r hr => hs r (List.mem_of_mem_filter hr)
  | insert s r _ _ _ hr =>
    intro y hy
    rcases mem_insertKeyed _ _ hy with rfl | hy
    · exact hr
    · exact hs y hy
  | reclaim s x r _ _ _ hr =>
    intro y hy
    rcases mem_insertKeyed _ _ hy with rfl | hy
    · exact hr
    · exact hs y (List.mem_of_mem_filter hy)
  | _ => exact hs

/-- The remote site sets keep their law. -/
theorem remotes (h : Acts s t) (hs : s.remoteLaw) : t.remoteLaw := by
  induction h with
  | trans _ _ ih1 ih2 => exact ih2 (ih1 hs)
  | members s g f =>
    intro e he
    obtain ⟨x, hx, rfl⟩ := List.mem_map.mp he
    have := hs x hx
    split <;> exact this
  | remote s f hf =>
    intro e he
    obtain ⟨x, hx, rfl⟩ := List.mem_map.mp he
    exact hf x hx (hs x hx)
  | _ => exact hs

end Sys2Proof.Machine.Acts
end

