-- ==== Sys2Proof/Laws/Engine.lean ====
section
/-! SUPPORT. What the Forwarding Engine does to its own work, said once (R38, R39): placing and releasing leave it
alone, and each of the engine's operations has one lemma that gives the work it leaves. -/

namespace Sys2Proof.Machine

/-! ## Placing and releasing leave the work alone -/

theorem answerUnsent_engine (c : Option Completion) (io : Io) : (answerUnsent c io).engine = io.engine := by
  unfold answerUnsent answerRestart
  split
  · rfl
  · split <;> rfl
  · rfl

theorem startTransmission_engine (p : PortNo) (io : Io) : (startTransmission p io).engine = io.engine := by
  unfold startTransmission
  split <;> rfl

theorem dropReferenceQuietly_engine (reserve : Nat) (h : Handle) (io : Io) :
    (dropReferenceQuietly reserve h io).engine = io.engine := by
  unfold dropReferenceQuietly
  split
  · rfl
  · split
    · exact answerUnsent_engine _ io
    · rfl

theorem placeEntryWith_engine {drop : Handle → Io → Io} (hd : ∀ h io, (drop h io).engine = io.engine) (p : PortNo)
    (e : Entry) (io : Io) : (placeEntryWith drop p e io).engine = io.engine := by
  unfold placeEntryWith placeWithRoom
  simp only
  split
  · split
    · exact startTransmission_engine p _
    · rfl
  · split
    · rfl
    · split
      · rfl
      · exact hd _ _

variable (c : Net)

theorem sendPoolExhausted_engine (io : Io) : (sendPoolExhausted c io).engine = io.engine := by
  have site : ∀ (cls : FrameClass) (h : Handle) (n : SiteId) (io : Io),
      (placeForSiteWith (dropReferenceQuietly c.active.bufferReserve) c cls h n io).engine = io.engine := by
    intro cls h n io
    unfold placeForSiteWith
    split
    · rfl
    · exact placeEntryWith_engine (dropReferenceQuietly_engine _) _ _ _
  have all : ∀ (cls : FrameClass) (h : Handle) (ns : List SiteId) (io : Io),
      (placeForSitesWith (dropReferenceQuietly c.active.bufferReserve) c cls h ns io).engine = io.engine := by
    intro cls h ns
    induction ns with
    | nil => exact fun _ => rfl
    | cons n ns ih => exact fun io => (ih _).trans (site cls h n io)
  unfold sendPoolExhausted
  split
  · rfl
  · exact (dropReferenceQuietly_engine _ _ _).trans (all _ _ _ _)

theorem dropReference_engine (h : Handle) (io : Io) : (dropReference c h io).engine = io.engine := by
  unfold dropReference
  simp only
  split
  · exact (sendPoolExhausted_engine c _).trans (dropReferenceQuietly_engine _ _ _)
  · exact dropReferenceQuietly_engine _ _ _

theorem placeEntry_engine (p : PortNo) (e : Entry) (io : Io) : (placeEntry c p e io).engine = io.engine :=
  placeEntryWith_engine (dropReference_engine c) p e io

theorem flushQueue_engine (l : LinkNo) (io : Io) : (flushQueue c l io).engine = io.engine := by
  have drops : ∀ (p : PortNo) (n : Nat) (io : Io), (countPortTimes p .queueDrops n io).engine = io.engine := by
    intro p n
    induction n with
    | zero => exact fun _ => rfl
    | succ n ih => exact fun io => ih _
  have gone : ∀ (es : List Entry) (io : Io),
      (es.foldl (fun io e => dropReference c e.handle io) io).engine = io.engine := by
    intro es
    induction es with
    | nil => exact fun _ => rfl
    | cons e es ih => exact fun io => (ih _).trans (dropReference_engine c _ _)
  exact (gone _ _).trans (drops _ _ _)

/-! ## What each operation of the engine leaves -/

/-- The next placement of a frame: its entry goes on the queue of the lowest link with a group left, and that group
alone is done. -/
theorem placeGroup_some {f : Fanout} {l : LinkNo} (h : f.next? = some l) (io : Io) :
    placeGroup c f io =
      ({ f with groups := f.groups.set l.val 0 }, placeEntry c (linkPort l) (f.entry c l) io) := by
  unfold placeGroup
  rw [h]

theorem placeGroup_engine (f : Fanout) (io : Io) : (placeGroup c f io).2.engine = io.engine := by
  unfold placeGroup
  split
  · rfl
  · exact placeEntry_engine c _ _ _

theorem placeGroups_engine : ∀ (n : Nat) (f : Fanout) (io : Io), (placeGroups c n f io).2.engine = io.engine
  | 0, _, _ => rfl
  | n + 1, f, io => (placeGroups_engine n _ _).trans (placeGroup_engine c f io)

/-- A turn of the engine leaves the oldest frame with its next group done, or without it after its last. -/
theorem engineTurn_work {f : Fanout} {rest : List Fanout} {io : Io} (h : io.engine.work = f :: rest) :
    (engineTurn c io).engine =
      { io.engine with
        work := if (placeGroup c f io).1.isDone then rest else (placeGroup c f io).1 :: rest } := by
  unfold engineTurn
  rw [h]
  simp only
  split
  · simp only [dropReference_engine, placeGroup_engine]
  · simp only [placeGroup_engine]

/-- A grouped frame that is taken up uses the next number placed at once, as 0 behind a frame left from before, and
joins the work with what that number leaves, if anything. -/
theorem takeUp_engine (f : Fanout) (io : Io) (hf : f.isDone = false) :
    (takeUp c f io).engine =
      { atOnce := io.engine.atOnce.tail
        work :=
          let n := if io.engine.work.isEmpty then io.engine.atOnce.headD 4 else 0
          let g := (placeGroups c n f { io with engine := { io.engine with atOnce := io.engine.atOnce.tail } }).1
          if g.isDone then io.engine.work else io.engine.work ++ [g] } := by
  unfold takeUp
  simp only [hf, Bool.false_eq_true, if_false]
  generalize (if io.engine.work.isEmpty = true then _ else _) = n
  split
  · exact placeGroups_engine c n f _
  · show Engine.mk _ _ = _
    simp only [placeGroups_engine]

/-- A frame whose link is lost: its group for that link is spread over the groups of the new routes' links. -/
theorem Fanout.reroute_groups (l m : LinkNo) (f : Fanout) :
    (f.reroute c l).groups[m.val] =
      (if m = l then 0 else f.groups[m.val]) ||| c.sitesVia f.groups[l.val] m := by
  unfold Fanout.reroute
  simp only [Vector.getElem_ofFn]
  congr 1
  rw [Vector.getElem_set]
  simp only [Fin.ext_iff, eq_comm]

/-- The loss of a link leaves the frames routed anew, without those that have no site left. -/
theorem rerouteWork_engine (l : LinkNo) (io : Io) :
    (rerouteWork c l io).engine =
      { io.engine with work := (io.engine.work.map (Fanout.reroute c l)).filter fun f => !f.isDone } := by
  have gone : ∀ (fs : List Fanout) (io : Io),
      (fs.foldl (fun io f => dropReference c f.handle io) io).engine = io.engine := by
    intro fs
    induction fs with
    | nil => exact fun _ => rfl
    | cons f fs ih => exact fun io => (ih _).trans (dropReference_engine c _ _)
  exact (gone _ _).trans (by simp only [countWork_engine])

end Sys2Proof.Machine
end

