-- ==== Sys2Proof/Laws/Handed.lean ====
section
/-! SUPPORT. Taking the oldest frame handed on at a port and sending frames do not meet: an operation that builds,
places or releases frames gives the same whether the frame has been taken before it or is taken after it (R22, R53).
So a unit notice may be read as taken before its frame. -/

namespace Sys2Proof.Machine

/-- The oldest frame handed on at a port has been taken. -/
def takenAt (p : PortNo) (io : Io) : Io := modPort p (fun y => { y with handed := y.handed.tail }) io

/-- An operation on frames gives the same before and after a handed frame is taken. -/
def PassesTaking (p : PortNo) (f : Io → Io) : Prop := ∀ io, f (takenAt p io) = takenAt p (f io)

theorem PassesTaking.comp {p : PortNo} {f g : Io → Io} (hf : PassesTaking p f) (hg : PassesTaking p g) :
    PassesTaking p fun io => f (g io) := fun io =>
  (congrArg f (hg io)).trans (hf (g io))

theorem PassesTaking.foldl {α : Type} {p : PortNo} {f : Io → α → Io} (hf : ∀ a, PassesTaking p fun io => f io a) :
    ∀ l : List α, PassesTaking p fun io => l.foldl f io
  | [] => fun _ => rfl
  | a :: l => fun io => by
    have := hf a io
    simp only at this
    simp only [List.foldl_cons, this]
    exact PassesTaking.foldl hf l _

variable (p : PortNo)

@[simp] theorem takenAt_pool (io : Io) : (takenAt p io).pool = io.pool := rfl
@[simp] theorem takenAt_restart (io : Io) : (takenAt p io).restart = io.restart := rfl
@[simp] theorem takenAt_bufferOf (h : Handle) (io : Io) : bufferOf h (takenAt p io) = bufferOf h io := rfl
@[simp] theorem takenAt_bytesOf (h : Handle) (io : Io) : bytesOf h (takenAt p io) = bytesOf h io := rfl

theorem takenAt_port (q : PortNo) (io : Io) :
    (takenAt p io).ports[q.val]
      = if p = q then { io.ports[q.val] with handed := io.ports[q.val].handed.tail } else io.ports[q.val] := by
  simp only [takenAt, modPort, Vector.getElem_set, Fin.ext_iff]
  split
  · rename_i h
    simp only [h]
  · rfl

@[simp] theorem takenAt_queue (q : PortNo) (io : Io) : (takenAt p io).ports[q.val].queue = io.ports[q.val].queue := by
  rw [takenAt_port]
  split <;> rfl

@[simp] theorem takenAt_sending (q : PortNo) (io : Io) :
    (takenAt p io).ports[q.val].sending = io.ports[q.val].sending := by
  rw [takenAt_port]
  split <;> rfl

/-- A change of a port's fields beside its handed frames passes. -/
theorem modPort_passes (q : PortNo) (f : Port → Port)
    (hf : ∀ x, f { x with handed := x.handed.tail } = { f x with handed := (f x).handed.tail }) :
    PassesTaking p (modPort q f) := by
  intro io
  have he := takenAt_port p q io
  simp only [takenAt, modPort] at he ⊢
  congr 1
  apply Vector.ext
  intro i hi
  simp only [Vector.getElem_set, he, Fin.ext_iff]
  by_cases h1 : q.val = i <;> by_cases h2 : p.val = i <;> simp_all

theorem bumpAt_passes (i : Nat) : PassesTaking p (bumpAt i) := fun _ => rfl

theorem modBuffer_passes (h : Handle) (f : Buffer → Buffer) : PassesTaking p (modBuffer h f) := fun _ => rfl

theorem startTransmission_passes (q : PortNo) : PassesTaking p (startTransmission q) := by
  intro io
  unfold startTransmission
  rw [takenAt_queue]
  cases io.ports[q.val].queue with
  | nil => rfl
  | cons e rest =>
    exact modPort_passes p q
      (fun x => { x with queue := rest, sending := some { entry := e, frame := wireFrame (bytesOf e.handle io) e } })
      (fun _ => rfl) io

theorem answerUnsent_passes (d : Option Completion) : PassesTaking p (answerUnsent d) := by
  intro io
  unfold answerUnsent answerRestart
  rw [takenAt_restart]
  rcases d with _ | _ | _
  · rfl
  · rfl
  · cases io.restart <;> rfl

theorem releaseBuffer_passes (reserve : Nat) (b : Buffer) : PassesTaking p (releaseBuffer reserve b) := by
  intro io
  unfold releaseBuffer
  rw [answerUnsent_passes]
  rfl

theorem dropReferenceQuietly_passes (reserve : Nat) (h : Handle) : PassesTaking p (dropReferenceQuietly reserve h) := by
  intro io
  unfold dropReferenceQuietly
  rw [takenAt_bufferOf]
  cases bufferOf h io with
  | none => rfl
  | some b =>
    simp only
    split
    · exact releaseBuffer_passes p reserve b io
    · rfl

/-- The entry of a queue changes with the handed frames left as they are. -/
theorem modQueue_passes (q : PortNo) (g : List Entry → List Entry) :
    PassesTaking p (modPort q fun x => { x with queue := g x.queue }) := modPort_passes p q _ fun _ => rfl

theorem placeEntryWith_passes {drop : Handle → Io → Io} (hd : ∀ h, PassesTaking p (drop h)) (q : PortNo) (e : Entry) :
    PassesTaking p (placeEntryWith drop q e) := by
  intro io
  have queued (g : List Entry → List Entry) (io : Io) :
      addReference e.handle (modPort q (fun x => { x with queue := g x.queue }) (takenAt p io))
        = takenAt p (addReference e.handle (modPort q (fun x => { x with queue := g x.queue }) io)) :=
    congrArg (addReference e.handle) (modQueue_passes p q g io)
  unfold placeEntryWith placeWithRoom
  simp only [takenAt_queue, takenAt_sending]
  split
  · rw [queued]
    split
    · exact startTransmission_passes p q _
    · rfl
  · cases e.cls with
    | routine => rfl
    | priority =>
      cases removeNewestRoutine io.ports[q.val].queue with
      | none => rfl
      | some x =>
        exact
          (congrArg (drop x.1.handle) (queued (fun _ => insertEntry e x.2) (countPort q .displaced io))).trans
            (hd x.1.handle _)

variable (c : Net)

theorem placeForSiteWith_passes {drop : Handle → Io → Io} (hd : ∀ h, PassesTaking p (drop h)) (cls : FrameClass)
    (h : Handle) (site : SiteId) : PassesTaking p (placeForSiteWith drop c cls h site) := by
  intro io
  unfold placeForSiteWith
  split
  · rfl
  · exact placeEntryWith_passes p hd _ _ io

theorem placeForSitesWith_passes {drop : Handle → Io → Io} (hd : ∀ h, PassesTaking p (drop h)) (cls : FrameClass)
    (h : Handle) (sites : List SiteId) : PassesTaking p (placeForSitesWith drop c cls h sites) :=
  PassesTaking.foldl (fun n => placeForSiteWith_passes p c hd cls h n) sites

theorem sendPoolExhausted_passes : PassesTaking p (sendPoolExhausted c) := by
  intro io
  have quietly := dropReferenceQuietly_passes p c.active.bufferReserve
  unfold sendPoolExhausted
  rw [takenAt_pool]
  cases io.pool.free with
  | nil => rfl
  | cons h rest =>
    let built : Io :=
      modBuffer h (fun b => { b with bytes := mgmtNoticeBytes c 3#8 0 0 [] })
        (takeBuffer h rest { io with pool := { io.pool with noticePending := false } })
    exact
      (congrArg (dropReferenceQuietly c.active.bufferReserve h)
          (placeForSitesWith_passes p c quietly .priority h c.managementSites built)).trans
        (quietly h _)

theorem dropReference_passes (h : Handle) : PassesTaking p (dropReference c h) := by
  intro io
  have last : isLastReference h (takenAt p io) = isLastReference h io := rfl
  unfold dropReference
  simp only [last, dropReferenceQuietly_passes p c.active.bufferReserve h io, takenAt_pool]
  split
  · exact sendPoolExhausted_passes p c _
  · rfl

theorem placeEntry_passes (q : PortNo) (e : Entry) : PassesTaking p (placeEntry c q e) :=
  placeEntryWith_passes p (dropReference_passes p c) q e

theorem placeForSites_passes (cls : FrameClass) (h : Handle) (sites : List SiteId) :
    PassesTaking p (placeForSites c cls h sites) := placeForSitesWith_passes p c (dropReference_passes p c) cls h sites

/-- The pool's answer is the same, and so is what it leaves. -/
theorem allocate_takenAt (reserve : Nat) (cls : FrameClass) (io : Io) :
    allocate reserve cls (takenAt p io)
      = ((allocate reserve cls io).1, takenAt p (allocate reserve cls io).2) := by
  have ne : noteExcess reserve (takenAt p io) = takenAt p (noteExcess reserve io) := rfl
  have em (io : Io) : noteEmpty (takenAt p io) = takenAt p (noteEmpty io) := by
    unfold noteEmpty
    rw [takenAt_pool]
    cases io.pool.exhaustion <;> rfl
  unfold allocate
  simp only [ne, takenAt_pool]
  generalize noteExcess reserve io = io
  cases io.pool.free with
  | nil => exact congrArg (Prod.mk _) (em io)
  | cons h rest =>
    simp only
    generalize (decide (cls = .routine) && decide ((h :: rest).length ≤ reserve)) = b
    cases b <;> rfl

theorem buildFrame_takenAt (hdr : Header) (payload : List Byte) (done : Option Completion) (io : Io) :
    buildFrame c hdr payload done (takenAt p io)
      = ((buildFrame c hdr payload done io).1, takenAt p (buildFrame c hdr payload done io).2) := by
  unfold buildFrame
  rw [allocate_takenAt]
  rcases allocate c.active.bufferReserve hdr.frameClass io with ⟨_ | _ | _, io'⟩ <;> rfl

theorem sendBuilt_passes {place : Handle → Io → Io} (hp : ∀ h, PassesTaking p (place h)) (hdr : Header)
    (payload : List Byte) (done : Option Completion) : PassesTaking p (sendBuilt c hdr payload done place) := by
  intro io
  unfold sendBuilt
  rw [buildFrame_takenAt]
  rcases buildFrame c hdr payload done io with ⟨_ | h, io'⟩
  · rfl
  · exact (congrArg (dropReference c h) (hp h io')).trans (dropReference_passes p c h _)

/-! ## The unit notice -/

/-- The oldest frame handed on at a port has been taken from the state. -/
def State.taken (s : State) : State := s.onIo fun _ => takenAt p

/-- An operation on the state gives the same before and after a handed frame is taken. -/
def PassesTakingOn (f : State → State) : Prop := ∀ s, f (s.taken p) = (f s).taken p

theorem onIo_passes {f : Net → Io → Io} (hf : ∀ c, PassesTaking p (f c)) : PassesTakingOn p fun s => s.onIo f := by
  intro s
  have := hf s.net s.io
  simp only [State.taken, State.onIo] at this ⊢
  congr 1

theorem sendAccept_passes (n : ChannelNo) (u : UnitId) (g : TalkgroupId) (ch : ChannelNo) :
    PassesTakingOn p (sendAccept n u g ch) :=
  onIo_passes p fun c => sendBuilt_passes p c (fun _ => placeEntry_passes p c _ _) _ _ _

theorem sendCancel_passes (u : UnitId) (id : Nat) (reason : Byte) (site : SiteId) :
    PassesTakingOn p (sendCancel u id reason site) :=
  onIo_passes p fun c =>
    sendBuilt_passes p c (fun h => placeForSiteWith_passes p c (dropReference_passes p c) _ h site) _ _ _

theorem sendMembership_passes (subcode : Byte) (g : TalkgroupId) : PassesTakingOn p (sendMembership subcode g) := by
  intro s
  refine onIo_passes p (f := fun c => sendToSites c (membershipHeader subcode g (advanceSequence s)) [] c.routedSites)
    (fun c => ?_) (advanceSequence s)
  unfold sendToSites
  intro io
  split
  · rfl
  · exact sendBuilt_passes p c (fun h => placeForSites_passes p c _ h _) _ _ _ io

theorem memberEntry_passes (g : TalkgroupId) : PassesTakingOn p (memberEntry g) := by
  intro s
  unfold memberEntry
  show (match findTalkgroup g s.talkgroups with | none => _ | some e => _) = _
  cases findTalkgroup g s.talkgroups with
  | none => rfl
  | some e =>
    simp only
    split
    · exact
        sendMembership_passes p 1#8 g
          { s with talkgroups := modTalkgroup g (fun e => { e with members := e.members + 1 }) s.talkgroups }
    · rfl

theorem memberExit_passes (g : TalkgroupId) : PassesTakingOn p (memberExit g) := by
  intro s
  unfold memberExit
  show (match findTalkgroup g s.talkgroups with | none => _ | some e => _) = _
  cases findTalkgroup g s.talkgroups with
  | none => rfl
  | some e =>
    simp only
    split
    · exact
        sendMembership_passes p 2#8 g
          { s with talkgroups := modTalkgroup g (fun e => { e with members := e.members - 1 }) s.talkgroups }
    · rfl

theorem deleteRecord_passes (u : UnitId) : PassesTakingOn p (deleteRecord u) := by
  intro s
  have hr : (s.taken p).record u = s.record u := rfl
  unfold deleteRecord exitReport
  rw [hr]
  cases s.record u with
  | none => rfl
  | some r =>
    simp only
    split
    · exact congrArg (fun s => (removeRecord u s).count .recordsDeleted) (memberExit_passes p r.talkgroup s)
    · rfl

theorem reviveByNotice_passes (n : ChannelNo) (r : Record) : PassesTakingOn p (reviveByNotice n r) := by
  intro s
  have hg : findTalkgroup r.talkgroup (s.taken p).talkgroups = findTalkgroup r.talkgroup s.talkgroups := rfl
  unfold reviveByNotice reviveRecord
  rw [hg]
  cases findTalkgroup r.talkgroup s.talkgroups with
  | none => exact deleteRecord_passes p r.unit s
  | some g =>
    let served : State := enterPhase r.unit (.served g.channel (freshActivity s) none) s
    exact
      (congrArg (sendAccept n r.unit r.talkgroup g.channel) (memberEntry_passes p r.talkgroup served)).trans
        (sendAccept_passes p n r.unit r.talkgroup g.channel (memberEntry r.talkgroup served))

theorem radioReturned_passes (u : UnitId) (ch : ChannelNo) (ho : Handover) :
    PassesTakingOn p (radioReturned u ch ho) := by
  intro s
  unfold radioReturned
  exact
    congrArg (fun s => (startRoamHold u s).count .roamsFailed)
      (sendCancel_passes p u ho.id 4#8 ho.partner
        (enterPhase u (.served ch (freshActivity s) none) s))

theorem noticeByState_passes (n : ChannelNo) (k : Kind) (r : Record) : PassesTakingOn p (noticeByState n k r) := by
  intro s
  unfold noticeByState
  cases r.phase with
  | served _ _ _ => simp only; split <;> rfl
  | proposing _ _ _ => simp only; split <;> rfl
  | departing ch ho sent =>
    simp only
    split
    · exact radioReturned_passes p r.unit ch ho s
    · rfl
  | arriving _ => rfl
  | forward _ => rfl
  | lost _ _ =>
    simp only
    split
    · exact reviveByNotice_passes p n r s
    · rfl

/-- The unit notice of a frame gives the same whether its frame has been taken or not. -/
theorem unitNotice_passes (n : ChannelNo) (u : UnitId) (k : Kind) (marker : Bool) :
    PassesTakingOn p (unitNotice n u k marker) := by
  intro s
  have hr : (s.taken p).record u = s.record u := rfl
  unfold unitNotice
  rw [hr]
  cases s.record u with
  | none => rfl
  | some r =>
    cases marker
    · exact noticeByState_passes p n k r s
    · exact noticeByState_passes p n k r (modUnit u (setEmergency s) s)

/-- A frame from a channel port is handled as if its unit notice came first, then its taking, and then its owner's
action. -/
theorem takeFromChannel_of_head {n : ChannelNo} {k : Kind} {s : State} {x : Handed}
    (run : Handle → Header → List Byte → State → State) (hx : headHanded (chanPort n) s = some x)
    (hk : (handedHeader x s).isKind k = true) :
    takeFromChannel n k run s
      = (run x.handle (handedHeader x s) (handedPayload x s)
          ((unitNotice n (handedHeader x s).unit.toNat k (handedHeader x s).emergency s).taken (chanPort n))).onIo
            fun c => dropReference c x.handle := by
  unfold takeFromChannel takeHanded
  rw [hx]
  simp only [ofKind, hk, if_true]
  rw [← unitNotice_passes]
  rfl

end Sys2Proof.Machine
end

