-- ==== Sys2Proof/Laws/Management.lean ====
section
/-! SUPPORT. What the Management Agent does with the head of its queue: a request carried out whole, and the loads
and WRITE PARAMETERS taken entry by entry (R154 to R158). -/

namespace Sys2Proof.Machine

variable {s : State} {q : Request} {rest : List Request} {code : Byte} {isCode : Byte → Bool}

/-- No restart is pending while the agent serves a request. -/
theorem restartPending_of_serves (h : s.serves q rest code) : restartPending s = false := by
  simp [restartPending, h.2.2]

/-- A request of the command's code is carried out and leaves the queue. -/
theorem serveHead_of_serves (run : Request → State → State) (h : s.serves q rest code) (hc : isCode code = true) :
    serveHead isCode run s = { run q s with requests := rest } := by
  simp [serveHead, h.1, h.2.1, hc, restartPending_of_serves h]

/-- A listed request of a wrong length is answered BAD VALUE. -/
theorem serveListed_of_length (size : Nat) (run : Request → State → Option Reply × State) (h : s.serves q rest code)
    (hc : isCode code = true) (hl : q.fields.length ≠ 1 + size * (byteAt q.fields 0).toNat) :
    serveListed isCode size run s = finishHead q rest Reply.badValue s := by
  simp [serveListed, h.1, h.2.1, hc, restartPending_of_serves h, hl]

/-- A listed request that goes on stays at the head. -/
theorem serveListed_of_none (size : Nat) {run : Request → State → Option Reply × State} (h : s.serves q rest code)
    (hc : isCode code = true) (hl : q.fields.length = 1 + size * (byteAt q.fields 0).toNat) {t : State}
    (hr : run q s = (none, t)) : serveListed isCode size run s = t := by
  simp only [serveListed, h.1, h.2.1, hc, restartPending_of_serves h]
  simp [hl, hr]

/-- A listed request that has ended is answered and leaves the queue. -/
theorem serveListed_of_some (size : Nat) {run : Request → State → Option Reply × State} (h : s.serves q rest code)
    (hc : isCode code = true) (hl : q.fields.length = 1 + size * (byteAt q.fields 0).toNat) {r : Reply} {t : State}
    (hr : run q s = (some r, t)) : serveListed isCode size run s = finishHead q rest r t := by
  simp only [serveListed, h.1, h.2.1, hc, restartPending_of_serves h]
  simp [hl, hr]

/-- A list has as many entries as its count says. -/
@[simp] theorem length_entriesOf (size : Nat) : (entriesOf size q).length = (byteAt q.fields 0).toNat := by
  simp [entriesOf]

/-- The entries of a list stand one behind another after the count. -/
theorem getElem?_entriesOf (size : Nat) {k : Nat} (h : k < (byteAt q.fields 0).toNat) :
    (entriesOf size q)[k]? = some ((q.fields.drop (1 + size * k)).take size) := by
  simp [entriesOf, h]

/-! ## One entry of a load -/

section
variable (size : Nat) {check : List Byte → State → Option Byte} {take : List Byte → State → State} {e : List Byte}

/-- A load with no entry left is answered DONE. -/
theorem load_of_end (h : (byteAt q.fields 0).toNat ≤ s.progress.taken) :
    load size check take q s = (some (loadReply (byteAt q.fields 0).toNat s.progress.taken none), s) := by
  have : (entriesOf size q)[s.progress.taken]? = none := List.getElem?_eq_none (by simpa using h)
  simp [load, this]

/-- An entry that fails a check is not taken and ends the load. -/
theorem load_of_failed {cause : Byte} (he : (entriesOf size q)[s.progress.taken]? = some e)
    (hc : check e s = some cause) :
    load size check take q s = (some (loadReply (byteAt q.fields 0).toNat s.progress.taken (some cause)), s) := by
  simp [load, he, hc]

/-- An entry that is taken with entries left behind it leaves the load at the head with its progress. -/
theorem load_of_taken (he : (entriesOf size q)[s.progress.taken]? = some e) (hc : check e s = none)
    (hk : s.progress.taken + 1 < (byteAt q.fields 0).toNat) :
    load size check take q s
      = (none, { take e s with progress := { (take e s).progress with taken := s.progress.taken + 1 } }) := by
  simp [load, he, hc, hk]

/-- The last entry that is taken ends the load. -/
theorem load_of_last (he : (entriesOf size q)[s.progress.taken]? = some e) (hc : check e s = none)
    (hk : s.progress.taken + 1 = (byteAt q.fields 0).toNat) :
    load size check take q s
      = (some (loadReply (byteAt q.fields 0).toNat (byteAt q.fields 0).toNat none), take e s) := by
  simp [load, he, hc, hk]

end

/-! ## One pair of WRITE PARAMETERS -/

section
variable {e : List Byte}

/-- A list of pairs with no pair left is answered. -/
theorem writeParams_of_end (h : (byteAt q.fields 0).toNat ≤ s.progress.taken) :
    writeParams q s
      = (some (writeReply (byteAt q.fields 0).toNat s.progress.taken s.progress.clamped), s) := by
  have : (entriesOf 3 q)[s.progress.taken]? = none := List.getElem?_eq_none (by simpa using h)
  simp [writeParams, this]

/-- A pair with a bad number is not written and ends the list. -/
theorem writeParams_of_bad (he : (entriesOf 3 q)[s.progress.taken]? = some e)
    (hn : ¬(1 ≤ (byteAt e 0).toNat ∧ (byteAt e 0).toNat ≤ 29)) :
    writeParams q s
      = (some (writeReply (byteAt q.fields 0).toNat s.progress.taken s.progress.clamped), s) := by
  simp only [writeParams, he]
  simp [show ¬(1 ≤ (byteAt e 0).toNat ∧ (byteAt e 0).toNat ≤ 29) from hn]

/-- A pair with a good number is written, and the list goes on or, with the last pair, is answered. -/
theorem writeParams_of_good (he : (entriesOf 3 q)[s.progress.taken]? = some e)
    (hn : 1 ≤ (byteAt e 0).toNat ∧ (byteAt e 0).toNat ≤ 29) :
    let n := (byteAt e 0).toNat
    let v := signed16 (fieldAt e 1 2)
    let clamped := if clampParam n v = v then s.progress.clamped else s.progress.clamped + 1
    let staged := s.staged.write n (clampParam n v)
    writeParams q s
      = if s.progress.taken + 1 < (byteAt q.fields 0).toNat then
          (none, { s with staged := staged, progress := { taken := s.progress.taken + 1, clamped := clamped } })
        else
          (some (writeReply (byteAt q.fields 0).toNat (s.progress.taken + 1) clamped), { s with staged := staged }) := by
  simp only [writeParams, he, length_entriesOf]
  simp [hn.1, hn.2]

end

end Sys2Proof.Machine
end

