-- ==== Sys2Proof/Tests/Slice0.lean ====
section
/-! SUPPORT. The model's own tests: the checks of WellFormed, the worked numbers of the spec, one or two steps
of each command, and for every statement that has hypotheses a state that meets them together. The expected
values are computed by hand from the spec's text. -/

namespace Sys2Proof.Tests

-- One test after another: each is a kernel evaluation, and many at once take a thread's stack each.
set_option Elab.async false

open Sys2Proof.Machine

/-! ## Well-formed commands -/

/-- Unit ids run from 1 to 16 777 214 (R10). -/
theorem test_wellFormed_units :
    (Instr.pollTimerExpiry 0).wellFormed = false ∧ (Instr.pollTimerExpiry 16777215).wellFormed = false
      ∧ (Instr.pollTimerExpiry 1).wellFormed = true ∧ (Instr.pollTimerExpiry 16777214).wellFormed = true := by decide

/-- The unit check stands in each command that names a unit. -/
theorem test_wellFormed_unit_commands :
    [Instr.activityTimerExpiry 0, .pollReplyWaitExpiry 0, .lostHoldExpiry 0, .roamHoldExpiry 0, .replyWaitExpiry 0,
      .departureExpiry 0, .arrivalExpiry 0, .forwardHoldExpiry 0].all (fun c => !c.wellFormed) = true := by decide

/-- Site ids run from 1 to 32 (spec/00_scope.md, section 5.2). -/
theorem test_wellFormed_sites :
    (Instr.ageTimerExpiry 0).wellFormed = false ∧ (Instr.ageTimerExpiry 33).wellFormed = false
      ∧ (Instr.ageTimerExpiry 32).wellFormed = true := by decide

/-- A call id has 16 bits (R127). -/
theorem test_wellFormed_calls :
    (Instr.waitTimerExpiry 0 65536).wellFormed = false ∧ (Instr.waitTimerExpiry 0 65535).wellFormed = true := by decide

/-! ## Worked numbers -/

/-- R144: site 7's LK3 is seeded with 1 803; its tokens go on 3 607, 7 215, 14 430 (and 28 860). -/
theorem test_token_sequence :
    seedToken 7 3 = 1803#16 ∧ advanceToken 1803#16 = 3607#16 ∧ advanceToken 3607#16 = 7215#16
      ∧ advanceToken 7215#16 = 14430#16 ∧ advanceToken 14430#16 = 28860#16 := by decide

/-- R2: the check value of the generator over the digits 1 to 9 (0x29B1, the generator's published value). -/
theorem test_crc_check_value :
    crc16 [0x31, 0x32, 0x33, 0x34, 0x35, 0x36, 0x37, 0x38, 0x39] = 0x29B1#16 := by decide +kernel

/-- R75: the quotient is truncated toward zero on both sides. -/
theorem test_filter_truncates :
    filterStep 4 (-90) (-1360) = -1380 ∧ filterStep 1 (-90) (-1430) = -1430 ∧ filterStep 1 (-90) (-1450) = -1450
      ∧ filterStep 1 (-90) (-1420) = -1421 := by decide

/-- R6: a register's header as bytes: kind, flags, origin, destination, target set, unit, talkgroup, call id,
subcode, tag, channel, payload length. -/
theorem test_header_layout :
    encodeHeader
      { Header.blank .hoRequest with
        priority := true
        emergency := true
        hop := 6
        origin := 7
        destination := 12
        targets := 0x80000001
        unit := 0x010203
        talkgroup := 310
        callId := 0x0708
        subcode := 4
        tag := 0xABCD
        channel := 5
        payloadLength := 200 }
      = [48, 0xC6, 7, 12, 0x80, 0, 0, 1, 1, 2, 3, 1, 54, 7, 8, 4, 0xAB, 0xCD, 5, 200] := by decide

/-- R7: a level of 10 is read as 20 and one of 200 as 140; a site id above 32 is read as 0. -/
theorem test_payload_readings :
    levelOf 10 = -20 ∧ levelOf 200 = -140 ∧ levelOf 85 = -85 ∧ payloadSite 33 = 0 ∧ payloadSite 32 = 32
      ∧ measurePairs [85, 9, 3, 90, 4, 95] = [(3, -90), (4, -95)] := by decide

/-- R158: 6 is written as 4, 3 as 4, 7 as 8; values outside a range become its ends. -/
theorem test_clamps :
    clampParam 25 6 = 4 ∧ clampParam 25 3 = 4 ∧ clampParam 25 7 = 8 ∧ clampParam 6 0 = 1 ∧ clampParam 6 16 = 15
      ∧ clampParam 11 (-131) = -130 ∧ clampParam 23 3601 = 3600 := by decide

/-! ## A small site -/

/-- The parameters of site 7 with LK0 to site 12 and LK1 to site 9. -/
def params : Params :=
  { Params.defaults with ownSite := 7, farSite0 := 12, farSite1 := 9, farSite3 := 3, bufferReserve := 2 }

/-- A link in a state with a far site. -/
def link (state : LinkState) (far : SiteId) (token : BitVec 16) (timer : Timer) : Link :=
  { state := state
    farSite := far
    token := token
    advance := false
    outstanding := false
    timer := timer
    errors := 0
    goods := 0
    looped := false }

/-- A Site Table entry. -/
def entry (n : SiteId) (l : LinkNo) (management : Bool) : SiteEntry :=
  { site := n
    primary := some l
    alternate := none
    management := management
    lastSequence := none
    ageTimer := none
    announcedPeriod := none }

/-- Talkgroup 310 on channel 2, routine, and 402 on channel 3, priority without a hang time. -/
def group310 : TalkgroupEntry :=
  { id := 310, channel := 2, cls := .routine, talkLimit := 60, hangTime := 20, members := 1, remote := siteBit 12 }
/-- Talkgroup 402. -/
def group402 : TalkgroupEntry :=
  { id := 402, channel := 3, cls := .priority, talkLimit := 60, hangTime := 0, members := 0, remote := 0 }

/-- The activity fields of a record that has just been heard. -/
def heard : Activity := { cls := .active, timer := some 90000, poll := none, outstanding := none, misses := 0 }

/-- A record of unit 1001 in slot 0 on talkgroup 310. -/
def radio (ph : Phase) : Record :=
  { slot := 0
    unit := 1001
    phase := ph
    talkgroup := 310
    emergency := false
    talking := false
    talkLimited := false
    serving := some (-1360)
    candidates := [none, none, none, none]
    roamHold := none
    entryTime := 5#48
    lastSite := 0 }

/-- A handover with site 12. -/
def attempt : Handover := { partner := 12, id := 33, deadline := 99000 }

/-- The SERVED record. -/
def servedRadio : Record := radio (.served 2 heard none)

/-- Site 7, RUNNING at 100 s, with LK0 and LK1 UP and unit 1001 SERVED. -/
def site7 : State :=
  { State.reset with
    timeBase := 100000#48
    partState := .running
    active := params
    staged := params
    sites := [entry 9 1 false, entry 12 0 true]
    talkgroups := [group310, group402]
    units := [servedRadio]
    neighbors := [some { site := 12, bias := 0, enabled := true }, none, none, none, none, none, none, none]
    refreshTimer := some 99500
    links :=
      #v[link .up 12 1800 (some 99000), link .up 9 1801 (some 99000), link .disabled 0 1802 none,
        link .down 3 1803 (some 99000)] }

/-- The site with another record of unit 1001. -/
def having (r : Record) : State := { site7 with units := [r] }

/-- A header of a kind for the own site from site 12 about unit 1001. -/
def fromSite12 (k : Kind) : Header :=
  { Header.blank k with origin := 12, destination := 7, hop := 3, unit := 1001, talkgroup := 310, tag := 33 }

/-- A header of a kind from unit 1001 on a channel port. -/
def fromRadio (k : Kind) : Header := { Header.blank k with unit := 1001, talkgroup := 310, subcode := 1 }

/-- The handed frame of every test stands in buffer 1. -/
def first : Handed := { handle := 1, toAgent := false }

/-- A state in which a frame has been handed on at a port. -/
def handing (p : PortNo) (h : Header) (payload : List Byte) (s : State) : State :=
  { s with
    io :=
      { s.io with
        pool :=
          { s.io.pool with
            free := List.range' 2 511
            allocated := [{ handle := 1, refs := 1, bytes := frameBytes h payload, completion := none }] }
        ports := s.io.ports.set p.val { Port.initial with handed := [first] } } }

/-- A transmission of a frame that matters no more, from buffer 512. -/
def busyWith : Transmission :=
  { entry := { handle := 512, cls := .routine, hop := 0, addressing := .unaddressed }, frame := [] }

/-- Every transmitter is SENDING the frame in buffer 512: entries placed wait in their queues. -/
def busy (s : State) : State :=
  { s with
    io :=
      { s.io with
        pool :=
          { s.io.pool with
            free := s.io.pool.free.dropLast
            allocated := s.io.pool.allocated ++ [{ handle := 512, refs := 10, bytes := [], completion := none }] }
        ports := s.io.ports.map fun p => { p with sending := some busyWith } } }

/-- The state a command leaves. -/
def after (c : Instr) (s : State) : State :=
  match exec c s with
  | .next t => t
  | .fault _ => s
  | .refused _ => s

/-- The state a step leaves. -/
def stepped (s : State) : State :=
  match step s with
  | .next t => t
  | .fault _ => s
  | .refused _ => s

/-- The state the same command leaves when it is sent several times. -/
def times (k : Nat) (c : Instr) (s : State) : State := Nat.iterate (after c) k s

/-- A request at the head of the queue, from site 12 by LK0. -/
def asked (code : Byte) (fields : List Byte) : Request :=
  { tag := 77, origin := 12, destination := 7, link := 0, code := code, fields := fields }

/-- A state with one queued request. -/
def asking (code : Byte) (fields : List Byte) (s : State) : State := { s with requests := [asked code fields] }

/-- The Forwarding Engine with a number of entries to place at once for each coming frame, and frames left. -/
def engineOf (atOnce : List Nat) (work : List Fanout) (s : State) : State :=
  { s with io := { s.io with engine := { atOnce := atOnce, work := work } } }

/-- What the engine has left of the frame of `setFrame` for some links. -/
def leftOf (groups : Vector SiteSet 4) : Fanout :=
  { handle := 1, cls := .routine, hop := some 3, lostAt := some 9, groups := groups }

/-- Every transmitter is SENDING and there is room for several frames and entries. -/
theorem witness_roomFor : (busy (handing 2 (fromRadio .register) [0] site7)).roomFor 16 16 := by
  refine ⟨?_, by decide +kernel, by decide +kernel, by decide +kernel⟩
  simp only [State.poolLaw]
  decide +kernel

/-- The handles that a port names. -/
def named (x : Port) : List Handle :=
  (match x.reception with
    | .store h => [h]
    | .hunt => []
    | .header _ => []
    | .discard _ _ => [])
    ++ x.handed.map Handed.handle ++ x.queue.map Entry.handle ++ x.sending.toList.map fun y => y.entry.handle

/-- A port holds no reference to a buffer that it does not name. -/
theorem references_of_not_named (h : Handle) (x : Port) (hn : h ∉ named x) : x.references h = 0 := by
  obtain ⟨reception, handed, queue, sending, lastEnd⟩ := x
  simp only [named, List.mem_append, not_or, List.mem_map, not_exists, not_and] at hn
  obtain ⟨⟨⟨hr, hh⟩, hq⟩, hs⟩ := hn
  have h1 : reception ≠ .store h := by rintro rfl; simp at hr
  simp only [Port.references, h1, if_false, Nat.zero_add]
  rw [List.countP_eq_zero.2 (by simpa using hh), List.countP_eq_zero.2 (by simpa using hq),
    List.countP_eq_zero.2 (by simpa using hs)]

/-- Every buffer counts its holders, and every buffer that is named is ALLOCATED. -/
def countsAgree (s : State) : Bool :=
  (s.io.pool.allocated.all fun b => b.refs == s.references b.handle && decide (1 ≤ b.refs))
    && (s.io.ports.toList.all fun x => (named x).all fun h => (bufferOf h s.io).isSome)
    && s.io.engine.work.all fun f => (bufferOf f.handle s.io).isSome

/-- The law of R18 from what can be computed. -/
theorem referenceLaw_of_countsAgree (s : State) (hs : countsAgree s = true) : s.referenceLaw := by
  simp only [countsAgree, Bool.and_eq_true, List.all_eq_true, beq_iff_eq, decide_eq_true_eq] at hs
  obtain ⟨⟨hc, hn⟩, hw⟩ := hs
  refine ⟨hc, fun h hb => ?_⟩
  have hp : (s.io.ports.toList.map (Port.references h)).sum = 0 := by
    simp only [List.sum_eq_zero_iff, List.mem_map]
    rintro _ ⟨x, hx, rfl⟩
    exact references_of_not_named h x fun hm => by simpa [hb] using hn x hx h hm
  simp only [State.references, hp, Nat.zero_add, List.countP_eq_zero]
  intro f hf he
  have := hw f hf
  simp_all

/-- The kinds of the frames on a port's queue, head first, with their subcodes. -/
def sentAt (p : PortNo) (t : State) : List (Byte × Byte) :=
  (t.queueOf p).map fun e => (byteAt (bytesOf e.handle t.io) 0, byteAt (bytesOf e.handle t.io) 15)

/-! ## The worked examples of the Roam Selector (spec/05, section 5.12) -/

/-- The Neighbor Table of the worked examples. -/
def neighborTable : List (Option NeighborEntry) :=
  [some { site := 9, bias := 2, enabled := true }, some { site := 12, bias := -3, enabled := true },
    some { site := 15, bias := 0, enabled := true }, some { site := 20, bias := 5, enabled := true },
    some { site := 22, bias := 0, enabled := true }, none, none, none]

/-- A record that takes the reports of a unit, each a serving level and one neighbour's. -/
def reports (n : Byte) (levels : List (Byte × Byte)) (r : Record) : Record :=
  levels.foldl (fun r x => learn params neighborTable [x.1, 1, n, x.2] r) r

/-- A record without a serving level. -/
def unheard : Record := { servedRadio with serving := none }

/-- The walk into site 12's coverage ends at -1607 and -1349 with a qualify count of 3. -/
theorem test_walk_example :
    let r := reports 12 [(95, 90), (99, 84), (103, 80), (104, 81), (104, 82)] unheard
    r.serving = some (-1607)
      ∧ r.candidates = [some { site := 12, level := -1349, qualify := 3, misses := 0 }, none, none, none] := by decide

/-- The rescue at the floor ends at -1829 and -1824 with a qualify count of 3, below the hysteresis. -/
theorem test_rescue_example :
    let r := reports 9 [(111, 113), (116, 114), (117, 115), (117, 115)] unheard
    r.serving = some (-1829)
      ∧ r.candidates = [some { site := 9, level := -1824, qualify := 3, misses := 0 }, none, none, none] := by decide

/-- An occupied slot. -/
def slot (n : SiteId) (level : Int) : Option Candidate := some { site := n, level := level, qualify := 0, misses := 0 }

/-- The fifth neighbour at -104 takes site 15's slot; at -107 it is set aside and site 15 has one miss. -/
theorem test_fifth_neighbour_example :
    let r := { unheard with candidates := [slot 9 (-1600), slot 12 (-1504), slot 15 (-1696), slot 20 (-1648)] }
    let report (b : Byte) : List Byte := [100, 4, 9, 100, 12, 94, 20, 103, 22, b]
    (learn params neighborTable (report 104) r).candidates.map (Option.map fun c => (c.site, c.level, c.misses))
        = [some (9, -1600, 0), some (12, -1504, 0), some (22, -1664, 0), some (20, -1648, 0)]
      ∧ (learn params neighborTable (report 107) r).candidates.map (Option.map fun c => (c.site, c.level, c.misses))
        = [some (9, -1600, 0), some (12, -1504, 0), some (15, -1696, 1), some (20, -1648, 0)] := by decide

/-- A slot whose site the report leaves out is not judged: its count is 0, however well its kept level stands (R76,
R79). -/
theorem test_absent_slot_not_judged :
    let r := { unheard with serving := some (-1760), candidates := [some { site := 9, level := -1200, qualify := 2, misses := 0 }, none, none, none] }
    (learn params neighborTable [110, 1, 12, 110] r).candidates.map (Option.map fun c => (c.site, c.qualify, c.misses))
        = [some (9, 0, 1), some (12, 0, 0), none, none]
      ∧ (learn params neighborTable [110, 1, 9, 75] r).candidates.map (Option.map fun c => (c.site, c.qualify, c.misses))
        = [some (9, 3, 0), none, none, none] := by decide

/-! ## Handover -/

/-- The record in PROPOSING and in DEPARTING toward site 12. -/
def proposingRadio : Record := radio (.proposing 2 heard attempt)
/-- DEPARTING, with order sent as given. -/
def departingRadio (sent : Bool) : Record := radio (.departing 2 attempt sent)

/-- The entry a frame built in buffer 2 for site 12 has on LK0. -/
def built12 : Entry := { handle := 2, cls := .priority, hop := 6, addressing := .destination 12 }

/-- A state in which a HO message of a kind from site 12 meets a record, all transmitters SENDING. -/
def meeting (k : Kind) (r : Record) : State := busy (handing 6 (fromSite12 k) [] (having r))

theorem witness_HoRefuseReturnsToServed :
    let s := meeting .hoRefuse proposingRadio
    s.holdsForOwn 0 first .hoRefuse ∧ s.counterLaw ∧ s.io.pool.noticePending = false
      ∧ (s.hoMessage first).origin = 12 ∧ (s.hoMessage first).id = 33
      ∧ (after (.hoRefuse 0) s).record 1001
        = some { servedRadio with entryTime := 100000#48, roamHold := some 110000 }
      ∧ (after (.hoRefuse 0) s).devCounter .roamsFailed = 1
      ∧ (after (.hoRefuse 0) (meeting .hoRefuse servedRadio)).devCounter .staleHandover = 1 := by
  simp only [State.holdsForOwn, State.holds, State.counterLaw]
  decide +kernel

/-- A HO REQUEST creates an ARRIVING record in slot 0 and is accepted with channel 2. -/
theorem witness_HoRequestMakesArriving :
    let s := busy (handing 6 (fromSite12 .hoRequest) [] { site7 with units := [] })
    let t := after (.hoRequest 0) s
    s.holdsHo 0 first .hoRequest ∧ s.counterLaw ∧ s.unitLaw ∧ s.io.restart = .none
      ∧ (findTalkgroup (s.hoMessage first).talkgroup s.talkgroups).isSome = true ∧ freeSlot s = some 0
      ∧ s.net.route 12 = some 0 ∧ (t.record 1001).map Record.phase
        = some (.arriving { partner := 12, id := 33, deadline := 104000 })
      ∧ (t.record 1001).map Record.lastSite = some 0 ∧ t.queueOf 6 = [built12]
      ∧ bytesOf 2 t.io
        = frameBytes
            { Header.blank .hoAccept with origin := 7, destination := 12, unit := 1001, tag := 33, channel := 2 } []
      ∧ t.devCounter .recordsCreated = 1 := by
  simp only [State.holdsHo, State.holdsForOwn, State.holds, State.counterLaw, State.unitLaw]
  decide +kernel

/-- The other clauses: refused for a member, for a pending restart, for an unknown talkgroup and for a full table;
taken over from another site; reused from LOST. -/
theorem test_hoRequest_clauses :
    let full : List Record := (List.range 256).map fun i => { servedRadio with slot := i, unit := 2000 + i }
    let cause (s : State) := (after (.hoRequest 0) s).queueOf 6 = [built12]
      ∧ byteAt (bytesOf 2 (after (.hoRequest 0) s).io) 0 = 50#8
    let s := meeting .hoRequest servedRadio
    let sub (s : State) : Byte := byteAt (bytesOf 2 (after (.hoRequest 0) s).io) 15
    cause s ∧ sub s = 3
      ∧ sub { s with io := { s.io with restart := .due } } = 4
      ∧ sub { s with talkgroups := [] } = 2
      ∧ sub { s with units := full } = 1
      ∧ ((after (.hoRequest 0) (meeting .hoRequest (radio (.arriving { attempt with partner := 9, id := 4 })))).queueOf 7).length = 1
      ∧ (after (.hoRequest 0) (meeting .hoRequest (radio (.lost 2 5)))).record 1001
        = some
            { servedRadio with
              phase := .arriving { partner := 12, id := 33, deadline := 104000 }
              serving := none
              entryTime := 100000#48 } := by
  decide +kernel

theorem witness_HoAcceptAnswered :
    let s := meeting .hoAccept proposingRadio
    let t := after (.hoAccept 0) s
    s.holdsHo 0 first .hoAccept ∧ s.counterLaw ∧ (s.hoMessage first).origin = 12 ∧ (s.hoMessage first).id = 33
      ∧ s.waitsAt (chanPort 2) ∧ bufferOf 2 s.io = none
      ∧ t.record 1001
        = some { servedRadio with phase := .departing 2 { attempt with deadline := 103000 } false, entryTime := 100000#48 }
      ∧ t.queueOf 2 = [{ handle := 2, cls := .priority, hop := 0, addressing := .unaddressed }]
      ∧ completionOf 2 t.io = some (.roamOrder 1001 33) ∧ payloadOf (bytesOf 2 t.io) = [12] := by
  simp only [State.holdsHo, State.holdsForOwn, State.holds, State.counterLaw, State.waitsAt]
  decide +kernel

/-- A talking radio's ACCEPT is cancelled BUSY, a late one LATE, and a second one is stale without an answer. -/
theorem test_hoAccept_turned_away :
    let sub (r : Record) : Byte := byteAt (bytesOf 2 (after (.hoAccept 0) (meeting .hoAccept r)).io) 15
    let stale (r : Record) := (after (.hoAccept 0) (meeting .hoAccept r)).devCounter .staleHandover
    sub { proposingRadio with talking := true } = 3 ∧ stale { proposingRadio with talking := true } = 0
      ∧ sub servedRadio = 2 ∧ stale servedRadio = 1
      ∧ stale (departingRadio false) = 1 ∧ (after (.hoAccept 0) (meeting .hoAccept (departingRadio false))).queueOf 6 = []
      ∧ sub (radio (.departing 2 { attempt with id := 32 } true)) = 2 := by
  decide +kernel

/-- A HO message of a kind whose origin is the own site meets a record. -/
def fromOwnSite (k : Kind) (r : Record) : State := busy (handing 6 { fromSite12 k with origin := 7 } [] (having r))

/-- HO messages of the own site, a COMPLETE and a CLAIM that meet nothing: set aside and counted as stale (R90, R99,
R108; the claims received counter, log entry 15). -/
theorem witness_handover_set_aside :
    let stale (c : Instr) (s : State) : Nat × Nat :=
      let t := after c s
      (t.devCounter .staleHandover, t.devCounter .claimsReceived)
    let none' (k : Kind) : State := { meeting k servedRadio with units := [] }
    (fromOwnSite .hoRequest servedRadio).holdsForOwn 0 first .hoRequest
      ∧ ((fromOwnSite .hoRequest servedRadio).hoMessage first).origin = 7
      ∧ (fromOwnSite .hoAccept proposingRadio).holdsForOwn 0 first .hoAccept
      ∧ (fromOwnSite .hoComplete servedRadio).holdsForOwn 0 first .hoComplete
      ∧ (fromOwnSite .hoClaim servedRadio).holdsForOwn 0 first .hoClaim
      ∧ stale (.hoRequest 0) (fromOwnSite .hoRequest servedRadio) = (1, 0)
      ∧ stale (.hoAccept 0) (fromOwnSite .hoAccept proposingRadio) = (1, 0)
      ∧ (after (.hoAccept 0) (fromOwnSite .hoAccept proposingRadio)).queueOf 6 = []
      ∧ stale (.hoComplete 0) (fromOwnSite .hoComplete (departingRadio true)) = (1, 0)
      ∧ stale (.hoClaim 0) (fromOwnSite .hoClaim servedRadio) = (1, 0)
      ∧ (meeting .hoComplete servedRadio).holdsForOwn 0 first .hoComplete
      ∧ stale (.hoComplete 0) (meeting .hoComplete servedRadio) = (1, 0)
      ∧ stale (.hoComplete 0) (meeting .hoComplete (radio (.served 2 heard (some { site := 12, id := 32 })))) = (1, 0)
      ∧ (none' .hoClaim).holdsHo 0 first .hoClaim ∧ (none' .hoClaim).record 1001 = none
      ∧ stale (.hoClaim 0) (none' .hoClaim) = (1, 1) := by
  simp only [State.holdsHo, State.holdsForOwn, State.holds]
  decide +kernel

/-- The old partner of a record that is taken over, and the partner of one that is claimed, are told HO CANCEL with the
old handover id, SUPERSEDED and CLAIMED (R103, R104, R108). -/
theorem witness_handover_cancels :
    let s := meeting .hoRequest (radio (.arriving { attempt with partner := 9, id := 4 }))
    let t := after (.hoRequest 0) s
    let claimed (r : Record) : State := after (.hoClaim 0) (meeting .hoClaim r)
    s.holdsHo 0 first .hoRequest ∧ s.net.route 9 = some 1
      ∧ sentAt 7 t = [(52, 5)] ∧ sentAt 6 t = [(49, 0)]
      ∧ parseHeader (bytesOf 2 t.io)
        = { Header.blank .hoCancel with origin := 7, destination := 9, unit := 1001, tag := 4, subcode := 5 }
      ∧ (t.record 1001).map Record.entryTime = some 100000#48
      ∧ sentAt 7 (claimed (radio (.proposing 2 heard { attempt with partner := 9, id := 5 }))) = [(64, 2), (52, 6)]
      ∧ sentAt 7 (claimed (radio (.departing 2 { attempt with partner := 9, id := 5 } true))) = [(64, 2), (52, 6)]
      ∧ (parseHeader (bytesOf 3 (claimed (radio (.departing 2 { attempt with partner := 9, id := 5 } true))).io)).tag = 5 := by
  simp only [State.holdsHo, State.holdsForOwn, State.holds]
  decide +kernel

/-- The record after it has entered FORWARD to site 12. -/
def forwardRadio (id : Nat) : Record :=
  { servedRadio with
    phase := .forward { partner := 12, id := id, deadline := 120000 }
    serving := none
    entryTime := 100000#48 }

theorem witness_CompleteAndClaimForward :
    let s := meeting .hoComplete (departingRadio false)
    let kept := meeting .hoComplete (radio (.served 2 heard (some { site := 12, id := 33 })))
    let claimed := meeting .hoClaim proposingRadio
    s.holdsHo 0 first .hoComplete ∧ s.counterLaw ∧ s.record 1001 = some (departingRadio false)
      ∧ (after (.hoComplete 0) s).record 1001 = some (forwardRadio 33)
      ∧ (after (.hoComplete 0) s).talkgroups = [{ group310 with members := 0 }, group402]
      ∧ (after (.hoComplete 0) s).devCounter .roamsOut = 1
      ∧ kept.holdsHo 0 first .hoComplete ∧ (after (.hoComplete 0) kept).record 1001 = some (forwardRadio 33)
      ∧ claimed.holdsHo 0 first .hoClaim ∧ (after (.hoClaim 0) claimed).record 1001 = some (forwardRadio 33)
      ∧ (after (.hoClaim 0) (meeting .hoClaim servedRadio)).record 1001 = some (forwardRadio 0)
      ∧ (after (.hoClaim 0) (meeting .hoClaim (radio (.lost 2 7)))).talkgroups = [group310, group402]
      ∧ (after (.hoClaim 0) (meeting .hoClaim (radio (.forward { attempt with partner := 9 })))).record 1001
        = some { radio (.forward { partner := 12, id := 33, deadline := 120000 }) with entryTime := 5#48 } := by
  simp only [State.holdsHo, State.holdsForOwn, State.holds, State.counterLaw]
  decide +kernel

theorem witness_HoCancelEndsHandover :
    let s := meeting .hoCancel (departingRadio true)
    s.holdsForOwn 0 first .hoCancel ∧ s.counterLaw ∧ s.io.pool.noticePending = false
      ∧ (s.hoMessage first).origin ≠ s.own
      ∧ (after (.hoCancel 0) s).record 1001
        = some
            { servedRadio with
              phase :=
                .served 2 { cls := .active, timer := some 130000, poll := none, outstanding := none, misses := 0 } none
              entryTime := 100000#48
              roamHold := some 110000 }
      ∧ (after (.hoCancel 0) (meeting .hoCancel proposingRadio)).record 1001
        = some { servedRadio with entryTime := 100000#48, roamHold := some 110000 }
      ∧ (after (.hoCancel 0) (meeting .hoCancel (radio (.arriving attempt)))).record 1001 = none
      ∧ (after (.hoCancel 0) (meeting .hoCancel (radio (.forward attempt)))).devCounter .staleHandover = 1
      ∧ (after (.hoCancel 0) (meeting .hoCancel (radio (.arriving { attempt with id := 34 })))).devCounter .staleHandover
        = 1 := by
  simp only [State.holdsForOwn, State.holds, State.counterLaw]
  decide +kernel

theorem witness_HandoverTimersExpire :
    let s := busy (having proposingRadio)
    let d := busy (having (departingRadio true))
    let h := having { servedRadio with roamHold := some 100000 }
    s.record 1001 = some proposingRadio ∧ s.counterLaw ∧ attempt.deadline ≤ s.timeBase.toNat
      ∧ (after (.replyWaitExpiry 1001) s).record 1001
        = some { servedRadio with entryTime := 100000#48, roamHold := some 110000 }
      ∧ d.counterLaw ∧ d.record 1001 = some (departingRadio true)
      ∧ ((after (.departureExpiry 1001) d).record 1001).map (fun r => r.phase.abandoned?)
        = some (some { site := 12, id := 33 })
      ∧ (after (.departureExpiry 1001) d).queueOf 6 = [{ built12 with handle := 1 }]
      ∧ byteAt (bytesOf 1 (after (.departureExpiry 1001) d).io) 15 = 1
      ∧ h.record 1001 = some { servedRadio with roamHold := some 100000 }
      ∧ (after (.roamHoldExpiry 1001) h).record 1001 = some servedRadio := by
  simp only [State.counterLaw]
  decide +kernel

/-! ## Membership -/

/-- A notice of a type from site 12 with sequence 5, with what it leaves of the site's entry and of 310's set. -/
def noticed (kind : Byte) (payload : List Byte) (last : Option Byte) : State :=
  handing 6 { fromSite12 .membershipNotice with subcode := kind, tag := 5 } payload
    { site7 with
      sites := [entry 9 1 false, { entry 12 0 true with lastSequence := last, ageTimer := last.map fun _ => 123000 }]
      talkgroups := [{ group310 with remote := siteBit 9 }, { group402 with remote := siteBit 12 }] }

theorem witness_MembershipFollowsNotices :
    let full := noticed 3 [3, 2, 1, 54, 9, 9] (some 6)
    let join := noticed 1 [] (some 4)
    let leave := noticed 2 [] none
    let sets (t : State) := t.talkgroups.map fun g => sitesOf g.remote
    full.holdsForOwn 0 first .membershipNotice ∧ full.counterLaw ∧ findSite 12 full.sites ≠ none
      ∧ (handedHeader first full).subcode.toNat = 3 ∧ siteIdOk (handedHeader first full).origin.toNat = true
      ∧ sets (after (.fullNotice 0) full) = [[9, 12], []]
      ∧ findSite 12 (after (.fullNotice 0) full).sites
        = some { entry 12 0 true with lastSequence := some 5, ageTimer := some 115000, announcedPeriod := some 5 }
      ∧ join.holdsForOwn 0 first .membershipNotice ∧ (handedHeader first join).subcode.toNat = 1
      ∧ sets (after (.joinNotice 0) join) = [[9, 12], [12]]
      ∧ findSite 12 (after (.joinNotice 0) join).sites
        = some { entry 12 0 true with lastSequence := some 5, ageTimer := some 123000 }
      ∧ (after (.joinNotice 0) (noticed 1 [] (some 5))).devCounter .staleNotices = 1
      ∧ (after (.joinNotice 0) (noticed 1 [] (some 133))).devCounter .staleNotices = 1
      ∧ (after (.joinNotice 0) (noticed 1 [] (some 134))).devCounter .staleNotices = 0
      ∧ leave.holdsForOwn 0 first .membershipNotice ∧ (handedHeader first leave).subcode.toNat = 2
      ∧ findSite 12 (after (.leaveNotice 0) leave).sites
        = some { entry 12 0 true with lastSequence := some 5, ageTimer := some 190000 } := by
  simp only [State.holdsForOwn, State.holds, State.counterLaw]
  decide +kernel

theorem witness_membership_timers :
    let s :=
      { site7 with
        sites := [{ entry 12 0 true with lastSequence := some 9, ageTimer := some 100000, announcedPeriod := some 40 }] }
    let b := busy s
    findSite 12 s.sites ≠ none
      ∧ (after (.ageTimerExpiry 12) s).talkgroups = [{ group310 with remote := 0 }, group402]
      ∧ (after (.ageTimerExpiry 12) s).sites = [{ entry 12 0 true with announcedPeriod := some 40 }]
      ∧ b.refreshTimer = some 99500 ∧ b.net.routedSites = [12] ∧ bufferOf 1 b.io = none ∧ b.waitsAt (linkPort 0)
      ∧ (after .refreshTimerExpiry b).ownSequence = 1 ∧ (after .refreshTimerExpiry b).refreshTimer = some 130000
      ∧ (after .refreshTimerExpiry b).queueOf 6 = [{ built12 with handle := 1 }]
      ∧ payloadOf (bytesOf 1 (after .refreshTimerExpiry b).io) = [30, 1, 1, 54] := by
  simp only [State.waitsAt]
  decide +kernel

/-- A refresh sends one FULL notice to sites 9 and 12, with destination 0 in its buffer (R116; log entry 13). -/
theorem witness_refresh_to_several :
    let s := busy site7
    let t := after .refreshTimerExpiry s
    s.net.routedSites = [9, 12] ∧ sentAt 6 t = [(64, 3)] ∧ sentAt 7 t = [(64, 3)]
      ∧ bytesOf 1 t.io
        = frameBytes { Header.blank .membershipNotice with origin := 7, subcode := 3, tag := 1 } [30, 1, 1, 54]
      ∧ (bufferOf 1 t.io).map Buffer.refs = some 2 := by decide +kernel

/-- A first member sends a JOIN, and the last one's leaving a LEAVE, to sites 9 and 12 (R113, R114). -/
theorem witness_membership_changes :
    let s := busy site7
    let j := memberEntry 402 s
    let l := memberExit 310 s
    findTalkgroup 402 s.talkgroups = some group402 ∧ findTalkgroup 310 s.talkgroups = some group310
      ∧ s.net.routedSites = [9, 12] ∧ j.ownSequence = 1 ∧ l.ownSequence = 1
      ∧ sentAt 6 j = [(64, 1)] ∧ sentAt 7 j = [(64, 1)] ∧ sentAt 6 l = [(64, 2)]
      ∧ parseHeader (bytesOf 1 j.io)
        = { Header.blank .membershipNotice with origin := 7, subcode := 1, tag := 1, talkgroup := 402 }
      ∧ (memberEntry 310 s).io = s.io ∧ (memberEntry 310 s).ownSequence = 0 := by decide +kernel

/-! ## Calls -/

/-- A current local call of unit 1001 on talkgroup 310. -/
def localCall310 (emergency : Bool) : Call :=
  { id := 1792, talkgroup := 310, talker := 1001, site := 7, emergency := emergency, isLocal := true }
/-- A call of another unit from site 12. -/
def remoteCall310 : Call :=
  { id := 3077, talkgroup := 310, talker := 555, site := 12, emergency := false, isLocal := false }

/-- The site with one channel record on channel 2. -/
def onChannel2 (x : Channel) (s : State) : State := { s with channels := s.channels.set 2 x }

/-- A channel record with a phase and nobody waiting. -/
def channelIn (ph : ChannelPhase) : Channel := { phase := ph, waits := [], lastEnded := some 9 }

/-- Unit 1001 keys up on channel 2. -/
def keying (h : Header) (r : Record) (x : Channel) : State := busy (handing 2 h [] (onChannel2 x (having r)))

/-- A wait entry of a call. -/
def waitFor (c : Call) : WaitEntry := { call := c, deadline := 99999 }

theorem witness_CallStartDecided :
    let idle := keying (fromRadio .callStart) servedRadio (channelIn .idle)
    let hang := keying (fromRadio .callStart) servedRadio (channelIn (.hang 310 false 101000))
    let queued := keying (fromRadio .callStart) servedRadio (channelIn (.active remoteCall310 none 101000))
    let urgent := keying { fromRadio .callStart with emergency := true } servedRadio
      (channelIn (.active remoteCall310 none 101000))
    let granted := channelIn (.active (localCall310 false) (some 160000) 102000)
    let t := after (.callStart 2) idle
    idle.holds (chanPort 2) first .callStart ∧ idle.record 1001 = some servedRadio
      ∧ findTalkgroup 310 idle.talkgroups = some group310 ∧ 1792 ∉ heldIds idle
      ∧ idle.waitsAt (chanPort 2) ∧ idle.waitsAt (linkPort 0) ∧ idle.waitsAt (linkPort 3) ∧ bufferOf 2 idle.io = none
      ∧ t.channel 2 = granted ∧ t.callCounter = 1
      ∧ (t.record 1001).map (fun r => (r.talking, r.emergency)) = some (true, false)
      ∧ t.queueOf 2 = [{ handle := 2, cls := .routine, hop := 0, addressing := .unaddressed }]
      ∧ parseHeader (bytesOf 2 t.io)
        = { Header.blank .callGrant with unit := 1001, callId := 1792 }
      ∧ t.queueOf 6 = [{ handle := 1, cls := .routine, hop := 6, addressing := .subset (siteBit 12) }]
      ∧ (parseHeader (bytesOf 1 t.io)).callId = 1792 ∧ (parseHeader (bytesOf 1 t.io)).origin = 7
      ∧ hang.holds (chanPort 2) first .callStart ∧ (after (.callStart 2) hang).channel 2 = granted
      ∧ queued.holds (chanPort 2) first .callStart
      ∧ (after (.callStart 2) queued).channel 2
        = { channelIn (.active remoteCall310 none 101000) with
            waits := [{ call := localCall310 false, deadline := 110000 }] }
      ∧ urgent.holds (chanPort 2) first .callStart
      ∧ (after (.callStart 2) urgent).channel 2
        = { phase := .active (localCall310 true) none 102000
            waits := [{ call := remoteCall310, deadline := 110000 }]
            lastEnded := some 9 } := by
  simp only [State.holds, State.waitsAt]
  decide +kernel

/-- An emergency call preempts a local one: it is dekeyed and becomes the last ended call, and its talker is
quiet. -/
theorem test_callStart_preempts_local :
    let other : Record := { servedRadio with slot := 1, unit := 2002, talking := true }
    let s := keying { fromRadio .callStart with emergency := true } servedRadio
      (channelIn (.active { localCall310 false with talker := 2002, id := 1800 } (some 150000) 101000))
    let t := after (.callStart 2) { s with units := [servedRadio, other] }
    t.channel 2
        = { phase := .active (localCall310 true) none 102000, waits := [], lastEnded := some 1800 }
      ∧ (t.record 2002).map Record.talking = some false
      ∧ (t.queueOf 2).map (fun e => byteAt (bytesOf e.handle t.io) 0) = [22, 19] := by
  decide +kernel

/-- The repeat checks: the current call of the talker, wherever it keyed up, is granted again with its id, and its
waiting one queued again; a waiting routine call asked for as an emergency is decided anew with its id (R129). -/
theorem test_callStart_repeats :
    let mine := { remoteCall310 with talker := 1001 }
    let waiting := waitFor { localCall310 false with id := 1799 }
    let cur := keying (fromRadio .callStart) servedRadio (channelIn (.active mine none 101000))
    let wait (mark : Bool) := keying { fromRadio .callStart with emergency := mark } servedRadio
      { channelIn (.active remoteCall310 none 101000) with waits := [waiting] }
    let t := after (.callStart 2) cur
    t.channel 2 = channelIn (.active mine none 101000) ∧ t.callCounter = 0
      ∧ parseHeader (bytesOf 2 t.io) = { Header.blank .callGrant with unit := 1001, callId := 3077 }
      ∧ (after (.callStart 2) (wait false)).channel 2 = (wait false).channel 2
      ∧ parseHeader (bytesOf 2 (after (.callStart 2) (wait false)).io)
        = { Header.blank .callQueued with unit := 1001, callId := 1799 }
      ∧ (after (.callStart 2) (wait true)).channel 2
        = { phase := .active { localCall310 true with id := 1799 } none 102000
            waits := [{ call := remoteCall310, deadline := 110000 }]
            lastEnded := some 9 } := by decide +kernel

/-- In the hang of another talkgroup a routine call waits and an emergency call is granted, unless the hang is an
emergency one; a full list turns a routine call away BUSY, and its newest routine entry makes room for an emergency
call (R130, R133). -/
theorem witness_CallStartDecided_hang_and_full :
    let hang (e : Bool) := channelIn (.hang 402 e 101000)
    let entries : List WaitEntry :=
      waitFor { remoteCall310 with id := 1, emergency := true }
        :: (List.range' 2 7).map fun i => waitFor { localCall310 false with id := i, talker := 3000 + i }
    let full := { channelIn (.active { remoteCall310 with emergency := true } none 101000) with waits := entries }
    let start (mark : Bool) (x : Channel) :=
      after (.callStart 2) (keying { fromRadio .callStart with emergency := mark } servedRadio x)
    let entry (e : Bool) : WaitEntry := { call := localCall310 e, deadline := 110000 }
    (keying (fromRadio .callStart) servedRadio full).callLaw ∧ newestRoutine (entries.take 7) (entries.getLast (by simp [entries])) [] entries
      ∧ (start false (hang false)).channel 2 = { hang false with waits := [entry false] }
      ∧ (start true (hang false)).channel 2 = { hang false with phase := .active (localCall310 true) none 102000 }
      ∧ (start true (hang true)).channel 2 = { hang true with waits := [entry true] }
      ∧ (start false full).channel 2 = full ∧ sentAt 2 (start false full) = [(21, 1)]
      ∧ (start false full).devCounter .callsNotCarried = 1
      ∧ (start true full).channel 2 = { full with waits := joinEntry (entry true) (entries.take 7) }
      ∧ sentAt 2 (start true full) = [(20, 0), (21, 1)] ∧ (start true full).devCounter .callsNotCarried = 1 := by
  simp only [State.callLaw, Channel.lawful, emergencyFirst, newestRoutine]
  decide +kernel

theorem witness_CallStartRefused :
    let base := keying (fromRadio .callStart) servedRadio (channelIn .idle)
    let cause (s : State) : Byte := byteAt (bytesOf 2 (after (.callStart 2) s).io) 15
    base.holds (chanPort 2) first .callStart ∧ base.waitsAt (chanPort 2)
      ∧ cause { base with units := [] } = 4 ∧ cause { base with units := [radio (.forward attempt)] } = 4
      ∧ cause { base with units := [{ servedRadio with talkLimited := true }] } = 3
      ∧ cause { base with talkgroups := [] } = 5
      ∧ cause { base with talkgroups := [{ group310 with channel := 1 }] } = 6
      ∧ cause { base with units := [{ servedRadio with talking := true }] } = 1
      ∧ (after (.callStart 2) { base with units := [] }).callCounter = 0
      ∧ (after (.callStart 2) { base with units := [] }).queueOf 2
        = [{ handle := 2, cls := .routine, hop := 0, addressing := .unaddressed }] := by
  simp only [State.holds, State.waitsAt]
  decide +kernel

theorem witness_VoiceAndCallEnd :
    let talking : Record := { servedRadio with talking := true }
    let current := channelIn (.active (localCall310 false) (some 150000) 101000)
    let v := keying { fromRadio .voice with callId := 1792 } talking current
    let e := keying { fromRadio .callEnd with callId := 1792 } talking current
    let w := keying { fromRadio .callEnd with callId := 1792 } servedRadio
      { channelIn (.active remoteCall310 none 101000) with waits := [waitFor (localCall310 false)] }
    v.counterLaw ∧ v.holds (chanPort 2) first .voice ∧ v.waitsAt (linkPort 0)
      ∧ (after (.voice 2) v).channel 2 = channelIn (.active (localCall310 false) (some 150000) 102000)
      ∧ (after (.voice 2) v).queueOf 6
        = [{ handle := 1, cls := .routine, hop := 6, addressing := .subset (siteBit 12) }]
      ∧ (after (.voice 2) v).queueOf 2 = []
      ∧ (after (.voice 2) (keying { fromRadio .voice with callId := 1793 } talking current)).devCounter .strayCallFrames
        = 1
      ∧ (after (.voice 2) (keying { fromRadio .voice with callId := 1792, emergency := true } talking current)).channel 2
        = channelIn (.active (localCall310 true) none 102000)
      ∧ e.holds (chanPort 2) first .callEnd
      ∧ (after (.callEnd 2) e).channel 2
        = { phase := .hang 310 false 102000, waits := [], lastEnded := some 1792 }
      ∧ ((after (.callEnd 2) e).record 1001).map Record.talking = some false
      ∧ w.holds (chanPort 2) first .callEnd
      ∧ (after (.callEnd 2) w).channel 2 = channelIn (.active remoteCall310 none 101000) := by
  simp only [State.holds, State.counterLaw, State.waitsAt]
  decide +kernel

/-- A granted CALL START goes out with the call's id and marker, and a VOICE and a CALL END of an emergency call with its
marker (R127, R131, R135, R136); the counts of R18 agree in each state that it starts from. -/
theorem witness_offered_header :
    let flagged : Record := { servedRadio with emergency := true, talking := true }
    let voice : Header := { fromRadio .voice with callId := 1792 }
    let stop : Header := { fromRadio .callEnd with callId := 1792 }
    let idle := keying { fromRadio .callStart with emergency := true } servedRadio (channelIn .idle)
    let preempts :=
      keying { fromRadio .callStart with emergency := true } servedRadio
        (channelIn (.active remoteCall310 none 101000))
    let v := keying voice flagged (channelIn (.active (localCall310 false) (some 150000) 101000))
    let e := keying stop { servedRadio with talking := true } (channelIn (.active (localCall310 true) none 101000))
    let sent (c : Instr) (h : Header) (s : State) : Prop :=
      s.poolLaw ∧ countsAgree s = true ∧ s.roomFor 4 4 ∧ s.net.sitesVia group310.remote 0 ≠ 0
        ∧ bytesOf 1 (after c s).io = encodeHeader { h with origin := 7, emergency := true } ++ (frameBytes h []).drop 20
    sent (.callStart 2) { handedHeader first idle with callId := 1792 } idle
      ∧ sent (.callStart 2) { handedHeader first preempts with callId := 1792 } preempts
      ∧ sent (.voice 2) (handedHeader first v) v ∧ sent (.callEnd 2) (handedHeader first e) e := by
  simp only [State.roomFor, State.poolLaw]
  decide +kernel

/-- A CALL END of neither the current local call nor a waiting local entry changes nothing and sends nothing; it is
stray, unless it has cleared the talk-limited flag (R136). -/
theorem witness_stray_callEnd :
    let other := { channelIn (.active remoteCall310 none 101000) with waits := [waitFor { localCall310 false with id := 1799 }] }
    let s (limited : Bool) := keying { fromRadio .callEnd with callId := 1792 } { servedRadio with talkLimited := limited } other
    let t (limited : Bool) := after (.callEnd 2) (s limited)
    (s true).holds (chanPort 2) first .callEnd ∧ (s true).counterLaw ∧ (s false).io.pool.noticePending = false
      ∧ (t true).channel 2 = other ∧ (t false).channel 2 = other
      ∧ (t false).devCounter .strayCallFrames = 1 ∧ (t true).devCounter .strayCallFrames = 0
      ∧ ((t true).record 1001).map Record.talkLimited = some false
      ∧ (∀ p : PortNo, (t true).queueOf p = [] ∧ (t false).queueOf p = []) := by
  simp only [State.holds, State.counterLaw]
  decide +kernel

/-- A VOICE and a CALL END of a QUIET talker make its record ACTIVE without a poll (R58). -/
theorem witness_calls_keep_active :
    let quiet : Record := radio (.served 2 { heard with cls := .quiet, poll := some 150000, misses := 1 } none)
    let current := channelIn (.active (localCall310 false) (some 150000) 101000)
    let v := keying { fromRadio .voice with callId := 1792 } quiet current
    let e := keying { fromRadio .callEnd with callId := 1792 } quiet current
    let active := some (some { heard with timer := some 130000 })
    v.holds (chanPort 2) first .voice ∧ e.holds (chanPort 2) first .callEnd
      ∧ v.activeAgain { heard with cls := .quiet, poll := some 150000, misses := 1 } = { heard with timer := some 130000 }
      ∧ ((after (.voice 2) v).record 1001).map (fun r => r.phase.activity?) = active
      ∧ ((after (.callEnd 2) e).record 1001).map (fun r => r.phase.activity?) = active := by
  simp only [State.holds]
  decide +kernel

/-- R137: the first entry of the hang talkgroup is granted at once, before an older one of another talkgroup. -/
theorem test_callEnd_grants_hang_talkgroup :
    let x := channelIn (.active (localCall310 false) (some 150000) 101000)
    let s := keying { fromRadio .callEnd with callId := 1792 } servedRadio
      { x with waits := [waitFor { remoteCall310 with id := 5, talkgroup := 402 }, waitFor remoteCall310] }
    (after (.callEnd 2) s).channel 2
      = { phase := .active remoteCall310 none 102000
          waits := [waitFor { remoteCall310 with id := 5, talkgroup := 402 }]
          lastEnded := some 1792 } := by
  decide +kernel

theorem witness_RemoteCallFramesTaken :
    let h (k : Kind) : Header :=
      { fromSite12 k with targets := siteBit 7 ||| siteBit 9, destination := 0, unit := 555, callId := 3077 }
    let s (k : Kind) (x : Channel) := busy (handing 6 (h k) [] (onChannel2 x site7))
    let idle := s .callStart (channelIn .idle)
    let current := channelIn (.active remoteCall310 none 100500)
    let t := after (.forwardTargetSet 0) idle
    headHanded (linkPort 0) idle = some first ∧ idle.counterLaw ∧ addressedAs .targetSet (handedHeader first idle) = true
      ∧ hasSite (handedHeader first idle).targets idle.own = true
      ∧ findTalkgroup (handedHeader first idle).talkgroup.toNat idle.talkgroups = some group310
      ∧ idle.waitsAt (chanPort 2) ∧ idle.waitsAt (linkPort 1) ∧ 3077 ∉ (idle.channel 2).heldIds
      ∧ t.channel 2 = channelIn (.active remoteCall310 none 102000)
      ∧ t.queueOf 2 = [{ handle := 1, cls := .routine, hop := 0, addressing := .unaddressed }]
      ∧ t.queueOf 7 = [{ handle := 1, cls := .routine, hop := 2, addressing := .subset (siteBit 9) }]
      ∧ (after (.forwardTargetSet 0) (s .callStart current)).devCounter .strayCallFrames = 1
      ∧ (after (.forwardTargetSet 0)
          (s .callStart { channelIn (.hang 310 false 101000) with lastEnded := some 3077 })).devCounter .strayCallFrames
        = 1
      ∧ (after (.forwardTargetSet 0) { idle with talkgroups := [{ group310 with members := 0 }] }).devCounter
          .callsNotCarried
        = 1
      ∧ (after (.forwardTargetSet 0) (s .voice current)).channel 2 = channelIn (.active remoteCall310 none 102000)
      ∧ (after (.forwardTargetSet 0) (s .callEnd current)).channel 2
        = { phase := .hang 310 false 102000, waits := [], lastEnded := some 3077 } := by
  simp only [State.counterLaw, State.waitsAt]
  decide +kernel

/-- A VOICE of another call is a late entry, and it is stray when its call waits; a CALL END of a waiting call removes
its entry, and one of an unknown call is stray; a marked call preempts the local one (R132, R135, R136). -/
theorem witness_RemoteCallFramesTaken_others :
    let h (k : Kind) (mark : Bool) : Header :=
      { fromSite12 k with targets := siteBit 7, destination := 0, unit := 555, callId := 3077, emergency := mark }
    let sent (k : Kind) (mark : Bool) (x : Channel) :=
      after (.forwardTargetSet 0) (busy (handing 6 (h k mark) [] (onChannel2 x site7)))
    let other := channelIn (.active (localCall310 false) (some 150000) 101000)
    let waiting := { other with waits := [waitFor remoteCall310] }
    (sent .voice false (channelIn .idle)).channel 2 = channelIn (.active remoteCall310 none 102000)
      ∧ (sent .voice false other).channel 2 = { other with waits := [{ call := remoteCall310, deadline := 110000 }] }
      ∧ (sent .voice false waiting).channel 2 = waiting ∧ (sent .voice false waiting).devCounter .strayCallFrames = 1
      ∧ (sent .callEnd false waiting).channel 2 = other
      ∧ (sent .callEnd false other).channel 2 = other ∧ (sent .callEnd false other).devCounter .strayCallFrames = 1
      ∧ (sent .callStart true other).channel 2
        = { phase := .active { remoteCall310 with emergency := true } none 102000
            waits := []
            lastEnded := some 1792 }
      ∧ sentAt 2 (sent .callStart true other) = [(22, 2), (16, 0)] := by decide +kernel

/-- A call frame whose talkgroup is not in the table is not carried and goes on to its other sites (R128); frames from a
link of a current call with a local talker carry it on and end it (R135, R136). -/
theorem witness_RemoteCallFramesTaken_elsewhere :
    let h (k : Kind) (id : BitVec 16) (g : BitVec 16) : Header :=
      { fromSite12 k with targets := siteBit 7 ||| siteBit 9, destination := 0, unit := 555, callId := id, talkgroup := g }
    let s (k : Kind) (id g : BitVec 16) (x : Channel) :=
      busy (handing 6 (h k id g) [] (onChannel2 x (having { servedRadio with talking := true })))
    let unknown := s .callStart 3077 999 (channelIn .idle)
    let u := after (.forwardTargetSet 0) unknown
    let current := channelIn (.active (localCall310 false) (some 150000) 101000)
    let e := after (.forwardTargetSet 0) (s .callEnd 1792 310 current)
    headHanded (linkPort 0) unknown = some first ∧ findTalkgroup 999 unknown.talkgroups = none
      ∧ unknown.io.engine = Engine.idle
      ∧ u.devCounter .callsNotCarried = 1 ∧ u.queueOf 2 = []
      ∧ u.queueOf 7 = [{ handle := 1, cls := .routine, hop := 2, addressing := .subset (siteBit 9) }]
      ∧ (after (.forwardTargetSet 0) (s .voice 1792 310 current)).channel 2
        = channelIn (.active (localCall310 false) (some 150000) 102000)
      ∧ e.channel 2 = { phase := .hang 310 false 102000, waits := [], lastEnded := some 1792 }
      ∧ e.queueOf 2 = [{ handle := 1, cls := .routine, hop := 0, addressing := .unaddressed }]
      ∧ (e.record 1001).map Record.talking = some false := by decide +kernel

/-- Of two entries of one talker the first in list order is queued again (the model's choice, log entry 20). -/
theorem test_callStart_two_entries :
    let mine (id : CallId) : WaitEntry := waitFor { remoteCall310 with talker := 1001, id := id }
    let s := keying (fromRadio .callStart) servedRadio
      { channelIn (.active remoteCall310 none 101000) with waits := [mine 3078, mine 3079] }
    (parseHeader (bytesOf 2 (after (.callStart 2) s).io)).callId = 3078 := by decide +kernel

/-- The channel 2 of site 7, with unit 1001 talking, all transmitters SENDING. -/
def channelTimers (x : Channel) : State := busy (onChannel2 x (having { servedRadio with talking := true }))

theorem witness_CallTimersExpire :
    let active := channelIn (.active (localCall310 false) (some 100000) 100000)
    let s := channelTimers active
    let ended : Channel := { phase := .hang 310 false 102000, waits := [], lastEnded := some 1792 }
    let w := channelTimers { channelIn (.hang 310 false 100000) with waits := [waitFor (localCall310 false)] }
    let remote := channelTimers (channelIn (.active remoteCall310 none 100000))
    let quiet := channelTimers (channelIn (.hang 310 false 100000))
    s.counterLaw ∧ s.waitsAt (chanPort 2) ∧ s.waitsAt (linkPort 1)
      ∧ (after (.voiceGapExpiry 2) s).channel 2 = ended
      ∧ ((after (.voiceGapExpiry 2) s).record 1001).map Record.talking = some false
      ∧ (after (.voiceGapExpiry 2) remote).queueOf 2
        = [{ handle := 1, cls := .routine, hop := 0, addressing := .unaddressed }]
      ∧ (after (.talkTimerExpiry 2) s).channel 2 = ended
      ∧ ((after (.talkTimerExpiry 2) s).record 1001).map (fun r => (r.talking, r.talkLimited)) = some (false, true)
      ∧ (after (.talkTimerExpiry 2) s).devCounter .talkLimitCutoffs = 1
      ∧ byteAt (bytesOf 1 (after (.talkTimerExpiry 2) s).io) 0 = 22
      ∧ ((w.channel 2).waiting 1792).isSome = true
      ∧ (after (.waitTimerExpiry 2 1792) w).channel 2 = channelIn (.hang 310 false 100000)
      ∧ (after (.waitTimerExpiry 2 1792) w).devCounter .waitExpiries = 1
      ∧ byteAt (bytesOf 1 (after (.waitTimerExpiry 2 1792) w).io) 15 = 2
      ∧ (after (.hangTimerExpiry 2) w).channel 2
        = channelIn (.active (localCall310 false) (some 160000) 102000)
      ∧ (after (.hangTimerExpiry 2) quiet).channel 2 = channelIn .idle := by
  simp only [State.counterLaw, State.waitsAt]
  decide +kernel

/-- A channel that is free turns the calls away that cannot be granted, a local talker NOT REGISTERED, and grants the
first that can; after the end of a call with a hang time of 0 the other talkgroups' calls follow (R137). -/
theorem witness_passesOn :
    let gone := waitFor { localCall310 false with id := 1, talker := 2002 }
    let unheard := waitFor { remoteCall310 with id := 2, talkgroup := 402 }
    let next := waitFor { localCall310 false with id := 3 }
    let hang := { channelIn (.hang 310 false 100000) with waits := [gone, unheard, next] }
    let s := channelTimers hang
    let t := after (.hangTimerExpiry 2) s
    let short := { channelTimers { channelIn (.active { remoteCall310 with talkgroup := 402 } none 100000) with
      waits := [next, unheard] } with talkgroups := [group310, { group402 with channel := 2 }] }
    hang.lawful ∧ s.mayGrant gone = false ∧ s.mayGrant unheard = false ∧ s.mayGrant next = true
      ∧ t.channel 2
        = { phase := .active next.call (some 160000) 102000, waits := [], lastEnded := some 9 }
      ∧ sentAt 2 t = [(21, 4), (19, 0)] ∧ sentAt 6 t = [(16, 0)] ∧ t.devCounter .callsNotCarried = 2
      ∧ (short.channel 2).lawful
      ∧ (after (.voiceGapExpiry 2) short).channel 2
        = { phase := .active next.call (some 160000) 102000, waits := [], lastEnded := some 3077 }
      ∧ (after (.voiceGapExpiry 2) { short with units := [] }).channel 2
        = { phase := .idle, waits := [], lastEnded := some 3077 } := by
  simp only [Channel.lawful, emergencyFirst]
  decide +kernel

/-! ## Links -/

/-- A PROBE or PROBE REPLY at LK0 with a tag meets LK0 in a state of its own. -/
def probed (k : Kind) (origin : Byte) (tag : BitVec 16) (x : Link) : State :=
  busy (handing 6 { Header.blank k with origin := origin, tag := tag }
    [] { site7 with links := site7.links.set 0 x })

theorem witness_ProbesAndRepliesJudged :
    let x := { link .up 12 1803 (some 99000) with outstanding := true, errors := 3 }
    let p := probed .probe 12 1803 x
    let r := probed .probeReply 12 63732 x
    let up := probed .probeReply 12 63732 { x with state := .trial, goods := 2 }
    let bad := after (.probeReply 0) (probed .probeReply 9 63732 x)
    p.holds (linkPort 0) first .probe ∧ p.counterLaw ∧ p.waitsAt (linkPort 0) ∧ bufferOf 2 p.io = none
      ∧ (after (.probe 0) p).queueOf 6 = [{ handle := 2, cls := .priority, hop := 6, addressing := .unaddressed }]
      ∧ (parseHeader (bytesOf 2 (after (.probe 0) p).io)).tag = 63732
      ∧ (after (.probe 0) (probed .probe 7 1803 x)).link 0
        = { x with looped := true, outstanding := false, errors := 4, state := .down }
      ∧ r.holds (linkPort 0) first .probeReply
      ∧ (after (.probeReply 0) r).link 0 = { x with outstanding := false, advance := true, errors := 2 }
      ∧ (after (.probeReply 0) up).link 0
        = { x with state := .up, outstanding := false, advance := true, errors := 0 }
      ∧ (after (.probeReply 0) up).ownSequence = 1
      ∧ bad.link 0 = { x with outstanding := false, errors := 4, state := .down }
      ∧ (after (.probeReply 0) (probed .probeReply 12 63732 { x with outstanding := false })).devCounter .strayReplies
        = 1 := by
  simp only [State.holds, State.counterLaw, State.waitsAt]
  decide +kernel

/-- A PROBE of the part's own at a DISABLED link sets its loop flag, and another's is set aside (R146, R147; log entry
38). -/
theorem test_probe_at_disabled_link :
    let x := link .disabled 0 1800 none
    (after (.probe 0) (probed .probe 7 1 x)).link 0 = { x with looped := true }
      ∧ (after (.probe 0) (probed .probe 12 1 x)).link 0 = x
      ∧ (after (.probe 0) (probed .probe 12 1 x)).queueOf 6 = [] := by decide +kernel

/-- A link that enters or leaves UP tells management site 12 by the route it then has; the link that fails is LK1, so
that the route by LK0 stays (R150, R164). -/
theorem witness_link_changes :
    let x := { link .up 9 1801 (some 100000) with outstanding := true, errors := 3 }
    let s := busy { site7 with links := site7.links.set 1 x }
    let t := after (.probeTimerExpiry 1) s
    let up := after (.probeReply 0) (probed .probeReply 12 63732
      { link .trial 12 1803 (some 99000) with outstanding := true, goods := 2 })
    (s.link 1).state = .up ∧ (t.link 1).state = .down ∧ t.net.managementSites = [12]
      ∧ sentAt 6 t = [(98, 1)] ∧ sentAt 7 t = [(80, 0)] ∧ payloadOf (bytesOf 1 t.io) = [1, 1, 9]
      ∧ (up.link 0).state = .up ∧ sentAt 6 up = [(98, 1), (64, 3)] ∧ payloadOf (bytesOf 2 up.io) = [0, 3, 12]
      ∧ sentAt 7 up = [(64, 3)] := by decide +kernel

theorem witness_ProbeTimerOpensWindow :
    let x := { link .trial 12 1803 (some 100000) with advance := true, goods := 2 }
    let s := busy { site7 with links := site7.links.set 0 x }
    let open' := busy { site7 with links := site7.links.set 0 { x with outstanding := true, advance := false } }
    (s.link 0).timer = some 100000 ∧ s.waitsAt (linkPort 0) ∧ bufferOf 1 s.io = none
      ∧ (after (.probeTimerExpiry 0) s).link 0
        = { x with token := 3607, advance := false, outstanding := true, timer := some 100500 }
      ∧ (parseHeader (bytesOf 1 (after (.probeTimerExpiry 0) s).io)).tag = 3607
      ∧ (after (.probeTimerExpiry 0) open').link 0
        = { x with state := .down, goods := 0, advance := false, outstanding := true, timer := some 100500 } := by
  simp only [State.waitsAt]
  decide +kernel

/-! ## Management -/

/-- The payload of the reply in buffer 1 that a request command leaves. -/
def replied (c : Instr) (code : Byte) (fields : List Byte) (s : State) : List Byte :=
  payloadOf (bytesOf 1 (after c (asking code fields s)).io)

/-- The same for a load or WRITE PARAMETERS of several entries, one command for each. -/
def repliedBy (k : Nat) (c : Instr) (code : Byte) (fields : List Byte) (s : State) : List Byte :=
  payloadOf (bytesOf 1 (times k c (asking code fields s)).io)

theorem witness_RequestsQueuedAndRestart :
    let h := { fromSite12 .mgmtRequest with tag := 77 }
    let s := busy (handing 6 h [9, 0, 3, 233] site7)
    let full := { s with requests := [asked 1 [], asked 2 [], asked 3 [], asked 4 []] }
    let r := busy (asking 17 [] site7)
    let empty := { r with io := { r.io with pool := { r.io.pool with free := [] } } }
    s.holds (linkPort 0) first .mgmtRequest ∧ s.counterLaw ∧ (handedHeader first s).destination.toNat = s.own
      ∧ (findSite 12 s.sites).map SiteEntry.management = some true ∧ s.io.restart = .none
      ∧ (after (.mgmtRequest 0) s).requests = [asked 9 [0, 3, 233]]
      ∧ (after (.mgmtRequest 0) full).requests.length = 4
      ∧ full.net.route 12 = some 0 ∧ bufferOf 2 full.io = none
      ∧ payloadOf (bytesOf 2 (after (.mgmtRequest 0) full).io) = [1, 0, 0, 0]
      ∧ (after (.mgmtRequest 0) { s with sites := [entry 12 0 false] }).devCounter .deniedRequests = 1
      ∧ r.serves (asked 17 []) [] 17 ∧ (after .restart r).io.restart = .awaitingReply
      ∧ completionOf 1 (after .restart r).io = some .restartReply
      ∧ empty.serves (asked 17 []) [] 17 ∧ (after .restart empty).io.restart = .due := by
  simp only [State.holds, State.counterLaw, State.serves]
  decide +kernel

/-- A reply's header, RUNNING and UNCONFIGURED (R32, R155). -/
theorem test_reply_header :
    let reply (origin : Byte) : Header :=
      { Header.blank .mgmtReply with origin := origin, destination := 12, tag := 77 }
    let sentTo (n : SiteId) : Request := { asked 1 [] with destination := n }
    replyHeader (sentTo 9) site7 = reply 7 ∧ replyHeader (sentTo 9) State.reset = reply 9
      ∧ replyHeader (sentTo 0) State.reset = reply 0 ∧ replyHeader (sentTo 33) State.reset = reply 0 := by decide

/-- Requests of a wrong length are answered BAD VALUE (R155). -/
theorem witness_wrong_lengths :
    (asking 13 [1] site7).serves (asked 13 [1]) [] 13 ∧ (asking 15 [] site7).serves (asked 15 []) [] 15
      ∧ replied .collectCounters 13 [1] site7 = [4, 0, 0, 0] ∧ replied .readCounters 14 [] site7 = [4, 0, 0, 0]
      ∧ replied .clearUnit 15 [] site7 = [4, 0, 0, 0] ∧ replied .clearEmergency 16 [0, 3] site7 = [4, 0, 0, 0]
      ∧ replied .restart 17 [0] site7 = [4, 0, 0, 0] ∧ (after .restart (asking 17 [0] site7)).io.restart = .none := by
  simp only [State.serves]
  decide +kernel

/-- A reply can be built in buffer 1 and queued. -/
theorem witness_canReply : (asking 1 [] site7).canReply (asked 1 []) 1 :=
  ⟨⟨List.range' 2 511, by decide +kernel⟩, by decide +kernel, by decide⟩

theorem witness_ReadRequestsAnswered :
    let s := asking 1 [] site7
    s.serves (asked 1 []) [] 1 ∧ (asking 0 [] site7).serves (asked 0 []) [] 0
      ∧ replied .identify 1 [] site7
        = [0, 0, 0, 0, 0x45, 0x44, 0x36, 0x31, 0x30, 3, 1, 0, 64, 8, 32, 2, 0, 6, 4, 7, 1, 0, 0]
      ∧ replied .identify 1 [0] site7 = [4, 0, 0, 0] ∧ replied .unknownRequestCode 0 [] site7 = [2, 0, 0, 0]
      ∧ replied .readUnit 9 [0, 3, 232] site7 = [3, 0, 0, 0]
      ∧ replied .readChannels 11 [6] site7 = [4, 0, 0, 0]
      ∧ (after .identify s).requests = [] := by
  simp only [State.serves]
  decide +kernel

/-- READ UNIT of unit 1001 (0x0003E9) field by field (R155). -/
theorem test_readUnit :
    replied .readUnit 9 [0, 3, 233] (having { departingRadio true with serving := some (-1360), lastSite := 9 })
      = [0, 0, 0, 0, 0, 3, 233, 0, 2, 1, 54, 2, 255, 0, 0, 0, 0, 0, 1, 0, 9, 12, 33, 0, 0, 0xFA, 0xB0]
        ++ List.replicate 20 0 := by decide +kernel

/-- READ UNITS from slot 1 with a count of 1 leaves one occupied slot above. -/
theorem test_readUnits :
    replied .readUnits 8 [1, 1]
        { site7 with
          units :=
            [servedRadio, { servedRadio with slot := 3, unit := 2, emergency := true },
              { servedRadio with slot := 4, unit := 3 }] }
      = [0, 0, 1, 0, 3, 0, 0, 2, 0, 1, 54, 2, 1] := by decide +kernel

/-- READ PARAMETERS of the staged set has 29 values, the coverage floor of -112 as 0xFF90. -/
theorem test_readParameters :
    (replied .readParameters 7 [1] site7).length = 62
      ∧ ((replied .readParameters 7 [0] site7).drop 24).take 2 = [0xFF, 0x90]
      ∧ replied .readParameters 7 [2] site7 = [4, 0, 0, 0] := by decide +kernel

/-- READ LINKS gives seven bytes for each link; READ CHANNELS an IDLE channel. -/
theorem test_readLinks_readChannels :
    replied .readLinks 10 [] site7
        = [0, 0, 0, 0, 3, 12, 7, 8, 0, 0, 0, 3, 9, 7, 9, 0, 0, 0, 0, 0, 7, 10, 0, 0, 0, 1, 3, 7, 11, 0, 0, 0]
      ∧ replied .readChannels 11 [2] site7 = [0, 0, 0, 0, 0, 0, 0, 0, 0, 0, 0, 0, 0, 255, 0, 0, 0] := by
  decide +kernel

/-- READ CHANNELS of an ACTIVE channel with one call waiting, and READ TALKGROUPS from index 1. -/
theorem test_readChannels_active_readTalkgroups :
    replied .readChannels 11 [2]
        (onChannel2
          { channelIn (.active remoteCall310 none 1) with waits := [waitFor (localCall310 true)] } site7)
        = [0, 0, 0, 0, 1, 12, 5, 1, 54, 0, 2, 43, 12, 0, 0, 9, 1, 7, 0, 1, 54, 0, 3, 233, 7, 1]
      ∧ replied .readTalkgroups 12 [1] site7 = [0, 0, 0, 0, 1, 146, 3, 1, 0, 60, 0, 0, 0, 0, 0, 0, 0] := by
  decide +kernel

theorem witness_WriteMovesStagedSet :
    let s := asking 5 [2, 25, 0, 6, 6, 0, 9] site7
    s.serves (asked 5 [2, 25, 0, 6, 6, 0, 9]) [] 5
      ∧ (after .writeParameters s).staged = { params with failThreshold := 4 }
      ∧ (times 2 .writeParameters s).staged = { params with failThreshold := 4, hopLimit := 9 }
      ∧ (times 2 .writeParameters s).active = params
      ∧ repliedBy 2 .writeParameters 5 [2, 25, 0, 6, 6, 0, 9] site7 = [0, 0, 0, 0, 2, 1]
      ∧ replied .writeParameters 5 [0] site7 = [0, 0, 0, 0, 0, 0] ∧ replied .writeParameters 5 [1] site7 = [4, 0, 0, 0]
      ∧ repliedBy 2 .writeParameters 5 [3, 11, 0xFF, 0x90, 30, 0, 1, 6, 0, 1] site7 = [4, 0, 2, 1, 1, 0] := by
  simp only [State.serves]
  decide +kernel

theorem witness_ApplyTakesEffect :
    let s := { busy (asking 6 [] site7) with staged := { params with farSite0 := 4, failThreshold := 1 } }
    let t := after .applyParameters s
    let u :=
      { asking 6 [] site7 with
        partState := .unconfigured
        active := Params.defaults
        staged := params
        links := State.reset.links }
    let v :=
      after .applyParameters
        { u with
          sites := [{ entry 7 0 false with lastSequence := some 3, announcedPeriod := some 9 }, entry 12 0 true]
          talkgroups := [{ group310 with remote := siteBit 7 ||| siteBit 12 }] }
    s.serves (asked 6 []) [] 6 ∧ s.partState = .running
      ∧ t.link 0 = { link .down 4 1800 (some 100500) with outstanding := true } ∧ t.link 1 = s.link 1
      ∧ t.active = s.staged
      ∧ (after .applyParameters { s with links := s.links.set 1 { link .up 9 1801 (some 99000) with errors := 2 } }).link 1
        = { link .down 9 1801 (some 99000) with errors := 2 }
      ∧ (after .applyParameters { s with staged := { params with ownSite := 8 } }).active = params
      ∧ replied .applyParameters 6 [] { s with staged := { params with ownSite := 8 } } = [6, 0, 0, 0]
      ∧ replied .applyParameters 6 [0] site7 = [4, 0, 0, 0]
      ∧ v.sites = [entry 7 0 false, entry 12 0 true] ∧ v.talkgroups = [group310]
      ∧ u.serves (asked 6 []) [] 6 ∧ (after .applyParameters u).partState = .running
      ∧ (after .applyParameters u).link 3 = { link .down 3 1803 (some 100500) with outstanding := true }
      ∧ (after .applyParameters u).refreshTimer = some 130000 ∧ (after .applyParameters u).ownSequence = 1
      ∧ (after .applyParameters { u with staged := { params with ownSite := 0 } }).link 0 = link .down 12 1 none := by
  simp only [State.serves]
  decide +kernel

/-- An APPLY that gives LK0 the far site 4: what stood on it leaves but for a PROBE, the frame that was not placed whole
goes by LK1, both management sites hear LINK CHANGE with far site 12 there, LK0's first PROBE is queued, and the reply
is DONE. An APPLY with LK0 unused sends the state DISABLED, and one that lowers the fail threshold DOWN. -/
theorem witness_apply_frames :
    let base :=
      busy (asking 6 [] { site7 with sites := [entry 9 1 true, { entry 12 0 true with alternate := some 1 }] })
    let old : Entry := { handle := 1, cls := .routine, hop := 3, addressing := .subset (siteBit 12) }
    let kept : Entry := { handle := 2, cls := .priority, hop := 6, addressing := .unaddressed }
    let buffers : List Buffer :=
      [{ handle := 1, refs := 2, bytes := frameBytes { Header.blank .voice with origin := 3 } [], completion := none },
        { handle := 2, refs := 1, bytes := frameBytes (Header.blank .probe) [], completion := none }]
    let s (p : Params) : State :=
      engineOf [] [leftOf #v[siteBit 12, 0, 0, 0]]
        { base with
          staged := p
          io :=
            { base.io with
              pool :=
                { base.io.pool with
                  free := List.range' 3 509
                  allocated := buffers ++ base.io.pool.allocated }
              ports := base.io.ports.set 6 { base.io.ports[6] with queue := [kept, old] } } }
    let far4 : Params := { params with farSite0 := 4 }
    let t (p : Params) := after .applyParameters (s p)
    let said (p : Params) : List Byte := (payloadOf (bytesOf 3 (t p).io)).take 3
    (s far4).serves (asked 6 []) [] 6 ∧ countsAgree (s far4) = true ∧ (s far4).roomFor 10 15 ∧ (s far4).engineLaw
      ∧ isProbeEntry (s far4).io old = false ∧ isProbeEntry (s far4).io kept = true
      ∧ (t far4).queueOf 6
        = [kept, { handle := 4, cls := .priority, hop := 6, addressing := .unaddressed }]
      ∧ parseHeader (bytesOf 4 (t far4).io) = { Header.blank .probe with origin := 7, tag := 1800 }
      ∧ (t far4).queueOf 7
        = [{ handle := 3, cls := .priority, hop := 6, addressing := .destination 9 },
            { handle := 3, cls := .priority, hop := 6, addressing := .destination 12 },
            { handle := 5, cls := .priority, hop := 6, addressing := .destination 12 }]
      ∧ said far4 = [0, 1, 12] ∧ bytesOf 5 (t far4).io = frameBytes (replyHeader (asked 6 []) (s far4)) [0, 0, 0, 0]
      ∧ (t far4).io.engine.work = [leftOf #v[0, siteBit 12, 0, 0]]
      ∧ said { params with farSite0 := 0 } = [0, 0, 12] := by
  simp only [State.serves, State.roomFor, State.poolLaw, State.engineLaw]
  decide +kernel

/-- An APPLY that enters RUNNING queues the first PROBE of each link with a far site and the reply on the arrival link;
no site has a route, and the FULL round sends nothing. -/
theorem witness_apply_enters_running :
    let s : State :=
      { busy (asking 6 [] site7) with
        partState := .unconfigured
        active := Params.defaults
        staged := params
        links := State.reset.links }
    let t := after .applyParameters s
    s.serves (asked 6 []) [] 6 ∧ countsAgree s = true ∧ s.roomFor 10 15 ∧ t.net.routedSites = []
      ∧ [6, 7, 8, 9].map (fun p => sentAt p t) = [[(80, 0), (97, 0)], [(80, 0)], [], [(80, 0)]]
      ∧ parseHeader (bytesOf 3 t.io) = { Header.blank .probe with origin := 7, tag := 1803 } := by
  simp only [State.serves, State.roomFor, State.poolLaw]
  decide +kernel

/-- The load of spec/10, section 10.3: 420 is created, 402 has a new talk limit, 310 cannot move while it has
members, and 421 is not created. -/
theorem witness_LoadsStopAtFirstFailure :
    let fields : List Byte :=
      4 :: ([1, 164, 3, 0, 0, 60, 5, 0] ++ [1, 146, 3, 1, 0, 45, 0, 0] ++ [1, 54, 4, 0, 0, 60, 20, 0]
        ++ [1, 165, 3, 0, 0, 60, 5, 0])
    let s := asking 3 fields site7
    let t := times 3 .loadTalkgroups s
    s.serves (asked 3 fields) [] 3 ∧ repliedBy 3 .loadTalkgroups 3 fields site7 = [7, 0, 2, 2, 2, 6]
      ∧ t.talkgroups.map (fun g => (g.id, g.channel.val, g.talkLimit)) = [(310, 2, 60), (402, 3, 45), (420, 3, 60)]
      ∧ (asking 2 [1, 7, 0, 255, 1, 0] site7).serves (asked 2 [1, 7, 0, 255, 1, 0]) [] 2
      ∧ replied .loadSites 2 [1, 33, 0, 255, 1, 0] site7 = [4, 0, 1, 0, 0, 4]
      ∧ replied .loadSites 2 [1, 7, 0, 255, 1] site7 = [4, 0, 0, 0]
      ∧ (asking 4 [1, 7, 0, 1, 0] site7).serves (asked 4 [1, 7, 0, 1, 0]) [] 4
      ∧ replied .loadNeighbors 4 [1, 7, 0, 1, 0] site7 = [4, 0, 1, 0, 0, 4] := by
  simp only [State.serves]
  decide +kernel

/-- A load and a list of pairs taken entry by entry: until the last entry the request stays at the head with its
progress, and the reply counts from the start of the list (R155, R156, R158). -/
theorem witness_taken_entry_by_entry :
    let fields : List Byte := [2, 9, 255, 2, 0, 0, 33, 0, 0, 0, 0]
    let s := asking 2 fields site7
    let one := after .loadSites s
    let two := after .loadSites one
    let pairs : List Byte := [3, 6, 0, 99, 7, 0, 40, 8, 0, 2]
    let w := times 2 .writeParameters (asking 5 pairs site7)
    let done := after .writeParameters w
    one.progressLaw ∧ one.requests = s.requests ∧ one.progress = { taken := 1, clamped := 0 }
      ∧ one.sites.map SiteEntry.primary = [none, some 0] ∧ one.io = s.io
      ∧ two.requests = [] ∧ two.progress = Progress.start
      ∧ payloadOf (bytesOf 1 two.io) = [7, 0, 1, 1, 1, 4]
      ∧ w.staged = { params with hopLimit := 15, bufferReserve := 40 } ∧ w.progress = { taken := 2, clamped := 1 }
      ∧ done.staged = { w.staged with filterWeight := 2 } ∧ payloadOf (bytesOf 1 done.io) = [0, 0, 0, 0, 3, 1] := by
  exact ⟨Or.inr (by decide +kernel), by decide +kernel⟩

/-- The checks of R156 at the ends of their ranges: a site, a talkgroup and a neighbour. -/
theorem test_load_checks :
    let many := (List.range 64).map fun i => { group310 with id := 1000 + i, members := 0 }
    let full := { site7 with
      neighbors := (List.range 8).map fun i => some { site := 20 + i, bias := 0, enabled := true }, talkgroups := many }
    checkSite [32, 3, 255, 1, 0] site7 = none ∧ checkSite [33, 3, 255, 1, 0] site7 = some 4
      ∧ checkSite [1, 4, 255, 1, 0] site7 = some 4 ∧ checkSite [1, 9, 9, 9, 1] site7 = none
      ∧ checkTalkgroup [255, 254, 5, 1, 1, 44, 100, 0] site7 = none
      ∧ checkTalkgroup [255, 255, 5, 1, 1, 44, 100, 0] site7 = some 4
      ∧ checkTalkgroup [0, 1, 5, 1, 1, 45, 100, 0] site7 = some 4
      ∧ checkTalkgroup [0, 1, 5, 1, 1, 44, 100, 0] full = some 5 ∧ checkTalkgroup [0, 1, 9, 9, 9, 9, 9, 1] full = none
      ∧ checkTalkgroup [1, 54, 3, 0, 0, 10, 0, 0] site7 = some 6 ∧ checkTalkgroup [1, 54, 2, 0, 0, 10, 0, 0] site7 = none
      ∧ checkTalkgroup [1, 54, 0, 0, 0, 0, 0, 1] site7 = some 6
      ∧ checkNeighbor [9, 236, 1, 0] site7 = none ∧ checkNeighbor [9, 235, 1, 0] site7 = some 4
      ∧ checkNeighbor [7, 0, 1, 0] site7 = some 4 ∧ checkNeighbor [9, 20, 1, 0] full = some 5
      ∧ checkNeighbor [20, 20, 1, 0] full = none := by decide +kernel

/-- A site removed leaves every set; a site loaded anew keeps its dynamic part. -/
theorem test_loadSites :
    let s := { site7 with sites := [{ entry 12 0 true with lastSequence := some 3 }] }
    let t := times 2 .loadSites (asking 2 [2, 9, 255, 2, 0, 0, 12, 1, 0, 0, 0] s)
    t.sites
        = [{ entry 9 0 false with primary := none, alternate := some 2 },
          { entry 12 1 false with alternate := some 0, lastSequence := some 3 }]
      ∧ (after .loadSites (asking 2 [1, 12, 9, 9, 9, 1] s)).talkgroups = [{ group310 with remote := 0 }, group402]
      ∧ (after .loadSites (asking 2 [1, 12, 9, 9, 9, 1] s)).sites = [] := by decide +kernel

/-- A neighbour loaded takes the lowest empty position with its signed bias; a removed one frees its slot. -/
theorem test_loadNeighbors :
    let s := having { servedRadio with candidates := [slot 12 (-1440), none, none, none] }
    (after .loadNeighbors (asking 4 [1, 9, 0xFD, 1, 0] s)).neighbors.take 2
        = [some { site := 12, bias := 0, enabled := true }, some { site := 9, bias := -3, enabled := true }]
      ∧ ((after .loadNeighbors (asking 4 [1, 12, 0, 0, 1] s)).record 1001).map Record.candidates
        = some [none, none, none, none] := by decide +kernel

theorem witness_SnapshotCollectsAndReads :
    let s := { asking 13 [] site7 with
      snapshot := List.replicate 158 65530
      mergeCount := 4
      snapshotRead := false
      io := { site7.io with live := List.range' 1 158 } }
    let t := after .collectCounters s
    s.counterLaw ∧ s.serves (asked 13 []) [] 13 ∧ t.snapshot.take 6 = [65531, 65532, 65533, 65534, 65535, 65535]
      ∧ t.mergeCount = 5 ∧ t.io.live = List.replicate 158 0 ∧ t.snapshotRead = false
      ∧ (after .collectCounters { s with snapshotRead := true }).snapshot = List.range' 1 158
      ∧ (asking 14 [157] s).serves (asked 14 [157]) [] 14
      ∧ replied .readCounters 14 [157] s = [0, 0, 0, 0, 0, 4, 0xFF, 0xFA]
      ∧ (after .readCounters (asking 14 [44] s)).snapshotRead = true
      ∧ (after .readCounters (asking 14 [43] s)).snapshotRead = false
      ∧ (replied .readCounters 14 [43] s).take 6 = [0, 0, 1, 0, 0, 4]
      ∧ replied .readCounters 14 [158] s = [4, 0, 0, 0] := by
  simp only [State.counterLaw, State.serves]
  decide +kernel

theorem witness_ClearsActOnRecords :
    let s := asking 15 [0, 3, 233] site7
    let e := asking 16 [0, 3, 233]
      (having
        { radio (.served 2 { heard with cls := .quiet, timer := none } none) with emergency := true })
    let a := busy (asking 15 [0, 3, 233] (having (radio (.arriving attempt))))
    (asked 15 [0, 3, 233]).fields.length = 3 ∧ s.counterLaw ∧ s.serves (asked 15 [0, 3, 233]) [] 15
      ∧ s.record 1001 = some servedRadio ∧ (after .clearUnit s).units = []
      ∧ (after .clearUnit s).talkgroups = [{ group310 with members := 0 }, group402]
      ∧ (after .clearUnit s).ownSequence = 1 ∧ (after .clearUnit s).devCounter .recordsDeleted = 1
      ∧ (after .clearUnit a).units = [] ∧ (after .clearUnit a).ownSequence = 0
      ∧ byteAt (bytesOf 1 (after .clearUnit a).io) 15 = 7
      ∧ e.serves (asked 16 [0, 3, 233]) [] 16
      ∧ (after .clearEmergency e).record 1001
        = some (radio (.served 2 { heard with cls := .quiet, timer := some 700000 } none))
      ∧ replied .clearEmergency 16 [0, 0, 1] site7 = [3, 0, 0, 0] := by
  simp only [State.counterLaw, State.serves]
  decide +kernel

/-- CLEAR UNIT of a record in a handover tells its partner HO CANCEL (CLEARED), and of every record answers DONE (R109,
R160). -/
theorem witness_clearUnit_frames :
    let cleared (r : Record) : State := after .clearUnit (busy (asking 15 [0, 3, 233] (having r)))
    let away : Handover := { attempt with partner := 9 }
    let reply (k : Handle) (t : State) : List Byte := payloadOf (bytesOf k t.io)
    (busy (asking 15 [0, 3, 233] site7)).serves (asked 15 [0, 3, 233]) [] 15
      ∧ sentAt 7 (cleared (radio (.proposing 2 heard away))) = [(52, 7), (64, 2)]
      ∧ sentAt 7 (cleared (radio (.departing 2 away true))) = [(52, 7), (64, 2)]
      ∧ sentAt 6 (cleared (radio (.departing 2 away true))) = [(64, 2), (97, 0)]
      ∧ reply 3 (cleared (radio (.departing 2 away true))) = [0, 0, 0, 0]
      ∧ sentAt 6 (cleared servedRadio) = [(64, 2), (97, 0)] ∧ reply 2 (cleared servedRadio) = [0, 0, 0, 0]
      ∧ sentAt 7 (cleared (radio (.forward away))) = [] ∧ reply 1 (cleared (radio (.forward away))) = [0, 0, 0, 0] := by
  simp only [State.serves]
  decide +kernel

/-! ## The Unit Table -/

theorem witness_RegisterCreatesRecord :
    let s := busy (handing 2 { fromRadio .register with emergency := true } [9] { site7 with units := [] })
    let t := after (.register 2) s
    s.holds (chanPort 2) first .register ∧ s.counterLaw ∧ s.unitLaw ∧ s.record 1001 = none ∧ freeSlot s = some 0
      ∧ t.record 1001
        = some
            { radio
                (.served 2 { cls := .active, timer := some 130000, poll := none, outstanding := none, misses := 0 }
                  none) with
              serving := none
              emergency := true
              entryTime := 100000#48
              lastSite := 9 }
      ∧ t.devCounter .recordsCreated = 1 ∧ t.devCounter .claimsSent = 1
      ∧ t.talkgroups = [{ group310 with members := 2 }, group402]
      ∧ byteAt (bytesOf 2 t.io) 0 = 2 ∧ (t.queueOf 7).length = 1 := by
  simp only [State.holds, State.counterLaw, State.unitLaw]
  decide +kernel

/-- The frames of a new registration: ACCEPT, CLAIM to site 9, and with the first member a JOIN; without its talkgroup
it is refused UNKNOWN TALKGROUP (R54, R107, R114). -/
theorem witness_RegisterCreatesRecord_frames :
    let s := busy (handing 2 (fromRadio .register) [9] { site7 with units := [] })
    let t := after (.register 2) { s with talkgroups := [{ group310 with members := 0 }] }
    sentAt 2 t = [(2, 0)] ∧ sentAt 6 t = [(64, 1)] ∧ sentAt 7 t = [(64, 1), (53, 0)] ∧ t.devCounter .claimsSent = 1
      ∧ t.ownSequence = 1
      ∧ parseHeader (bytesOf 3 t.io) = { Header.blank .registerAccept with unit := 1001, talkgroup := 310, channel := 2 }
      ∧ sentAt 2 (after (.register 2) { s with talkgroups := [] }) = [(3, 1)] := by decide +kernel

/-- Unit 1001 is LOST, and a frame of kind k from it stands handed at channel 2. -/
def lostMeets (k : Kind) (payload : List Byte) : State :=
  busy (handing 2 (fromRadio k) payload (having (radio (.lost 5 999999))))

/-- A LOST record is revived by each sign of life on its talkgroup's present channel (R56). -/
theorem witness_revival :
    let s := lostMeets .pollReply []
    let served (t : State) := (t.record 1001).map fun r => (r.phase.number, r.phase.channel?, r.entryTime)
    s.holds (chanPort 2) first .pollReply ∧ s.counterLaw ∧ s.unitLaw
      ∧ served (after (.register 2) (lostMeets .register [0])) = some (0, some 2, 100000#48)
      ∧ served (after (.measure 2) (lostMeets .measure [90, 0])) = some (0, some 2, 100000#48)
      ∧ served (after (.pollReply 2) s) = some (0, some 2, 100000#48)
      ∧ served (after (.callStart 2) (lostMeets .callStart [])) = some (0, some 2, 100000#48) := by
  simp only [State.holds, State.counterLaw, State.unitLaw]
  decide +kernel

/-- The state in which talkgroup 310 is gone. -/
def ungrouped (s : State) : State := { s with talkgroups := [group402] }

/-- The revival's ACCEPT and member count, and the record's deletion where its talkgroup has gone (R56). -/
theorem witness_revival_frames :
    sentAt 2 (after (.register 2) (lostMeets .register [0])) = [(2, 0)]
      ∧ sentAt 2 (after (.measure 2) (lostMeets .measure [90, 0])) = [(2, 0)]
      ∧ sentAt 2 (after (.callStart 2) (lostMeets .callStart [])) = [(2, 0), (19, 0)]
      ∧ (after (.pollReply 2) (lostMeets .pollReply [])).talkgroups = [{ group310 with members := 2 }, group402]
      ∧ (after (.pollReply 2) (ungrouped (lostMeets .pollReply []))).units = []
      ∧ (after (.pollReply 2) (ungrouped (lostMeets .pollReply []))).devCounter .unknownUnitFrames = 1
      ∧ sentAt 2 (after (.register 2) (ungrouped (lostMeets .register [0]))) = [(3, 1)] := by decide +kernel

/-- A frame of unit 1001 of kind k, whose radio has been sent away. -/
def returning (k : Kind) (payload : List Byte) : State :=
  busy (handing 2 (fromRadio k) payload (having (departingRadio true)))

/-- A radio that was sent away has returned: SERVED, HO CANCEL (RETURNED) to site 12, the roam hold, a failed roam
(R97). -/
theorem witness_return :
    let seen (t : State) := ((t.record 1001).map fun r => (r.phase.number, r.roamHold), sentAt 6 t, t.devCounter .roamsFailed)
    let back := (some (0, some 110000), [((52 : Byte), (4 : Byte))], 1)
    (returning .measure [90, 0]).holds (chanPort 2) first .measure
      ∧ seen (after (.measure 2) (returning .measure [90, 0])) = back
      ∧ seen (after (.register 2) (returning .register [0])) = back
      ∧ seen (after (.pollReply 2) (returning .pollReply [])) = back
      ∧ (parseHeader (bytesOf 2 (after (.pollReply 2) (returning .pollReply [])).io)).tag = 33 := by
  simp only [State.holds]
  decide +kernel

/-- A frame that revives or deletes a LOST record, or tells of a return, is then handled as a frame of the record that
its notice leaves (R56, R97). -/
theorem witness_goes_on :
    ∀ y ∈
      [(Instr.measure 2, Kind.measure, returning .measure [90, 1, 12, 80]),
        (.callStart 2, .callStart, returning .callStart []), (.register 2, .register, returning .register [0]),
        (.measure 2, .measure, lostMeets .measure [90, 1, 12, 80]),
        (.callStart 2, .callStart, ungrouped (lostMeets .callStart []))],
      y.2.2.holds (chanPort 2) first y.2.1 ∧ y.2.2.counterLaw ∧ countsAgree y.2.2 = true ∧ y.2.2.roomFor 8 16
        ∧ after y.1 y.2.2 = after y.1 (unitNotice 2 1001 y.2.1 false y.2.2) := by
  simp only [State.holds, State.counterLaw, State.poolLaw, State.roomFor]
  decide +kernel

/-- What follows then: a MEASURE is learnt from, a CALL START granted, or refused where the record has gone, and a
REGISTER accepted. -/
theorem witness_goes_on_to :
    let slots (t : State) := (t.record 1001).map fun r => (r.serving, r.candidates.head?)
    let learnt : Option (Option Int × Option (Option Candidate)) :=
      some (some (-1380), some (some { site := 12, level := -1280, qualify := 1, misses := 0 }))
    slots (after (.measure 2) (returning .measure [90, 1, 12, 80])) = learnt
      ∧ slots (after (.measure 2) (lostMeets .measure [90, 1, 12, 80])) = learnt
      ∧ sentAt 2 (after (.callStart 2) (returning .callStart [])) = [(19, 0)]
      ∧ sentAt 2 (after (.callStart 2) (ungrouped (lostMeets .callStart []))) = [(21, 4)]
      ∧ sentAt 2 (after (.register 2) (returning .register [0])) = [(2, 0)] := by
  decide +kernel

/-- A full table reclaims the LOST record with the earliest state entry time; a full table of members refuses. -/
theorem test_register_reclaims :
    let full : List Record := (List.range 256).map fun i => { servedRadio with slot := i, unit := 2000 + i }
    let lost : Record := { servedRadio with phase := .lost 2 1, slot := 9, unit := 2009, entryTime := 3#48 }
    let later : Record := { lost with slot := 4, unit := 2004, entryTime := 4#48 }
    let s := busy (handing 2 (fromRadio .register) [0] { site7 with units := (full.set 9 lost).set 4 later })
    let t := after (.register 2) s
    (t.record 1001).map Record.slot = some 9 ∧ t.record 2009 = none ∧ t.devCounter .recordsReclaimed = 1
      ∧ byteAt (bytesOf 2 (after (.register 2) { s with units := full }).io) 15 = 2 := by decide +kernel

theorem witness_RegisterUpdatesServed :
    let s := busy (handing 2 { fromRadio .register with talkgroup := 402, subcode := 4 } [12]
      (having { servedRadio with emergency := true }))
    let t := after (.register 2) s
    s.holds (chanPort 2) first .register ∧ s.record 1001 = some { servedRadio with emergency := true }
      ∧ findTalkgroup 402 s.talkgroups = some group402
      ∧ t.record 1001
        = some
            { radio (.served 3 { heard with timer := some 130000 } none) with talkgroup := 402, lastSite := 12 }
      ∧ sentAt 2 t = [(2, 0)] ∧ sentAt 6 t = [(64, 2), (64, 1)]
      ∧ t.talkgroups = [{ group310 with members := 0 }, { group402 with members := 1 }] ∧ t.ownSequence = 2 := by
  simp only [State.holds]
  decide +kernel

/-- A REGISTER of a member that names an unknown talkgroup is refused; its record keeps all but what its notice did, and
after a return what the return did (R53, R55, R97). -/
theorem witness_register_unknown_talkgroup :
    let s (r : Record) := busy (handing 2 { fromRadio .register with talkgroup := 999, emergency := true } [9] (having r))
    let t (r : Record) := after (.register 2) (s r)
    let fresh : Activity := { heard with timer := some 130000 }
    (s servedRadio).holds (chanPort 2) first .register ∧ servedRadio.phase.atHome = true
      ∧ findTalkgroup 999 (s servedRadio).talkgroups = none
      ∧ (t servedRadio).record 1001 = some { radio (.served 2 fresh none) with emergency := true }
      ∧ sentAt 2 (t servedRadio) = [(3, 1)]
      ∧ (t proposingRadio).record 1001 = some { radio (.proposing 2 fresh attempt) with emergency := true }
      ∧ (t (departingRadio false)).record 1001 = some { departingRadio false with emergency := true }
      ∧ (t (departingRadio true)).record 1001
        = some
            { radio (.served 2 fresh none) with
              emergency := true
              entryTime := 100000#48
              roamHold := some 110000 }
      ∧ sentAt 2 (t (departingRadio true)) = [(3, 1)] := by
  simp only [State.holds]
  decide +kernel

/-- A POLL REPLY and a MEASURE of a unit without a record are counted, and of an ARRIVING or FORWARD record set aside;
a POLL REPLY of a DEPARTING record is set aside too (R69, R73, R96, R101, R106; the flag of a FORWARD record, log entry
34). -/
theorem witness_set_aside :
    let s (k : Kind) (payload : List Byte) (units : List Record) :=
      busy (handing 2 { fromRadio k with emergency := true } payload { site7 with units := units })
    let poll (units : List Record) : State := after (.pollReply 2) (s .pollReply [] units)
    let measure (units : List Record) : State := after (.measure 2) (s .measure [90, 0] units)
    let left (t : State) := (t.record 1001, t.devCounter .unknownUnitFrames)
    let marked (r : Record) : Record := { r with emergency := true }
    (s .pollReply [] []).holds (chanPort 2) first .pollReply ∧ (s .measure [90, 0] []).holds (chanPort 2) first .measure
      ∧ (s .pollReply [] []).counterLaw
      ∧ left (poll []) = (none, 1) ∧ left (measure []) = (none, 1)
      ∧ left (poll [radio (.arriving attempt)]) = (some (marked (radio (.arriving attempt))), 0)
      ∧ left (measure [radio (.arriving attempt)]) = (some (marked (radio (.arriving attempt))), 0)
      ∧ left (poll [radio (.forward attempt)]) = (some (marked (radio (.forward attempt))), 0)
      ∧ left (measure [radio (.forward attempt)]) = (some (marked (radio (.forward attempt))), 0)
      ∧ left (poll [departingRadio false]) = (some (marked (departingRadio false)), 0)
      ∧ (poll [departingRadio false]).queueOf 2 = [] := by
  simp only [State.holds, State.counterLaw]
  decide +kernel

theorem witness_RegisterEndsHandover :
    let s := busy (handing 2 (fromRadio .register) [9] (having (radio (.arriving attempt))))
    let f := busy (handing 2 (fromRadio .register) [9] (having (radio (.forward attempt))))
    let t := after (.register 2) s
    s.holds (chanPort 2) first .register ∧ s.record 1001 = some (radio (.arriving attempt))
      ∧ (t.record 1001).map (fun r => (r.roamHold, r.lastSite, r.phase.number)) = some (some 110000, 9, 0)
      ∧ sentAt 2 t = [(2, 0)] ∧ sentAt 6 t = [(51, 0)]
      ∧ sentAt 2 (after (.register 2) f) = [(2, 0)] ∧ sentAt 6 (after (.register 2) f) = [(53, 0)]
      ∧ sentAt 2 (after (.register 2) { s with talkgroups := [] }) = [(3, 1)]
      ∧ (after (.register 2) { f with talkgroups := [] }).units = f.units
      ∧ f.holds (chanPort 2) first .register ∧ f.record 1001 = some (radio (.forward attempt))
      ∧ ((after (.register 2) f).record 1001).map (fun r => (r.roamHold, r.phase.number)) = some (none, 0)
      ∧ (after (.register 2) f).devCounter .claimsSent = 1 := by
  simp only [State.holds]
  decide +kernel

/-- The activity fields of a QUIET record with a poll outstanding or due. -/
def quietActivity (poll outstanding : Timer) (misses : Nat) : Activity :=
  { cls := .quiet, timer := some 100000, poll := poll, outstanding := outstanding, misses := misses }

theorem witness_PollReplyEndsPoll :
    let r := radio (.served 2 (quietActivity none (some 102000) 1) none)
    let s := handing 2 (fromRadio .pollReply) [] (having r)
    s.holds (chanPort 2) first .pollReply ∧ s.record 1001 = some r
      ∧ (after (.pollReply 2) s).record 1001 = some (radio (.served 2 (quietActivity (some 160000) none 0) none)) := by
  simp only [State.holds]
  decide +kernel

theorem witness_activity_timer :
    let s := having (radio (.served 2 { heard with timer := some 100000 } none))
    let q := having (radio (.served 2 (quietActivity (some 150000) none 0) none))
    s.due (some 100000) = true
      ∧ (after (.activityTimerExpiry 1001) s).record 1001
        = some (radio (.served 2 { heard with cls := .quiet, timer := some 700000, poll := some 160000 } none))
      ∧ (after (.activityTimerExpiry 1001) q).record 1001
        = some (radio (.served 2 { heard with cls := .dormant, timer := none, poll := some 400000 } none))
      ∧ (after (.activityTimerExpiry 1001)
          (having { radio (.served 2 (quietActivity none none 0) none) with emergency := true })).record 1001
        = some
            { radio (.served 2 { quietActivity none none 0 with timer := none } none) with emergency := true } := by
  decide +kernel

theorem witness_PresenceTimersExpire :
    let r := radio (.served 2 (quietActivity (some 100000) none 0) none)
    let s := busy (having r)
    let w := busy (having (radio (.served 2 (quietActivity none (some 100000) 1) none)))
    s.record 1001 = some r ∧ s.counterLaw ∧ s.waitsAt (chanPort 2) ∧ s.io.pool.noticePending = false
      ∧ (after (.pollTimerExpiry 1001) s).record 1001
        = some (radio (.served 2 (quietActivity none (some 103000) 0) none))
      ∧ bytesOf 1 (after (.pollTimerExpiry 1001) s).io = frameBytes { Header.blank .poll with unit := 1001 } []
      ∧ w.counterLaw
      ∧ ((after (.pollReplyWaitExpiry 1001) w).record 1001).map (fun r => (r.phase, r.entryTime))
        = some (.lost 2 220000, 100000#48)
      ∧ (after (.pollReplyWaitExpiry 1001) w).devCounter .unitsLost = 1
      ∧ (let e := busy (having { radio (.served 2 (quietActivity none (some 100000) 1) none) with emergency := true })
          let t := after (.pollReplyWaitExpiry 1001) e
          e.net.managementSites = [12] ∧ sentAt 6 t = [(64, 2), (98, 2)]
            ∧ parseHeader (bytesOf 2 t.io)
              = { Header.blank .mgmtNotice with origin := 7, unit := 1001, talkgroup := 310, subcode := 2 })
      ∧ (after (.pollReplyWaitExpiry 1001)
          (having (radio (.served 2 (quietActivity none (some 100000) 0) none)))).record 1001
        = some (radio (.served 2 (quietActivity (some 160000) none 1) none)) := by
  simp only [State.counterLaw, State.waitsAt]
  decide +kernel

theorem witness_ExpiredRecordsAreDeleted :
    let s := having (radio (.lost 2 100000))
    s.counterLaw ∧ s.record 1001 = some (radio (.lost 2 100000)) ∧ s.elapsed 100000 = true
      ∧ (after (.lostHoldExpiry 1001) s).units = [] ∧ (after (.lostHoldExpiry 1001) s).devCounter .recordsDeleted = 1
      ∧ (after (.arrivalExpiry 1001) (having (radio (.arriving attempt)))).units = []
      ∧ (after (.forwardHoldExpiry 1001) (having (radio (.forward attempt)))).units = []
      ∧ (after (.lostHoldExpiry 1001) (having (radio (.lost 2 100001)))).units = [radio (.lost 2 100001)] := by
  simp only [State.counterLaw]
  decide +kernel

/-! ## Measurement -/

theorem witness_MeasureLearns :
    let r := { servedRadio with serving := some (-1589), candidates := [some { site := 12, level := -1361, qualify := 2, misses := 0 }, none, none, none] }
    let s := busy (handing 2 (fromRadio .measure) [104, 1, 12, 82] (having r))
    let t := after (.measure 2) s
    s.holds (chanPort 2) first .measure ∧ s.record 1001 = some r ∧ r.phase.isMember = true
      ∧ (t.record 1001).map (fun r => (r.serving, r.candidates))
        = some (some (-1607), [some { site := 12, level := -1349, qualify := 3, misses := 0 }, none, none, none])
      ∧ (t.record 1001).map Record.phase
        = some (.proposing 2 { heard with timer := some 130000 } { partner := 12, id := 1, deadline := 101000 })
      ∧ t.handoverCounter = 2 ∧ t.queueOf 6 = [built12]
      ∧ (let none' := { s with io := { s.io with pool := { s.io.pool with free := [], exhaustion := false } } }
          let t := after (.measure 2) none'
          (t.record 1001).map (fun r => (r.phase.number, r.roamHold)) = some (0, some 110000)
            ∧ t.handoverCounter = 1 ∧ t.devCounter .roamsFailed = 1 ∧ t.devCounter .internalDrops = 1)
      ∧ parseHeader (bytesOf 2 t.io)
        = { Header.blank .hoRequest with origin := 7, destination := 12, unit := 1001, talkgroup := 310, tag := 1 } := by
  simp only [State.holds]
  decide +kernel

theorem witness_TriggerIsTheBestSlot :
    let ready (n : SiteId) (level : Int) : Option Candidate :=
      some { site := n, level := level, qualify := 3, misses := 0 }
    let t := [some { site := 12, bias := 0, enabled := true }, some { site := 9, bias := 1, enabled := true }]
    let r (slots : List (Option Candidate)) := { servedRadio with serving := some (-1500), candidates := slots }
    (r []).serving = some (-1500)
      ∧ triggerSite site7.net t (r [ready 9 (-1400), ready 12 (-1384), none, none]) = some 12
      ∧ triggerSite site7.net t (r [ready 9 (-1399), ready 12 (-1384), none, none]) = some 9
      ∧ triggerSite site7.net t { r [ready 9 (-1399), none, none, none] with talking := true } = none := by decide

theorem witness_FilterAndSieve :
    filterStep 16 (-90) 0 = -1440 ∧ Int.tdiv (-300) 16 = -18 ∧ Int.tdiv 344 16 = 21
      ∧ (findNeighbor 12 site7.neighbors).isSome = true
      ∧ sieve 7 site7.neighbors [] [(7, -80), (0, -80), (12, -90), (12, -91), (9, -92)] = [(12, -90)] := by decide +kernel

/-! ## Forwarding -/

/-- A call frame for sites 9, 12 and 20 from a link whose set does not hold site 7. -/
def setFrame (hop : BitVec 4) : Header :=
  { Header.blank .voice with
    origin := 3
    hop := hop
    targets := siteBit 9 ||| siteBit 12 ||| siteBit 20
    talkgroup := 310
    callId := 773 }

theorem witness_TargetSetFansOut :
    let s := busy (handing 9 (setFrame 4) [1, 2] site7)
    let t := after (.forwardTargetSet 3) s
    s.counterLaw ∧ s.io.pool.noticePending = false ∧ headHanded (linkPort 3) s = some first
      ∧ addressedAs .targetSet (handedHeader first s) = true ∧ hasSite (handedHeader first s).targets s.own = false
      ∧ s.waitsAt (linkPort 0) ∧ s.waitsAt (linkPort 1) ∧ s.waitsAt (linkPort 2) ∧ s.waitsAt (linkPort 3)
      ∧ t.queueOf 6 = [{ handle := 1, cls := .routine, hop := 3, addressing := .subset (siteBit 12) }]
      ∧ t.queueOf 7 = [{ handle := 1, cls := .routine, hop := 3, addressing := .subset (siteBit 9) }]
      ∧ t.portCounter 9 .noRoute = 1
      ∧ (after (.forwardTargetSet 3) (busy (handing 9 (setFrame 1) [1, 2] site7))).portCounter 9 .hopExpired = 1
      ∧ (after (.forwardTargetSet 3)
          (busy (handing 9 { setFrame 4 with targets := siteBit 7 } [1, 2] site7))).devCounter .callsNotCarried = 0 := by
  simp only [State.counterLaw, State.waitsAt]
  decide +kernel

/-- One entry is placed within the event and the other in the next step in which no command waits; a frame that comes
behind one with entries left waits whole (R38; log entry 36). -/
theorem witness_placed_entry_by_entry :
    let s := engineOf [1] [] (busy (handing 9 (setFrame 4) [1, 2] site7))
    let t := after (.forwardTargetSet 3) s
    let u := stepped t
    let behind := after (.forwardTargetSet 3) (engineOf [] [leftOf #v[siteBit 12, 0, 0, 0]] s)
    s.placesNow (setFrame 4).targets 0 = true ∧ s.placesNow (setFrame 4).targets 1 = false
      ∧ t.queueOf 6 = [{ handle := 1, cls := .routine, hop := 3, addressing := .subset (siteBit 12) }]
      ∧ t.queueOf 7 = [] ∧ t.portCounter 9 .noRoute = 1
      ∧ t.io.engine = { atOnce := [], work := [leftOf #v[0, siteBit 9, 0, 0]] }
      ∧ (bufferOf 1 t.io).map Buffer.refs = some 2
      ∧ t.pending = [] ∧ t.io.pool.noticePending = false ∧ t.waitsAt (linkPort 1)
      ∧ u.queueOf 7 = [{ handle := 1, cls := .routine, hop := 3, addressing := .subset (siteBit 9) }]
      ∧ u.io.engine = Engine.idle ∧ (bufferOf 1 u.io).map Buffer.refs = some 2 ∧ u.timeBase = t.timeBase
      ∧ (stepped u).timeBase = u.timeBase + 1
      ∧ behind.io.engine.work = [leftOf #v[siteBit 12, 0, 0, 0], leftOf #v[siteBit 12, siteBit 9, 0, 0]]
      ∧ behind.queueOf 6 = [] := by
  simp only [State.waitsAt]
  decide +kernel

/-- LK1 is lost before the entries of three frames for sites 9 and 20 have been placed there. Site 9 has LK0 as its
alternate: it joins the entry still to be placed on LK0, or makes a further one; site 20 has none and is counted at the
frame's port, or under internal drops (R38, R39). -/
theorem witness_rerouted :
    let x := { link .up 9 1801 (some 100000) with outstanding := true, errors := 3 }
    let whole := leftOf #v[siteBit 12, siteBit 9, 0, 0]
    let partly := leftOf #v[0, siteBit 9 ||| siteBit 20, 0, 0]
    let own : Fanout := { leftOf #v[0, siteBit 20, 0, 0] with hop := none, lostAt := none }
    let buffer : Buffer := { handle := 1, refs := 3, bytes := frameBytes (setFrame 4) [1, 2], completion := none }
    let base := busy
      { site7 with
        links := site7.links.set 1 x
        sites := [{ entry 9 1 false with alternate := some 0 }, entry 12 0 true, entry 20 1 false] }
    let s := engineOf [] [whole, partly, own]
      { base with
        io := { base.io with pool := { base.io.pool with free := List.range' 2 511, allocated := [buffer] } } }
    let t := after (.probeTimerExpiry 1) s
    (s.link 1).state = .up ∧ (t.link 1).state = .down ∧ s.counterLaw
      ∧ t.io.engine.work = [leftOf #v[siteBit 12 ||| siteBit 9, 0, 0, 0], leftOf #v[siteBit 9, 0, 0, 0]]
      ∧ t.portCounter 9 .noRoute = 1 ∧ t.devCounter .internalDrops = 1
      ∧ (bufferOf 1 t.io).map Buffer.refs = some 2
      ∧ ((stepped t).queueOf 6).getLast?
        = some { handle := 1, cls := .routine, hop := 3, addressing := .subset (siteBit 12 ||| siteBit 9) }
      ∧ ((stepped (stepped t)).queueOf 6).getLast?
        = some { handle := 1, cls := .routine, hop := 3, addressing := .subset (siteBit 9) }
      ∧ (stepped (stepped t)).io.engine = Engine.idle := by
  simp only [State.counterLaw]
  decide +kernel

/-- The local copy of a set that holds the own site is admitted on the talkgroup's channel, and site 7 leaves the
set that goes on. -/
theorem test_forwardTargetSet_local_copy :
    let s := busy (handing 9 { setFrame 4 with targets := siteBit 7 ||| siteBit 12, unit := 555 } [] site7)
    let t := after (.forwardTargetSet 3) s
    (t.channel 2).phase
        = .active { id := 773, talkgroup := 310, talker := 555, site := 3, emergency := false, isLocal := false } none
          102000
      ∧ t.queueOf 2 = [{ handle := 1, cls := .routine, hop := 0, addressing := .unaddressed }]
      ∧ t.queueOf 6 = [{ handle := 1, cls := .routine, hop := 3, addressing := .subset (siteBit 12) }]
      ∧ (bufferOf 1 t.io).map Buffer.refs = some 2 := by decide +kernel

theorem witness_SingleDestinationForwarded :
    let h := { fromSite12 .hoRequest with destination := 9, hop := 2 }
    let s := busy (handing 6 h [] site7)
    s.counterLaw ∧ s.io.pool.noticePending = false ∧ headHanded (linkPort 0) s = some first
      ∧ addressedAs .single (handedHeader first s) = true ∧ (handedHeader first s).destination.toNat ≠ s.own
      ∧ s.net.route 9 = some 1 ∧ s.waitsAt (linkPort 1)
      ∧ (after (.forwardSingleDestination 0) s).queueOf 7
        = [{ handle := 1, cls := .priority, hop := 1, addressing := .destination 9 }]
      ∧ (after (.forwardSingleDestination 0) (busy (handing 6 { h with hop := 1 } [] site7))).portCounter 6 .hopExpired
        = 1
      ∧ (after (.forwardSingleDestination 0) (busy (handing 6 { h with destination := 20 } [] site7))).portCounter 6
          .noRoute
        = 1
      ∧ sentAt 6 (after (.forwardSingleDestination 0)
          (busy (handing 6 { fromSite12 .unitMessage with destination := 20 } [65] site7)))
        = [(33, 4)] := by
  simp only [State.counterLaw, State.waitsAt]
  decide +kernel

/-- A MGMT REQUEST with destination 0 that the RUNNING part judges is counted under no route, or under hop expired, and
sends nothing (log entry 41). -/
theorem test_request_without_destination :
    let s (hop : BitVec 4) := busy (handing 6 { fromSite12 .mgmtRequest with destination := 0, hop := hop } [1] site7)
    let t (hop : BitVec 4) := after (.forwardSingleDestination 0) (s hop)
    isForAnother first (handedHeader first (s 2)) (s 2) = true ∧ isForAgent first (handedHeader first (s 2)) (s 2) = false
      ∧ (t 2).portCounter 6 .noRoute = 1 ∧ (t 1).portCounter 6 .hopExpired = 1 ∧ sentAt 6 (t 2) = []
      ∧ (t 2).requests = [] := by decide +kernel

theorem witness_UnitMessageByRecord :
    let meet (r : Record) := busy (handing 6 (fromSite12 .unitMessage) [65] (having r))
    let t (r : Record) := after (.unitMessage 0) (meet r)
    let cause (s : State) : Byte := byteAt (bytesOf 2 s.io) 15
    let away : Record := radio (.forward { attempt with partner := 20 })
    (meet servedRadio).holdsForOwn 0 first .unitMessage ∧ (meet servedRadio).io.pool.noticePending = false
      ∧ (meet servedRadio).waitsAt (chanPort 2) ∧ (meet servedRadio).waitsAt (linkPort 0)
      ∧ sentAt 6 (t away) = [(33, 4)] ∧ (t away).portCounter 6 .noRoute = 1
      ∧ (after (.unitMessage 0) (busy (handing 6 { fromSite12 .unitMessage with hop := 1 } [65] (having away)))).portCounter
          6 .hopExpired
        = 1
      ∧ (t servedRadio).queueOf 2 = [{ handle := 1, cls := .routine, hop := 0, addressing := .unaddressed }]
      ∧ (t { servedRadio with emergency := true }).queueOf 2
        = [{ handle := 1, cls := .priority, hop := 0, addressing := .unaddressed }]
      ∧ (t (radio (.forward { attempt with partner := 9 }))).queueOf 7
        = [{ handle := 1, cls := .routine, hop := 2, addressing := .destination 9 }]
      ∧ (t (departingRadio true)).queueOf 6
        = [{ handle := 1, cls := .routine, hop := 2, addressing := .destination 12 }]
      ∧ cause (t (radio (.arriving attempt))) = 3 ∧ cause (t (radio (.lost 2 1))) = 2
      ∧ cause (after (.unitMessage 0) { meet servedRadio with units := [] }) = 1
      ∧ (t (radio (.lost 2 1))).queueOf 6
        = [{ handle := 2, cls := .routine, hop := 6, addressing := .destination 12 }] := by
  simp only [State.holdsForOwn, State.holds, State.waitsAt]
  decide +kernel

/-! ## Ports -/

/-- A port with a reception in progress, its bytes in buffer 1 when it stores. -/
def receiving (p : PortNo) (r : Reception) (bytes : List Byte) : State :=
  { site7 with
    io :=
      { site7.io with
        pool :=
          { site7.io.pool with
            free := List.range' 2 511
            allocated := [{ handle := 1, refs := 1, bytes := bytes, completion := none }] }
        ports := site7.io.ports.set p.val { Port.initial with reception := r } } }

/-- A whole PROBE from site 12 as it comes from the wire. -/
def wireProbe : List Byte :=
  wireFrame (frameBytes { Header.blank .probe with origin := 12, tag := 1803 } [])
    { handle := 1, cls := .priority, hop := 6, addressing := .unaddressed }

theorem witness_CutFramesAreCounted :
    let s := receiving 6 (.store 1) (List.replicate 256 0)
    let d := receiving 6 (.discard (List.replicate 256 0) .refused) []
    s.resetHeld = false ∧ s.counterLaw ∧ receptionOf 6 s = .store 1 ∧ (bytesOf 1 s.io).length = 256
      ∧ (bufferOf 1 s.io).map Buffer.refs = some 1 ∧ s.io.pool.noticePending = false
      ∧ receptionOf 6 (after (.startDelimiter 6) s) = .header []
      ∧ (after (.startDelimiter 6) s).portCounter 6 .aborted = 1
      ∧ receptionOf 6 (after (.abortSequence 6) s) = .hunt ∧ bufferOf 1 (after (.abortSequence 6) s).io = none
      ∧ (after (.abortSequence 6) s).io.pool.free = List.range' 2 511 ++ [1]
      ∧ receptionOf 6 (after (.frameTooLong 6 5) s) = .hunt ∧ (after (.frameTooLong 6 5) s).portCounter 6 .tooLong = 1
      ∧ receptionOf 6 d = .discard (List.replicate 256 0) .refused
      ∧ (after (.frameTooLong 6 5) d).io.live = d.io.live ∧ receptionOf 6 (after (.frameTooLong 6 5) d) = .hunt := by
  simp only [State.counterLaw]
  decide +kernel

theorem witness_DataBytesFillFrames :
    let s := receiving 6 (.store 1) (List.replicate 255 0)
    let h := receiving 6 (.header (List.replicate 18 0)) []
    let d := receiving 6 (.discard (List.replicate 255 0) .refused) []
    s.resetHeld = false ∧ receptionOf 6 s = .store 1 ∧ (bytesOf 1 s.io).length = 255
      ∧ bytesOf 1 (after (.dataByte 6 9) s).io = List.replicate 255 0 ++ [9]
      ∧ receptionOf 6 h = .header (List.replicate 18 0)
      ∧ after (.dataByte 6 9) h = receiving 6 (.header (List.replicate 18 0 ++ [9])) []
      ∧ receptionOf 6 d = .discard (List.replicate 255 0) .refused
      ∧ after (.dataByte 6 9) d = receiving 6 (.discard (List.replicate 255 0 ++ [9]) .refused) []
      ∧ receptionOf 6 site7 = .hunt ∧ after (.dataByte 6 9) site7 = site7 := by decide +kernel

theorem witness_TwentiethByteDecides :
    let s := receiving 6 (.header (wireProbe.take 19)) []
    let t := after (.frameHeaderComplete 6 0) s
    let few (n : Nat) : State := { s with io := { s.io with pool := { s.io.pool with free := List.range' 2 n } } }
    let poll := receiving 0 (.header ((encodeHeader { Header.blank .pollReply with unit := 5 }).take 19)) []
    s.resetHeld = false ∧ s.counterLaw ∧ receptionOf 6 s = .header (wireProbe.take 19)
      ∧ receptionOf 6 t = .store 2 ∧ bytesOf 2 t.io = wireProbe.take 20
      ∧ receptionOf 6 (after (.frameHeaderComplete 6 0) (few 1)) = .store 2
      ∧ receptionOf 6 (after (.frameHeaderComplete 6 0) (few 0)) = .discard (wireProbe.take 20) .refused
      ∧ (after (.frameHeaderComplete 6 0) (few 0)).portCounter 6 .emptyDrops = 1
      ∧ (after (.frameHeaderComplete 6 0) (few 0)).io.pool.noticePending = true
      ∧ (after (.frameHeaderComplete 0 0)
          { poll with io := { poll.io with pool := { poll.io.pool with free := [3, 4] } } }).portCounter 0 .reserveDrops
        = 1
      ∧ receptionOf 6 (after (.frameHeaderComplete 6 1) s)
        = .discard (wireProbe.take 19 ++ [1]) (.failed { length := true, header := false, hop := false, running := false }) := by
  simp only [State.counterLaw]
  decide +kernel

theorem witness_EndedFrameIsJudged :
    let s := receiving 6 (.store 1) wireProbe
    let bad := receiving 6 (.store 1) (wireProbe.set 21 0)
    let failed (f : HeaderFailures) := receiving 6 (.discard wireProbe (.failed f)) []
    s.resetHeld = false ∧ s.counterLaw ∧ receptionOf 6 s = .store 1
      ∧ (after (.judgeFrame 6) s).handedAt 6 = [first] ∧ (after (.judgeFrame 6) s).portCounter 6 .framesGood = 1
      ∧ crcGood (wireProbe.set 21 0) = false ∧ (after (.judgeFrame 6) bad).portCounter 6 .crcErrors = 1
      ∧ (bufferOf 1 bad.io).map Buffer.refs = some 1 ∧ bad.io.pool.noticePending = false
      ∧ bufferOf 1 (after (.judgeFrame 6) bad).io = none
      ∧ (after (.judgeFrame 6) bad).io.pool.free = List.range' 2 511 ++ [1]
      ∧ (after (.judgeFrame 6) (receiving 6 (.store 1) (wireProbe ++ [0]))).portCounter 6 .lengthErrors = 1
      ∧ (after (.judgeFrame 6) (receiving 6 (.header [1]) [])).portCounter 6 .lengthErrors = 1
      ∧ (after (.judgeFrame 6) (failed { length := false, header := true, hop := true, running := true })).portCounter 6
          .headerErrors = 1
      ∧ (after (.judgeFrame 6) (failed { length := false, header := false, hop := true, running := true })).portCounter 6
          .hopExpired = 1
      ∧ (after (.judgeFrame 6) (failed { length := false, header := false, hop := false, running := true })).portCounter 6
          .notRunning = 1 := by
  simp only [State.counterLaw]
  decide +kernel

/-- A link port's header checks: a unit id of 0, an unknown kind, hop count 0, and a site id above 32. -/
theorem test_header_checks :
    let h := { fromSite12 .hoRequest with hop := 1 }
    let failures (h : Header) : List Bool :=
      let f := headerFailures 6 h site7
      [f.length, f.header, f.hop, f.running]
    failures h = [false, false, false, false] ∧ failures { h with unit := 0 } = [false, true, false, false]
      ∧ failures { h with unit := 0xFFFFFF } = [false, true, false, false]
      ∧ failures { h with kind := 54 } = [false, true, false, false]
      ∧ failures { h with hop := 0 } = [false, false, true, false]
      ∧ failures { h with destination := 33 } = [false, true, false, false]
      ∧ failures { h with origin := 0 } = [false, true, false, false]
      ∧ failures { h with tag := 0x3300 } = [false, true, false, false]
      ∧ failures { h with payloadLength := 1 } = [true, false, false, false]
      ∧ failures { fromSite12 .mgmtReply with payloadLength := 4 } = [false, true, false, false]
      ∧ failures { fromSite12 .hoAccept with channel := 6 } = [false, true, false, false] := by decide +kernel

/-- A ROAM ORDER of unit 1001's attempt 33 being sent at CU2, with a POLL waiting behind it. -/
def sendingOrder : State :=
  let e : Entry := { handle := 1, cls := .priority, hop := 0, addressing := .unaddressed }
  let s := receiving 6 .hunt (frameBytes { Header.blank .roamOrder with unit := 1001 } [12])
  { s with
    units := [departingRadio false]
    io :=
      { s.io with
        pool :=
          { s.io.pool with
            free := List.range' 3 510
            allocated :=
              [{ handle := 1
                 refs := 1
                 bytes := frameBytes { Header.blank .roamOrder with unit := 1001 } [12]
                 completion := some (.roamOrder 1001 33) },
                { handle := 2
                  refs := 1
                  bytes := frameBytes { Header.blank .poll with unit := 1001 } []
                  completion := none }] }
        ports :=
          s.io.ports.set 2
            { Port.initial with
              queue := [{ e with handle := 2, cls := .routine }]
              sending := some { entry := e, frame := [] } } } }

theorem witness_TransmissionCompletes :
    let s := sendingOrder
    let t := after (.transmissionComplete 2) s
    let reply : State :=
      { s with
        io :=
          { s.io with
            restart := .awaitingReply
            pool :=
              { s.io.pool with
                allocated := s.io.pool.allocated.map fun b => { b with completion := some .restartReply } } } }
    (s.io.ports[2].sending).isSome = true ∧ s.counterLaw ∧ completionOf 1 s.io = some (.roamOrder 1001 33)
      ∧ s.io.pool.noticePending = false ∧ (bufferOf 1 s.io).map Buffer.refs = some 1
      ∧ t.units = [departingRadio true] ∧ t.portCounter 2 .transmitted = 1
      ∧ t.io.pool.free = List.range' 3 510 ++ [1] ∧ t.queueOf 2 = []
      ∧ t.io.ports[2].sending.map (fun x => (x.entry.handle, x.frame.length)) = some (2, 22)
      ∧ t.io.ports[2].lastEnd = some .endDelimiter ∧ (after (.transmissionComplete 2) reply).io.restart = .due := by
  simp only [State.counterLaw]
  decide +kernel

theorem witness_SentFrameIsGood :
    let e : Entry := { handle := 1, cls := .priority, hop := 15, addressing := .destination 12 }
    let bs := frameBytes (fromSite12 .unitMessage) [1, 2, 3]
    e.hop < 16 ∧ 20 + (parseHeader bs).payloadLength.toNat ≤ bs.length ∧ (wireFrame bs e).length = 25
      ∧ crcGood (wireFrame bs e) = true ∧ crcGood ((wireFrame bs e).set 20 9) = false := by decide +kernel

/-- Entries of a class, in a queue of a length. -/
def entryOf (cls : FrameClass) (h : Handle) : Entry := { handle := h, cls := cls, hop := 1, addressing := .unaddressed }

/-- CU0 with a queue and a transmission in progress. -/
def queued (q : List Entry) (sending : Option Transmission) : Io :=
  { site7.io with ports := site7.io.ports.set 0 { Port.initial with queue := q, sending := sending } }

theorem witness_QueuePlacesByClass :
    let q := [entryOf .priority 1, entryOf .routine 2, entryOf .routine 3]
    let full := List.replicate 62 (entryOf .priority 1) ++ [entryOf .routine 2, entryOf .routine 3]
    let place (e : Entry) (q : List Entry) (sending : Option Transmission) := placeEntry site7.net 0 e (queued q sending)
    let left (io : Io) := (io.ports[0].queue).map Entry.handle
    (queued q none).pool.noticePending = false ∧ q.length < 64 ∧ full.length = 64
      ∧ q.Pairwise (fun a b => b.isPriority = true → a.isPriority = true)
      ∧ full.Pairwise (fun a b => b.isPriority = true → a.isPriority = true)
      ∧ left (place (entryOf .priority 9) q (some busyWith)) = [1, 9, 2, 3]
      ∧ left (place (entryOf .routine 9) q (some busyWith)) = [1, 2, 3, 9]
      ∧ left (place (entryOf .routine 9) [] none) = []
      ∧ (place (entryOf .routine 9) [] none).ports[0].sending.map (fun x => x.entry.handle) = some 9
      ∧ left (place (entryOf .priority 9) full (some busyWith)) = List.replicate 62 1 ++ [9, 2]
      ∧ place (entryOf .routine 9) full (some busyWith) = countPort 0 .queueDrops (queued full (some busyWith))
      ∧ (place (entryOf .priority 9) full (some busyWith)).live.getD (portCounterNumber 0 .displaced) 0 = 1 := by
  decide +kernel

theorem witness_PoolGrantsAndReleases :
    let one (refs : Nat) (pending : Bool) : Io :=
      { State.reset.io with
        pool :=
          { free := []
            allocated := [{ handle := 1, refs := refs, bytes := [], completion := none }]
            exhaustion := false
            noticePending := pending } }
    bufferOf 1 (one 2 false) ≠ none ∧ (bufferOf 1 (dropReference site7.net 1 (one 2 false))).map Buffer.refs = some 1
      ∧ (dropReference site7.net 1 (one 1 false)).pool.free = [1]
      ∧ State.reset.net.managementSites = [] ∧ (dropReference State.reset.net 1 (one 1 true)).pool.free = [1]
      ∧ (dropReference State.reset.net 1 (one 1 true)).pool.noticePending = false
      ∧ ((dropReference site7.net 1 (one 1 true)).ports[6].sending).isSome = true
      ∧ site7.net.managementSites = [12]
      ∧ (let io := { one 1 true with ports := (busy site7).io.ports }
          let r := dropReference site7.net 1 io
          r.ports[6].queue = [{ handle := 1, cls := .priority, hop := 6, addressing := .destination 12 }]
            ∧ r.pool.free = [] ∧ (bufferOf 1 r).map Buffer.refs = some 1)
      ∧ ((dropReference site7.net 1 (one 1 true)).ports[6].sending).map (fun x => byteAt x.frame 15) = some 3 := by
  decide +kernel

/-! ## The part -/

theorem witness_StepTakesFront :
    let s := { site7 with pending := [.refreshTimerExpiry, .pollTimerExpiry 1] }
    s.pending = Instr.refreshTimerExpiry :: [.pollTimerExpiry 1] ∧ (stepped s).ownSequence = 1
      ∧ (stepped s).pending = [.pollTimerExpiry 1] := by decide +kernel

theorem witness_EveryCommandGoesOn :
    let s := { site7 with resetHeld := true }
    let w := engineOf [] [leftOf #v[0, siteBit 9, 0, 0]] site7
    w.pending = [] ∧ w.io.engine.work ≠ [] ∧ (stepped w).io.engine.work = [] ∧ (stepped w).timeBase = w.timeBase
      ∧ site7.pending = [] ∧ site7.io.engine.work = [] ∧ (stepped site7).timeBase = 100001#48
      ∧ (stepped s).timeBase = 100000#48
      ∧ site7.handedAt 6 = [] ∧ after (.probe 0) site7 = site7 ∧ site7.requests = [] ∧ after .identify site7 = site7
      ∧ (let r := asking 1 [] { site7 with io := { site7.io with restart := .awaitingReply } }
        after .identify r = r)
      ∧ site7.io.ports[4].sending = none ∧ after (.transmissionComplete 4) site7 = site7
      ∧ site7.io.restart = .none ∧ after .restartTakesPlace site7 = site7
      ∧ site7.isThere .refreshTimerExpiry = true ∧ site7.isThere (.hangTimerExpiry 2) = false
      ∧ after (.hangTimerExpiry 2) site7 = site7 ∧ site7.isThere (.frameTooLong 0 1) = false
      ∧ after (.frameTooLong 0 1) site7 = site7
      ∧ (handing 6 (fromSite12 .hoRefuse) [] site7).isThere (.hoRefuse 0) = true
      ∧ (handing 6 (fromSite12 .hoRefuse) [] site7).isThere (.hoAccept 0) = false
      ∧ (asking 9 [0, 0, 1] site7).isThere .readUnit = true ∧ (asking 9 [0, 0, 1] site7).isThere .readUnits = false := by
  decide +kernel

theorem witness_FullResetHoldsAndReleases :
    let s := { site7 with resetHeld := true, pending := [.identify] }
    s.resetHeld = true ∧ after .fullResetEnd s = { State.reset with pending := [.identify] }
      ∧ after .fullReset s = { State.reset with resetHeld := true, pending := [.identify] }
      ∧ occasion (.startDelimiter 3) = .symbol 3 ∧ after (.startDelimiter 3) s = s
      ∧ site7.resetHeld = false ∧ after .fullResetEnd site7 = site7 := by decide +kernel

theorem witness_RestartTakesEffect :
    let s := { sendingOrder with io := { sendingOrder.io with restart := .due } }
    let t := after .restartTakesPlace s
    s.io.restart = .due ∧ t.restartCount = 1 ∧ t.units = [] ∧ t.partState = .running ∧ t.io.pool.free.length = 509
      ∧ t.io.ports[2].lastEnd = some .abortSequence
      ∧ t.link 1 = { link .down 9 1801 (some 100500) with outstanding := true }
      ∧ t.talkgroups = [{ group310 with members := 0, remote := 0 }, group402]
      ∧ t.ownSequence = 1 ∧ t.refreshTimer = some 130000
      ∧ (t.io.ports[6].sending).map (fun x => byteAt x.frame 0) = some 80
      ∧ t.io.pool.free = List.range' 4 509 ∧ t.io.pool.exhaustion = true
      ∧ (List.range 5).map (fun h => (bufferOf h t.io).map Buffer.refs) = [none, some 1, some 1, some 1, none]
      ∧ t.queueOf 6 = [] ∧ t.io.ports[8].sending = none ∧ t.progress = Progress.start := by decide +kernel

/-- Site 7 with a frame handed on and a command waiting. -/
def lawful : State := { handing 6 (fromSite12 .hoRefuse) [] site7 with pending := [.activityTimerExpiry 1001, .hoRefuse 0] }

/-- R16, R18: buffer 1 has its one holder. -/
theorem witness_BufferLawsKept :
    lawful.poolLaw ∧ lawful.referenceLaw ∧ (stepped lawful).units ≠ lawful.units := by
  refine ⟨by simp only [State.poolLaw]; decide +kernel, ⟨by decide +kernel, fun h free => ?_⟩, by decide +kernel⟩
  have other : (1 : Nat) ≠ h := by
    rintro rfl
    revert free
    decide +kernel
  simp [State.references, lawful, handing, site7, State.reset, Engine.idle, Port.initial, Port.references, first, other,
    Vector.toList_set, Vector.toList_replicate, List.replicate]

theorem witness_QueueLawKept : lawful.paramLaw ∧ lawful.queueLaw := by
  have nothing : lawful.io.engine.work = [] := rfl
  simp only [State.paramLaw, Params.inRange, State.queueLaw, priorityFirst, entryFits, nothing, ← and_assoc]
  exact ⟨by decide +kernel, by simp⟩

/-- A frame is left for LK1, which is UP. -/
theorem witness_engineLaw : (engineOf [] [leftOf #v[0, siteBit 9, 0, 0]] site7).engineLaw := by
  simp only [State.engineLaw]
  decide +kernel

theorem witness_RecordLawsKept : lawful.unitLaw ∧ lawful.memberLaw ∧ lawful.remoteLaw := by
  simp only [State.unitLaw, State.memberLaw, memberCount, State.remoteLaw]
  decide +kernel

theorem witness_CallLawKept : lawful.callLaw := by
  simp only [State.callLaw, Channel.lawful, emergencyFirst]
  decide +kernel

theorem witness_LinkLawKept : lawful.paramLaw ∧ lawful.linkLaw := by
  simp only [State.paramLaw, Params.inRange, State.linkLaw, State.linkOk]
  decide +kernel

theorem witness_ManagementLawsKept :
    lawful.paramLaw ∧ lawful.siteLaw ∧ lawful.requestLaw ∧ lawful.counterLaw ∧ lawful.neighborLaw
      ∧ lawful.progressLaw := by
  simp only [State.paramLaw, Params.inRange, State.siteLaw, State.requestLaw, State.counterLaw, State.neighborLaw,
    ← and_assoc]
  exact ⟨by decide +kernel, rfl⟩

/-- The record of unit 1001 meets the Roam Selector's law. -/
theorem witness_RoamLawKept : site7.paramLaw ∧ site7.roamLaw := by
  refine ⟨by simp only [State.paramLaw, Params.inRange]; decide +kernel, ?_⟩
  intro r member
  obtain rfl : r = servedRadio := by simpa [site7] using member
  refine ⟨fun f h => ?_, rfl, fun c h => ?_, by decide⟩
  · obtain rfl : -1360 = f := by simpa [servedRadio, radio] using h
    exact ⟨by decide, by decide⟩
  · simp [servedRadio, radio] at h

theorem witness_rules_over_all_commands :
    let s := handing 6 (fromSite12 .hoRefuse) [] site7
    let c := Instr.hoRefuse 0
    s.counterLaw ∧ occasion c = .handed 6 ∧ s.handedAt 6 = [first] ∧ (after c s).handedAt 6 = []
      ∧ (after c s).counter 9 = 1 ∧ occasion c ≠ .reset ∧ c ≠ .collectCounters := by
  simp only [State.counterLaw]
  decide +kernel

end Sys2Proof.Tests
end

section
/-! PROOFS. A HO REFUSE and a HO CANCEL (R93, R100): letting a frame go sends nothing while no notice is pending, a HO
message from a link is handled on the state from which its frame has been taken, and either command then does one of
two things: it changes the records of one unit and raises one counter, or it counts the message as stale. -/

namespace Sys2Proof.Machine

/-! ## Letting a handed frame go -/

/-- A completion answered UNSENT touches no port (R25). -/
theorem answerUnsent_ports (d : Option Completion) (io : Io) : (answerUnsent d io).ports = io.ports := by
  unfold answerUnsent answerRestart
  split
  · rfl
  · split <;> rfl
  · rfl

/-- Steps 1 to 3 of a release touch no port (R24). -/
theorem dropReferenceQuietly_ports (reserve : Nat) (h : Handle) (io : Io) :
    (dropReferenceQuietly reserve h io).ports = io.ports := by
  unfold dropReferenceQuietly
  split
  · rfl
  · split
    · exact answerUnsent_ports _ io
    · rfl

/-- Steps 1 to 3 of a release keep a notice pending or not, as it was (R24). -/
theorem dropReferenceQuietly_noticePending (reserve : Nat) (h : Handle) (io : Io) :
    (dropReferenceQuietly reserve h io).pool.noticePending = io.pool.noticePending := by
  unfold dropReferenceQuietly
  split
  · rfl
  · split
    · simp only [releaseBuffer, answerUnsent_pool]
    · rfl

/-- With no notice pending a release places no frame (R24, R27). -/
theorem dropReference_ports_of_no_notice (c : Net) (h : Handle) {io : Io} (hn : io.pool.noticePending = false) :
    (dropReference c h io).ports = io.ports := by
  simp only [dropReference, dropReferenceQuietly_noticePending, hn, Bool.and_false, Bool.false_eq_true, if_false,
    dropReferenceQuietly_ports]

/-- Of the device counters sending raises claims sent and internal drops alone (R161). -/
theorem not_sendCounter {d : DevCounter} (claims : d ≠ .claimsSent) (drops : d ≠ .internalDrops) :
    ¬sendCounter d.number := by
  cases d with
  | claimsSent => exact absurd rfl claims
  | internalDrops => exact absurd rfl drops
  | _ => simp [sendCounter, DevCounter.number]

/-- Letting a buffer go leaves every counter that sending does not raise. -/
theorem dropReference_devCounter (d : DevCounter) (hd : ¬sendCounter d.number) (h : Handle) (s : State) :
    (s.onIo fun n => dropReference n h).devCounter d = s.devCounter d :=
  (Moves.dropReference (P := False) False.elim h s.io).kept hd

/-- A counter that is raised, of a part with all its counters (R161). -/
theorem raised_count (c : DevCounter) {s : State} (hs : s.counterLaw) : s.raised c (s.count c) := by
  obtain ⟨⟨len, -⟩, -⟩ := hs
  have bound : c.number < s.io.live.length := by
    rw [len]
    cases c <;> decide
  exact bumpAt_self bound

/-! ## A HO message from a link -/

/-- A HO message for the own site is handled on the state without its frame, whose buffer is then let go (R12, R22). -/
theorem takeHandover_of_holdsForOwn {l : LinkNo} {x : Handed} {k : Kind} {s : State} (f : HoMessage → State → State)
    (hx : s.holdsForOwn l x k) :
    takeHandover l k f s
      = (unlessOwn (s.hoMessage x) (f (s.hoMessage x)) (s.taken (linkPort l))).onIo
          fun n => dropReference n x.handle := by
  obtain ⟨⟨head, kind⟩, agent, own⟩ := hx
  simp only [takeHandover, takeForOwn, takeHanded, head, ownKind, kind, agent, own, Bool.not_false, Bool.and_true,
    beq_self_eq_true, if_true]
  rfl

/-- One from another site goes to its handler (R90). -/
theorem takeHandover_of_other {l : LinkNo} {x : Handed} {k : Kind} {s : State} (f : HoMessage → State → State)
    (hx : s.holdsForOwn l x k) (origin : (s.hoMessage x).origin ≠ s.own) :
    takeHandover l k f s
      = (f (s.hoMessage x) (s.taken (linkPort l))).onIo fun n => dropReference n x.handle := by
  have away : (s.hoMessage x).origin ≠ (s.taken (linkPort l)).own := origin
  rw [takeHandover_of_holdsForOwn f hx, unlessOwn, if_neg away]

/-- A HO message taken at a port has moved the records of one unit at most, has raised one counter, and has left the
rest as it was. -/
structure SettlesFor (p : PortNo) (u : UnitId) (c : DevCounter) (s t : State) : Prop where
  taken : s.tookHanded p t
  frame : t = { s with io := t.io, units := t.units }
  others : s.sameRecordsBut u t
  quiet : s.io.pool.noticePending = false → s.sameSending t
  raised : s.raised c t
  kept : ∀ d : DevCounter, d.number ≠ c.number → ¬sendCounter d.number → t.devCounter d = s.devCounter d

/-- Whatever changes one unit's records alone and raises one counter settles a HO message, when the frame was taken
before it and is let go after it. -/
theorem settlesFor_of_records {p : PortNo} {u : UnitId} {c : DevCounter} {s m : State} (h : Handle)
    (hs : s.counterLaw) (hc : ¬sendCounter c.number)
    (frame : m = { s with io := countDev c (takenAt p s.io), units := m.units })
    (others : s.sameRecordsBut u m) : SettlesFor p u c s (m.onIo fun n => dropReference n h) := by
  have hio : m.io = countDev c (takenAt p s.io) := by rw [frame]
  have ports (q : PortNo) : m.io.ports[q.val] = (takenAt p s.io).ports[q.val] := by rw [hio]; rfl
  have moved := Moves.dropReference (P := False) (c := m.net) False.elim h m.io
  constructor
  case taken =>
    refine ⟨fun q => ?_, fun q => ?_⟩
    · refine (moved.ports q).2.1.trans ?_
      rw [ports, takenAt_port]
      by_cases hq : p = q
      · simp [hq, State.handedAt]
      · simp [hq, Ne.symm hq, State.handedAt]
    · refine (moved.ports q).1.trans ?_
      rw [ports, takenAt_port]
      split <;> rfl
  case frame =>
    rw [frame]
    rfl
  case others => exact others
  case quiet =>
    intro hn q
    have same := dropReference_ports_of_no_notice m.net h (io := m.io) (by rw [hio]; exact hn)
    simp only [State.queueOf, State.onIo, same, ports, takenAt_queue, takenAt_sending, and_self]
  case raised =>
    have up : s.raised c (s.count c) := raised_count c hs
    refine (dropReference_devCounter c hc h m).trans (Eq.trans ?_ up)
    rw [frame]
    rfl
  case kept =>
    intro d hne hd
    refine (dropReference_devCounter d hd h m).trans ?_
    have other : (bumpAt c.number (takenAt p s.io)).live.getD d.number 0 = s.io.live.getD d.number 0 :=
      bumpAt_other hne (takenAt p s.io)
    rw [frame]
    exact other

/-! ## Set aside, returned, deleted -/

variable {p : PortNo} {u : UnitId} {s : State}

/-- A message that is set aside settles for any unit: no record moves (R90). -/
theorem settlesFor_stale (h : Handle) (hs : s.counterLaw) :
    SettlesFor p u .staleHandover s (((s.taken p).count .staleHandover).onIo fun n => dropReference n h) :=
  settlesFor_of_records h hs (not_sendCounter (by decide) (by decide)) rfl fun _ _ => rfl

/-- The record of a failed attempt after its return to SERVED: the entry time and the roam hold start now (R48, R83). -/
def Record.returned (s : State) (ph : Phase) (r : Record) : Record :=
  { r with
    phase := ph
    entryTime := s.timeBase
    roamHold := some (s.timeBase.toNat + s.active.roamHold * 1000) }

/-- Entering a state writes one unit's record and leaves the others (R48). -/
theorem enterPhase_record (u v : UnitId) (ph : Phase) (s : State) :
    (enterPhase u ph s).record v
      = if v = u then (s.record u).map (Record.enter s.timeBase ph) else s.record v :=
  record_modUnit s u v _ fun _ => rfl

/-- Starting the roam hold writes one unit's record and leaves the others (R83). -/
theorem startRoamHold_record (u v : UnitId) (s : State) :
    (startRoamHold u s).record v
      = if v = u then
          (s.record u).map fun r => { r with roamHold := some (s.timeBase.toNat + s.active.roamHold * 1000) }
        else s.record v :=
  record_modUnit s u v _ fun _ => rfl

/-- A failed attempt leaves the records of the other units (R83). -/
theorem attemptFailed_record_other {u v : UnitId} (hv : v ≠ u) (ph : Phase) (s : State) :
    (attemptFailed u (enterPhase u ph s)).record v = s.record v := by
  rw [attemptFailed, count_record, startRoamHold_record, if_neg hv, enterPhase_record, if_neg hv]

/-- The record a failed attempt leaves, when its state changes (R48, R83). -/
theorem attemptFailed_record_self {u : UnitId} {r : Record} {ph : Phase} {s : State} (hr : s.record u = some r)
    (hph : r.phase.number ≠ ph.number) :
    (attemptFailed u (enterPhase u ph s)).record u = some (r.returned s ph) := by
  have entered : r.enter s.timeBase ph = { r with phase := ph, entryTime := s.timeBase } := by
    simp only [Record.enter, beq_iff_eq, hph, if_false]
  rw [attemptFailed, count_record, startRoamHold_record, if_pos rfl, enterPhase_record, if_pos rfl, hr,
    Option.map_some, entered]
  rfl

/-- A failed attempt settles its message under roams failed. -/
theorem settlesFor_attemptFailed (h : Handle) (ph : Phase) (hs : s.counterLaw) :
    SettlesFor p u .roamsFailed s
      ((attemptFailed u (enterPhase u ph (s.taken p))).onIo fun n => dropReference n h) := by
  refine settlesFor_of_records h hs (not_sendCounter (by decide) (by decide)) rfl fun v hv => ?_
  exact attemptFailed_record_other hv ph (s.taken p)

/-- After a removal the unit has no record, and the other units have theirs. -/
theorem removeRecord_record (u v : UnitId) (s : State) :
    (removeRecord u s).record v = if v = u then none else s.record v := by
  simp only [State.record, removeRecord_units, List.find?_filter]
  by_cases hv : v = u
  · simp [hv]
  · rw [if_neg hv]
    congr 1
    funext r
    by_cases hr : r.unit = v <;> simp [hr, hv]

/-- A record that is no member's is deleted without a member report (R52, R66). -/
theorem deleteRecord_of_not_member {r : Record} (hr : s.record u = some r) (hm : r.phase.isMember = false) :
    deleteRecord u s = (removeRecord u s).count .recordsDeleted := by
  simp only [deleteRecord, hr, exitReport, hm, Bool.false_eq_true, if_false]

/-- The removal of a record settles its message under records deleted. -/
theorem settlesFor_removeRecord (h : Handle) (hs : s.counterLaw) :
    SettlesFor p u .recordsDeleted s
      (((removeRecord u (s.taken p)).count .recordsDeleted).onIo fun n => dropReference n h) := by
  refine settlesFor_of_records h hs (not_sendCounter (by decide) (by decide)) rfl fun v hv => ?_
  rw [count_record, removeRecord_record, if_neg hv]
  rfl

/-! ## The two handlers -/

theorem HoMessage.fits_iff (m : HoMessage) (ho : Handover) :
    m.fits ho = true ↔ m.origin = ho.partner ∧ m.id = ho.id := by
  simp [HoMessage.fits]

/-- A HO REFUSE that fits a PROPOSING record fails its attempt (R93). -/
theorem takeRefuse_proposing {m : HoMessage} {r : Record} {ch : ChannelNo} {a : Activity} {ho : Handover}
    (hr : s.record m.unit = some r) (hph : r.phase = .proposing ch a ho) (hf : m.fits ho = true) :
    takeRefuse m s = attemptFailed m.unit (enterPhase m.unit (.served ch a none) s) := by
  simp only [takeRefuse, hr, hph, hf, if_true, unit_of_record s hr, returnFromProposing]

/-- A HO REFUSE that fits no PROPOSING record is stale (R93). -/
theorem takeRefuse_stale {m : HoMessage}
    (h : ∀ r ch a ho, s.record m.unit = some r → r.phase = .proposing ch a ho → ¬m.fits ho = true) :
    takeRefuse m s = s.count .staleHandover := by
  unfold takeRefuse
  split
  · rfl
  · rename_i r hr
    split
    case h_1 ch a ho hph => exact if_neg (h r ch a ho hr hph)
    all_goals rfl

/-- The state in which a HO CANCEL leaves a record whose attempt it ends: SERVED, with the activity of PROPOSING kept
and after DEPARTING with presence afresh (R57, R100). -/
def Phase.cancelled (fresh : Activity) : Phase → Option Phase
  | .proposing ch a _ => some (.served ch a none)
  | .departing ch _ _ => some (.served ch fresh none)
  | .served _ _ _ => none
  | .arriving _ => none
  | .forward _ => none
  | .lost _ _ => none

/-- A cancelled attempt leaves another state than it had. -/
theorem Phase.number_ne_of_cancelled {fresh : Activity} {ph ph' : Phase} (h : ph.cancelled fresh = some ph') :
    ph.number ≠ ph'.number := by
  cases ph with
  | proposing ch a ho =>
    obtain rfl : Phase.served ch a none = ph' := Option.some.inj h
    simp [Phase.number]
  | departing ch ho sent =>
    obtain rfl : Phase.served ch fresh none = ph' := Option.some.inj h
    simp [Phase.number]
  | served | arriving | forward | lost => simp [Phase.cancelled] at h

/-- Of the handovers in progress that of an ARRIVING record is the one that does not return to SERVED. -/
theorem Phase.arriving_of_not_cancelled {fresh : Activity} {ph : Phase} {ho : Handover} (hn : ph.number ≤ 3)
    (hho : ph.handover? = some ho) (hc : ph.cancelled fresh = none) : ph = .arriving ho := by
  cases ph with
  | arriving ho' => exact congrArg Phase.arriving (Option.some.inj hho)
  | served | lost => simp [Phase.handover?] at hho
  | proposing | departing => simp [Phase.cancelled] at hc
  | forward => simp [Phase.number] at hn

/-- A HO CANCEL that fits a PROPOSING or a DEPARTING record fails its attempt (R100). -/
theorem takeCancel_attempt {m : HoMessage} {r : Record} {ho : Handover} {ph : Phase}
    (hr : s.record m.unit = some r) (hho : r.phase.handover? = some ho) (hf : m.fits ho = true)
    (hph : r.phase.cancelled (freshActivity s) = some ph) :
    takeCancel m s = attemptFailed m.unit (enterPhase m.unit ph s) := by
  have hu := unit_of_record s hr
  cases hp : r.phase with
  | proposing ch a ho' =>
    obtain rfl : ho' = ho := by simpa [hp, Phase.handover?] using hho
    obtain rfl : Phase.served ch a none = ph := by simpa [hp, Phase.cancelled] using hph
    simp only [takeCancel, hr, hp, hf, if_true, hu, returnFromProposing]
  | departing ch ho' sent =>
    obtain rfl : ho' = ho := by simpa [hp, Phase.handover?] using hho
    obtain rfl : Phase.served ch (freshActivity s) none = ph := by simpa [hp, Phase.cancelled] using hph
    simp only [takeCancel, hr, hp, hf, if_true, hu, returnFromDeparting]
  | served | arriving | forward | lost => simp [hp, Phase.cancelled] at hph

/-- A HO CANCEL that fits an ARRIVING record removes it (R52, R100). -/
theorem takeCancel_arriving {m : HoMessage} {r : Record} {ho : Handover} (hr : s.record m.unit = some r)
    (hph : r.phase = .arriving ho) (hf : m.fits ho = true) :
    takeCancel m s = (removeRecord m.unit s).count .recordsDeleted := by
  have away : r.phase.isMember = false := by rw [hph]; rfl
  simp only [takeCancel, hr, hph, hf, if_true, unit_of_record s hr, deleteRecord_of_not_member hr away]

/-- A HO CANCEL that fits no handover in progress is stale (R100). -/
theorem takeCancel_stale {m : HoMessage}
    (h : ∀ r ho, s.record m.unit = some r → r.phase.number ≤ 3 → r.phase.handover? = some ho → ¬m.fits ho = true) :
    takeCancel m s = s.count .staleHandover := by
  unfold takeCancel
  split
  · rfl
  · rename_i r hr
    have unfit (ho : Handover) (hn : r.phase.number ≤ 3) (hho : r.phase.handover? = some ho) : ¬m.fits ho = true :=
      h r ho hr hn hho
    cases hp : r.phase with
    | proposing ch a ho => exact if_neg (unfit ho (by simp [hp, Phase.number]) (by simp [hp, Phase.handover?]))
    | departing ch ho sent => exact if_neg (unfit ho (by simp [hp, Phase.number]) (by simp [hp, Phase.handover?]))
    | arriving ho => exact if_neg (unfit ho (by simp [hp, Phase.number]) (by simp [hp, Phase.handover?]))
    | served | forward | lost => rfl

/-! ## The ways a HO message ends -/

section

variable {l : LinkNo} {x : Handed} {k : Kind} {f : HoMessage → State → State}

/-- A HO message from the own site, or that its handler finds stale, is set aside (R90). -/
theorem takeHandover_stale (hx : s.holdsForOwn l x k) (hs : s.counterLaw)
    (hf : (s.hoMessage x).origin ≠ s.own →
      f (s.hoMessage x) (s.taken (linkPort l)) = (s.taken (linkPort l)).count .staleHandover) :
    SettlesFor (linkPort l) (s.hoMessage x).unit .staleHandover s (takeHandover l k f s)
      ∧ (takeHandover l k f s).units = s.units := by
  have aside : takeHandover l k f s
      = ((s.taken (linkPort l)).count .staleHandover).onIo fun n => dropReference n x.handle := by
    by_cases origin : (s.hoMessage x).origin = s.own
    · have here : (s.hoMessage x).origin = (s.taken (linkPort l)).own := origin
      rw [takeHandover_of_holdsForOwn f hx, unlessOwn, if_pos here]
    · rw [takeHandover_of_other f hx origin, hf origin]
  rw [aside]
  exact ⟨settlesFor_stale x.handle hs, rfl⟩

/-- A HO message by which an attempt fails returns its record to SERVED (R83). -/
theorem takeHandover_attemptFailed {r : Record} {ph : Phase} (hx : s.holdsForOwn l x k) (hs : s.counterLaw)
    (origin : (s.hoMessage x).origin ≠ s.own) (hr : s.record (s.hoMessage x).unit = some r)
    (hph : r.phase.number ≠ ph.number)
    (hf : f (s.hoMessage x) (s.taken (linkPort l))
      = attemptFailed (s.hoMessage x).unit (enterPhase (s.hoMessage x).unit ph (s.taken (linkPort l)))) :
    SettlesFor (linkPort l) (s.hoMessage x).unit .roamsFailed s (takeHandover l k f s)
      ∧ (takeHandover l k f s).record (s.hoMessage x).unit = some (r.returned s ph) := by
  rw [takeHandover_of_other f hx origin, hf]
  exact
    ⟨settlesFor_attemptFailed x.handle ph hs, attemptFailed_record_self (s := s.taken (linkPort l)) hr hph⟩

/-- A HO message by which a record is removed leaves its unit without one (R52). -/
theorem takeHandover_removed (hx : s.holdsForOwn l x k) (hs : s.counterLaw)
    (origin : (s.hoMessage x).origin ≠ s.own)
    (hf : f (s.hoMessage x) (s.taken (linkPort l))
      = (removeRecord (s.hoMessage x).unit (s.taken (linkPort l))).count .recordsDeleted) :
    SettlesFor (linkPort l) (s.hoMessage x).unit .recordsDeleted s (takeHandover l k f s)
      ∧ (takeHandover l k f s).record (s.hoMessage x).unit = none := by
  rw [takeHandover_of_other f hx origin, hf]
  refine ⟨settlesFor_removeRecord x.handle hs, ?_⟩
  rw [onIo_record, count_record, removeRecord_record, if_pos rfl]

end

/-! ## The two commands -/

theorem exec_hoRefuse (l : LinkNo) (s : State) :
    exec (.hoRefuse l) s = .next (takeHandover l .hoRefuse takeRefuse s) := rfl

theorem exec_hoCancel (l : LinkNo) (s : State) :
    exec (.hoCancel l) s = .next (takeHandover l .hoCancel takeCancel s) := rfl

/-- What a HO CANCEL leaves of a record whose handover it fits: SERVED again with roams failed raised, or deleted
(R100). -/
def State.endsHandover (s t : State) (u : UnitId) (r : Record) : Prop :=
  (∀ ph, r.phase.cancelled (freshActivity s) = some ph →
      t.record u = some (r.returned s ph) ∧ s.raised .roamsFailed t)
    ∧ ∀ ho, r.phase = .arriving ho → t.record u = none ∧ s.raised .recordsDeleted t

/-- A HO CANCEL that fits a handover in progress ends it and moves no other record (R100). -/
theorem hoCancel_ends {l : LinkNo} {x : Handed} {r : Record} {ho : Handover} (hx : s.holdsForOwn l x .hoCancel)
    (hs : s.counterLaw) (origin : (s.hoMessage x).origin ≠ s.own) (hr : s.record (s.hoMessage x).unit = some r)
    (hn : r.phase.number ≤ 3) (hho : r.phase.handover? = some ho) (hf : (s.hoMessage x).fits ho = true) :
    (∃ c, SettlesFor (linkPort l) (s.hoMessage x).unit c s (takeHandover l .hoCancel takeCancel s))
      ∧ s.endsHandover (takeHandover l .hoCancel takeCancel s) (s.hoMessage x).unit r := by
  cases hph : r.phase.cancelled (freshActivity s) with
  | some ph =>
    obtain ⟨settled, record⟩ :=
      takeHandover_attemptFailed hx hs origin hr (Phase.number_ne_of_cancelled hph)
        (takeCancel_attempt (s := s.taken (linkPort l)) hr hho hf hph)
    refine ⟨⟨_, settled⟩, fun ph' h => ?_, fun ho' h => ?_⟩
    · obtain rfl : ph = ph' := Option.some.inj (hph.symm.trans h)
      exact ⟨record, settled.raised⟩
    · simp [h, Phase.cancelled] at hph
  | none =>
    have arriving : r.phase = .arriving ho := Phase.arriving_of_not_cancelled hn hho hph
    obtain ⟨settled, record⟩ :=
      takeHandover_removed hx hs origin (takeCancel_arriving (s := s.taken (linkPort l)) hr arriving hf)
    refine ⟨⟨_, settled⟩, fun ph' h => ?_, fun _ _ => ⟨record, settled.raised⟩⟩
    simp [h] at hph

end Sys2Proof.Machine

open Sys2Proof Sys2Proof.Machine

/-- Settles O41: the message fits a PROPOSING record and fails its attempt, or it is set aside. -/
theorem hoRefuseReturnsToServed : Obligations.HoRefuseReturnsToServed := by
  intro l x s hx hs m
  refine ⟨_, exec_hoRefuse l s, ?_⟩
  by_cases fits : m.origin ≠ s.own
      ∧ ∃ r ch a ho, s.record m.unit = some r ∧ r.phase = .proposing ch a ho ∧ m.fits ho = true
  · obtain ⟨origin, r, ch, a, ho, hr, hph, hf⟩ := fits
    have moves : r.phase.number ≠ (Phase.served ch a none).number := by simp [hph, Phase.number]
    obtain ⟨settled, record⟩ :=
      takeHandover_attemptFailed hx hs origin hr moves
        (takeRefuse_proposing (s := s.taken (linkPort l)) hr hph hf)
    refine ⟨settled.taken, settled.frame, settled.quiet, ?_, ?_⟩
    · intro r' ch' a' ho' hr' hph' _ _ _
      obtain rfl : r = r' := Option.some.inj (hr.symm.trans hr')
      obtain ⟨rfl, rfl, rfl⟩ := Phase.proposing.inj (hph.symm.trans hph')
      exact ⟨record, settled.others, settled.raised,
        settled.kept .staleHandover (by decide) (not_sendCounter (by decide) (by decide))⟩
    · rintro (own | unfit)
      · exact absurd own origin
      · exact absurd ((m.fits_iff ho).mp hf) (unfit r ch a ho hr hph)
  · obtain ⟨settled, units⟩ :=
      takeHandover_stale hx hs fun origin =>
        takeRefuse_stale fun r ch a ho hr hph hf => fits ⟨origin, r, ch, a, ho, hr, hph, hf⟩
    refine ⟨settled.taken, settled.frame, settled.quiet, ?_, fun _ => ?_⟩
    · intro r ch a ho hr hph origin partner id
      exact absurd ⟨origin, r, ch, a, ho, hr, hph, (m.fits_iff ho).mpr ⟨partner, id⟩⟩ fits
    · exact ⟨units, settled.raised, settled.kept .roamsFailed (by decide) (not_sendCounter (by decide) (by decide))⟩

/-- Settles O43: the message fits a handover in progress and ends it, or it is set aside. -/
theorem hoCancelEndsHandover : Obligations.HoCancelEndsHandover := by
  intro l x s hx hs m returned
  refine ⟨_, exec_hoCancel l s, ?_⟩
  by_cases fits : m.origin ≠ s.own
      ∧ ∃ r ho, s.record m.unit = some r ∧ r.phase.number ≤ 3 ∧ r.phase.handover? = some ho ∧ m.fits ho = true
  · obtain ⟨origin, r, ho, hr, hn, hho, hf⟩ := fits
    obtain ⟨⟨c, settled⟩, servedAgain, deleted⟩ := hoCancel_ends hx hs origin hr hn hho hf
    refine ⟨settled.taken, settled.frame, settled.others, settled.quiet, ?_, ?_⟩
    · intro r' ho' _ hr' _ _ _
      obtain rfl : r = r' := Option.some.inj (hr.symm.trans hr')
      exact ⟨fun ch a hp => servedAgain (.served ch a none) (by simp [hp, Phase.cancelled]),
        fun ch sent hp => servedAgain (.served ch (freshActivity s) none) (by simp [hp, Phase.cancelled]),
        deleted ho'⟩
    · rintro (own | unfit)
      · exact absurd own origin
      · exact absurd ((m.fits_iff ho).mp hf) (unfit r ho hr hn hho)
  · obtain ⟨settled, units⟩ :=
      takeHandover_stale hx hs fun origin =>
        takeCancel_stale fun r ho hr hn hho hf => fits ⟨origin, r, ho, hr, hn, hho, hf⟩
    refine ⟨settled.taken, settled.frame, settled.others, settled.quiet, ?_, fun _ => ⟨units, settled.raised⟩⟩
    intro r ho origin hr hho partner id
    have unfit (hn : r.phase.number ≤ 3) : False :=
      fits ⟨origin, r, ho, hr, hn, hho, (m.fits_iff ho).mpr ⟨partner, id⟩⟩
    exact ⟨fun _ _ hp => (unfit (by simp [hp, Phase.number])).elim,
      fun _ _ hp => (unfit (by simp [hp, Phase.number])).elim,
      fun hp => (unfit (by simp [hp, Phase.number])).elim⟩

end

section
/-! PROOFS. The numbering of the counters (R161): counters that stand in a row among their port's fourteen have
numbers in a row, from the port's first. -/

namespace Sys2Proof.Machine

/-- The numbers of a port's counters are their places, moved up to the port's first number. -/
theorem map_portCounterNumber (p : PortNo) (cs : List PortCounter) :
    cs.map (portCounterNumber p) = (cs.map PortCounter.offset).map ((18 + 14 * p.val) + ·) := by
  simp [portCounterNumber]

theorem map_portCounterNumber_of_offsets {cs : List PortCounter} {n : Nat}
    (places : cs.map PortCounter.offset = List.range n) (p : PortNo) :
    cs.map (portCounterNumber p) = List.range' (18 + 14 * p.val) n := by
  rw [map_portCounterNumber, places, List.range'_eq_map_range]

theorem chanPort_val (n : ChannelNo) : (chanPort n).val = n.val := rfl

theorem linkPort_val (l : LinkNo) : (linkPort l).val = 6 + l.val := Nat.add_comm l.val 6

end Sys2Proof.Machine

open Sys2Proof Sys2Proof.Machine

/-- Settles O18: the device counters' numbers and the places of a port's fourteen counters are read off in R161's
order; a port's numbers then follow from the places. -/
theorem counterNumbers : Obligations.CounterNumbers := by
  refine ⟨?devices, map_portCounterNumber_of_offsets ?places, chanPort_val, linkPort_val, ?last⟩
  case devices => rfl
  case places => rfl
  case last => rfl

end

section
/-! PROOFS. The queue of commands and the two resets (R15): a step is the execution of its command, and what a full
reset leaves is read off `State.reset`. -/

namespace Sys2Proof.Machine

/-- The value of every counter after a full reset (R165). -/
theorem counter_reset (i : Nat) : State.reset.counter i = 0 := by
  simp only [State.counter, State.reset, zeroCounters, List.getD_eq_getElem?_getD, List.getElem?_replicate]
  split <;> rfl

/-- No port of a part that has been reset holds anything (R15, R47). -/
theorem port_reset (p : PortNo) : State.reset.io.ports[p.val] = Port.initial := by
  simp [State.reset]

/-- No channel of a part that has been reset carries a call (R142). -/
theorem channel_reset (n : ChannelNo) : State.reset.channel n = Channel.initial := by
  simp [State.channel, State.reset]

/-- The defaults of R157 lie in their ranges. -/
theorem defaults_inRange : Params.defaults.inRange := by
  refine ⟨by decide, Or.inr (Or.inl rfl)⟩

/-- A full reset leaves every buffer FREE (R28). -/
theorem poolLaw_reset : State.reset.poolLaw := by
  simp [State.poolLaw, State.reset, Pool.initial]

/-- No holder names a buffer after a full reset. -/
theorem references_reset (h : Handle) : State.reset.references h = 0 := by
  simp [State.references, State.reset, Engine.idle, Port.initial, Port.references, Vector.toList_replicate]

theorem referenceLaw_reset : State.reset.referenceLaw :=
  ⟨fun b hb => by simp [State.reset, Pool.initial] at hb, fun h _ => references_reset h⟩

theorem queueLaw_reset : State.reset.queueLaw := by
  refine ⟨fun p => ?_, fun f hf => by simp [State.reset, Engine.idle] at hf⟩
  simp [State.queueOf, port_reset, Port.initial, priorityFirst]

theorem counterLaw_reset : State.reset.counterLaw := by
  have zero : zeroCounters.length = 158 ∧ ∀ n ∈ zeroCounters, n ≤ 65535 :=
    ⟨List.length_replicate, fun n hn => (List.eq_of_mem_replicate hn).le.trans (Nat.zero_le _)⟩
  exact ⟨zero, zero, Nat.zero_le _, Nat.zero_le _⟩

theorem neighborLaw_reset : State.reset.neighborLaw := by
  constructor <;> decide

theorem callLaw_reset : State.reset.callLaw := by
  intro n
  rw [channel_reset]
  simp [Channel.lawful, Channel.initial, Channel.heldIds, emergencyFirst, ChannelPhase.call?]

/-- Every link of a part that has been reset stands at its seed (R152). -/
theorem link_reset (l : LinkNo) : State.reset.link l = Link.initial l.val := by
  match l with
  | 0 | 1 | 2 | 3 => rfl

theorem linkLaw_reset : State.reset.linkLaw := by
  intro l
  have far : State.reset.active.farSite l = 0 := by
    match l with
    | 0 | 1 | 2 | 3 => rfl
  have token : BitVec.ofNat 16 (l.val + 1) ≠ 0#16 := by
    match l with
    | 0 | 1 | 2 | 3 => decide
  simp only [State.linkOk, link_reset, far]
  simpa [Link.initial, State.reset] using token

theorem engineLaw_reset : State.reset.engineLaw := by
  intro f hf
  simp [State.reset, Engine.idle] at hf

end Sys2Proof.Machine

open Sys2Proof Sys2Proof.Machine

/-- Settles O1: on a queue that is not empty `step` is `exec`. -/
theorem stepTakesFront : Obligations.StepTakesFront := by
  intro c rest s h
  simp only [step, h]

/-- Settles O3: the values are those of `State.reset`, and each law holds of a part in which nothing stands. -/
theorem fullResetValues : Obligations.FullResetValues := by
  refine ⟨rfl, rfl, rfl, rfl, rfl, rfl, rfl, rfl, rfl, counter_reset, rfl, rfl, rfl, rfl, rfl, rfl, rfl, rfl, ?ports,
    rfl, rfl, rfl, rfl, rfl, rfl, rfl, rfl, rfl, ?channels, ?links, poolLaw_reset, referenceLaw_reset, queueLaw_reset,
    counterLaw_reset, Nat.zero_le _, rfl, ⟨defaults_inRange, defaults_inRange⟩, ?site, neighborLaw_reset, ?units,
    ?members, ?remotes, ?roams, callLaw_reset, linkLaw_reset, engineLaw_reset⟩
  case ports =>
    intro p
    simp [receptionOf, State.handedAt, State.queueOf, port_reset, Port.initial]
  case channels =>
    intro n
    rw [channel_reset]
    exact ⟨rfl, rfl, rfl⟩
  case links =>
    intro l
    rw [link_reset]
    refine ⟨rfl, rfl, ?_, rfl, rfl, rfl, rfl, rfl, rfl⟩
    have := l.isLt
    simp only [Link.initial, BitVec.toNat_ofNat]
    omega
  case site => exact ⟨fun _ => rfl, fun _ => rfl⟩
  case units => exact ⟨List.Pairwise.nil, List.forall_mem_nil _, List.nodup_nil⟩
  case members => exact ⟨List.Pairwise.nil, List.forall_mem_nil _, List.forall_mem_nil _⟩
  case remotes => exact List.forall_mem_nil _
  case roams => exact List.forall_mem_nil _

/-- Settles O4: the two commands of the reset line are `assertReset` and `releaseReset`, and every symbol is taken by
`whileTaking`. -/
theorem fullResetHoldsAndReleases : Obligations.FullResetHoldsAndReleases := by
  intro s
  refine ⟨⟨_, rfl, rfl⟩, fun held => ⟨_, rfl, if_pos held⟩, fun free => ⟨_, rfl, if_neg (by simp [free])⟩, ?_⟩
  intro c p hc held
  cases c <;> cases hc <;> exact congrArg Host.Outcome.next (if_pos held)

end

section
/-! PROOFS. The written header and the frame on the wire (R1, R2, R6, R13): a field's bytes spell the field, so a header
is read back as it was, and a transmitted frame is its body with the body's CRC behind it. -/

namespace Sys2Proof.Machine

/-! ## Bytes that spell a number (R1) -/

theorem length_beBytes (n v : Nat) : (beBytes n v).length = n := by
  induction n generalizing v with
  | zero => rfl
  | succ n ih => simp [beBytes, ih]

theorem beNat_concat (bs : List Byte) (b : Byte) : beNat (bs ++ [b]) = beNat bs * 256 + b.toNat := by
  simp [beNat, List.foldl_append]

/-- A number is read back from its bytes up to what they can hold. -/
theorem beNat_beBytes (n v : Nat) : beNat (beBytes n v) = v % 256 ^ n := by
  induction n generalizing v with
  | zero => simp [beBytes, beNat, Nat.mod_one]
  | succ n ih =>
    rw [beBytes, beNat_concat, ih, Nat.pow_succ', Nat.mod_mul, BitVec.toNat_ofNat]
    omega

/-- A bit vector field is read back where its bytes stand. -/
theorem ofNat_fieldAt {w n off : Nat} {bs : List Byte} (v : BitVec w) (hw : 2 ^ w = 256 ^ n)
    (h : (bs.drop off).take n = beBytes n v.toNat) : BitVec.ofNat w (fieldAt bs off n) = v := by
  rw [fieldAt, h, beNat_beBytes, Nat.mod_eq_of_lt (hw ▸ v.isLt), BitVec.ofNat_toNat, BitVec.setWidth_eq]

/-! ## The header (R6) -/

theorem length_encodeHeader (h : Header) : (encodeHeader h).length = 20 := rfl

/-- The flags byte keeps class, marker and hop count apart. -/
theorem flagsByte_fields (h : Header) :
    h.flagsByte.getLsbD 7 = h.priority ∧ h.flagsByte.getLsbD 6 = h.emergency ∧ h.flagsByte.setWidth 4 = h.hop := by
  have apart : ∀ (p e : Bool) (n : BitVec 4),
      let b : BitVec 8 := BitVec.ofBool p ++ BitVec.ofBool e ++ 0#2 ++ n
      b.getLsbD 7 = p ∧ b.getLsbD 6 = e ∧ b.setWidth 4 = n := by
    decide
  exact apart h.priority h.emergency h.hop

/-- What is read of a written header, at the head of any bytes. -/
theorem parseHeader_encodeHeader (h : Header) (rest : List Byte) : parseHeader (encodeHeader h ++ rest) = h := by
  obtain ⟨prio, marker, hop⟩ := flagsByte_fields h
  have targets : (parseHeader (encodeHeader h ++ rest)).targets = h.targets := ofNat_fieldAt h.targets rfl rfl
  have unit : (parseHeader (encodeHeader h ++ rest)).unit = h.unit := ofNat_fieldAt h.unit rfl rfl
  have talkgroup : (parseHeader (encodeHeader h ++ rest)).talkgroup = h.talkgroup := ofNat_fieldAt h.talkgroup rfl rfl
  have callId : (parseHeader (encodeHeader h ++ rest)).callId = h.callId := ofNat_fieldAt h.callId rfl rfl
  have tag : (parseHeader (encodeHeader h ++ rest)).tag = h.tag := ofNat_fieldAt h.tag rfl rfl
  calc parseHeader (encodeHeader h ++ rest)
      = { h with
          priority := h.flagsByte.getLsbD 7
          emergency := h.flagsByte.getLsbD 6
          hop := h.flagsByte.setWidth 4
          targets := (parseHeader (encodeHeader h ++ rest)).targets
          unit := (parseHeader (encodeHeader h ++ rest)).unit
          talkgroup := (parseHeader (encodeHeader h ++ rest)).talkgroup
          callId := (parseHeader (encodeHeader h ++ rest)).callId
          tag := (parseHeader (encodeHeader h ++ rest)).tag } := rfl
    _ = h := by rw [prio, marker, hop, targets, unit, talkgroup, callId, tag]

/-- The header of a built frame is the one it was built with, and its length that of the payload. -/
theorem parseHeader_frameBytes (h : Header) (payload : List Byte) :
    parseHeader (frameBytes h payload) = { h with payloadLength := BitVec.ofNat 8 payload.length } :=
  parseHeader_encodeHeader _ payload

/-- The payload behind a written header. -/
theorem payloadOf_encodeHeader (h : Header) (rest : List Byte) :
    payloadOf (encodeHeader h ++ rest) = rest.take h.payloadLength.toNat := by
  rw [payloadOf, parseHeader_encodeHeader]
  exact congrArg _ (List.drop_left (l₁ := encodeHeader h))

theorem payloadOf_frameBytes (h : Header) {payload : List Byte} (fits : payload.length < 256) :
    payloadOf (frameBytes h payload) = payload := by
  rw [frameBytes, payloadOf_encodeHeader, BitVec.toNat_ofNat, Nat.mod_eq_of_lt fits, List.take_length]

/-! ## The frame that is sent (R13) -/

/-- The CRC's two bytes behind a body are read back where they stand (R2). -/
theorem fieldAt_crc (body : List Byte) {off : Nat} (len : body.length = off) :
    fieldAt (body ++ beBytes 2 (crc16 body).toNat) off 2 = (crc16 body).toNat := by
  subst len
  rw [fieldAt, List.drop_left, List.take_of_length_le (length_beBytes 2 _).le, beNat_beBytes]
  exact Nat.mod_eq_of_lt (crc16 body).isLt

/-- The body of a frame that is sent: the header with the entry's fields, and the payload as buffered. -/
def wireBody (bs : List Byte) (e : Entry) : List Byte := encodeHeader (wireHeader e (parseHeader bs)) ++ payloadOf bs

theorem wireFrame_eq (bs : List Byte) (e : Entry) :
    wireFrame bs e = wireBody bs e ++ beBytes 2 (crc16 (wireBody bs e)).toNat := rfl

theorem parseHeader_wireFrame (bs : List Byte) (e : Entry) :
    parseHeader (wireFrame bs e) = wireHeader e (parseHeader bs) := by
  rw [wireFrame_eq, wireBody, List.append_assoc]
  exact parseHeader_encodeHeader _ _

section
variable {bs : List Byte} (whole : 20 + (parseHeader bs).payloadLength.toNat ≤ bs.length) (e : Entry)
include whole

theorem length_payloadOf : (payloadOf bs).length = (parseHeader bs).payloadLength.toNat := by
  simp only [payloadOf, Config.headerBytes, List.length_take, List.length_drop]
  omega

theorem length_wireBody : (wireBody bs e).length = 20 + (parseHeader bs).payloadLength.toNat := by
  rw [wireBody, List.length_append, length_encodeHeader, length_payloadOf whole]

theorem length_wireFrame : (wireFrame bs e).length = 22 + (parseHeader bs).payloadLength.toNat := by
  rw [wireFrame_eq, List.length_append, length_wireBody whole, length_beBytes]
  omega

theorem crcGood_wireFrame : crcGood (wireFrame bs e) = true := by
  have len := length_wireBody whole e
  have front : (wireFrame bs e).take (20 + (parseHeader bs).payloadLength.toNat) = wireBody bs e := by
    rw [wireFrame_eq, ← len, List.take_left]
  have crc : fieldAt (wireFrame bs e) (20 + (parseHeader bs).payloadLength.toNat) 2
      = (crc16 (wireBody bs e)).toNat := fieldAt_crc _ len
  have size : (parseHeader (wireFrame bs e)).payloadLength = (parseHeader bs).payloadLength := by
    rw [parseHeader_wireFrame]
    rfl
  simp only [crcGood, size, front, crc, beq_self_eq_true]

theorem payloadOf_wireFrame : payloadOf (wireFrame bs e) = payloadOf bs := by
  rw [wireFrame_eq, wireBody, List.append_assoc, payloadOf_encodeHeader]
  exact List.take_left' (length_payloadOf whole)

end

end Sys2Proof.Machine

open Sys2Proof Sys2Proof.Machine

/-- Settles O16. -/
theorem headerRoundTrip : Obligations.HeaderRoundTrip :=
  ⟨parseHeader_encodeHeader, fun h p fits => ⟨payloadOf_frameBytes h fits, parseHeader_frameBytes h p⟩⟩

/-- Settles O17: the header of the frame sent is `wireHeader` of the buffered one, and its CRC is that of its body. -/
theorem sentFrameIsGood : Obligations.SentFrameIsGood := by
  intro bs e hop whole sent h
  have header : h = wireHeader e (parseHeader bs) := parseHeader_wireFrame bs e
  refine ⟨length_wireFrame whole e, crcGood_wireFrame whole e, payloadOf_wireFrame whole e, ?_⟩
  rw [header]
  refine ⟨rfl, Nat.mod_eq_of_lt hop, fun n he hn => ?_, fun set he => ?_, fun he => ?_, rfl⟩
  · simp only [wireHeader, he, BitVec.toNat_ofNat, and_true]
    exact Nat.mod_eq_of_lt hn
  · simp only [wireHeader, he, and_self]
  · simp only [wireHeader, he, and_self]

end

section
/-! PROOFS. Site sets and routes (R30, R38, R39): membership in the sets that are built, the route as its two links give
it, and the subsets by which the links divide a target set. -/

namespace Sys2Proof.Machine

/-! ## Site sets -/

theorem siteIdOk_iff {n : Nat} : siteIdOk n = true ↔ 1 ≤ n ∧ n ≤ 32 := by
  rw [siteIdOk, Bool.and_eq_true, decide_eq_true_eq, decide_eq_true_eq, Config.maxSiteId]

theorem hasSite_iff {set : SiteSet} {n : SiteId} :
    hasSite set n = true ↔ siteIdOk n = true ∧ set.getLsbD (n - 1) = true := by
  simp [hasSite]

/-- A site of a set has a site's id. -/
theorem siteIdOk_of_hasSite {set : SiteSet} {n : SiteId} (h : hasSite set n = true) : siteIdOk n = true :=
  (hasSite_iff.mp h).1

@[simp] theorem hasSite_zero (n : SiteId) : hasSite 0#32 n = false := by
  simp [hasSite]

theorem getLsbD_siteBit {m n : Nat} (hm : siteIdOk m = true) (hn : siteIdOk n = true) :
    (siteBit m).getLsbD (n - 1) = decide (n = m) := by
  obtain ⟨m1, m2⟩ := siteIdOk_iff.mp hm
  obtain ⟨n1, n2⟩ := siteIdOk_iff.mp hn
  have below : n - 1 < 32 := by omega
  simp only [siteBit, hm, if_true, BitVec.getLsbD_ofNat, Nat.testBit_two_pow, below, decide_true, Bool.true_and]
  exact decide_eq_decide.mpr (by omega)

/-- A site is placed in a set, and nothing else is. -/
theorem hasSite_addSite (set : SiteSet) (m n : Nat) :
    hasSite (addSite set m) n = true ↔ hasSite set n = true ∨ (siteIdOk m = true ∧ n = m) := by
  cases hm : siteIdOk m with
  | false => simp [addSite, siteBit, hm]
  | true =>
    rw [hasSite_iff, hasSite_iff, addSite, BitVec.getLsbD_or]
    constructor
    · rintro ⟨hn, h⟩
      rw [getLsbD_siteBit hm hn] at h
      simpa [hn] using h
    · rintro (⟨hn, h⟩ | ⟨-, rfl⟩)
      · exact ⟨hn, by simp [h]⟩
      · exact ⟨hm, by simp [getLsbD_siteBit hm hm]⟩

/-- A site is taken out of a set, and nothing else is. -/
theorem hasSite_dropSite (set : SiteSet) (m n : Nat) :
    hasSite (dropSite set m) n = true ↔ hasSite set n = true ∧ n ≠ m := by
  cases hn : siteIdOk n with
  | false => simp [hasSite, hn]
  | true =>
    obtain ⟨n1, n2⟩ := siteIdOk_iff.mp hn
    have below : n - 1 < 32 := by omega
    rw [hasSite_iff, hasSite_iff, dropSite, BitVec.getLsbD_and, BitVec.getLsbD_not]
    cases hm : siteIdOk m with
    | false =>
      have other : n ≠ m := fun h => by simp [h, hm] at hn
      simp [siteBit, hm, below, hn, other]
    | true => rw [getLsbD_siteBit hm hn]; simp [below, and_assoc]

theorem hasSite_foldl_addSite (l : List SiteId) (set : SiteSet) (n : SiteId) :
    hasSite (l.foldl addSite set) n = true ↔ hasSite set n = true ∨ (siteIdOk n = true ∧ n ∈ l) := by
  induction l generalizing set with
  | nil => simp
  | cons m l ih =>
    rw [List.foldl_cons, ih, hasSite_addSite, List.mem_cons]
    constructor
    · rintro ((h | ⟨hm, rfl⟩) | ⟨hn, h⟩)
      · exact Or.inl h
      · exact Or.inr ⟨hm, Or.inl rfl⟩
      · exact Or.inr ⟨hn, Or.inr h⟩
    · rintro (h | ⟨hn, rfl | h⟩)
      · exact Or.inl (Or.inl h)
      · exact Or.inl (Or.inr ⟨hn, rfl⟩)
      · exact Or.inr ⟨hn, h⟩

/-- The set of the listed sites. -/
theorem hasSite_setOf (l : List SiteId) (n : SiteId) : hasSite (setOf l) n = true ↔ siteIdOk n = true ∧ n ∈ l := by
  simp [setOf, hasSite_foldl_addSite]

theorem mem_allSites {n : Nat} : n ∈ allSites ↔ siteIdOk n = true := by
  rw [siteIdOk_iff, allSites, List.mem_range'_1]
  omega

/-- The sites of a set. -/
theorem mem_sitesOf {set : SiteSet} {n : SiteId} : n ∈ sitesOf set ↔ hasSite set n = true := by
  rw [sitesOf, List.mem_filter, mem_allSites]
  exact ⟨fun h => h.2, fun h => ⟨siteIdOk_of_hasSite h, h⟩⟩

theorem nodup_sitesOf (set : SiteSet) : (sitesOf set).Nodup := List.Nodup.filter _ List.nodup_range'

/-- Sets with the same sites are one set. -/
theorem siteSet_ext {a b : SiteSet} (h : ∀ n, hasSite a n = true ↔ hasSite b n = true) : a = b := by
  apply BitVec.eq_of_getLsbD_eq
  intro i hi
  have ok : siteIdOk (i + 1) = true := siteIdOk_iff.mpr ⟨Nat.le_add_left _ _, hi⟩
  have := h (i + 1)
  rw [hasSite_iff, hasSite_iff, Nat.add_sub_cancel] at this
  exact Bool.eq_iff_iff.mpr ⟨fun ha => (this.mp ⟨ok, ha⟩).2, fun hb => (this.mpr ⟨ok, hb⟩).2⟩

theorem siteSet_eq_zero {a : SiteSet} : a = 0 ↔ ∀ n, ¬hasSite a n = true :=
  ⟨fun h n => by simp [h], fun h => siteSet_ext fun n => by simp [h n]⟩

/-! ## Routes (R30) -/

variable (c : Net)

theorem usable_eq_some {l : Option LinkNo} {m : LinkNo} :
    c.usable l = some m ↔ l = some m ∧ c.links[m.val].state = .up := by
  simp [Net.usable, Option.filter_eq_some_iff]

theorem usable_eq_none {l : Option LinkNo} :
    c.usable l = none ↔ ∀ m, l = some m → c.links[m.val].state ≠ .up := by
  simp [Net.usable, Option.filter_eq_none_iff]

/-- The route of a site, by its entry. -/
theorem route_eq_some {site : SiteId} {l : LinkNo} :
    c.route site = some l ↔
      site ≠ c.active.ownSite ∧ ∃ e, findSite site c.sites = some e
        ∧ c.links[l.val].state = .up
        ∧ (e.primary = some l
          ∨ (e.alternate = some l ∧ ∀ k, e.primary = some k → c.links[k.val].state ≠ .up)) := by
  unfold Net.route
  by_cases own : site = c.active.ownSite
  · simp [own]
  · rw [if_neg own]
    simp only [ne_eq, own, not_false_eq_true, true_and]
    cases he : findSite site c.sites with
    | none => simp
    | some e =>
      simp only [Option.some.injEq, exists_eq_left', Option.or_eq_some_iff, usable_eq_some, usable_eq_none]
      tauto

theorem route_own : c.route c.active.ownSite = none := if_pos rfl

/-- A route is a link that is UP. -/
theorem up_of_route {site : SiteId} {l : LinkNo} (h : c.route site = some l) : c.links[l.val].state = .up := by
  obtain ⟨-, -, -, up, -⟩ := (route_eq_some c).mp h
  exact up

/-! ## Target sets by route link (R38) -/

theorem hasSite_sitesVia (set : SiteSet) (l : LinkNo) (n : SiteId) :
    hasSite (c.sitesVia set l) n = true ↔ hasSite set n = true ∧ c.route n = some l := by
  rw [Net.sitesVia, hasSite_setOf, List.mem_filter, mem_sitesOf, beq_iff_eq]
  exact ⟨fun h => h.2, fun h => ⟨siteIdOk_of_hasSite h.1, h⟩⟩

theorem mem_unreachable {set : SiteSet} {n : SiteId} :
    n ∈ c.unreachable set ↔ hasSite set n = true ∧ c.route n = none := by
  rw [Net.unreachable, List.mem_filter, mem_sitesOf, Option.isNone_iff_eq_none]

theorem sitesVia_eq_zero {set : SiteSet} {l : LinkNo} :
    c.sitesVia set l = 0 ↔ ∀ m, hasSite set m = true → c.route m ≠ some l := by
  simp only [siteSet_eq_zero, hasSite_sitesVia, not_and, ne_eq]

/-- A link that routes a site of a set is UP. -/
theorem up_of_sitesVia {set : SiteSet} {l : LinkNo} (h : c.sitesVia set l ≠ 0) : c.links[l.val].state = .up := by
  by_contra down
  exact h ((sitesVia_eq_zero c).mpr fun m _ hm => down (up_of_route c hm))

end Sys2Proof.Machine

open Sys2Proof Sys2Proof.Machine

/-- Settles O26. -/
theorem routesPartitionTargetSets : Obligations.RoutesPartitionTargetSets := by
  intro c
  refine ⟨fun site l => route_eq_some c, fun set l n => ?_⟩
  refine ⟨hasSite_sitesVia c set l n, mem_unreachable c, (nodup_sitesOf set).filter _, ?_, sitesVia_eq_zero c⟩
  rw [← Bool.not_eq_true, hasSite_sitesVia, route_own]
  simp

end

section
/-! PROOFS. The Roam Selector's arithmetic and choice (R74, R75, R80, R81): the truncated step of a filter, the sieve of
a report's pairs, and the trigger as the best of the slots that are ready. -/

namespace Sys2Proof.Machine

/-! ## The filter (R75) -/

/-- A quotient truncated toward zero, by its distance from 0. -/
theorem natAbs_tdiv_sixteen (d : Int) (k : Nat) :
    16 * (Int.tdiv (d * k) 16).natAbs ≤ d.natAbs * k ∧ d.natAbs * k < 16 * (Int.tdiv (d * k) 16).natAbs + 16 := by
  have size : (Int.tdiv (d * k) 16).natAbs = d.natAbs * k / 16 := by
    rw [Int.natAbs_tdiv, Int.natAbs_mul, Int.natAbs_natCast]
    rfl
  rw [size]
  omega

/-- With a weight of 16 a filter takes the level at once. -/
theorem filterStep_sixteen (level f : Int) : filterStep 16 level f = level * 16 := by
  have whole : Int.tdiv ((level * 16 - f) * ((16 : Nat) : Int)) 16 = level * 16 - f :=
    Int.mul_tdiv_cancel _ (by decide)
  rw [filterStep, whole]
  omega

/-! ## The sieve (R74) -/

variable {own : SiteId} {t : List (Option NeighborEntry)}

/-- A pair that the sieve takes, where the sites of the pairs before it have been seen. -/
def sieveTakes (own : SiteId) (t : List (Option NeighborEntry)) (seen : List SiteId) (n : SiteId) : Prop :=
  n ≠ 0 ∧ n ≠ own ∧ (findNeighbor n t).isSome = true ∧ n ∉ seen

theorem sieve_cons_of_takes {seen : List SiteId} {n : SiteId} (level : Int) (rest : List (SiteId × Int))
    (h : sieveTakes own t seen n) :
    sieve own t seen ((n, level) :: rest) = (n, level) :: sieve own t (n :: seen) rest := by
  obtain ⟨zero, away, listed, fresh⟩ := h
  have kept : (decide (n = 0) || decide (n = own) || (findNeighbor n t).isNone || seen.contains n) = false := by
    simp [zero, away, fresh, listed]
  simp only [sieve, kept, Bool.false_eq_true, if_false]

theorem sieve_cons_of_not_takes {seen : List SiteId} {n : SiteId} (level : Int) (rest : List (SiteId × Int))
    (h : ¬sieveTakes own t seen n) :
    sieve own t seen ((n, level) :: rest) = sieve own t (n :: seen) rest := by
  have gone : (decide (n = 0) || decide (n = own) || (findNeighbor n t).isNone || seen.contains n) = true := by
    by_contra kept
    refine h ?_
    simp only [Bool.not_eq_true, Bool.or_eq_false_iff, decide_eq_false_iff_not] at kept
    obtain ⟨⟨⟨zero, away⟩, listed⟩, fresh⟩ := kept
    exact ⟨zero, away, by simpa [Option.isNone_iff_eq_none, Option.isSome_iff_ne_none] using listed, by simpa using fresh⟩
  simp only [sieve, gone, if_true]

/-- What the sieve keeps: listed sites, none seen before, each once. -/
theorem sieve_keeps (pairs : List (SiteId × Int)) (seen : List SiteId) :
    (∀ x ∈ sieve own t seen pairs, sieveTakes own t seen x.1) ∧ ((sieve own t seen pairs).map Prod.fst).Nodup := by
  induction pairs generalizing seen with
  | nil => exact ⟨List.forall_mem_nil _, List.nodup_nil⟩
  | cons pair rest ih =>
    obtain ⟨n, level⟩ := pair
    obtain ⟨taken, distinct⟩ := ih (n :: seen)
    have earlier : ∀ x ∈ sieve own t (n :: seen) rest, sieveTakes own t seen x.1 := fun x hx =>
      let ⟨zero, away, listed, fresh⟩ := taken x hx
      ⟨zero, away, listed, fun h => fresh (List.mem_cons_of_mem _ h)⟩
    by_cases takes : sieveTakes own t seen n
    · rw [sieve_cons_of_takes level rest takes]
      refine ⟨List.forall_mem_cons.mpr ⟨takes, earlier⟩, List.nodup_cons.mpr ⟨?_, distinct⟩⟩
      intro again
      obtain ⟨x, hx, rfl⟩ := List.mem_map.mp again
      exact (taken x hx).2.2.2 (List.mem_cons_self ..)
    · rw [sieve_cons_of_not_takes level rest takes]
      exact ⟨earlier, distinct⟩

/-- The sieve keeps the first pair of a site it takes. -/
theorem mem_sieve_of_first {pairs : List (SiteId × Int)} {seen : List SiteId} {n : SiteId} {level : Int}
    (takes : sieveTakes own t seen n) (first : pairs.find? (fun x => x.1 == n) = some (n, level)) :
    (n, level) ∈ sieve own t seen pairs := by
  induction pairs generalizing seen with
  | nil => cases first
  | cons pair rest ih =>
    obtain ⟨m, level'⟩ := pair
    by_cases same : m = n
    · subst same
      obtain rfl : level' = level := by simpa using first
      rw [sieve_cons_of_takes _ rest takes]
      exact List.mem_cons_self ..
    · have later : rest.find? (fun x => x.1 == n) = some (n, level) := by simpa [same] using first
      obtain ⟨zero, away, listed, fresh⟩ := takes
      have still : sieveTakes own t (m :: seen) n := ⟨zero, away, listed, by simp [fresh, Ne.symm same]⟩
      have kept := ih still later
      by_cases mTakes : sieveTakes own t seen m
      · rw [sieve_cons_of_takes level' rest mTakes]
        exact List.mem_cons_of_mem _ kept
      · rwa [sieve_cons_of_not_takes level' rest mTakes]

/-! ## The trigger (R80, R81) -/

/-- No candidate is preferred to the one that the choice keeps. -/
def noBetter (t : List (Option NeighborEntry)) (serving : Int) (best x : Candidate) : Prop :=
  x.advantage t serving < best.advantage t serving
    ∨ (x.advantage t serving = best.advantage t serving ∧ neighborIndex best.site t ≤ neighborIndex x.site t)

theorem noBetter_refl (serving : Int) (x : Candidate) : noBetter t serving x x := Or.inr ⟨rfl, le_rfl⟩

theorem noBetter_trans {serving : Int} {a b x : Candidate} (h : noBetter t serving a b) (h' : noBetter t serving b x) :
    noBetter t serving a x := by
  unfold noBetter at *
  omega

theorem preferred_iff {serving : Int} {a b : Candidate} : preferred t serving a b = true ↔ ¬noBetter t serving b a := by
  simp only [preferred, noBetter, Bool.or_eq_true, Bool.and_eq_true, decide_eq_true_eq, beq_iff_eq]
  omega

/-- A preferred candidate is no worse. -/
theorem noBetter_of_preferred {serving : Int} {a b : Candidate} (h : preferred t serving a b = true) :
    noBetter t serving a b := by
  simp only [preferred, Bool.or_eq_true, Bool.and_eq_true, decide_eq_true_eq, beq_iff_eq] at h
  unfold noBetter
  omega

/-- The choice among several is one of them, and none of them is better. -/
theorem foldl_preferFirst (serving : Int) (l : List Candidate) (b : Candidate) :
    ∃ x, l.foldl (preferFirst t serving) (some b) = some x ∧ x ∈ b :: l ∧ ∀ y ∈ b :: l, noBetter t serving x y := by
  induction l generalizing b with
  | nil => exact ⟨b, rfl, List.mem_cons_self .., by simpa using noBetter_refl serving b⟩
  | cons a l ih =>
    by_cases h : preferred t serving a b = true
    · obtain ⟨x, hx, mem, best⟩ := ih a
      refine ⟨x, by simpa [preferFirst, h] using hx, List.mem_cons_of_mem _ mem, ?_⟩
      obtain ⟨overA, rest⟩ := List.forall_mem_cons.mp best
      exact List.forall_mem_cons.mpr ⟨noBetter_trans overA (noBetter_of_preferred h), best⟩
    · obtain ⟨x, hx, mem, best⟩ := ih b
      obtain ⟨overB, rest⟩ := List.forall_mem_cons.mp best
      refine ⟨x, by simpa [preferFirst, h] using hx, ?_, ?_⟩
      · rcases List.mem_cons.mp mem with rfl | mem
        · exact List.mem_cons_self ..
        · exact List.mem_cons_of_mem _ (List.mem_cons_of_mem _ mem)
      · have overA : noBetter t serving b a := by
          by_contra worse
          exact h (preferred_iff.mpr worse)
        exact List.forall_mem_cons.mpr ⟨overB, List.forall_mem_cons.mpr ⟨noBetter_trans overB overA, rest⟩⟩

/-- The slots of a record that may set off a handover. -/
def readySlots (c : Net) (t : List (Option NeighborEntry)) (r : Record) (serving : Int) : List Candidate :=
  (r.candidates.filterMap id).filter fun x => eligible c t r serving x && decide (c.active.dwell ≤ x.qualify)

theorem mem_readySlots {c : Net} {r : Record} {serving : Int} {x : Candidate} :
    x ∈ readySlots c t r serving ↔
      some x ∈ r.candidates ∧ (∃ e, findNeighbor x.site t = some e ∧ e.enabled = true)
        ∧ (∃ l, c.route x.site = some l) ∧ r.roamHold = none ∧ r.talking = false
        ∧ (r.emergency = true → serving < 16 * c.active.coverageFloor) ∧ c.active.dwell ≤ x.qualify := by
  have enabled : (findNeighbor x.site t).any NeighborEntry.enabled = true
      ↔ ∃ e, findNeighbor x.site t = some e ∧ e.enabled = true := by
    cases findNeighbor x.site t <;> simp
  simp only [readySlots, eligible, inRescue, List.mem_filter, List.mem_filterMap, id_eq, exists_eq_right,
    Bool.and_eq_true, enabled, Option.isSome_iff_exists, Option.isNone_iff_eq_none, Bool.not_eq_true',
    Bool.or_eq_true, decide_eq_true_eq, and_assoc]
  have spared : (r.emergency = false ∨ serving < 16 * c.active.coverageFloor)
      ↔ (r.emergency = true → serving < 16 * c.active.coverageFloor) := by
    cases r.emergency <;> simp
  rw [spared]

theorem triggerSite_eq {c : Net} {r : Record} {serving : Int} (hs : r.serving = some serving) :
    triggerSite c t r = ((readySlots c t r serving).foldl (preferFirst t serving) none).map Candidate.site := by
  simp only [triggerSite, hs]
  rfl

/-- No trigger is made exactly when no slot is ready; otherwise it names a ready slot that none exceeds. -/
theorem triggerSite_spec {c : Net} {r : Record} {serving : Int} (hs : r.serving = some serving) :
    (triggerSite c t r = none ∧ readySlots c t r serving = [])
      ∨ ∃ x ∈ readySlots c t r serving, triggerSite c t r = some x.site
          ∧ ∀ y ∈ readySlots c t r serving, noBetter t serving x y := by
  rw [triggerSite_eq hs]
  cases readySlots c t r serving with
  | nil => exact Or.inl ⟨rfl, rfl⟩
  | cons b l =>
    obtain ⟨x, hx, mem, best⟩ := foldl_preferFirst (t := t) serving l b
    exact Or.inr ⟨x, mem, congrArg (Option.map Candidate.site) hx, best⟩

end Sys2Proof.Machine

open Sys2Proof Sys2Proof.Machine

/-- Settles O36. -/
theorem filterAndSieve : Obligations.FilterAndSieve := by
  refine ⟨fun k level f hk => ?_, fun own t pairs => ?_⟩
  · have step : filterStep k level f - f = Int.tdiv ((level * 16 - f) * k) 16 := by
      rw [filterStep]
      omega
    obtain ⟨up, down⟩ := filterStep_between k hk level f
    obtain ⟨least, most⟩ := natAbs_tdiv_sixteen (level * 16 - f) k
    exact ⟨up, down, step ▸ least, step ▸ most, filterStep_sixteen level f⟩
  · obtain ⟨taken, distinct⟩ := sieve_keeps (own := own) (t := t) pairs []
    refine ⟨sieve_sublist _ _ _ _, distinct, fun x hx => ?_, fun n zero away listed level first => ?_⟩
    · obtain ⟨zero, away, listed, -⟩ := taken x hx
      exact ⟨zero, away, listed⟩
    · exact mem_sieve_of_first ⟨zero, away, listed, List.not_mem_nil⟩ first

/-- Settles O38: the trigger is the choice among the ready slots. -/
theorem triggerIsTheBestSlot : Obligations.TriggerIsTheBestSlot := by
  intro c t r serving hs ready
  have isReady (x : Candidate) : x ∈ readySlots c t r serving ↔ ready x := mem_readySlots
  simp only [← isReady]
  rcases triggerSite_spec (c := c) (t := t) hs with ⟨none, empty⟩ | ⟨x, mem, site, best⟩
  · simp [none, empty]
  · refine ⟨iff_of_false (by simp [site]) fun no => no x mem, fun n hn => ?_⟩
    exact ⟨x, mem, Option.some.inj (site.symm.trans hn), best⟩

end

section
/-! PROOFS. The pool's buffers and their holders (R16, R18, R23, R24): what each operation on frames does to the buffer
of a handle and to the number of its holders. `balanced extra io` says that every buffer's count is the number of its
holders in the ports and the Forwarding Engine, and `extra` more that the operation in progress holds. -/

namespace Sys2Proof.Machine

/-! ## The buffer of a handle -/

theorem handle_of_bufferOf {h : Handle} {b : Buffer} {io : Io} (hb : bufferOf h io = some b) : b.handle = h := by
  simpa using List.find?_some hb

theorem mem_of_bufferOf {h : Handle} {b : Buffer} {io : Io} (hb : bufferOf h io = some b) : b ∈ io.pool.allocated :=
  List.mem_of_find?_eq_some hb

/-- A change of one buffer that keeps its handle. -/
theorem bufferOf_modBuffer (k h : Handle) (f : Buffer → Buffer) (hf : ∀ b, (f b).handle = b.handle) (io : Io) :
    bufferOf h (modBuffer k f io) = if h = k then (bufferOf h io).map f else bufferOf h io := by
  have found : bufferOf h (modBuffer k f io) = (bufferOf h io).map fun b => if b.handle == k then f b else b := by
    simp only [bufferOf, modBuffer, List.find?_map]
    congr 2
    funext b
    simp only [Function.comp_apply]
    split <;> simp [hf]
  rw [found]
  cases hb : bufferOf h io with
  | none => simp
  | some b =>
    have := handle_of_bufferOf hb
    by_cases hk : h = k <;> simp [this, hk]

theorem bufferOf_takeBuffer (k h : Handle) (rest : List Handle) (io : Io) :
    bufferOf h (takeBuffer k rest io)
      = if h = k then some { handle := k, refs := 1, bytes := [], completion := none } else bufferOf h io := by
  by_cases hk : h = k
  · simp [bufferOf, takeBuffer, hk]
  · simp [bufferOf, takeBuffer, hk, Ne.symm hk]

theorem bufferOf_releaseBuffer (reserve : Nat) (b : Buffer) (h : Handle) (io : Io) :
    bufferOf h (releaseBuffer reserve b io) = if h = b.handle then none else bufferOf h io := by
  simp only [bufferOf, releaseBuffer, answerUnsent_pool, List.find?_filter]
  by_cases hb : h = b.handle
  · simp [hb]
  · rw [if_neg hb]
    congr 1
    funext x
    by_cases hx : x.handle = h <;> simp [hx, hb]

/-- A handle of the free list has no buffer where each handle stands once in the pool. -/
theorem bufferOf_of_free {h : Handle} {io : Io} (hn : io.handles.Nodup) (hf : h ∈ io.pool.free) :
    bufferOf h io = none := by
  rw [bufferOf, List.find?_eq_none]
  intro b hb
  have apart := (List.nodup_append.mp hn).2.2 h hf b.handle (List.mem_map_of_mem hb)
  simpa using Ne.symm apart

/-- A buffer of the pool is the one found by its handle. -/
theorem bufferOf_handle {b : Buffer} {io : Io} (hn : io.handles.Nodup) (hb : b ∈ io.pool.allocated) :
    bufferOf b.handle io = some b := by
  obtain ⟨c, hc⟩ : ∃ c, bufferOf b.handle io = some c := by
    rw [← Option.isSome_iff_exists, bufferOf, List.find?_isSome]
    exact ⟨b, hb, by simp⟩
  have distinct : (io.pool.allocated.map Buffer.handle).Nodup := List.Nodup.of_append_right hn
  rw [hc, List.inj_on_of_nodup_map distinct (mem_of_bufferOf hc) hb (handle_of_bufferOf hc)]

/-! ## The holders of a buffer -/

/-- The references to a buffer that the ports and the Forwarding Engine hold (R18). -/
def Io.references (io : Io) (h : Handle) : Nat :=
  (io.ports.toList.map (Port.references h)).sum + io.engine.work.countP (fun f => f.handle == h)

theorem State_references (s : State) (h : Handle) : s.references h = s.io.references h := rfl

/-- The references to a buffer that a port holds for the frame it is storing and for its transmission. -/
def Port.pinned (h : Handle) (x : Port) : Nat :=
  (if x.reception = .store h then 1 else 0) + x.sending.toList.countP (fun y => y.entry.handle == h)

/-- The references to a buffer that receptions and transmissions hold. -/
def Io.pinned (io : Io) (h : Handle) : Nat := (io.ports.toList.map (Port.pinned h)).sum

theorem pinned_le_references (io : Io) (h : Handle) :
    io.pinned h + io.engine.work.countP (fun f => f.handle == h) ≤ io.references h := by
  refine Nat.add_le_add_right (List.sum_le_sum fun x _ => ?_) _
  unfold Port.pinned Port.references
  omega

/-- A change of one term of a sum. -/
theorem sum_set {l : List Nat} {i : Nat} (hi : i < l.length) (a : Nat) :
    (l.set i a).sum + l[i] = l.sum + a := by
  induction l generalizing i with
  | nil => simp at hi
  | cons b l ih =>
    cases i with
    | zero =>
      simp only [List.set_cons_zero, List.sum_cons, List.getElem_cons_zero]
      omega
    | succ i =>
      have := ih (i := i) (by simpa using hi)
      simp only [List.set_cons_succ, List.sum_cons, List.getElem_cons_succ]
      omega

/-- A change of one port moves the holders by that port's own. -/
theorem references_modPort (p : PortNo) (f : Port → Port) (io : Io) (h : Handle) :
    (modPort p f io).references h + Port.references h io.ports[p.val]
      = io.references h + Port.references h (f io.ports[p.val]) := by
  have hp : p.val < (io.ports.toList.map (Port.references h)).length := by simp [p.isLt]
  have := sum_set hp (Port.references h (f io.ports[p.val]))
  simp only [Io.references, modPort, Vector.toList_set, List.map_set]
  simp only [List.getElem_map, Vector.getElem_toList] at this
  omega

/-- A change of one port moves the pinned references by that port's own. -/
theorem pinned_modPort (p : PortNo) (f : Port → Port) (io : Io) (h : Handle) :
    (modPort p f io).pinned h + Port.pinned h io.ports[p.val] = io.pinned h + Port.pinned h (f io.ports[p.val]) := by
  have hp : p.val < (io.ports.toList.map (Port.pinned h)).length := by simp [p.isLt]
  have := sum_set hp (Port.pinned h (f io.ports[p.val]))
  simp only [Io.pinned, modPort, Vector.toList_set, List.map_set]
  simpa only [List.getElem_map, Vector.getElem_toList] using this

/-- Placing an entry by its class adds it to a queue. -/
theorem perm_insertEntry (e : Entry) (q : List Entry) : (insertEntry e q).Perm (e :: q) := by
  unfold insertEntry
  split
  · refine List.perm_middle.trans (List.Perm.cons e ?_)
    rw [List.takeWhile_append_dropWhile]
  · exact List.perm_append_singleton e q

theorem perm_removeNewestRoutine {q q' : List Entry} {d : Entry} (h : removeNewestRoutine q = some (d, q')) :
    q.Perm (d :: q') := by
  induction q generalizing q' with
  | nil => cases h
  | cons e es ih =>
    simp only [removeNewestRoutine] at h
    split at h
    · rename_i d' q'' hq
      obtain ⟨rfl, rfl⟩ := Prod.mk.inj (Option.some.inj h)
      exact ((ih hq).cons e).trans (List.Perm.swap _ _ _)
    · split at h
      · cases h
      · obtain ⟨rfl, rfl⟩ := Prod.mk.inj (Option.some.inj h)
        exact List.Perm.refl _

/-! ## The balance of references (R18) -/

/-- The reference count of a handle's buffer, 0 for a FREE one. -/
def refsOf (h : Handle) (io : Io) : Nat := ((bufferOf h io).map Buffer.refs).getD 0

/-- What an operation in progress holds beside the holders, and what it owes: a reference that it has dropped, or is
about to, while a reception or a transmission still names the buffer. -/
structure Held where
  more : Handle → Nat
  owed : Handle → Nat

/-- Nothing is held and nothing owed: no operation is in progress. -/
def Held.none : Held := ⟨fun _ => 0, fun _ => 0⟩

/-- One reference more to a buffer, held by the operation in progress. -/
def oneMore (h : Handle) (extra : Held) : Held := { extra with more := fun k => extra.more k + if k = h then 1 else 0 }

@[simp] theorem oneMore_self (h : Handle) (extra : Held) : (oneMore h extra).more h = extra.more h + 1 := by
  simp [oneMore]

@[simp] theorem oneMore_owed (h : Handle) (extra : Held) : (oneMore h extra).owed = extra.owed := rfl

/-- Every handle stands once in the pool, and every buffer's count, never 0, is the number of its holders, with what
the operation in progress holds and but for what it owes; no holder names a FREE buffer. -/
def balanced (extra : Held) (io : Io) : Prop :=
  io.handles.Nodup
    ∧ ∀ h, refsOf h io + extra.owed h = io.references h + extra.more h
      ∧ ((bufferOf h io).isSome = true → 1 ≤ refsOf h io) ∧ extra.owed h ≤ io.pinned h

/-- Between two steps, where no operation is in progress, the balance is the laws of the pool and of the references. -/
theorem balanced_iff (s : State) (hp : s.poolLaw) : balanced .none s.io ↔ s.referenceLaw := by
  have hn : s.io.handles.Nodup := hp.nodup_iff.mpr List.nodup_range'
  constructor
  · rintro ⟨-, each⟩
    refine ⟨fun b hb => ?_, fun h hb => ?_⟩
    · obtain ⟨count, least, -⟩ := each b.handle
      have found := bufferOf_handle hn hb
      simp only [refsOf, found, Option.map_some, Option.getD_some, Option.isSome_some, forall_const, Held.none] at count least
      exact ⟨count, least⟩
    · simpa [refsOf, hb, State_references, eq_comm, Held.none] using (each h).1
  · rintro ⟨allocated, free⟩
    refine ⟨hn, fun h => ?_⟩
    cases hb : bufferOf h s.io with
    | none => simp [refsOf, hb, ← State_references, free h hb, Held.none]
    | some b =>
      obtain ⟨count, least⟩ := allocated b (mem_of_bufferOf hb)
      rw [handle_of_bufferOf hb] at count
      simp only [refsOf, hb, Option.map_some, Option.getD_some, Option.isSome_some, forall_const, ← State_references,
        Held.none]
      omega

/-- The balance reads the pool's handles and buffers and the holders alone. -/
theorem balanced_congr {extra : Held} {a b : Io} (hh : b.handles.Perm a.handles)
    (hb : ∀ h, (bufferOf h b).map Buffer.refs = (bufferOf h a).map Buffer.refs) (hp : b.ports = a.ports)
    (he : b.engine = a.engine) (ha : balanced extra a) : balanced extra b := by
  refine ⟨hh.nodup_iff.mpr ha.1, fun h => ?_⟩
  have refs : refsOf h b = refsOf h a := by rw [refsOf, hb h, refsOf]
  have some : (bufferOf h b).isSome = (bufferOf h a).isSome := by
    simpa only [Option.isSome_map] using congrArg Option.isSome (hb h)
  rw [refs, some, Io.references, Io.pinned, hp, he]
  exact ha.2 h

section
variable {extra : Held} {io : Io}

/-- What is held has a buffer. -/
theorem balanced.isSome (hb : balanced extra io) {h : Handle} (hx : io.pinned h < io.references h + extra.more h) :
    (bufferOf h io).isSome = true := by
  cases hf : bufferOf h io with
  | some b => rfl
  | none =>
    obtain ⟨count, -, owed⟩ := hb.2 h
    simp only [refsOf, hf, Option.map_none, Option.getD_none] at count
    omega

theorem pinned_lt_of_more {h : Handle} (hx : 1 ≤ extra.more h) : io.pinned h < io.references h + extra.more h := by
  have := pinned_le_references io h
  omega

/-- A change of buffers that keeps handle and count keeps the balance. -/
theorem balanced.modBuffer (hb : balanced extra io) (k : Handle) (f : Buffer → Buffer)
    (hf : ∀ b, (f b).handle = b.handle ∧ (f b).refs = b.refs) : balanced extra (Machine.modBuffer k f io) := by
  refine balanced_congr ((Moves.write (P := False) k f (fun b => (hf b).1) io).pool hb.1) (fun h => ?_)
    rfl rfl hb
  rw [bufferOf_modBuffer k h f fun b => (hf b).1]
  split
  · cases bufferOf h io <;> simp [(hf _).2]
  · rfl

/-- One more reference to a buffer, for one more holder. -/
theorem balanced.addReference (hb : balanced extra io) {h : Handle} (hx : io.pinned h < io.references h + extra.more h) :
    balanced (oneMore h extra) (Machine.addReference h io) := by
  obtain ⟨b, hf⟩ := Option.isSome_iff_exists.mp (hb.isSome hx)
  refine ⟨(Moves.addReference (P := False) h io).pool hb.1 |>.nodup_iff.mpr hb.1, fun k => ?_⟩
  have same : (Machine.addReference h io).references k = io.references k := rfl
  have pins : (Machine.addReference h io).pinned k = io.pinned k := rfl
  have count := hb.2 k
  rw [same, pins, Machine.addReference, refsOf, bufferOf_modBuffer h k _ (by intro; rfl)]
  by_cases hk : k = h
  · subst hk
    simp only [refsOf, hf, Option.map_some, Option.getD_some, Option.isSome_some] at count
    simp only [if_true, hf, Option.map_some, Option.getD_some, oneMore_self, oneMore_owed]
    omega
  · simpa [hk, refsOf, oneMore] using count

/-- A holder gives its reference to the operation in progress, or takes one from it. -/
theorem balanced.shift {extra' : Held} {io' : Io} (hb : balanced extra io)
    (hf : io'.pool.free = io.pool.free) (ha : io'.pool.allocated = io.pool.allocated)
    (hr : ∀ h, io'.references h + extra'.more h + extra.owed h = io.references h + extra.more h + extra'.owed h
      ∧ (extra.owed h ≤ io.pinned h → extra'.owed h ≤ io'.pinned h)) : balanced extra' io' := by
  have buffers (h : Handle) : bufferOf h io' = bufferOf h io := by simp only [bufferOf, ha]
  refine ⟨by simpa only [Io.handles, hf, ha] using hb.1, fun h => ?_⟩
  obtain ⟨count, least, owed⟩ := hb.2 h
  obtain ⟨moved, pins⟩ := hr h
  have same : refsOf h io' = refsOf h io := by rw [refsOf, buffers h, refsOf]
  rw [same, buffers h]
  exact ⟨by omega, least, pins owed⟩

/-- A change that leaves the ports as they are. -/
theorem balanced.hand {extra' : Held} {io' : Io} (hb : balanced extra io) (hf : io'.pool.free = io.pool.free)
    (ha : io'.pool.allocated = io.pool.allocated) (hp : io'.ports = io.ports) (ho : extra'.owed = extra.owed)
    (hr : ∀ h, io'.references h + extra'.more h = io.references h + extra.more h) : balanced extra' io' := by
  refine hb.shift hf ha fun h => ?_
  have := hr h
  have pins : io'.pinned h = io.pinned h := by simp only [Io.pinned, hp]
  rw [ho, pins]
  exact ⟨by omega, id⟩

/-- A change that no holder's name is part of. -/
theorem balanced.same {io' : Io} (hb : balanced extra io) (hf : io'.pool.free = io.pool.free)
    (ha : io'.pool.allocated = io.pool.allocated) (hp : io'.ports = io.ports)
    (hw : io'.engine.work = io.engine.work) : balanced extra io' := by
  refine hb.shift hf ha fun h => ?_
  simp only [Io.references, Io.pinned, hp, hw]
  exact ⟨trivial, id⟩

theorem balanced.bumpAt (hb : balanced extra io) (i : Nat) : balanced extra (Machine.bumpAt i io) :=
  hb.same rfl rfl rfl rfl

/-- A port whose change moves no holder's name. -/
theorem balanced.modPort (hb : balanced extra io) (p : PortNo) (f : Port → Port)
    (hf : ∀ h, Port.references h (f io.ports[p.val]) = Port.references h io.ports[p.val]
      ∧ Port.pinned h io.ports[p.val] ≤ Port.pinned h (f io.ports[p.val])) :
    balanced extra (Machine.modPort p f io) := by
  refine hb.shift rfl rfl fun h => ?_
  have moved := references_modPort p f io h
  have pins := pinned_modPort p f io h
  obtain ⟨same, more⟩ := hf h
  exact ⟨by omega, by omega⟩

/-- The transmitter takes the head of the queue, its reference with it (R13). -/
theorem balanced.startTransmission (hb : balanced extra io) (p : PortNo)
    (idle : io.ports[p.val].sending = none) : balanced extra (Machine.startTransmission p io) := by
  unfold Machine.startTransmission
  split
  · exact hb
  · rename_i e q hq
    refine hb.modPort p _ fun h => ?_
    simp only [Port.references, Port.pinned, hq, idle, Option.toList_none, Option.toList_some, List.countP_nil,
      List.countP_cons]
    exact ⟨by omega, by omega⟩

/-- The new buffer has the reference of the operation that asked for it (R19). -/
theorem balanced.takeBuffer (hb : balanced extra io) {h : Handle} {rest : List Handle} (hf : io.pool.free = h :: rest) :
    balanced (oneMore h extra) (Machine.takeBuffer h rest io) := by
  refine ⟨(Moves.take (P := False) h rest io hf).pool hb.1 |>.nodup_iff.mpr hb.1, fun k => ?_⟩
  have same : (Machine.takeBuffer h rest io).references k = io.references k := rfl
  have pins : (Machine.takeBuffer h rest io).pinned k = io.pinned k := rfl
  have count := hb.2 k
  rw [same, pins, refsOf, bufferOf_takeBuffer]
  by_cases hk : k = h
  · subst hk
    have unheld : bufferOf k io = none := bufferOf_of_free hb.1 (by simp [hf])
    simp only [refsOf, unheld, Option.map_none, Option.getD_none] at count
    simp only [if_true, Option.map_some, Option.getD_some, oneMore_self, oneMore_owed]
    omega
  · simpa [hk, refsOf, oneMore] using count

theorem balanced.noteExcess (hb : balanced extra io) (reserve : Nat) :
    balanced extra (Machine.noteExcess reserve io) := hb

theorem balanced.noteEmpty (hb : balanced extra io) : balanced extra (Machine.noteEmpty io) := by
  unfold Machine.noteEmpty
  split <;> exact hb

theorem answerUnsent_pinned (d : Option Completion) (io : Io) (h : Handle) :
    (answerUnsent d io).pinned h = io.pinned h := by
  rw [Io.pinned, answerUnsent_ports, Io.pinned]

theorem answerUnsent_references (d : Option Completion) (io : Io) (h : Handle) :
    (answerUnsent d io).references h = io.references h := by
  rw [Io.references, answerUnsent_ports, answerUnsent_engine, Io.references]

/-- The last reference is dropped with its buffer (R24). -/
theorem balanced.releaseBuffer {h : Handle} {b : Buffer} (hb : balanced (oneMore h extra) io)
    (hf : bufferOf h io = some b) (last : b.refs ≤ 1) (reserve : Nat) :
    balanced extra (Machine.releaseBuffer reserve b io) := by
  obtain rfl := handle_of_bufferOf hf
  refine ⟨(Moves.release (P := False) reserve b io hf).pool hb.1 |>.nodup_iff.mpr hb.1, fun k => ?_⟩
  have same : (Machine.releaseBuffer reserve b io).references k = io.references k :=
    answerUnsent_references b.completion io k
  have pins : (Machine.releaseBuffer reserve b io).pinned k = io.pinned k := answerUnsent_pinned b.completion io k
  have least := pinned_le_references io k
  have count := hb.2 k
  rw [same, pins, refsOf, bufferOf_releaseBuffer]
  by_cases hk : k = b.handle
  · subst hk
    simp only [refsOf, hf, Option.map_some, Option.getD_some, Option.isSome_some, oneMore_self, oneMore_owed] at count
    simp only [if_true, Option.map_none, Option.getD_none, Option.isSome_none, Bool.false_eq_true, false_implies,
      true_and]
    omega
  · simpa [hk, refsOf, oneMore] using count

theorem balanced.dropReferenceQuietly {h : Handle} (hb : balanced (oneMore h extra) io) (reserve : Nat) :
    balanced extra (Machine.dropReferenceQuietly reserve h io) := by
  obtain ⟨b, hf⟩ := Option.isSome_iff_exists.mp (hb.isSome (h := h) (pinned_lt_of_more (by rw [oneMore_self]; omega)))
  unfold Machine.dropReferenceQuietly
  rw [hf]
  simp only
  split
  · rename_i last
    exact hb.releaseBuffer hf last reserve
  · rename_i more
    refine ⟨(Moves.write (P := False) h _ (by intro; rfl) io).pool hb.1 |>.nodup_iff.mpr hb.1, fun k => ?_⟩
    have count := hb.2 k
    rw [refsOf, bufferOf_modBuffer h k _ (by intro; rfl)]
    have same : (Machine.modBuffer h (fun b => { b with refs := b.refs - 1 }) io).references k = io.references k := rfl
    have pins : (Machine.modBuffer h (fun b => { b with refs := b.refs - 1 }) io).pinned k = io.pinned k := rfl
    have least := pinned_le_references io k
    rw [same, pins]
    by_cases hk : k = h
    · subst hk
      simp only [refsOf, hf, Option.map_some, Option.getD_some, oneMore_self, oneMore_owed] at count
      simp only [if_true, hf, Option.map_some, Option.getD_some]
      omega
    · simpa [hk, refsOf, oneMore] using count

end

end Sys2Proof.Machine
end

section
/-! PROOFS. Every operation on frames keeps the balance of references and leaves the Forwarding Engine groups for links
alone that are UP: the two go together in `Carries`, whose operations follow Machine/Pool.lean, Machine/Queues.lean and
Machine/Forwarding.lean. -/

namespace Sys2Proof.Machine

/-- The Forwarding Engine has an entry left for a link alone that is UP (R38). -/
def workUp (links : Vector Link 4) (io : Io) : Prop :=
  ∀ f ∈ io.engine.work, ∀ m : LinkNo, f.groups[m.val] ≠ 0 → links[m.val].state = .up

theorem engineLaw_iff (s : State) : s.engineLaw ↔ workUp s.links s.io := Iff.rfl

/-- What an operation on frames keeps: the balance, with what is held before and what is held after, and the engine's
law. -/
structure Carries (links : Vector Link 4) (before after : Held) (a b : Io) : Prop where
  refs : balanced before a → balanced after b
  work : workUp links a → workUp links b

section
variable {links : Vector Link 4} {extra before after final : Held} {a b io : Io}

theorem Carries.refl : Carries links extra extra a a := ⟨id, id⟩

theorem Carries.trans {d : Io} (h : Carries links before after a b) (h' : Carries links after final b d) :
    Carries links before final a d := ⟨h'.refs ∘ h.refs, h'.work ∘ h.work⟩

/-- An operation that leaves the engine alone. -/
theorem Carries.of_engine (refs : balanced before a → balanced after b) (engine : b.engine = a.engine) :
    Carries links before after a b := ⟨refs, fun h => by simpa only [workUp, engine] using h⟩

/-- Counters are no matter. -/
theorem Carries.live (l : List Nat) : Carries links extra extra io { io with live := l } :=
  .of_engine (fun h => h.same rfl rfl rfl rfl) rfl

theorem Carries.bumpAt (i : Nat) : Carries links extra extra io (Machine.bumpAt i io) := .live _

theorem countPortTimes_live (p : PortNo) (c : PortCounter) (n : Nat) (io : Io) :
    countPortTimes p c n io = { io with live := (countPortTimes p c n io).live } := by
  induction n generalizing io with
  | zero => rfl
  | succ n ih => exact ih (countPort p c io)

theorem countDevTimes_live (c : DevCounter) (n : Nat) (io : Io) :
    countDevTimes c n io = { io with live := (countDevTimes c n io).live } := by
  induction n generalizing io with
  | zero => rfl
  | succ n ih => exact ih (countDev c io)

theorem Carries.countPortTimes (p : PortNo) (c : PortCounter) (n : Nat) :
    Carries links extra extra io (Machine.countPortTimes p c n io) := by
  rw [countPortTimes_live]
  exact .live _

theorem Carries.countLost (lostAt : Option PortNo) (n : Nat) :
    Carries links extra extra io (Machine.countLost lostAt n io) := by
  cases lostAt with
  | some p => exact countPortTimes p .noRoute n
  | none =>
    simp only [Machine.countLost]
    rw [countDevTimes_live]
    exact .live _

theorem Carries.modBuffer (k : Handle) (f : Buffer → Buffer) (hf : ∀ b, (f b).handle = b.handle ∧ (f b).refs = b.refs) :
    Carries links extra extra io (Machine.modBuffer k f io) := .of_engine (fun h => h.modBuffer k f hf) rfl

theorem Carries.modHeader (k : Handle) (f : Header → Header) :
    Carries links extra extra io (Machine.modHeader k f io) := modBuffer k _ fun _ => ⟨rfl, rfl⟩

/-! ## Placing an entry (R41, R42) -/

/-- What may release a reference. -/
def Drops (links : Vector Link 4) (drop : Handle → Io → Io) : Prop :=
  ∀ (h : Handle) (extra : Held) (io : Io), Carries links (oneMore h extra) extra io (drop h io)

/-- The queue takes an entry, and with it the reference held for it. -/
theorem balanced.enqueue {p : PortNo} {e : Entry} (hb : balanced (oneMore e.handle extra) io) :
    balanced extra (Machine.modPort p (fun x => { x with queue := insertEntry e x.queue }) io) := by
  refine hb.shift rfl rfl fun h => ?_
  have moved := references_modPort p (fun x => { x with queue := insertEntry e x.queue }) io h
  have count : (insertEntry e io.ports[p.val].queue).countP (fun y => y.handle == h)
      = (e :: io.ports[p.val].queue).countP (fun y => y.handle == h) := (perm_insertEntry e _).countP_eq _
  have pins := pinned_modPort p (fun x => { x with queue := insertEntry e x.queue }) io h
  simp only [Port.references, count, List.countP_cons, beq_iff_eq] at moved
  simp only [Port.pinned] at pins
  simp only [oneMore, eq_comm (a := h)]
  exact ⟨by omega, by omega⟩

/-- The queue takes an entry in place of its newest routine one, whose reference is then held. -/
theorem balanced.displace {p : PortNo} {e d : Entry} {q : List Entry} (hb : balanced (oneMore e.handle extra) io)
    (hq : removeNewestRoutine io.ports[p.val].queue = some (d, q)) :
    balanced (oneMore d.handle extra) (Machine.modPort p (fun x => { x with queue := insertEntry e q }) io) := by
  refine hb.shift rfl rfl fun h => ?_
  have moved := references_modPort p (fun x => { x with queue := insertEntry e q }) io h
  have new : (insertEntry e q).countP (fun y => y.handle == h) = (e :: q).countP (fun y => y.handle == h) :=
    (perm_insertEntry e _).countP_eq _
  have old : io.ports[p.val].queue.countP (fun y => y.handle == h) = (d :: q).countP (fun y => y.handle == h) :=
    (perm_removeNewestRoutine hq).countP_eq _
  have pins := pinned_modPort p (fun x => { x with queue := insertEntry e q }) io h
  simp only [Port.references, new, old, List.countP_cons, beq_iff_eq] at moved
  simp only [Port.pinned] at pins
  simp only [oneMore, eq_comm (a := h)]
  exact ⟨by omega, by omega⟩

theorem balanced.placeWithRoom {p : PortNo} {e : Entry} (hb : balanced extra io)
    (held : io.pinned e.handle < io.references e.handle + extra.more e.handle) : balanced extra (Machine.placeWithRoom p e io) := by
  have queued : balanced extra
      (Machine.addReference e.handle (Machine.modPort p (fun x => { x with queue := insertEntry e x.queue }) io)) :=
    (hb.addReference held).enqueue (p := p)
  unfold Machine.placeWithRoom
  simp only
  split
  · rename_i idle
    refine queued.startTransmission p ?_
    have here := port_modPort p p (fun x => { x with queue := insertEntry e x.queue }) io
    rw [if_pos rfl] at here
    refine (congrArg Port.sending here).trans ?_
    simpa using (Bool.and_eq_true_iff.mp idle).2
  · exact queued

theorem one_le_oneMore (h : Handle) (extra : Held) : 1 ≤ (oneMore h extra).more h := by
  rw [oneMore_self]
  omega

theorem Carries.placeEntryWith {drop : Handle → Io → Io} (hd : Drops links drop)
    (engine : ∀ h io, (drop h io).engine = io.engine) (p : PortNo) (e : Entry)
    (held : io.pinned e.handle < io.references e.handle + extra.more e.handle) :
    Carries links extra extra io (Machine.placeEntryWith drop p e io) := by
  refine .of_engine (fun hb => ?_) (placeEntryWith_engine engine p e io)
  unfold Machine.placeEntryWith
  simp only
  split
  · exact hb.placeWithRoom held
  · split
    · exact hb.bumpAt _
    · split
      · exact hb.bumpAt _
      · rename_i d q hq
        have counted : balanced (oneMore e.handle extra) (Machine.addReference e.handle (countPort p .displaced io)) :=
          (hb.bumpAt _).addReference held
        exact (hd d.handle extra _).refs (counted.displace (p := p) hq)

variable {c : Net}

theorem Carries.placeForSiteWith {drop : Handle → Io → Io} (hd : Drops links drop)
    (engine : ∀ h io, (drop h io).engine = io.engine) (cls : FrameClass) {h : Handle} (site : SiteId)
    (held : 1 ≤ extra.more h) : Carries links extra extra io (Machine.placeForSiteWith drop c cls h site io) := by
  unfold Machine.placeForSiteWith
  split
  · exact bumpAt _
  · exact placeEntryWith hd engine _ _ (pinned_lt_of_more held)

theorem Carries.placeForSitesWith {drop : Handle → Io → Io} (hd : Drops links drop)
    (engine : ∀ h io, (drop h io).engine = io.engine) (cls : FrameClass) {h : Handle} (sites : List SiteId)
    (held : 1 ≤ extra.more h) : Carries links extra extra io (Machine.placeForSitesWith drop c cls h sites io) := by
  unfold Machine.placeForSitesWith
  induction sites generalizing io with
  | nil => exact .refl
  | cons n ns ih => exact (placeForSiteWith hd engine cls n held).trans ih

/-! ## Releasing a reference (R24, R27) -/

theorem drops_quietly (reserve : Nat) : Drops links (dropReferenceQuietly reserve) := fun h _ io =>
  .of_engine (fun hb => hb.dropReferenceQuietly reserve) (dropReferenceQuietly_engine reserve h io)

theorem Carries.sendPoolExhausted : Carries links extra extra io (Machine.sendPoolExhausted c io) := by
  unfold Machine.sendPoolExhausted
  split
  · exact .refl
  · rename_i h rest hf
    have taken : Carries links extra (oneMore h extra) io
        (Machine.takeBuffer h rest { io with pool := { io.pool with noticePending := false } }) :=
      .of_engine (fun hb => balanced.takeBuffer (io := { io with pool := { io.pool with noticePending := false } })
        (hb.same (io' := { io with pool := { io.pool with noticePending := false } }) rfl rfl rfl rfl) hf) rfl
    have built := taken.trans
      (modBuffer h (fun b => { b with bytes := mgmtNoticeBytes c 3#8 0 0 [] }) fun _ => ⟨rfl, rfl⟩)
    have placed := built.trans (placeForSitesWith (drops_quietly c.active.bufferReserve)
      (dropReferenceQuietly_engine _) .priority c.managementSites (c := c) (one_le_oneMore _ _))
    exact placed.trans (drops_quietly c.active.bufferReserve h extra _)

theorem Carries.dropReference (h : Handle) :
    Carries links (oneMore h extra) extra io (Machine.dropReference c h io) := by
  have quietly := drops_quietly (links := links) c.active.bufferReserve h extra io
  unfold Machine.dropReference
  simp only
  split
  · exact quietly.trans sendPoolExhausted
  · exact quietly

theorem drops (c : Net) : Drops links (Machine.dropReference c) := fun h _ _ => .dropReference h

/-! ## Placing and building (R21, R32 to R37, R44) -/

theorem Carries.placeEntry (p : PortNo) (e : Entry) (held : io.pinned e.handle < io.references e.handle + extra.more e.handle) :
    Carries links extra extra io (Machine.placeEntry c p e io) :=
  placeEntryWith (drops c) (dropReference_engine c) p e held

/-- An entry for what the operation in progress holds. -/
theorem Carries.placeHeld (p : PortNo) (e : Entry) (held : 1 ≤ extra.more e.handle) :
    Carries links extra extra io (Machine.placeEntry c p e io) := placeEntry p e (pinned_lt_of_more held)

theorem Carries.placeForSite (cls : FrameClass) {h : Handle} (site : SiteId) (held : 1 ≤ extra.more h) :
    Carries links extra extra io (Machine.placeForSite c cls h site io) :=
  placeForSiteWith (drops c) (dropReference_engine c) cls site held

theorem Carries.placeForSites (cls : FrameClass) {h : Handle} (sites : List SiteId) (held : 1 ≤ extra.more h) :
    Carries links extra extra io (Machine.placeForSites c cls h sites io) :=
  placeForSitesWith (drops c) (dropReference_engine c) cls sites held

theorem Carries.deliver (n : ChannelNo) (cls : FrameClass) {h : Handle} (held : 1 ≤ extra.more h) :
    Carries links extra extra io (Machine.deliver c n cls h io) := placeHeld _ _ held

theorem Carries.placeReply (arrival : LinkNo) {h : Handle} (site : SiteId) (held : 1 ≤ extra.more h) :
    Carries links extra extra io (Machine.placeReply c arrival h site io) := by
  unfold Machine.placeReply
  split
  · exact bumpAt _
  · exact placeHeld _ _ held

/-- The pool's answer: a granted buffer is held. -/
theorem Carries.allocate (reserve : Nat) (cls : FrameClass) (io : Io) :
    (∀ h, (Machine.allocate reserve cls io).1 = .granted h →
        Carries links extra (oneMore h extra) io (Machine.allocate reserve cls io).2)
      ∧ ((∀ h, (Machine.allocate reserve cls io).1 ≠ .granted h) →
        Carries links extra extra io (Machine.allocate reserve cls io).2) := by
  have noted : Carries links extra extra io (noteExcess reserve io) := .of_engine (fun hb => hb.noteExcess reserve) rfl
  have emptied : Carries links extra extra io (noteEmpty (noteExcess reserve io)) := by
    refine noted.trans (.of_engine (fun hb => hb.noteEmpty) ?_)
    unfold noteEmpty
    split <;> rfl
  unfold Machine.allocate
  simp only
  split
  · exact ⟨fun h eq => (by cases eq), fun _ => emptied⟩
  · rename_i k rest hf
    split
    · exact ⟨fun h eq => (by cases eq), fun _ => noted⟩
    · refine ⟨fun h eq => ?_, fun none => absurd rfl (none k)⟩
      obtain rfl := Allocation.granted.inj eq
      exact noted.trans (.of_engine (fun hb => hb.takeBuffer hf) rfl)

/-- A built frame is held by its builder; a refused one leaves nothing. -/
theorem Carries.buildFrame (hdr : Header) (payload : List Byte) (done : Option Completion) (io : Io) :
    (∀ h, (Machine.buildFrame c hdr payload done io).1 = some h →
        Carries links extra (oneMore h extra) io (Machine.buildFrame c hdr payload done io).2)
      ∧ ((Machine.buildFrame c hdr payload done io).1 = none →
        Carries links extra extra io (Machine.buildFrame c hdr payload done io).2) := by
  obtain ⟨granted, refused⟩ := allocate (links := links) (extra := extra) c.active.bufferReserve hdr.frameClass io
  unfold Machine.buildFrame
  split <;> rename_i eq <;> rw [eq] at granted refused
  · refine ⟨fun h same => ?_, fun none => (by cases none)⟩
    obtain rfl := Option.some.inj same
    refine (granted _ rfl).trans (modBuffer _ _ ?_)
    exact fun _ => ⟨rfl, rfl⟩
  · exact ⟨fun h same => (by cases same), fun _ => (refused (by simp)).trans (bumpAt _)⟩
  · exact ⟨fun h same => (by cases same), fun _ => (refused (by simp)).trans (bumpAt _)⟩

theorem Carries.sendBuilt (hdr : Header) (payload : List Byte) (done : Option Completion) (place : Handle → Io → Io)
    (hp : ∀ (h : Handle) (io : Io), Carries links (oneMore h extra) (oneMore h extra) io (place h io)) :
    Carries links extra extra io (Machine.sendBuilt c hdr payload done place io) := by
  obtain ⟨built, refused⟩ := buildFrame (links := links) (extra := extra) (c := c) hdr payload done io
  unfold Machine.sendBuilt
  split <;> rename_i eq <;> rw [eq] at built refused
  · exact ((built _ rfl).trans (hp _ _)).trans (dropReference _)
  · exact refused rfl

theorem Carries.sendToSite (hdr : Header) (site : SiteId) :
    Carries links extra extra io (Machine.sendToSite c hdr site io) :=
  sendBuilt _ _ _ _ fun _ _ => placeForSite _ _ (one_le_oneMore _ _)

theorem Carries.sendToSites (hdr : Header) (payload : List Byte) (sites : List SiteId) :
    Carries links extra extra io (Machine.sendToSites c hdr payload sites io) := by
  unfold Machine.sendToSites
  split
  · exact .refl
  · exact sendBuilt _ _ _ _ fun _ _ => placeForSites _ _ (one_le_oneMore _ _)

theorem Carries.sendToChannel (n : ChannelNo) (hdr : Header) (payload : List Byte) (done : Option Completion) :
    Carries links extra extra io (Machine.sendToChannel c n hdr payload done io) :=
  sendBuilt _ _ _ _ fun _ _ => deliver _ _ (one_le_oneMore _ _)

theorem Carries.sendLinkLocal (l : LinkNo) (hdr : Header) :
    Carries links extra extra io (Machine.sendLinkLocal c l hdr io) :=
  sendBuilt _ _ _ _ fun _ _ => placeHeld _ _ (one_le_oneMore _ _)

theorem Carries.sendMgmtNotice (subcode : Byte) (unit talkgroup : Nat) (payload : List Byte) :
    Carries links extra extra io (Machine.sendMgmtNotice c subcode unit talkgroup payload io) := sendToSites _ _ _

theorem Carries.sendUnreachable (cause : Byte) (emergency : Bool) (msg : Header) :
    Carries links extra extra io (Machine.sendUnreachable c cause emergency msg io) := sendToSite _ _

theorem Carries.forwardSingle (l : LinkNo) {h : Handle} (hdr : Header) (site : SiteId) (held : 1 ≤ extra.more h) :
    Carries links extra extra io (Machine.forwardSingle c l h hdr site io) := by
  unfold Machine.forwardSingle
  split
  · exact bumpAt _
  · split
    · simp only
      split
      · exact (bumpAt _).trans (sendUnreachable _ _ _)
      · exact bumpAt _
    · exact placeHeld _ _ held

/-! ## Target sets (R38, R39) -/

theorem Carries.placeSubsets {h : Handle} (cls : FrameClass) (hop : Nat) (set : SiteSet) (held : 1 ≤ extra.more h) :
    Carries links extra extra io (Machine.placeSubsets c h cls hop set io) := by
  unfold Machine.placeSubsets
  generalize [(0 : LinkNo), 1, 2, 3] = ls
  induction ls generalizing io with
  | nil => exact .refl
  | cons l ls ih =>
    refine Carries.trans ?_ ih
    unfold Machine.placeSubset
    simp only
    split
    · exact .refl
    · exact placeHeld _ _ held

/-- The groups of a frame are for links that are UP. -/
def Fanout.up (links : Vector Link 4) (f : Fanout) : Prop :=
  ∀ m : LinkNo, f.groups[m.val] ≠ 0 → links[m.val].state = .up

/-- A placement leaves the frame its buffer and no new group. -/
theorem placeGroup_fst (f : Fanout) (io : Io) :
    (Machine.placeGroup c f io).1.handle = f.handle
      ∧ (f.up links → (Machine.placeGroup c f io).1.up links) := by
  unfold Machine.placeGroup
  split
  · exact ⟨rfl, id⟩
  · rename_i l _
    refine ⟨rfl, fun up m hm => up m ?_⟩
    simp only [Vector.getElem_set] at hm
    split at hm
    · exact absurd rfl hm
    · exact hm

theorem Carries.placeGroup (f : Fanout) (held : io.pinned f.handle < io.references f.handle + extra.more f.handle) :
    Carries links extra extra io (Machine.placeGroup c f io).2 := by
  unfold Machine.placeGroup
  split
  · exact .refl
  · exact placeEntry _ _ held

theorem Carries.placeGroups (n : Nat) (f : Fanout) (held : 1 ≤ extra.more f.handle) :
    Carries links extra extra io (Machine.placeGroups c n f io).2
      ∧ (Machine.placeGroups c n f io).1.handle = f.handle
      ∧ (f.up links → (Machine.placeGroups c n f io).1.up links) := by
  induction n generalizing f io with
  | zero => exact ⟨.refl, rfl, id⟩
  | succ n ih =>
    obtain ⟨handle, up⟩ := placeGroup_fst (links := links) (c := c) f io
    obtain ⟨rest, handles, ups⟩ :=
      ih (Machine.placeGroup c f io).1 (io := (Machine.placeGroup c f io).2) (handle.symm ▸ held)
    exact ⟨(placeGroup f (pinned_lt_of_more held)).trans rest, handles.trans handle, ups ∘ up⟩

/-- The engine takes a frame up with the reference that is held for it. -/
theorem balanced.joinWork {f : Fanout} {e : Engine} (hb : balanced (oneMore f.handle extra) io)
    (hw : e.work = io.engine.work ++ [f]) : balanced extra { io with engine := e } := by
  refine hb.hand rfl rfl rfl rfl fun h => ?_
  simp only [Io.references, hw, List.countP_append, List.countP_singleton, oneMore, beq_iff_eq, eq_comm (a := h)]
  omega

theorem Carries.takeUp (f : Fanout) (held : 1 ≤ extra.more f.handle) (up : f.up links) :
    Carries links extra extra io (Machine.takeUp c f io) := by
  unfold Machine.takeUp
  split
  · exact .refl
  · simp only
    generalize (if io.engine.work.isEmpty = true then _ else _) = n
    generalize hio : ({ io with engine := { io.engine with atOnce := io.engine.atOnce.tail } } : Io) = start
    have begun : Carries links extra extra io start := by
      subst hio
      exact ⟨fun hb => hb.same rfl rfl rfl rfl, id⟩
    obtain ⟨placed, handle, ups⟩ := placeGroups (links := links) (c := c) (io := start) n f held
    have done := begun.trans placed
    generalize Machine.placeGroups c n f start = r at done handle ups
    split
    · exact done
    · refine done.trans ⟨fun hb => ?_, fun hw g hg => ?_⟩
      · have counted := hb.addReference (h := f.handle) (pinned_lt_of_more held)
        rw [← handle] at counted ⊢
        exact counted.joinWork rfl
      · rcases List.mem_append.mp hg with old | new
        · exact hw g old
        · obtain rfl := List.mem_singleton.mp new
          exact ups up

theorem Carries.fanOutSet {h : Handle} (cls : FrameClass) (hop : Option Nat) (lostAt : Option PortNo) (set : SiteSet)
    (held : 1 ≤ extra.more h) : Carries c.links extra extra io (Machine.fanOutSet c h cls hop lostAt set io) := by
  unfold Machine.fanOutSet
  split
  · exact placeSubsets _ _ _ held
  · refine takeUp _ held fun m hm => up_of_sitesVia c (set := set) ?_
    simpa only [Net.groups, Vector.getElem_ofFn] using hm

theorem Carries.forwardTargets (l : LinkNo) {h : Handle} (hdr : Header) (held : 1 ≤ extra.more h) :
    Carries c.links extra extra io (Machine.forwardTargets c l h hdr io) := by
  unfold Machine.forwardTargets
  simp only
  split
  · exact .refl
  · split
    · exact bumpAt _
    · exact (countLost _ _).trans (fanOutSet _ _ _ _ held)

theorem Carries.offerTargets (lostAt : Option PortNo) {h : Handle} (cls : FrameClass) (targets : SiteSet)
    (held : 1 ≤ extra.more h) : Carries c.links extra extra io (Machine.offerTargets c lostAt h cls targets io) :=
  ((modHeader h c.fromOwn).trans (countLost _ _)).trans (fanOutSet _ _ _ _ held)

theorem Carries.offerReceived (n : ChannelNo) {h : Handle} (targets : SiteSet) (held : 1 ≤ extra.more h) :
    Carries c.links extra extra io (Machine.offerReceived c n h targets io) := offerTargets _ _ _ held

theorem Carries.offerBuilt (hdr : Header) (targets : SiteSet) :
    Carries c.links extra extra io (Machine.offerBuilt c hdr targets io) :=
  sendBuilt _ _ _ _ fun _ _ => offerTargets _ _ _ (one_le_oneMore _ _)

/-! ## The engine's own turns and the loss of a link (R38, R46) -/

/-- The references of several holders that have been taken over by the operation in progress. -/
def allMore (l : List Handle) (extra : Held) : Held := l.foldr oneMore extra

theorem allMore_owed (l : List Handle) (extra : Held) : (allMore l extra).owed = extra.owed := by
  induction l with
  | nil => rfl
  | cons k l ih => exact ih

theorem allMore_apply (l : List Handle) (extra : Held) (h : Handle) :
    (allMore l extra).more h = extra.more h + l.count h := by
  induction l with
  | nil => rfl
  | cons k l ih =>
    have step : (allMore (k :: l) extra).more h = (allMore l extra).more h + if h = k then 1 else 0 := rfl
    rw [step, ih, List.count_cons]
    simp only [beq_iff_eq, eq_comm (a := k)]
    omega

/-- Several references are dropped one after another. -/
theorem Carries.dropAll {α : Type} (handle : α → Handle) (gone : List α) :
    Carries links (allMore (gone.map handle) extra) extra io
      (gone.foldl (fun io x => Machine.dropReference c (handle x) io) io) := by
  induction gone generalizing io with
  | nil => exact .refl
  | cons x xs ih => exact (dropReference (handle x)).trans ih

/-- The entries of a list that fail a condition and those that meet it. -/
theorem countP_filter_split {α : Type} (p keep : α → Bool) (l : List α) :
    (l.filter keep).countP p + (l.filter fun x => !keep x).countP p = l.countP p := by
  induction l with
  | nil => rfl
  | cons x l ih => cases hk : keep x <;> simp only [List.filter_cons, hk, Bool.not_true, Bool.not_false, if_true,
      Bool.false_eq_true, if_false, List.countP_cons] <;> omega

theorem count_map_handle {α : Type} (handle : α → Handle) (l : List α) (h : Handle) :
    (l.map handle).count h = l.countP fun x => handle x == h := by
  rw [List.count, List.countP_map]
  rfl

theorem Carries.flushQueue (l : LinkNo) : Carries links extra extra io (Machine.flushQueue c l io) := by
  unfold Machine.flushQueue
  simp only
  refine Carries.trans ?_ (dropAll Entry.handle _)
  refine Carries.trans ?_ (countPortTimes _ _ _)
  refine .of_engine (fun hb => hb.shift rfl rfl fun h => ?_) rfl
  have moved := references_modPort (linkPort l)
    (fun x => { x with queue := io.ports[(linkPort l).val].queue.filter (isProbeEntry io) }) io h
  have split := countP_filter_split (fun e : Entry => e.handle == h) (isProbeEntry io)
    io.ports[(linkPort l).val].queue
  have pins := pinned_modPort (linkPort l)
    (fun x => { x with queue := io.ports[(linkPort l).val].queue.filter (isProbeEntry io) }) io h
  simp only [Port.references] at moved
  simp only [Port.pinned] at pins
  rw [allMore_apply, allMore_owed, count_map_handle]
  exact ⟨by omega, by omega⟩

theorem Carries.engineTurn : Carries links extra extra io (Machine.engineTurn c io) := by
  unfold Machine.engineTurn
  split
  · exact .refl
  · rename_i f rest hw
    have held : io.pinned f.handle < io.references f.handle + extra.more f.handle := by
      have pins := pinned_le_references io f.handle
      simp only [hw, List.countP_cons, beq_self_eq_true, if_true] at pins
      omega
    have placed := placeGroup (links := links) (c := c) f held
    obtain ⟨handle, ups⟩ := placeGroup_fst (links := links) (c := c) f io
    have work : (Machine.placeGroup c f io).2.engine.work = f :: rest := by rw [placeGroup_engine, hw]
    simp only
    generalize Machine.placeGroup c f io = r at placed handle ups work
    refine placed.trans ?_
    split
    · refine Carries.trans (after := oneMore f.handle extra) ?_ (dropReference f.handle)
      refine ⟨fun hb => hb.hand rfl rfl rfl rfl fun h => ?_, fun up g hg => up g ?_⟩
      · simp only [Io.references, work, List.countP_cons, beq_iff_eq, oneMore, eq_comm (a := h)]
        omega
      · rw [work]
        exact List.mem_cons_of_mem _ hg
    · refine ⟨fun hb => hb.hand rfl rfl rfl rfl fun h => ?_, fun up g hg => ?_⟩
      · simp only [Io.references, work, List.countP_cons, handle]
      · rcases List.mem_cons.mp hg with rfl | hg
        · exact ups (up f (by simp [work]))
        · exact up g (by simp [work, hg])

/-- A link has been lost, and the engine's law holds but for it. -/
def workUpBut (l : LinkNo) (links : Vector Link 4) (io : Io) : Prop :=
  ∀ f ∈ io.engine.work, ∀ m : LinkNo, m ≠ l → f.groups[m.val] ≠ 0 → links[m.val].state = .up

/-- Routing anew takes every group off the lost link, for links alone that are UP. -/
theorem workUp_rerouteWork {l : LinkNo} (h : workUpBut l c.links io) : workUp c.links (rerouteWork c l io) := by
  intro g hg m hm
  rw [rerouteWork_engine] at hg
  obtain ⟨f, hf, rfl⟩ := List.mem_map.mp (List.mem_filter.mp hg).1
  rw [Fanout.reroute_groups] at hm
  by_cases via : c.sitesVia f.groups[l.val] m = 0
  · by_cases lost : m = l
    · subst lost
      simp [via] at hm
    · refine h f hf m lost ?_
      simpa [via, lost] using hm
  · exact up_of_sitesVia c via

theorem balanced.rerouteWork (hb : balanced extra io) (l : LinkNo) : balanced extra (Machine.rerouteWork c l io) := by
  unfold Machine.rerouteWork
  simp only
  refine (Carries.dropAll (links := c.links) Fanout.handle _).refs ?_
  have live (count : Fanout → Nat) (work : List Fanout) :
      ∀ io : Io, balanced extra io → balanced extra (work.foldl (fun io f => countLost f.lostAt (count f) io) io) := by
    induction work with
    | nil => exact fun _ hb => hb
    | cons f fs ih => exact fun io hb => ih _ ((Carries.countLost (links := c.links) f.lostAt (count f)).refs hb)
  refine (live _ io.engine.work io hb).hand rfl rfl rfl (allMore_owed _ _) fun h => ?_
  have split := countP_filter_split (fun f : Fanout => f.handle == h) Fanout.isDone
    (io.engine.work.map (Fanout.reroute c l))
  have whole : (io.engine.work.map (Fanout.reroute c l)).countP (fun f => f.handle == h)
      = io.engine.work.countP (fun f => f.handle == h) := by
    rw [List.countP_map]
    rfl
  rw [allMore_apply, count_map_handle]
  simp only [Io.references, countWork_engine]
  omega

end

end Sys2Proof.Machine
end

section
/-! PROOFS. What the Unit Table, the Handover Controller and the Membership Controller do to a state, operation by
operation: each runs within its frame, keeps the balance of references and keeps the Forwarding Engine's law. `Runs F`
says the three at once for a frame `F`. -/

namespace Sys2Proof.Machine

/-- A relation of states that says what an operation leaves as it was, frames, buffers and queues apart. -/
structure FrameOf (F : State → State → Prop) : Prop where
  refl : ∀ s, F s s
  trans : ∀ {s t u}, F s t → F t u → F s u
  io : ∀ s (io : Io), F s { s with io := io }

/-- An operation stays within a frame, keeps the balance of references beside those held, and keeps the engine's law. -/
structure Runs (F : State → State → Prop) (extra : Held) (s t : State) : Prop where
  frame : F s t
  refs : balanced extra s.io → balanced extra t.io
  work : workUp s.links s.io → workUp t.links t.io

section
variable {F : State → State → Prop} {extra : Held} {s t : State}

theorem Runs.refl (hF : FrameOf F) (s : State) : Runs F extra s s := ⟨hF.refl s, id, id⟩

theorem Runs.trans (hF : FrameOf F) {u : State} (h : Runs F extra s t) (h' : Runs F extra t u) : Runs F extra s u :=
  ⟨hF.trans h.frame h'.frame, h'.refs ∘ h.refs, h'.work ∘ h.work⟩

/-- Within a wider frame. -/
theorem Runs.mono {G : State → State → Prop} (h : Runs F extra s t) (hG : F s t → G s t) : Runs G extra s t :=
  ⟨hG h.frame, h.refs, h.work⟩

/-- A change of fields that neither frames nor the engine's law reads. -/
theorem Runs.fields (frame : F s t) (io : t.io = s.io) (links : t.links = s.links) : Runs F extra s t :=
  ⟨frame, fun h => io ▸ h, fun h => by simpa only [io, links] using h⟩

theorem Runs.onIo (hF : FrameOf F) (f : Net → Io → Io) (h : Carries s.links extra extra s.io (f s.net s.io)) :
    Runs F extra s (s.onIo f) := ⟨hF.io s _, h.refs, h.work⟩

theorem Runs.count (hF : FrameOf F) (c : DevCounter) : Runs F extra s (s.count c) := .onIo hF _ (.bumpAt _)

/-! ## The frames -/

theorem frameOf_units : FrameOf State.sameButUnits where
  refl _ := rfl
  trans h h' := by
    unfold State.sameButUnits at *
    rw [h'] ; rw [h]
  io _ _ := rfl

/-- A talkgroup's entry without the set that membership notices move. -/
def TalkgroupEntry.unplaced (e : TalkgroupEntry) : TalkgroupEntry := { e with remote := 0 }

/-- What the membership notices leave as it was: all but the dynamic parts of the sites, the remote sets, and frames. -/
def State.sameButRemote (s t : State) : Prop :=
  s.sameButMembership t ∧ t.talkgroups.map TalkgroupEntry.unplaced = s.talkgroups.map TalkgroupEntry.unplaced

theorem frameOf_membership : FrameOf State.sameButRemote where
  refl _ := ⟨rfl, rfl⟩
  trans h h' := by
    obtain ⟨same, sets⟩ := h
    obtain ⟨same', sets'⟩ := h'
    refine ⟨?_, sets'.trans sets⟩
    unfold State.sameButMembership at *
    rw [same'] ; rw [same]
  io _ _ := ⟨rfl, rfl⟩

/-- A record without the two flags that the Channel Arbiters set and clear. -/
def Record.unflagged (r : Record) : Record := { r with talking := false, talkLimited := false }

/-- What the Channel Arbiters leave as it was: all but channels, call counter, the flags of the records, and frames. -/
def State.sameButChannels (s t : State) : Prop :=
  s.sameButCalls t ∧ t.units.map Record.unflagged = s.units.map Record.unflagged

theorem frameOf_channels : FrameOf State.sameButChannels where
  refl _ := ⟨rfl, rfl⟩
  trans h h' := by
    obtain ⟨calls, flags⟩ := h
    obtain ⟨calls', flags'⟩ := h'
    refine ⟨?_, flags'.trans flags⟩
    unfold State.sameButCalls at *
    rw [calls'] ; rw [calls]
  io _ _ := ⟨rfl, rfl⟩

/-! ## Messages -/

theorem Runs.toChannel (hF : FrameOf F) (n : ChannelNo) (hdr : Header) (payload : List Byte) (done : Option Completion) :
    Runs F extra s (s.onIo fun c => sendToChannel c n hdr payload done) := .onIo hF _ (.sendToChannel _ _ _ _)

theorem Runs.toSite (hF : FrameOf F) (hdr : Header) (site : SiteId) :
    Runs F extra s (s.onIo fun c => sendToSite c hdr site) := .onIo hF _ (.sendToSite _ _)

theorem Runs.sendClaim (hF : FrameOf F) (u : UnitId) (emergency : Bool) (site : SiteId) :
    Runs F extra s (Machine.sendClaim u emergency site s) :=
  .onIo hF _ (.sendBuilt _ _ _ _ fun h _ => (Carries.bumpAt _).trans (.placeForSite _ _ (one_le_oneMore h _)))

theorem Runs.sendReply (hF : FrameOf F) (q : Request) (r : Reply) (done : Option Completion) :
    Runs F extra s (Machine.sendReply q r done s) :=
  .onIo hF _ (.sendBuilt _ _ _ _ fun h _ => .placeReply _ _ (one_le_oneMore h _))

end

/-! ## Units -/

/-- What the operations on unit records do, within their frame. -/
abbrev UnitsRun (extra : Held) : State → State → Prop := Runs State.sameButUnits extra

namespace UnitsRun

variable {extra : Held} {s t u : State}

theorem refl : UnitsRun extra s s := Runs.refl frameOf_units s

theorem trans (h : UnitsRun extra s t) (h' : UnitsRun extra t u) : UnitsRun extra s u := Runs.trans frameOf_units h h'

/-- Records, member counts and the two counters may change. -/
theorem fields (units : List Record) (talkgroups : List TalkgroupEntry) (sequence : Byte) (counter : Nat) :
    UnitsRun extra s
      { s with units := units, talkgroups := talkgroups, ownSequence := sequence, handoverCounter := counter } :=
  Runs.fields rfl rfl rfl

theorem modUnit (v : UnitId) (f : Record → Record) : UnitsRun extra s (Machine.modUnit v f s) := fields _ _ _ _

theorem removeRecord (v : UnitId) : UnitsRun extra s (Machine.removeRecord v s) := fields _ _ _ _

theorem insertRecord (r : Record) : UnitsRun extra s (Machine.insertRecord r s) := fields _ _ _ _

theorem count (c : DevCounter) : UnitsRun extra s (s.count c) := Runs.count frameOf_units c

theorem sendAccept (n : ChannelNo) (v : UnitId) (g : TalkgroupId) (ch : ChannelNo) :
    UnitsRun extra s (Machine.sendAccept n v g ch s) := .toChannel frameOf_units _ _ _ _

theorem sendRefuse (n : ChannelNo) (v : UnitId) (cause : Byte) : UnitsRun extra s (Machine.sendRefuse n v cause s) :=
  .toChannel frameOf_units _ _ _ _

theorem sendRoamOrder (n : ChannelNo) (r : Record) (target : Byte) (ho : Handover) :
    UnitsRun extra s (Machine.sendRoamOrder n r target ho s) := .toChannel frameOf_units _ _ _ _

theorem sendCancel (v : UnitId) (id : Nat) (reason : Byte) (site : SiteId) :
    UnitsRun extra s (Machine.sendCancel v id reason site s) := .toSite frameOf_units _ _

theorem sendHoRefuse (v : UnitId) (id : Nat) (cause : Byte) (site : SiteId) :
    UnitsRun extra s (Machine.sendHoRefuse v id cause site s) := .toSite frameOf_units _ _

theorem sendHoAccept (v : UnitId) (id : Nat) (ch : ChannelNo) (site : SiteId) :
    UnitsRun extra s (Machine.sendHoAccept v id ch site s) := .toSite frameOf_units _ _

theorem sendHoComplete (v : UnitId) (id : Nat) (emergency : Bool) (site : SiteId) :
    UnitsRun extra s (Machine.sendHoComplete v id emergency site s) := .toSite frameOf_units _ _

theorem sendClaim (v : UnitId) (emergency : Bool) (site : SiteId) :
    UnitsRun extra s (Machine.sendClaim v emergency site s) := Runs.sendClaim frameOf_units _ _ _

theorem sendMembership (subcode : Byte) (g : TalkgroupId) : UnitsRun extra s (Machine.sendMembership subcode g s) :=
  trans (t := advanceSequence s) (fields _ _ _ _)
    (Runs.onIo frameOf_units
      (fun c => sendToSites c (membershipHeader subcode g (advanceSequence s)) [] c.routedSites) (.sendToSites _ _ _))

theorem memberEntry (g : TalkgroupId) : UnitsRun extra s (Machine.memberEntry g s) := by
  unfold Machine.memberEntry
  split
  · exact refl
  · simp only
    split
    · exact (fields s.units _ s.ownSequence s.handoverCounter).trans (sendMembership _ _)
    · exact fields _ _ _ _

theorem memberExit (g : TalkgroupId) : UnitsRun extra s (Machine.memberExit g s) := by
  unfold Machine.memberExit
  split
  · exact refl
  · simp only
    split
    · exact (fields s.units _ s.ownSequence s.handoverCounter).trans (sendMembership _ _)
    · exact fields _ _ _ _

theorem exitReport (r : Record) : UnitsRun extra s (Machine.exitReport r s) := by
  unfold Machine.exitReport
  split
  · exact memberExit _
  · exact refl

theorem takeSlot {n : Nat} (h : Machine.takeSlot s = some (n, t)) : UnitsRun extra s t := by
  unfold Machine.takeSlot at h
  split at h
  · obtain ⟨-, rfl⟩ := Prod.mk.inj (Option.some.inj h)
    exact refl
  · split at h
    · obtain ⟨-, rfl⟩ := Prod.mk.inj (Option.some.inj h)
      exact (removeRecord _).trans (count _)
    · cases h

theorem deleteRecord (v : UnitId) : UnitsRun extra s (Machine.deleteRecord v s) := by
  unfold Machine.deleteRecord
  split
  · exact refl
  · exact ((exitReport _).trans (removeRecord _)).trans (count _)

theorem reviveRecord (r : Record) (g : TalkgroupEntry) : UnitsRun extra s (Machine.reviveRecord r g s) :=
  (modUnit _ _).trans (memberEntry _)

theorem reviveOrDelete (r : Record) : UnitsRun extra s (Machine.reviveOrDelete r s) := by
  unfold Machine.reviveOrDelete
  split
  · exact reviveRecord _ _
  · exact deleteRecord _

theorem reviveByNotice (n : ChannelNo) (r : Record) : UnitsRun extra s (Machine.reviveByNotice n r s) := by
  unfold Machine.reviveByNotice
  split
  · exact (reviveRecord _ _).trans (sendAccept _ _ _ _)
  · exact deleteRecord _

theorem attemptFailed (v : UnitId) : UnitsRun extra s (Machine.attemptFailed v s) := (modUnit _ _).trans (count _)

theorem radioReturned (v : UnitId) (ch : ChannelNo) (ho : Handover) :
    UnitsRun extra s (Machine.radioReturned v ch ho s) :=
  ((modUnit _ _).trans (sendCancel _ _ _ _)).trans (attemptFailed _)

theorem noticeByState (n : ChannelNo) (k : Kind) (r : Record) : UnitsRun extra s (Machine.noticeByState n k r s) := by
  unfold Machine.noticeByState
  cases r.phase with
  | served | proposing =>
    simp only
    split
    · exact refl
    · exact modUnit _ _
  | departing =>
    simp only
    split
    · exact radioReturned _ _ _
    · exact refl
  | arriving | forward => exact refl
  | lost =>
    simp only
    split
    · exact reviveByNotice _ _
    · exact refl

theorem unitNotice (n : ChannelNo) (v : UnitId) (k : Kind) (marker : Bool) :
    UnitsRun extra s (Machine.unitNotice n v k marker s) := by
  unfold Machine.unitNotice
  split
  · exact refl
  · split
    · exact (modUnit _ _).trans (noticeByState _ _ _)
    · exact noticeByState _ _ _

/-! ### Registration -/

theorem claimLastSite (g : Registration) (e : Bool) : UnitsRun extra s (Machine.claimLastSite g e s) := by
  unfold Machine.claimLastSite
  split
  · exact refl
  · exact sendClaim _ _ _

theorem registerNew (n : ChannelNo) (g : Registration) : UnitsRun extra s (Machine.registerNew n g s) := by
  unfold Machine.registerNew
  split
  · exact sendRefuse _ _ _
  · split
    · exact sendRefuse _ _ _
    · rename_i slot
      exact (((((takeSlot slot).trans (insertRecord _)).trans (memberEntry _)).trans (count _)).trans
        (sendAccept _ _ _ _)).trans (claimLastSite _ _)

theorem registerServed (n : ChannelNo) (g : Registration) (r : Record) :
    UnitsRun extra s (Machine.registerServed n g r s) := by
  unfold Machine.registerServed
  split
  · exact sendRefuse _ _ _
  · split
    · exact (modUnit _ _).trans (sendAccept _ _ _ _)
    · exact (((memberExit _).trans (memberEntry _)).trans (modUnit _ _)).trans (sendAccept _ _ _ _)

theorem registerForward (n : ChannelNo) (g : Registration) (r : Record) (ho : Handover) :
    UnitsRun extra s (Machine.registerForward n g r ho s) := by
  unfold Machine.registerForward
  split
  · exact sendRefuse _ _ _
  · exact (((modUnit _ _).trans (memberEntry _)).trans (sendAccept _ _ _ _)).trans (sendClaim _ _ _)

theorem registerArriving (n : ChannelNo) (g : Registration) (r : Record) (ho : Handover) :
    UnitsRun extra s (Machine.registerArriving n g r ho s) := by
  unfold Machine.registerArriving
  split
  · exact sendRefuse _ _ _
  · exact ((((modUnit _ _).trans (memberEntry _)).trans (sendAccept _ _ _ _)).trans (sendHoComplete _ _ _ _)).trans
      (modUnit _ _)

theorem registerRevived (n : ChannelNo) (g : Registration) : UnitsRun extra s (Machine.registerRevived n g s) := by
  unfold Machine.registerRevived
  split
  · exact registerServed _ _ _
  · exact registerNew _ _

theorem registerByState (n : ChannelNo) (g : Registration) : UnitsRun extra s (Machine.registerByState n g s) := by
  unfold Machine.registerByState
  split
  · exact registerNew _ _
  · split
    · exact registerServed _ _ _
    · exact registerServed _ _ _
    · exact registerServed _ _ _
    · exact registerArriving _ _ _ _
    · exact registerForward _ _ _ _
    · exact (reviveOrDelete _).trans (registerRevived _ _)

/-! ### Presence -/

theorem activityExpiry (v : UnitId) : UnitsRun extra s (Machine.activityExpiry v s) := by
  unfold Machine.activityExpiry
  split
  · exact refl
  · split
    · exact refl
    · split
      · exact modUnit _ _
      · exact refl

/-- A frame that is built, placed where it belongs and let go, or refused its buffer. -/
theorem ofBuilt {hdr : Header} {payload : List Byte} {done : Option Completion} :
    (∀ h io, buildFrame s.net hdr payload done s.io = (some h, io) →
        ∀ place : Io → Io, (∀ io, Carries s.links (oneMore h extra) (oneMore h extra) io (place io)) →
          UnitsRun extra s { s with io := dropReference s.net h (place io) })
      ∧ ∀ io, buildFrame s.net hdr payload done s.io = (none, io) → UnitsRun extra s { s with io := io } := by
  obtain ⟨built, refused⟩ :=
    Carries.buildFrame (links := s.links) (extra := extra) (c := s.net) hdr payload done s.io
  refine ⟨fun h io eq place hp => ?_, fun io eq => ?_⟩ <;> rw [eq] at built refused
  · have sent := ((built h rfl).trans (hp io)).trans (.dropReference (c := s.net) h)
    exact ⟨rfl, sent.refs, sent.work⟩
  · exact ⟨rfl, (refused rfl).refs, (refused rfl).work⟩

theorem sendPoll (ch : ChannelNo) (r : Record) : UnitsRun extra s (Machine.sendPoll ch r s) := by
  obtain ⟨built, refused⟩ := ofBuilt (extra := extra) (s := s) (hdr := pollHeader r) (payload := []) (done := none)
  unfold Machine.sendPoll
  split
  · rename_i h io eq
    exact (built h io eq (deliver s.net ch (pollHeader r).frameClass h) fun _ =>
      .deliver _ _ (one_le_oneMore h _)).trans (modUnit _ _)
  · rename_i io eq
    exact (refused io eq).trans (modUnit _ _)

theorem pollExpiry (v : UnitId) : UnitsRun extra s (Machine.pollExpiry v s) := by
  unfold Machine.pollExpiry
  split
  · exact refl
  · split
    · split
      · exact sendPoll _ _
      · exact refl
    all_goals exact refl

theorem enterPhase (v : UnitId) (p : Phase) : UnitsRun extra s (Machine.enterPhase v p s) := modUnit _ _

theorem goLost (r : Record) (ch : ChannelNo) : UnitsRun extra s (Machine.goLost r ch s) := by
  have lost := fun p => ((exitReport (extra := extra) (s := s) r).trans (enterPhase r.unit p)).trans (count .unitsLost)
  unfold Machine.goLost
  simp only
  split
  · exact (lost _).trans (.onIo frameOf_units _ (.sendMgmtNotice _ _ _ _))
  · exact lost _

theorem pollWaitExpiry (v : UnitId) : UnitsRun extra s (Machine.pollWaitExpiry v s) := by
  unfold Machine.pollWaitExpiry Machine.missPoll
  split
  · exact refl
  · split
    · split
      · split
        · exact goLost _ _
        · exact modUnit _ _
      · exact refl
    all_goals exact refl

theorem pollReplyByState (v : UnitId) : UnitsRun extra s (Machine.pollReplyByState v s) := by
  unfold Machine.pollReplyByState
  split
  · exact count _
  · exact modUnit _ _

theorem lostExpiry (v : UnitId) : UnitsRun extra s (Machine.lostExpiry v s) := by
  unfold Machine.lostExpiry
  split
  · exact refl
  · split
    · split
      · exact deleteRecord _
      · exact refl
    all_goals exact refl

theorem takeUnitMessage (l : LinkNo) {h : Handle} (hdr : Header) (held : 1 ≤ extra.more h) :
    UnitsRun extra s (Machine.takeUnitMessage l h hdr s) := by
  unfold Machine.takeUnitMessage
  simp only
  split
  · refine .onIo frameOf_units _ ?_
    split
    · exact (Carries.modHeader _ _).trans (.deliver _ _ held)
    · exact .deliver _ _ held
  · exact .onIo frameOf_units _ (.forwardSingle _ _ _ held)
  · exact .onIo frameOf_units _ (.sendUnreachable _ _ _)

/-! ### The Roam Selector -/

theorem takeTrigger (r : Record) (ch : ChannelNo) (a : Activity) (target : SiteId) :
    UnitsRun extra s (Machine.takeTrigger r ch a target s) := by
  let hdr : Header := { s.net.fromOwn (requestHeader r s.handoverCounter) with destination := BitVec.ofNat 8 target }
  obtain ⟨built, refused⟩ :=
    Carries.buildFrame (links := s.links) (extra := extra) (c := s.net) hdr [] none s.io
  unfold Machine.takeTrigger
  simp only
  split
  · rename_i io eq
    have none := refused (by rw [eq])
    rw [eq] at none
    have here : UnitsRun extra s { s with io := io } := ⟨rfl, none.refs, none.work⟩
    exact here.trans (attemptFailed _)
  · rename_i h io eq
    have some := built h (by rw [eq])
    rw [eq] at some
    have sent := (some.trans (.placeForSite hdr.frameClass target (one_le_oneMore h _) (c := s.net))).trans
      (.dropReference (c := s.net) h)
    exact ⟨rfl, sent.refs, sent.work⟩

theorem triggerRoam (v : UnitId) : UnitsRun extra s (Machine.triggerRoam v s) := by
  unfold Machine.triggerRoam
  split
  · exact refl
  · split
    · exact takeTrigger _ _ _ _
    all_goals exact refl

theorem measureByState (v : UnitId) (payload : List Byte) :
    UnitsRun extra s (Machine.measureByState v payload s) := by
  unfold Machine.measureByState
  split
  · exact count _
  · split
    · exact (modUnit _ _).trans (triggerRoam _)
    · exact refl

theorem roamHoldEnds (v : UnitId) : UnitsRun extra s (Machine.roamHoldEnds v s) := by
  unfold Machine.roamHoldEnds
  split
  · exact refl
  · split
    · exact modUnit _ _
    · exact refl

/-! ### The Handover Controller -/

theorem enterForward (r : Record) (partner : SiteId) (id : Nat) :
    UnitsRun extra s (Machine.enterForward r partner id s) := (exitReport _).trans (modUnit _ _)

theorem claimHandover (r : Record) (ho : Handover) (claimant : SiteId) :
    UnitsRun extra s (Machine.claimHandover r ho claimant s) :=
  ((exitReport _).trans (sendCancel _ _ _ _)).trans (modUnit _ _)

theorem acceptProposing (m : HoMessage) (r : Record) (ch : ChannelNo) (a : Activity) (ho : Handover) :
    UnitsRun extra s (Machine.acceptProposing m r ch a ho s) := by
  unfold Machine.acceptProposing
  split
  · exact ((sendCancel _ _ _ _).trans (modUnit _ _)).trans (attemptFailed _)
  · exact (sendRoamOrder _ _ _ _).trans (modUnit _ _)

theorem acceptLate (m : HoMessage) : UnitsRun extra s (Machine.acceptLate m s) :=
  (sendCancel _ _ _ _).trans (count _)

theorem takeAccept (m : HoMessage) : UnitsRun extra s (Machine.takeAccept m s) := by
  unfold Machine.takeAccept
  split
  · exact acceptLate _
  · split
    · split
      · exact acceptProposing _ _ _ _ _
      · exact acceptLate _
    · split
      · exact count _
      · exact acceptLate _
    all_goals exact acceptLate _

theorem takeRefuse (m : HoMessage) : UnitsRun extra s (Machine.takeRefuse m s) := by
  unfold Machine.takeRefuse
  split
  · exact count _
  · split
    · split
      · exact (modUnit _ _).trans (attemptFailed _)
      · exact count _
    all_goals exact count _

theorem takeComplete (m : HoMessage) : UnitsRun extra s (Machine.takeComplete m s) := by
  unfold Machine.takeComplete
  split
  · exact count _
  · split
    · split
      · exact (enterForward _ _ _).trans (count _)
      · exact count _
    · split
      · split
        · exact (enterForward _ _ _).trans (count _)
        · exact count _
      · exact count _
    all_goals exact count _

theorem takeCancel (m : HoMessage) : UnitsRun extra s (Machine.takeCancel m s) := by
  unfold Machine.takeCancel
  split
  · exact count _
  · split
    · split
      · exact (modUnit _ _).trans (attemptFailed _)
      · exact count _
    · split
      · exact (modUnit _ _).trans (attemptFailed _)
      · exact count _
    · split
      · exact deleteRecord _
      · exact count _
    all_goals exact count _

theorem setArriving (m : HoMessage) (keep : Bool) : UnitsRun extra s (Machine.setArriving m keep s) := modUnit _ _

theorem requestNew (m : HoMessage) (g : TalkgroupEntry) : UnitsRun extra s (Machine.requestNew m g s) := by
  unfold Machine.requestNew
  split
  · exact sendHoRefuse _ _ _ _
  · rename_i slot
    exact (((takeSlot slot).trans (insertRecord _)).trans (count _)).trans (sendHoAccept _ _ _ _)

theorem requestByState (m : HoMessage) (g : TalkgroupEntry) : UnitsRun extra s (Machine.requestByState m g s) := by
  unfold Machine.requestByState
  split
  · exact requestNew _ _
  · split
    · exact sendHoRefuse _ _ _ _
    · exact sendHoRefuse _ _ _ _
    · exact sendHoRefuse _ _ _ _
    · split
      · exact (setArriving _ _).trans (sendHoAccept _ _ _ _)
      · exact ((sendCancel _ _ _ _).trans (setArriving _ _)).trans (sendHoAccept _ _ _ _)
    · exact (setArriving _ _).trans (sendHoAccept _ _ _ _)
    · exact (setArriving _ _).trans (sendHoAccept _ _ _ _)

theorem takeRequest (m : HoMessage) : UnitsRun extra s (Machine.takeRequest m s) := by
  unfold Machine.takeRequest
  split
  · exact sendHoRefuse _ _ _ _
  · split
    · exact sendHoRefuse _ _ _ _
    · exact requestByState _ _

theorem takeClaim (m : HoMessage) : UnitsRun extra s (Machine.takeClaim m s) := by
  unfold Machine.takeClaim
  refine (count .claimsReceived).trans ?_
  simp only
  split
  · exact count _
  · split
    · exact enterForward _ _ _
    · exact enterForward _ _ _
    · exact enterForward _ _ _
    · exact claimHandover _ _ _
    · exact claimHandover _ _ _
    · exact modUnit _ _

theorem unlessOwn (m : HoMessage) (f : State → State) (hf : UnitsRun extra s (f s)) :
    UnitsRun extra s (Machine.unlessOwn m f s) := by
  unfold Machine.unlessOwn
  split
  · exact count _
  · exact hf

theorem replyWaitEnds (v : UnitId) : UnitsRun extra s (Machine.replyWaitEnds v s) := by
  unfold Machine.replyWaitEnds
  split
  · exact refl
  · split
    · split
      · exact (modUnit _ _).trans (attemptFailed _)
      · exact refl
    all_goals exact refl

theorem departureEnds (v : UnitId) : UnitsRun extra s (Machine.departureEnds v s) := by
  unfold Machine.departureEnds
  split
  · exact refl
  · split
    · split
      · exact ((modUnit _ _).trans (sendCancel _ _ _ _)).trans (attemptFailed _)
      · exact refl
    all_goals exact refl

theorem arrivalEnds (v : UnitId) : UnitsRun extra s (Machine.arrivalEnds v s) := by
  unfold Machine.arrivalEnds
  split
  · exact refl
  · split
    · split
      · exact deleteRecord _
      · exact refl
    all_goals exact refl

theorem forwardHoldEnds (v : UnitId) : UnitsRun extra s (Machine.forwardHoldEnds v s) := by
  unfold Machine.forwardHoldEnds
  split
  · exact refl
  · split
    · split
      · exact deleteRecord _
      · exact refl
    all_goals exact refl

theorem clearRecord (r : Record) : UnitsRun extra s (Machine.clearRecord r s) := by
  unfold Machine.clearRecord
  split
  · exact (sendCancel _ _ _ _).trans (deleteRecord _)
  · exact (sendCancel _ _ _ _).trans (deleteRecord _)
  · exact (sendCancel _ _ _ _).trans (deleteRecord _)
  all_goals exact deleteRecord _

end UnitsRun

end Sys2Proof.Machine
end

section
/-! PROOFS. What the Membership Controller and the Channel Arbiters do to a state, operation by operation (`Runs`). -/

namespace Sys2Proof.Machine

/-! ## Membership -/

/-- What the operations on the membership do, within their frame. -/
abbrev MembersRun (extra : Held) : State → State → Prop := Runs State.sameButRemote extra

namespace MembersRun

variable {extra : Held} {s : State}

theorem fields (sites : List SiteEntry) (talkgroups : List TalkgroupEntry)
    (same : talkgroups.map TalkgroupEntry.unplaced = s.talkgroups.map TalkgroupEntry.unplaced) :
    MembersRun extra s { s with sites := sites, talkgroups := talkgroups } := Runs.fields ⟨rfl, same⟩ rfl rfl

theorem refl : MembersRun extra s s := Runs.refl frameOf_membership s

theorem stale : MembersRun extra s (s.count .staleNotices) := Runs.count frameOf_membership _

/-- A change of remote sets alone. -/
theorem unplaced_map (l : List TalkgroupEntry) (f : TalkgroupEntry → TalkgroupEntry)
    (hf : ∀ e, (f e).unplaced = e.unplaced) :
    (l.map f).map TalkgroupEntry.unplaced = l.map TalkgroupEntry.unplaced := by
  rw [List.map_map]
  exact List.map_congr_left fun e _ => hf e

theorem unplaced_modTalkgroup (g : TalkgroupId) (f : TalkgroupEntry → SiteSet) (l : List TalkgroupEntry) :
    (modTalkgroup g (fun e => { e with remote := f e }) l).map TalkgroupEntry.unplaced
      = l.map TalkgroupEntry.unplaced := by
  refine unplaced_map l _ fun e => ?_
  split <;> rfl

theorem takeFull (hdr : Header) (payload : List Byte) : MembersRun extra s (Machine.takeFull hdr payload s) := by
  unfold Machine.takeFull
  split
  · exact stale
  · exact fields _ _ (unplaced_map _ _ fun _ => rfl)

theorem takeChange (change : SiteSet → SiteId → SiteSet) (hdr : Header) :
    MembersRun extra s (Machine.takeChange change hdr s) := by
  unfold Machine.takeChange
  split
  · exact stale
  · split
    · exact fields _ _ (unplaced_modTalkgroup _ _ _)
    · exact stale

theorem dropFromSets (n : SiteId) (sites : List SiteEntry) :
    MembersRun extra s { Machine.dropFromSets n s with sites := sites } := fields _ _ (unplaced_map _ _ fun _ => rfl)

theorem expireAge (n : SiteId) : MembersRun extra s (Machine.expireAge n s) := by
  unfold Machine.expireAge
  split
  · exact refl
  · split
    · exact dropFromSets n _
    · exact refl

theorem takeSite (e : List Byte) : MembersRun extra s (Machine.takeSite e s) := by
  unfold Machine.takeSite
  split
  · unfold removeSite
    split
    · exact refl
    · exact dropFromSets _ _
  · exact fields _ _ rfl

end MembersRun

/-! ## Calls -/

/-- What the operations on the channels do, within their frame. -/
abbrev CallsRun (extra : Held) : State → State → Prop := Runs State.sameButChannels extra

/-- The buffer of the frame that a call came with. -/
def Arrival.handle : Arrival → Handle
  | .localStart h => h
  | .remoteFrame h => h

theorem modUnit_flags (v : UnitId) (f : Record → Record) (hf : ∀ r, (f r).unflagged = r.unflagged) (s : State) :
    (modUnit v f s).units.map Record.unflagged = s.units.map Record.unflagged := by
  simp only [modUnit, List.map_map]
  refine List.map_congr_left fun r _ => ?_
  simp only [Function.comp_apply]
  split
  · exact hf r
  · rfl

namespace CallsRun

variable {extra : Held} {s t u : State}

theorem refl : CallsRun extra s s := Runs.refl frameOf_channels s

theorem trans (h : CallsRun extra s t) (h' : CallsRun extra t u) : CallsRun extra s u := Runs.trans frameOf_channels h h'

theorem fields (channels : Vector Channel 6) (counter : Byte) :
    CallsRun extra s { s with channels := channels, callCounter := counter } := Runs.fields ⟨rfl, rfl⟩ rfl rfl

theorem modChannel (n : ChannelNo) (f : Channel → Channel) : CallsRun extra s (Machine.modChannel n f s) := fields _ _

theorem setPhase (n : ChannelNo) (ph : ChannelPhase) : CallsRun extra s (Machine.setPhase n ph s) := modChannel _ _

theorem removeWait (n : ChannelNo) (id : CallId) : CallsRun extra s (Machine.removeWait n id s) := modChannel _ _

theorem setTalking (v : UnitId) (on : Bool) : CallsRun extra s (Machine.setTalking v on s) :=
  Runs.fields ⟨rfl, modUnit_flags v (fun r => { r with talking := on }) (fun _ => rfl) s⟩ rfl rfl

theorem setLimited (v : UnitId) (on : Bool) : CallsRun extra s (Machine.setLimited v on s) :=
  Runs.fields ⟨rfl, modUnit_flags v (fun r => { r with talkLimited := on }) (fun _ => rfl) s⟩ rfl rfl

theorem count (c : DevCounter) : CallsRun extra s (s.count c) := Runs.count frameOf_channels c

theorem sendAnswer (n : ChannelNo) (hdr : Header) : CallsRun extra s (Machine.sendAnswer n hdr s) :=
  Runs.toChannel frameOf_channels _ _ _ _

theorem offerCall (k : Kind) (call : Call) : CallsRun extra s (Machine.offerCall k call s) :=
  Runs.onIo frameOf_channels _ (.offerBuilt (c := s.net) _ _)

theorem deliverCall (k : Kind) (n : ChannelNo) (call : Call) : CallsRun extra s (Machine.deliverCall k n call s) :=
  Runs.toChannel frameOf_channels _ _ _ _

theorem turnAway (n : ChannelNo) (call : Call) (cause : Byte) : CallsRun extra s (Machine.turnAway n call cause s) := by
  unfold Machine.turnAway
  refine trans ?_ (count _)
  split
  · exact sendAnswer _ _
  · exact refl

theorem makeCurrent (n : ChannelNo) (call : Call) : CallsRun extra s (Machine.makeCurrent n call s) := by
  unfold Machine.makeCurrent
  simp only
  split
  · exact (setPhase _ _).trans (setTalking _ _)
  · exact setPhase _ _

theorem grantWaiting (n : ChannelNo) (call : Call) : CallsRun extra s (Machine.grantWaiting n call s) := by
  unfold Machine.grantWaiting
  refine (makeCurrent n call).trans ?_
  simp only
  split
  · exact (sendAnswer _ _).trans (offerCall _ _)
  · exact deliverCall _ _ _

theorem joinList (n : ChannelNo) (call : Call) : CallsRun extra s (Machine.joinList n call s) := by
  unfold Machine.joinList
  simp only
  split
  · exact (modChannel n _).trans (sendAnswer _ _)
  · exact modChannel n _

theorem joinWait (n : ChannelNo) (call : Call) : CallsRun extra s (Machine.joinWait n call s) := by
  unfold Machine.joinWait
  simp only
  split
  · exact joinList _ _
  · split
    · split
      · exact turnAway _ _ _
      · exact ((modChannel n _).trans (turnAway _ _ _)).trans (joinList _ _)
    · exact turnAway _ _ _

theorem requeueRemote (n : ChannelNo) (call : Call) : CallsRun extra s (Machine.requeueRemote n call s) := by
  unfold Machine.requeueRemote
  simp only
  split
  · exact modChannel n _
  · split
    · exact count _
    · exact ((modChannel n _).trans (turnAway _ _ _)).trans (modChannel n _)

theorem preemptCall (n : ChannelNo) (call : Call) : CallsRun extra s (Machine.preemptCall n call s) := by
  unfold Machine.preemptCall
  split
  · exact (((sendAnswer _ _).trans (setTalking _ _)).trans (offerCall _ _)).trans (modChannel n _)
  · exact requeueRemote _ _

theorem continueCall (n : ChannelNo) (call : Call) (talk : Timer) :
    CallsRun extra s (Machine.continueCall n call talk s) := setPhase _ _

theorem grantFrom (n : ChannelNo) (ok : WaitEntry → Bool) (k : Nat) :
    CallsRun extra s (Machine.grantFrom n ok k s).2 := by
  induction k generalizing s with
  | zero => exact refl
  | succ k ih =>
    unfold Machine.grantFrom
    split
    · exact refl
    · simp only
      split
      · exact (removeWait _ _).trans (grantWaiting _ _)
      · exact ((removeWait _ _).trans (turnAway _ _ _)).trans ih

theorem enterIdle (n : ChannelNo) : CallsRun extra s (Machine.enterIdle n s) := (setPhase _ _).trans (grantFrom _ _ _)

theorem enterHang (n : ChannelNo) (call : Call) : CallsRun extra s (Machine.enterHang n call s) := by
  unfold Machine.enterHang
  simp only
  split
  · exact (modChannel n _).trans (grantFrom _ _ _)
  · split
    · exact ((modChannel n _).trans (grantFrom _ _ _)).trans (enterIdle _)
    · exact (modChannel n _).trans (grantFrom _ _ _)

theorem endTalking (call : Call) : CallsRun extra s (Machine.endTalking call s) := by
  unfold Machine.endTalking
  split
  · exact setTalking _ _
  · exact refl

theorem endWaiting (n : ChannelNo) (hdr : Header) (cleared : Bool) :
    CallsRun extra s (Machine.endLocal.endWaiting n hdr s cleared) := by
  unfold Machine.endLocal.endWaiting
  split
  · exact removeWait _ _
  · split
    · exact refl
    · exact count _

theorem endOther (n : ChannelNo) (hdr : Header) : CallsRun extra s (Machine.endOther n hdr s) := by
  unfold Machine.endOther
  split
  · exact removeWait _ _
  · exact count _

theorem voiceGapEnds (n : ChannelNo) : CallsRun extra s (Machine.voiceGapEnds n s) := by
  unfold Machine.voiceGapEnds
  split
  · exact refl
  · exact refl
  · split
    · simp only
      refine trans ?_ (enterHang _ _)
      split
      · exact (setTalking _ _).trans (offerCall _ _)
      · exact deliverCall _ _ _
    · exact refl

theorem talkTimerEnds (n : ChannelNo) : CallsRun extra s (Machine.talkTimerEnds n s) := by
  unfold Machine.talkTimerEnds
  split
  · exact refl
  · exact refl
  · split
    · exact (((((sendAnswer _ _).trans (setTalking _ _)).trans (offerCall _ _)).trans (enterHang _ _)).trans
        (setLimited _ _)).trans (count _)
    · exact refl

theorem hangTimerEnds (n : ChannelNo) : CallsRun extra s (Machine.hangTimerEnds n s) := by
  unfold Machine.hangTimerEnds
  split
  · exact refl
  · exact refl
  · split
    · exact enterIdle _
    · exact refl

theorem waitTimerEnds (n : ChannelNo) (id : CallId) : CallsRun extra s (Machine.waitTimerEnds n id s) := by
  unfold Machine.waitTimerEnds
  split
  · exact refl
  · split
    · simp only
      refine trans ?_ (count _)
      split
      · exact (removeWait _ _).trans (sendAnswer _ _)
      · exact removeWait _ _
    · exact refl

/-! ### Frames received: their buffer is held -/

section
variable {h : Handle} (held : 1 ≤ extra.more h)
include held

theorem deliverReceived (n : ChannelNo) : CallsRun extra s (Machine.deliverReceived n h s) :=
  Runs.onIo frameOf_channels _ (.deliver _ _ held)

theorem offerFrame (n : ChannelNo) (call : Call) : CallsRun extra s (Machine.offerFrame n h call s) := by
  refine Runs.onIo frameOf_channels _ ?_
  split
  · exact (Carries.modHeader _ _).trans (.offerReceived (c := s.net) _ _ held)
  · exact .offerReceived (c := s.net) _ _ held

theorem takeLocalVoice (n : ChannelNo) (hdr : Header) : CallsRun extra s (Machine.takeLocalVoice n h hdr s) := by
  unfold Machine.takeLocalVoice
  split
  · exact count _
  · exact count _
  · split
    · exact (continueCall _ _ _).trans (offerFrame held _ _)
    · exact count _

theorem endLocal (n : ChannelNo) (hdr : Header) (cleared : Bool) :
    CallsRun extra s (Machine.endLocal n h hdr cleared s) := by
  unfold Machine.endLocal
  split
  · split
    · exact ((endTalking _).trans (offerFrame held _ _)).trans (enterHang _ _)
    · exact endWaiting _ _ _
  · exact endWaiting _ _ _

theorem takeLocalEnd (n : ChannelNo) (hdr : Header) : CallsRun extra s (Machine.takeLocalEnd n h hdr s) :=
  (setLimited _ _).trans (endLocal held _ _ _)

theorem takeRemoteEnd (n : ChannelNo) (hdr : Header) : CallsRun extra s (Machine.takeRemoteEnd n h hdr s) := by
  unfold Machine.takeRemoteEnd
  split
  · exact endOther _ _
  · exact endOther _ _
  · split
    · exact ((deliverReceived held _).trans (endTalking _)).trans (enterHang _ _)
    · exact endOther _ _

end

theorem grantArrival (n : ChannelNo) (call : Call) (src : Arrival) (held : 1 ≤ extra.more src.handle) :
    CallsRun extra s (Machine.grantArrival n call src s) := by
  unfold Machine.grantArrival
  refine (makeCurrent n call).trans ?_
  cases src with
  | localStart h =>
    exact ((sendAnswer _ _).trans (Runs.onIo frameOf_channels _ (.modHeader _ _))).trans (offerFrame held _ _)
  | remoteFrame h => exact deliverReceived held _

theorem decideCall (n : ChannelNo) (call : Call) (src : Arrival) (held : 1 ≤ extra.more src.handle) :
    CallsRun extra s (Machine.decideCall n call src s) := by
  unfold Machine.decideCall
  split
  · exact grantArrival _ _ _ held
  · split
    · exact grantArrival _ _ _ held
    · split
      · exact grantArrival _ _ _ held
      · exact joinWait _ _
  · split
    · exact (preemptCall _ _).trans (grantArrival _ _ _ held)
    · exact joinWait _ _

section
variable {h : Handle} (held : 1 ≤ extra.more h)
include held

theorem newStart (n : ChannelNo) (hdr : Header) : CallsRun extra s (Machine.newStart n h hdr s) :=
  trans (t := (assignCallId s).2) (fields _ _) (decideCall _ _ _ held)

theorem reaskStart (n : ChannelNo) (hdr : Header) (w : WaitEntry) :
    CallsRun extra s (Machine.reaskStart n h hdr w s) := by
  unfold Machine.reaskStart
  simp only
  split
  · exact (removeWait _ _).trans (decideCall _ _ _ held)
  · exact sendAnswer _ _

theorem startOnChannel (n : ChannelNo) (hdr : Header) (r : Record) :
    CallsRun extra s (Machine.startOnChannel n h hdr r s) := by
  unfold Machine.startOnChannel
  split
  · exact sendAnswer _ _
  · split
    · exact reaskStart held _ _ _
    · split
      · exact sendAnswer _ _
      · exact newStart held _ _

theorem takeLocalStart (n : ChannelNo) (hdr : Header) : CallsRun extra s (Machine.takeLocalStart n h hdr s) := by
  unfold Machine.takeLocalStart
  split
  · exact sendAnswer _ _
  · split
    · exact sendAnswer _ _
    · split
      · exact sendAnswer _ _
      · split
        · exact sendAnswer _ _
        · split
          · exact startOnChannel held _ _ _
          · exact sendAnswer _ _

theorem admitRemote (n : ChannelNo) (hdr : Header) : CallsRun extra s (Machine.admitRemote n h hdr s) := by
  unfold Machine.admitRemote
  split
  · exact count _
  · exact decideCall _ _ _ held

theorem takeRemoteStart (n : ChannelNo) (hdr : Header) : CallsRun extra s (Machine.takeRemoteStart n h hdr s) := by
  unfold Machine.takeRemoteStart
  simp only
  split
  · exact count _
  · exact admitRemote held _ _

theorem takeOtherVoice (n : ChannelNo) (hdr : Header) : CallsRun extra s (Machine.takeOtherVoice n h hdr s) := by
  unfold Machine.takeOtherVoice
  simp only
  split
  · exact count _
  · exact admitRemote held _ _

theorem takeRemoteVoice (n : ChannelNo) (hdr : Header) : CallsRun extra s (Machine.takeRemoteVoice n h hdr s) := by
  unfold Machine.takeRemoteVoice
  split
  · exact takeOtherVoice held _ _
  · exact takeOtherVoice held _ _
  · split
    · exact (deliverReceived held _).trans (continueCall _ _ _)
    · exact takeOtherVoice held _ _

theorem localCopy (hdr : Header) : CallsRun extra s (Machine.localCopy h hdr s) := by
  unfold Machine.localCopy
  split
  · exact count _
  · split
    · exact takeRemoteStart held _ _
    · split
      · exact takeRemoteVoice held _ _
      · exact takeRemoteEnd held _ _

end

end CallsRun

end Sys2Proof.Machine
end

section
/-! PROOFS. What the Link Supervisors and the Management Agent do to a state, operation by operation (`Runs`). A link
that leaves UP takes the groups of frames not yet placed whole with it, and they are routed anew (R38, R46). -/

namespace Sys2Proof.Machine

theorem frameOf_links : FrameOf State.sameButLinks where
  refl _ := rfl
  trans h h' := by
    unfold State.sameButLinks at *
    rw [h'] ; rw [h]
  io _ _ := rfl

/-- What the operations on the links do, within their frame. -/
abbrev LinksRun (extra : Held) : State → State → Prop := Runs State.sameButLinks extra

/-- A link that is not UP takes nothing of the engine's law with it, whatever its fields become. -/
theorem workUp_set {links : Vector Link 4} {io : Io} (h : workUp links io) (l : LinkNo) (x : Link)
    (hx : links[l.val].state = .up → x.state = .up) : workUp (links.set l.val x) io := by
  intro f hf m hm
  have up := h f hf m hm
  by_cases hl : l.val = m.val
  · obtain rfl : l = m := Fin.ext hl
    simpa using hx up
  · simpa [Vector.getElem_set, hl] using up

theorem workUpBut_set {links : Vector Link 4} {io : Io} (h : workUp links io) (l : LinkNo) (x : Link) :
    workUpBut l (links.set l.val x) io := by
  intro f hf m hl hm
  have hne : l.val ≠ m.val := fun e => hl (Fin.ext e.symm)
  simpa [Vector.getElem_set, hne] using h f hf m hm

namespace LinksRun

variable {extra : Held} {s t u : State}

theorem refl : LinksRun extra s s := Runs.refl frameOf_links s

theorem trans (h : LinksRun extra s t) (h' : LinksRun extra t u) : LinksRun extra s u := Runs.trans frameOf_links h h'

theorem modLink (l : LinkNo) (f : Link → Link) (hf : (s.link l).state = .up → (f (s.link l)).state = .up) :
    LinksRun extra s (Machine.modLink l f s) := ⟨rfl, id, fun h => workUp_set h l _ hf⟩

/-- Fields beside the link state are changed. -/
theorem fieldsOf (l : LinkNo) (f : Link → Link) (hf : (f (s.link l)).state = (s.link l).state := by rfl) :
    LinksRun extra s (Machine.modLink l f s) := modLink l f fun h => hf.trans h

theorem onIo (f : Net → Io → Io) (h : Carries s.links extra extra s.io (f s.net s.io)) : LinksRun extra s (s.onIo f) :=
  Runs.onIo frameOf_links f h

theorem count (c : DevCounter) : LinksRun extra s (s.count c) := Runs.count frameOf_links c

/-- TRIAL is entered from DOWN or TRIAL alone. -/
theorem setLinkState (l : LinkNo) (new : LinkState) (hn : new = .trial → (s.link l).state ≠ .up) :
    LinksRun extra s (Machine.setLinkState l new s) := by
  unfold Machine.setLinkState
  simp only
  split
  · refine ⟨rfl, fun hb => (((Carries.flushQueue (links := s.links) l).refs hb).rerouteWork l), fun h => ?_⟩
    refine workUp_rerouteWork fun f hf => ?_
    have kept : f ∈ (flushQueue _ l s.io).engine.work := hf
    rw [flushQueue_engine] at kept
    exact workUpBut_set h l _ f kept
  · rename_i flush
    refine modLink l _ fun up => ?_
    cases new with
    | up => rfl
    | trial => exact absurd up (hn rfl)
    | disabled | down => simp [LinkState.flushes, up] at flush

theorem sendLinkChange (l : LinkNo) (reported : LinkState) : LinksRun extra s (Machine.sendLinkChange l reported s) :=
  onIo _ (.sendMgmtNotice _ _ _ _)

theorem fullRound : LinksRun extra s (Machine.fullRound s) :=
  trans (t := advanceSequence s) ⟨rfl, id, id⟩
    (onIo
      (fun c => sendToSites c (membershipHeader 3#8 0 (advanceSequence s)) (fullPayload (advanceSequence s)) c.routedSites)
      (.sendToSites _ _ _))

theorem linkUp (l : LinkNo) : LinksRun extra s (Machine.linkUp l s) :=
  (((fieldsOf l _).trans (setLinkState l .up (fun h => by cases h))).trans (sendLinkChange _ _)).trans fullRound

theorem linkLost (l : LinkNo) (reported : LinkState) : LinksRun extra s (Machine.linkLost l reported s) :=
  ((fieldsOf l _).trans (setLinkState l .down (fun h => by cases h))).trans (sendLinkChange _ _)

theorem goodInTrial (l : LinkNo) (goods : Nat) (hs : (s.link l).state ≠ .up) :
    LinksRun extra s (Machine.goodInTrial l goods s) := by
  unfold Machine.goodInTrial
  split
  · exact linkUp l
  · exact (fieldsOf l _).trans (setLinkState l .trial fun _ => by simpa [State.link, Machine.modLink] using hs)

theorem judgedGood (l : LinkNo) : LinksRun extra s (Machine.judgedGood l s) := by
  unfold Machine.judgedGood
  split
  · exact refl
  · rename_i hs
    exact goodInTrial _ _ (by simp [hs])
  · rename_i hs
    exact goodInTrial _ _ (by simp [hs])
  · exact fieldsOf l _

theorem judgedError (l : LinkNo) : LinksRun extra s (Machine.judgedError l s) := by
  unfold Machine.judgedError
  split
  · exact refl
  · exact refl
  · exact (fieldsOf l _).trans (setLinkState l .down (fun h => by cases h))
  · simp only
    split
    · exact (fieldsOf l _).trans (linkLost _ _)
    · exact fieldsOf l _

theorem closeWindow (l : LinkNo) : LinksRun extra s (Machine.closeWindow l s) := by
  unfold Machine.closeWindow
  split
  · exact (fieldsOf l _).trans (judgedError l)
  · exact refl

theorem sendProbe (l : LinkNo) : LinksRun extra s (Machine.sendProbe l s) := by
  unfold Machine.sendProbe
  exact (onIo _ (.sendLinkLocal _ _)).trans (fieldsOf l _)

theorem startProbeTimer (l : LinkNo) : LinksRun extra s (Machine.startProbeTimer l s) := fieldsOf l _

theorem probeTimerEnds (l : LinkNo) : LinksRun extra s (Machine.probeTimerEnds l s) := by
  unfold Machine.probeTimerEnds
  split
  · simp only
    have advanced : LinksRun extra s (Machine.modLink l applyAdvance (Machine.closeWindow l s)) :=
      (closeWindow l).trans (fieldsOf l _ (by unfold applyAdvance; split <;> rfl))
    split
    · exact advanced.trans (startProbeTimer l)
    · exact (advanced.trans (sendProbe l)).trans (startProbeTimer l)
  · exact refl

theorem seedLink (l : LinkNo) : LinksRun extra s (Machine.seedLink s l) := by
  unfold Machine.seedLink
  simp only
  have state : (if s.active.farSite l = 0 then LinkState.disabled else .down) ≠ .trial := by split <;> simp
  generalize (if s.active.farSite l = 0 then LinkState.disabled else .down) = new at state ⊢
  have seeded :
      LinksRun extra s
        (Machine.modLink l (seededLink (Machine.setLinkState l new s).own (s.active.farSite l) l)
          (Machine.setLinkState l new s)) :=
    (setLinkState l new fun e => absurd e state).trans (fieldsOf l _)
  split
  · exact (seeded.trans (sendProbe l)).trans (startProbeTimer l)
  · exact seeded

theorem foldl (f : State → LinkNo → State) (hf : ∀ s l, LinksRun extra s (f s l)) (ls : List LinkNo) (s : State) :
    LinksRun extra s (ls.foldl f s) := by
  induction ls generalizing s with
  | nil => exact refl
  | cons l ls ih => exact (hf s l).trans (ih _)

theorem seedAll : LinksRun extra s (Machine.seedAll s) := foldl _ (fun _ l => seedLink l) _ s

theorem takeLoopedProbe (l : LinkNo) : LinksRun extra s (Machine.takeLoopedProbe l s) :=
  (fieldsOf l _).trans (closeWindow l)

theorem answerProbe (l : LinkNo) (token : BitVec 16) : LinksRun extra s (Machine.answerProbe l token s) :=
  onIo _ (.sendLinkLocal _ _)

theorem takeProbe (l : LinkNo) (hdr : Header) : LinksRun extra s (Machine.takeProbe l hdr s) := by
  unfold Machine.takeProbe
  split
  · exact takeLoopedProbe l
  · split
    · exact refl
    · exact answerProbe _ _

theorem takeProbeReply (l : LinkNo) (hdr : Header) : LinksRun extra s (Machine.takeProbeReply l hdr s) := by
  unfold Machine.takeProbeReply
  simp only
  split
  · exact count _
  · split
    · exact ((fieldsOf l _).trans (fieldsOf l _)).trans (judgedGood l)
    · exact (fieldsOf l _).trans (judgedError l)

theorem reconsiderLink (l : LinkNo) : LinksRun extra s (Machine.reconsiderLink s l) := by
  unfold Machine.reconsiderLink
  simp only
  split
  · split
    · exact (linkLost _ _).trans (seedLink l)
    · exact seedLink l
  · split
    · exact linkLost _ _
    · exact refl

end LinksRun

/-! ## Whatever else moves -/

/-- An operation that keeps the balance of references and the engine's law, whatever else it moves. -/
abbrev AnyRun (extra : Held) : State → State → Prop := Runs (fun _ _ => True) extra

theorem frameOf_any : FrameOf fun _ _ => True := ⟨fun _ => trivial, fun _ _ => trivial, fun _ _ => trivial⟩

theorem Runs.any {F : State → State → Prop} {extra : Held} {s t : State} (h : Runs F extra s t) :
    AnyRun extra s t := h.mono fun _ => trivial

namespace AnyRun

variable {extra : Held} {s t u : State}

theorem refl : AnyRun extra s s := Runs.refl frameOf_any s

theorem trans (h : AnyRun extra s t) (h' : AnyRun extra t u) : AnyRun extra s u := Runs.trans frameOf_any h h'

/-- A change of neither frames nor links. -/
theorem still (io : t.io = s.io := by rfl) (links : t.links = s.links := by rfl) : AnyRun extra s t :=
  Runs.fields trivial io links

theorem expireRefresh : AnyRun extra s (Machine.expireRefresh s) := by
  unfold Machine.expireRefresh
  split
  · exact (LinksRun.fullRound.any).trans still
  · exact refl

theorem enterRunning : AnyRun extra s (Machine.enterRunning s) := by
  unfold Machine.enterRunning
  exact ((LinksRun.seedAll.any).trans (still (t := startRefresh _))).trans LinksRun.fullRound.any

theorem applyUnconfigured : AnyRun extra s (Machine.applyUnconfigured s) := by
  unfold Machine.applyUnconfigured
  split
  · refine (LinksRun.foldl _ (fun s l => ?_) _ s).any
    split
    · exact LinksRun.seedLink l
    · exact LinksRun.refl
  · exact (still (t := becomeOwnEntry { s with partState := .running })).trans enterRunning

theorem applyParams : AnyRun extra s (Machine.applyParams s).2 := by
  unfold Machine.applyParams
  split
  · split
    · exact refl
    · exact (still (t := { s with active := s.staged })).trans
        (LinksRun.foldl _ (fun _ l => LinksRun.reconsiderLink l) _ _).any
  · exact (still (t := { s with active := s.staged })).trans applyUnconfigured

/-! ### Requests -/

theorem sendReply (q : Request) (r : Reply) (done : Option Completion) : AnyRun extra s (Machine.sendReply q r done s) :=
  Runs.sendReply frameOf_any q r done

theorem takeMgmtRequest (q : Request) : AnyRun extra s (Machine.takeMgmtRequest q s) := by
  unfold Machine.takeMgmtRequest
  split
  · exact Runs.count frameOf_any _
  · split
    · exact sendReply _ _ _
    · exact still

theorem serveHead (isCode : Byte → Bool) (run : Request → State → State) (hr : ∀ q, AnyRun extra s (run q s)) :
    AnyRun extra s (Machine.serveHead isCode run s) := by
  unfold Machine.serveHead
  split
  · exact refl
  · split
    · exact (hr _).trans still
    · exact refl

theorem answer (f : Request → State → Reply × State) (hf : ∀ q, AnyRun extra s (f q s).2) (q : Request) :
    AnyRun extra s (Machine.answer f q s) := (hf q).trans (sendReply _ _ _)

theorem sized (n : Nat) (f : Request → State → Reply × State) (hf : ∀ q, AnyRun extra s (f q s).2) (q : Request) :
    AnyRun extra s (Machine.sized n f q s).2 := by
  unfold Machine.sized
  split
  · exact hf q
  · exact refl

theorem serveListed (isCode : Byte → Bool) (size : Nat) (run : Request → State → Option Reply × State)
    (hr : ∀ q, AnyRun extra s (run q s).2) : AnyRun extra s (Machine.serveListed isCode size run s) := by
  unfold Machine.serveListed
  split
  · exact refl
  · rename_i q rest hq
    have finish {t : State} (h : AnyRun extra s t) (r : Reply) : AnyRun extra s (finishHead q rest r t) :=
      (h.trans (sendReply q r none)).trans still
    split
    · split
      · have := hr q
        split <;> rename_i eq <;> rw [eq] at this
        · exact finish this _
        · exact this
      · exact finish refl _
    · exact refl

theorem load (size : Nat) (check : List Byte → State → Option Byte) (take : List Byte → State → State)
    (ht : ∀ e, AnyRun extra s (take e s)) (q : Request) : AnyRun extra s (Machine.load size check take q s).2 := by
  unfold Machine.load
  simp only
  split
  · exact refl
  · split
    · exact refl
    · split
      · exact (ht _).trans still
      · exact ht _

theorem takeSite (e : List Byte) : AnyRun extra s (Machine.takeSite e s) := (MembersRun.takeSite e).any

theorem takeTalkgroup (e : List Byte) : AnyRun extra s (Machine.takeTalkgroup e s) := by
  unfold Machine.takeTalkgroup
  simp only
  split <;> exact still

theorem takeNeighbor (e : List Byte) : AnyRun extra s (Machine.takeNeighbor e s) := by
  unfold Machine.takeNeighbor
  split <;> exact still

theorem writeParams (q : Request) : AnyRun extra s (Machine.writeParams q s).2 := by
  unfold Machine.writeParams
  simp only
  split
  · exact refl
  · split
    · split <;> exact still
    · exact refl

theorem collect : AnyRun extra s (Machine.collect s) :=
  ⟨trivial, (Carries.live (links := s.links) zeroCounters).refs, (Carries.live (extra := extra) zeroCounters).work⟩

theorem readCountersRequest (q : Request) : AnyRun extra s (Machine.readCountersRequest q s).2 := by
  unfold Machine.readCountersRequest
  simp only
  split
  · split <;> exact still
  · exact refl

theorem clearUnitRequest (q : Request) : AnyRun extra s (Machine.clearUnitRequest q s).2 := by
  unfold Machine.clearUnitRequest
  split
  · exact refl
  · exact (UnitsRun.clearRecord _).any

theorem clearEmergencyRequest (q : Request) : AnyRun extra s (Machine.clearEmergencyRequest q s).2 := by
  unfold Machine.clearEmergencyRequest
  split <;> exact still

/-- The restart's phase is no reference and no work. -/
theorem phase (r : RestartPhase) : AnyRun extra s { s with io := { s.io with restart := r } } :=
  ⟨trivial, fun hb => hb.same rfl rfl rfl rfl, id⟩

theorem restartRequest (q : Request) : AnyRun extra s (Machine.restartRequest q s) := by
  obtain ⟨built, refused⟩ :=
    Carries.buildFrame (links := s.links) (extra := extra) (c := s.net) (replyHeader q s) (Reply.done []).payload
      (some .restartReply) s.io
  unfold Machine.restartRequest
  split
  · split
    · rename_i h io eq
      have some := built h (by rw [eq])
      rw [eq] at some
      have phase : Carries s.links (oneMore h extra) (oneMore h extra) io { io with restart := .awaitingReply } :=
        ⟨fun hb => hb.same rfl rfl rfl rfl, id⟩
      have sent := ((some.trans phase).trans (.placeReply q.link q.origin (one_le_oneMore h _) (c := s.net))).trans
        (.dropReference (c := s.net) h)
      exact ⟨trivial, sent.refs, sent.work⟩
    · rename_i io eq
      have none := refused (by rw [eq])
      rw [eq] at none
      exact trans (t := { s with io := io }) ⟨trivial, none.refs, none.work⟩ (phase .due)
  · exact sendReply _ _ _

end AnyRun

end Sys2Proof.Machine
end

section
/-! PROOFS. The references and the Forwarding Engine's law over all commands: O6 but for the pool, and O7's second law.
A frame that is cut off, and a transmission that ends, give up their reference while the port still names the buffer:
the operation owes it until the port has moved on (R8, R14). -/

namespace Sys2Proof.Machine

/-! ## A transmission in progress goes on -/

/-- A transmission is in progress at a port. -/
def Sends (p : PortNo) (x : Transmission) (io : Io) : Prop := io.ports[p.val].sending = some x

/-- An operation on frames leaves every transmission in progress as it is. -/
def KeepsSending (f : Io → Io) : Prop := ∀ (io : Io) (p : PortNo) (x : Transmission), Sends p x io → Sends p x (f io)

theorem keepsSending_dropReferenceQuietly (reserve : Nat) (h : Handle) :
    KeepsSending (dropReferenceQuietly reserve h) := fun io p x busy => by
  unfold Sends at *
  rwa [dropReferenceQuietly_ports]

theorem keepsSending_modPort (q : PortNo) (f : Port → Port) (hf : ∀ x, (f x).sending = x.sending) :
    KeepsSending (modPort q f) := by
  intro io p x busy
  unfold Sends at *
  rw [port_modPort]
  split
  · rename_i same
    subst same
    exact (hf _).trans busy
  · exact busy

/-- A transmission is started on an IDLE transmitter. -/
theorem sends_startTransmission {io : Io} {p q : PortNo} {x : Transmission} (busy : Sends p x io)
    (idle : io.ports[q.val].sending = none) : Sends p x (startTransmission q io) := by
  unfold startTransmission
  split
  · exact busy
  · unfold Sends at *
    rw [port_modPort]
    split
    · rename_i same
      subst same
      rw [busy] at idle
      cases idle
    · exact busy

theorem KeepsSending.placeEntryWith {drop : Handle → Io → Io} (hd : ∀ h, KeepsSending (drop h)) (q : PortNo) (e : Entry) :
    KeepsSending (placeEntryWith drop q e) := by
  intro io p x busy
  have queued (g : List Entry → List Entry) (io : Io) (busy : Sends p x io) :
      Sends p x (addReference e.handle (modPort q (fun x => { x with queue := g x.queue }) io)) :=
    keepsSending_modPort q (fun x => { x with queue := g x.queue }) (fun _ => rfl) io p x busy
  unfold Machine.placeEntryWith placeWithRoom
  simp only
  split
  · split
    · rename_i idle
      refine sends_startTransmission (queued _ io busy) ?_
      have same : (addReference e.handle (modPort q (fun x => { x with queue := insertEntry e x.queue }) io)).ports[q.val]
          = { io.ports[q.val] with queue := insertEntry e io.ports[q.val].queue } := by
        refine (port_modPort q q (fun x => { x with queue := insertEntry e x.queue }) io).trans ?_
        rw [if_pos rfl]
      rw [same]
      simpa using (Bool.and_eq_true_iff.mp idle).2
    · exact queued _ io busy
  · split
    · exact busy
    · split
      · exact busy
      · exact hd _ _ _ _ (queued (fun _ => insertEntry e _) (countPort q .displaced io) busy)

theorem KeepsSending.placeForSitesWith {drop : Handle → Io → Io} (hd : ∀ h, KeepsSending (drop h)) (c : Net)
    (cls : FrameClass) (h : Handle) (sites : List SiteId) : KeepsSending (placeForSitesWith drop c cls h sites) := by
  unfold Machine.placeForSitesWith
  induction sites with
  | nil => exact fun _ _ _ busy => busy
  | cons n ns ih =>
    intro io p x busy
    have placed : Sends p x (placeForSiteWith drop c cls h n io) := by
      unfold placeForSiteWith
      split
      · exact busy
      · exact placeEntryWith hd _ _ io p x busy
    exact ih _ p x placed

theorem keepsSending_dropReference (c : Net) (h : Handle) : KeepsSending (dropReference c h) := by
  intro io p x busy
  have quietly := keepsSending_dropReferenceQuietly c.active.bufferReserve
  have dropped := quietly h io p x busy
  unfold dropReference
  simp only
  split
  · unfold sendPoolExhausted
    split
    · exact dropped
    · exact quietly _ _ p x (KeepsSending.placeForSitesWith quietly c _ _ _ _ p x dropped)
  · exact dropped

/-! ## What an operation owes -/

/-- A reference to a buffer that a reception or a transmission still names is owed. -/
def Held.owing (h : Handle) : Held := ⟨fun _ => 0, fun k => if k = h then 1 else 0⟩

/-- The reference of a reception or a transmission is taken over. -/
theorem balanced.owe {io : Io} {h : Handle} (hb : balanced .none io) (hp : 1 ≤ io.pinned h) :
    balanced (oneMore h (.owing h)) io := by
  refine hb.shift rfl rfl fun k => ?_
  simp only [oneMore, Held.owing, Held.none]
  refine ⟨by omega, fun _ => ?_⟩
  split
  · rename_i same
    exact same ▸ hp
  · exact Nat.zero_le _

/-- The port has moved on: what was owed is settled. -/
theorem balanced.settle {io : Io} {h : Handle} (hb : balanced (.owing h) io) (p : PortNo) (f : Port → Port)
    (hf : ∀ k, Port.references k (f io.ports[p.val]) + (if k = h then 1 else 0) = Port.references k io.ports[p.val]) :
    balanced .none (Machine.modPort p f io) := by
  refine hb.shift rfl rfl fun k => ?_
  have moved := references_modPort p f io k
  have port := hf k
  simp only [Held.owing, Held.none]
  exact ⟨by omega, fun _ => Nat.zero_le _⟩

theorem pinned_port (io : Io) (p : PortNo) (h : Handle) : Port.pinned h io.ports[p.val] ≤ io.pinned h :=
  List.single_le_sum (fun _ _ => Nat.zero_le _) _ (List.mem_map.mpr ⟨_, Array.getElem_mem_toList _, rfl⟩)

/-! ## Line symbols (R8 to R10) -/

/-- Nothing is owed and nothing is held. -/
abbrev Steady (s t : State) : Prop := AnyRun .none s t

/-- A port that stores no frame before and after moves no reference. -/
theorem steady_reception {s : State} {p : PortNo} {r : Reception} (hs : ∀ h, receptionOf p s ≠ .store h)
    (hr : ∀ h, r ≠ .store h) : Steady s (enterReception p r s) := by
  refine ⟨trivial, fun hb => hb.modPort p _ fun h => ?_, id⟩
  have before : s.io.ports[p.val].reception ≠ .store h := hs h
  have after : r ≠ .store h := hr h
  simp only [Port.references, Port.pinned, if_neg before, if_neg after]
  exact ⟨trivial, Nat.le_refl _⟩

theorem steady_countPort (s : State) (p : PortNo) (c : PortCounter) : Steady s (countPortOf p c s) :=
  Runs.onIo frameOf_any _ (.bumpAt _)

/-- A frame that is cut off gives its buffer's reference up, and the port goes on to a state without a buffer. -/
theorem steady_cut {s : State} {p : PortNo} (c : PortCounter) {r : Reception} (hr : ∀ h, r ≠ .store h) :
    Steady s (enterReception p r (cutReception p c s)) := by
  unfold cutReception
  have counted : Steady s (countPortOf p c s) := steady_countPort s p c
  cases hp : receptionOf p s with
  | hunt => exact steady_reception (by simp [hp]) hr
  | header bytes => exact counted.trans (steady_reception (fun h => by rw [show receptionOf p (countPortOf p c s) = receptionOf p s from rfl, hp]; simp) hr)
  | discard bytes why =>
    cases why with
    | failed f => exact counted.trans (steady_reception (fun h => by rw [show receptionOf p (countPortOf p c s) = receptionOf p s from rfl, hp]; simp) hr)
    | refused => exact steady_reception (by simp [hp]) hr
  | store h =>
    have here : s.io.ports[p.val].reception = .store h := hp
    have pinned : 1 ≤ (countPort p c s.io).pinned h := by
      refine le_trans ?_ (pinned_port (countPort p c s.io) p h)
      rw [show (countPort p c s.io).ports = s.io.ports from rfl]
      simp only [Port.pinned, if_pos here]
      omega
    have moves := Moves.dropReference (P := False) (c := s.net) False.elim h (countPort p c s.io)
    have still : (dropReference s.net h (countPort p c s.io)).ports[p.val].reception = .store h :=
      (moves.ports p).1.trans here
    refine ⟨trivial, fun hb => ?_, fun hw => ?_⟩
    · have owed := ((hb.bumpAt (portCounterNumber p c)).owe pinned)
      have dropped := (Carries.dropReference (links := s.links) (c := s.net) h).refs owed
      refine balanced.settle dropped p _ fun k => ?_
      simp only [Port.references, countPort] at still ⊢
      rw [still, if_neg (hr k)]
      simp only [Reception.store.injEq, eq_comm (a := h)]
      omega
    · exact ((Carries.bumpAt (extra := oneMore h .none) (portCounterNumber p c)).trans
        (.dropReference (c := s.net) h)).work hw

theorem steady_storeFrame {s : State} {p : PortNo} (hs : ∀ h, receptionOf p s ≠ .store h) (bytes : List Byte)
    (reserve : Nat) : Steady s (s.onIo fun _ => storeFrame p bytes reserve) := by
  obtain ⟨granted, refused⟩ :=
    Carries.allocate (links := s.links) (extra := .none) reserve (parseHeader bytes).frameClass s.io
  have moves := Moves.allocate (P := False) reserve (parseHeader bytes).frameClass s.io
  refine Runs.onIo frameOf_any _ ?_
  unfold storeFrame
  generalize allocate reserve (parseHeader bytes).frameClass s.io = got at granted refused moves ⊢
  have before (h : Handle) : got.2.ports[p.val].reception ≠ .store h := by
    rw [(moves.ports p).1]
    exact hs h
  have discarded (c : PortCounter) : Carries s.links .none .none got.2
      (setReception p (.discard bytes .refused) (countPort p c got.2)) := by
    refine (Carries.bumpAt _).trans ⟨fun hb => hb.modPort p _ fun h => ?_, id⟩
    have port : (bumpAt (portCounterNumber p c) got.2).ports = got.2.ports := rfl
    simp only [port, Port.references, Port.pinned, if_neg (before h), reduceCtorEq, if_false]
    exact ⟨trivial, Nat.le_refl _⟩
  obtain ⟨answer, io⟩ := got
  cases answer with
  | granted h =>
    have written := (granted h rfl).trans (Carries.modBuffer h (fun b => { b with bytes := bytes }) fun _ => ⟨rfl, rfl⟩)
    refine written.trans (d := setReception p (.store h) (modBuffer h (fun b => { b with bytes := bytes }) io)) ⟨fun hb => ?_, id⟩
    refine hb.shift rfl rfl fun k => ?_
    have moved := references_modPort p (fun x => { x with reception := .store h })
      (modBuffer h (fun b => { b with bytes := bytes }) io) k
    have port : (modBuffer h (fun b => { b with bytes := bytes }) io).ports = io.ports := rfl
    simp only [port, Port.references, if_neg (before k), Reception.store.injEq, eq_comm (a := h)] at moved
    simp only [oneMore, Held.none, setReception]
    exact ⟨by omega, fun _ => Nat.zero_le _⟩
  | reserve => exact (refused (by simp)).trans (discarded .reserveDrops)
  | empty => exact (refused (by simp)).trans (discarded .emptyDrops)

theorem steady_takeByte (s : State) (p : PortNo) (b : Byte) : Steady s (takeByte p b s) := by
  unfold takeByte
  cases hp : receptionOf p s with
  | hunt => exact AnyRun.refl
  | header bytes =>
    simp only [takeHeaderByte]
    split
    · exact steady_reception (by simp [hp]) (by simp)
    · unfold completeHeader
      simp only
      split
      · exact steady_reception (by simp [hp]) (by simp)
      · exact steady_storeFrame (by simp [hp]) _ _
  | store h =>
    simp only [takeStoreByte]
    split
    · exact Runs.onIo frameOf_any _ (.modBuffer h _ fun _ => ⟨rfl, rfl⟩)
    · exact steady_cut _ (by simp)
  | discard bytes why =>
    simp only [takeDiscardByte]
    split
    · exact steady_reception (by simp [hp]) (by simp)
    · exact steady_cut _ (by simp)

/-- A good frame's reference passes from the reception to the frame handed on (R9). -/
theorem steady_handOn {s : State} {p : PortNo} {h : Handle} (hp : receptionOf p s = .store h) :
    Steady s (enterReception p .hunt (handOn p h s)) := by
  refine ⟨trivial, fun hb => ?_, id⟩
  have here : s.io.ports[p.val].reception = .store h := hp
  refine (hb.bumpAt (portCounterNumber p .framesGood)).shift rfl rfl fun k => ⟨?_, fun _ => Nat.zero_le _⟩
  let handed (x : Port) : Port := { x with handed := x.handed ++ [{ handle := h, toAgent := s.isUnconfigured }] }
  let hunt (x : Port) : Port := { x with reception := .hunt }
  have first := references_modPort p handed (countPort p .framesGood s.io) k
  have second := references_modPort p hunt (modPort p handed (countPort p .framesGood s.io)) k
  have port : (modPort p handed (countPort p .framesGood s.io)).ports[p.val] = handed s.io.ports[p.val] := by
    rw [port_modPort, if_pos rfl]
    rfl
  have start : (countPort p .framesGood s.io).ports = s.io.ports := rfl
  rw [port] at second
  simp only [start, handed, hunt, Port.references, here, List.countP_append, List.countP_singleton, beq_iff_eq,
    reduceCtorEq, if_false, Reception.store.injEq] at first second
  show Io.references (modPort p hunt (modPort p handed (countPort p .framesGood s.io))) k + _ + _ = _
  simp only [Held.none, countPort, handed, hunt] at first second ⊢
  omega

theorem steady_takeEnd (s : State) (p : PortNo) : Steady s (takeEnd p s) := by
  have counted (c : PortCounter) (hs : ∀ h, receptionOf p s ≠ .store h) :
      Steady s (enterReception p .hunt (countPortOf p c s)) :=
    (steady_countPort s p c).trans (steady_reception hs (by simp))
  unfold takeEnd judge
  cases hp : receptionOf p s with
  | hunt => exact steady_reception (by simp [hp]) (by simp)
  | header bytes => exact counted _ (by simp [hp])
  | discard bytes why =>
    cases why with
    | failed f => exact counted _ (by simp [hp])
    | refused => exact steady_reception (by simp [hp]) (by simp)
  | store h =>
    simp only [judgeStored]
    split
    · exact steady_cut _ (by simp)
    · split
      · exact steady_cut _ (by simp)
      · exact steady_handOn hp

/-! ## Frames handed on (R22) -/

/-- The owner takes a handed frame with its reference, handles it, and drops the reference. -/
theorem steady_takeHanded (s : State) (p : PortNo) (isMine : Handed → Header → State → Bool)
    (run : Handle → Header → List Byte → State → State)
    (hr : ∀ h hdr payload s, AnyRun (oneMore h .none) s (run h hdr payload s)) :
    Steady s (takeHanded p isMine run s) := by
  unfold takeHanded
  split
  · exact AnyRun.refl
  · rename_i x hx
    simp only
    split
    · have handed : s.io.ports[p.val].handed = x :: s.io.ports[p.val].handed.tail := by
        unfold headHanded at hx
        cases hl : s.io.ports[p.val].handed with
        | nil => simp [hl] at hx
        | cons y ys => simpa [hl] using hx
      have taken : balanced .none s.io →
          balanced (oneMore x.handle .none) (modPort p (fun y => { y with handed := y.handed.tail }) s.io) := by
        refine fun hb => hb.shift rfl rfl fun k => ⟨?_, fun _ => Nat.zero_le _⟩
        have moved := references_modPort p (fun y => { y with handed := y.handed.tail }) s.io k
        have count : s.io.ports[p.val].handed.countP (fun y => y.handle == k)
            = s.io.ports[p.val].handed.tail.countP (fun y => y.handle == k) + if k = x.handle then 1 else 0 := by
          conv_lhs => rw [handed]
          simp only [List.countP_cons, beq_iff_eq, eq_comm (a := k)]
        simp only [Port.references] at moved
        simp only [oneMore, Held.none]
        omega
      have ran := hr x.handle (handedHeader x s) (handedPayload x s)
        (s.onIo fun _ => modPort p fun y => { y with handed := y.handed.tail })
      generalize run _ _ _ _ = u at ran
      have dropped := Carries.dropReference (links := u.links) (extra := .none) (io := u.io) (c := u.net) x.handle
      exact ⟨trivial, fun hb => dropped.refs (ran.refs (taken hb)), fun hw => dropped.work (ran.work hw)⟩
    · exact AnyRun.refl

/-- A frame from a channel port: the unit notice goes first. -/
theorem steady_takeFromChannel (s : State) (n : ChannelNo) (k : Kind) (run : Handle → Header → List Byte → State → State)
    (hr : ∀ h hdr payload s, AnyRun (oneMore h .none) s (run h hdr payload s)) :
    Steady s (takeFromChannel n k run s) :=
  steady_takeHanded s _ _ _ fun h hdr payload _ => (UnitsRun.unitNotice _ _ _ _).any.trans (hr h hdr payload _)

theorem steady_takeHandover (s : State) (l : LinkNo) (k : Kind) (f : HoMessage → State → State)
    (hr : ∀ (extra : Held) m u, UnitsRun extra u (f m u)) : Steady s (takeHandover l k f s) :=
  steady_takeHanded s (linkPort l) (ownKind k) _ fun _ hdr _ s =>
    (UnitsRun.unlessOwn (hoMessageOf hdr) (f (hoMessageOf hdr)) (hr _ _ s)).any

/-! ## The end of a transmission (R14) -/

theorem steady_answerSent (s : State) (done : Option Completion) : Steady s (answerSent done s) := by
  unfold answerSent
  split
  · exact AnyRun.still
  · refine ⟨trivial, fun hb => ?_, fun hw => ?_⟩
    · show balanced .none (answerRestart s.io)
      unfold answerRestart
      split <;> exact hb.same rfl rfl rfl rfl
    · show workUp s.links (answerRestart s.io)
      unfold answerRestart
      split <;> exact hw
  · exact AnyRun.refl

theorem answerSent_ports (s : State) (done : Option Completion) : (answerSent done s).io.ports = s.io.ports := by
  unfold answerSent
  split
  · rfl
  · show (answerRestart s.io).ports = _
    unfold answerRestart
    split <;> rfl
  · rfl

theorem steady_transmissionEnds (s : State) (p : PortNo) : Steady s (transmissionEnds p s) := by
  unfold transmissionEnds
  split
  · exact AnyRun.refl
  · rename_i x hx
    unfold completeTransmission
    simp only
    have answered := (steady_countPort s p .transmitted).trans
      (steady_answerSent (countPortOf p .transmitted s) (completionOf x.entry.handle (countPortOf p .transmitted s).io))
    have busy : (answerSent (completionOf x.entry.handle (countPortOf p .transmitted s).io)
        (countPortOf p .transmitted s)).io.ports[p.val].sending = some x := by
      rw [show ∀ d, (answerSent d (countPortOf p .transmitted s)).io.ports = s.io.ports from
        fun d => answerSent_ports _ d]
      exact hx
    generalize answerSent _ _ = u at answered busy
    have written : Steady u (u.onIo fun _ => modBuffer x.entry.handle fun b => { b with completion := none }) :=
      Runs.onIo frameOf_any _ (.modBuffer _ _ fun _ => ⟨rfl, rfl⟩)
    refine (answered.trans written).trans ?_
    have busy' : (u.onIo fun _ => modBuffer x.entry.handle fun b => { b with completion := none }).io.ports[p.val].sending
        = some x := busy
    generalize (u.onIo fun _ => modBuffer x.entry.handle fun b => { b with completion := none }) = v at busy'
    have pinned : 1 ≤ v.io.pinned x.entry.handle := by
      refine le_trans ?_ (pinned_port v.io p x.entry.handle)
      simp only [Port.pinned, busy', Option.toList_some, List.countP_singleton, beq_self_eq_true, if_true]
      omega
    have still := keepsSending_dropReference v.net x.entry.handle v.io p x busy'
    refine ⟨trivial, fun hb => ?_, fun hw => ?_⟩
    · have dropped := (Carries.dropReference (links := v.links) (c := v.net) x.entry.handle).refs (hb.owe pinned)
      have settled := dropped.settle p (fun y => { y with sending := none, lastEnd := some .endDelimiter }) fun k => by
        rw [Sends] at still
        simp only [Port.references, still, Option.toList_some, Option.toList_none, List.countP_singleton,
          List.countP_nil, beq_iff_eq, eq_comm (a := k)]
        omega
      refine settled.startTransmission p ?_
      rw [port_modPort, if_pos rfl]
    · have dropped := (Carries.dropReference (links := v.links) (extra := .none) (c := v.net) x.entry.handle).work hw
      intro f hf
      have kept : f ∈ (startTransmission p _).engine.work := hf
      rw [startTransmission_engine] at kept
      exact dropped f kept

/-! ## Every command -/

theorem steady_whileTaking {f : State → State} (hf : ∀ s, Steady s (f s)) (s : State) : Steady s (whileTaking f s) := by
  unfold whileTaking
  split
  · exact AnyRun.refl
  · exact hf s

theorem steady_fanOut (l : LinkNo) (h : Handle) (hdr : Header) (s : State) :
    AnyRun (oneMore h .none) s (fanOut l h hdr s) := by
  unfold fanOut
  simp only
  have held := one_le_oneMore h .none
  have forwarded (u : State) : AnyRun (oneMore h .none) u (u.onIo fun c => forwardTargets c l h hdr) :=
    Runs.onIo frameOf_any _ (.forwardTargets (c := u.net) l hdr held)
  split
  · exact (CallsRun.localCopy held hdr).any.trans (forwarded _)
  · exact forwarded s

/-- A command short of the reset line and the restart keeps the balance of references and the engine's law. -/
theorem steady_exec (c : Instr) (s t : State) (hreset : occasion c ≠ .reset) (hrestart : occasion c ≠ .restart)
    (h : exec c s = .next t) : Steady s t := by
  have next {u : State} (hu : Steady s u) (eq : (Host.Outcome.next u : Host.Outcome State Fault Refusal) = .next t) : Steady s t :=
    Host.Outcome.next.inj eq ▸ hu
  have asked (isCode : Byte → Bool) (n : Nat) (f : Request → State → Reply × State)
      (hf : ∀ q, Steady s (f q s).2) : Steady s (serveHead isCode (answer (sized n f)) s) :=
    AnyRun.serveHead _ _ fun q => AnyRun.answer _ (fun q => AnyRun.sized n f hf q) q
  cases c with
  | fullReset | fullResetEnd => exact absurd rfl hreset
  | restartTakesPlace => exact absurd rfl hrestart
  | startDelimiter p => exact next (steady_whileTaking (fun s => steady_cut _ (by simp)) s) h
  | abortSequence p => exact next (steady_whileTaking (fun s => steady_cut _ (by simp)) s) h
  | dataByte p b => exact next (steady_whileTaking (fun s => steady_takeByte s p b) s) h
  | frameHeaderComplete p b =>
    refine next (steady_whileTaking (fun s => ?_) s) h
    unfold takeTwentieth
    split
    · exact steady_takeByte s p b
    · exact AnyRun.refl
  | frameTooLong p b =>
    refine next (steady_whileTaking (fun s => ?_) s) h
    unfold takeExcess
    split
    · exact steady_takeByte s p b
    · exact AnyRun.refl
  | judgeFrame p => exact next (steady_whileTaking (fun s => steady_takeEnd s p) s) h
  | register n => exact next (steady_takeFromChannel s n _ _ fun _ _ _ _ => (UnitsRun.registerByState _ _).any) h
  | measure n => exact next (steady_takeFromChannel s n _ _ fun _ _ _ _ => (UnitsRun.measureByState _ _).any) h
  | pollReply n => exact next (steady_takeFromChannel s n _ _ fun _ _ _ _ => (UnitsRun.pollReplyByState _).any) h
  | callStart n =>
    exact next (steady_takeFromChannel s n _ _ fun h _ _ _ => (CallsRun.takeLocalStart (one_le_oneMore h _) _ _).any) h
  | voice n =>
    exact next (steady_takeFromChannel s n _ _ fun h _ _ _ => (CallsRun.takeLocalVoice (one_le_oneMore h _) _ _).any) h
  | callEnd n =>
    exact next (steady_takeFromChannel s n _ _ fun h _ _ _ => (CallsRun.takeLocalEnd (one_le_oneMore h _) _ _).any) h
  | forwardTargetSet l => exact next (steady_takeHanded s _ _ _ fun h hdr _ s => steady_fanOut l h hdr s) h
  | forwardSingleDestination l =>
    exact next (steady_takeHanded s _ _ _ fun h _ _ _ =>
      Runs.onIo frameOf_any _ (.forwardSingle _ _ _ (one_le_oneMore h _))) h
  | unitMessage l =>
    exact next (steady_takeHanded s _ _ _ fun h _ _ _ => (UnitsRun.takeUnitMessage _ _ (one_le_oneMore h _)).any) h
  | hoRequest l => exact next (steady_takeHandover s l _ _ fun _ m _ => UnitsRun.takeRequest m) h
  | hoAccept l => exact next (steady_takeHandover s l _ _ fun _ m _ => UnitsRun.takeAccept m) h
  | hoRefuse l => exact next (steady_takeHandover s l _ _ fun _ m _ => UnitsRun.takeRefuse m) h
  | hoComplete l => exact next (steady_takeHandover s l _ _ fun _ m _ => UnitsRun.takeComplete m) h
  | hoCancel l => exact next (steady_takeHandover s l _ _ fun _ m _ => UnitsRun.takeCancel m) h
  | hoClaim l => exact next (steady_takeHandover s l _ _ fun _ m _ => UnitsRun.takeClaim m) h
  | fullNotice l => exact next (steady_takeHanded s _ _ _ fun _ _ _ _ => (MembersRun.takeFull _ _).any) h
  | joinNotice l => exact next (steady_takeHanded s _ _ _ fun _ _ _ _ => (MembersRun.takeChange _ _).any) h
  | leaveNotice l => exact next (steady_takeHanded s _ _ _ fun _ _ _ _ => (MembersRun.takeChange _ _).any) h
  | probe l => exact next (steady_takeHanded s _ _ _ fun _ _ _ _ => (LinksRun.takeProbe _ _).any) h
  | probeReply l => exact next (steady_takeHanded s _ _ _ fun _ _ _ _ => (LinksRun.takeProbeReply _ _).any) h
  | mgmtRequest l => exact next (steady_takeHanded s _ _ _ fun _ _ _ _ => AnyRun.takeMgmtRequest _) h
  | unknownRequestCode => exact next (AnyRun.serveHead _ _ (AnyRun.answer _ fun _ => AnyRun.refl)) h
  | identify => exact next (asked _ _ _ fun _ => AnyRun.refl) h
  | loadSites => exact next (AnyRun.serveListed _ _ _ (AnyRun.load _ _ _ AnyRun.takeSite)) h
  | loadTalkgroups => exact next (AnyRun.serveListed _ _ _ (AnyRun.load _ _ _ AnyRun.takeTalkgroup)) h
  | loadNeighbors => exact next (AnyRun.serveListed _ _ _ (AnyRun.load _ _ _ AnyRun.takeNeighbor)) h
  | writeParameters => exact next (AnyRun.serveListed _ _ _ AnyRun.writeParams) h
  | applyParameters => exact next (asked _ _ _ fun _ => AnyRun.applyParams) h
  | readParameters => exact next (asked _ _ _ fun _ => AnyRun.refl) h
  | readUnits => exact next (asked _ _ _ fun _ => AnyRun.refl) h
  | readUnit => exact next (asked _ _ _ fun _ => AnyRun.refl) h
  | readLinks => exact next (asked _ _ _ fun _ => AnyRun.refl) h
  | readChannels => exact next (asked _ _ _ fun _ => AnyRun.refl) h
  | readTalkgroups => exact next (asked _ _ _ fun _ => AnyRun.refl) h
  | collectCounters => exact next (asked _ _ _ fun _ => AnyRun.collect) h
  | readCounters => exact next (asked _ _ _ AnyRun.readCountersRequest) h
  | clearUnit => exact next (asked _ _ _ AnyRun.clearUnitRequest) h
  | clearEmergency => exact next (asked _ _ _ AnyRun.clearEmergencyRequest) h
  | restart => exact next (AnyRun.serveHead _ _ AnyRun.restartRequest) h
  | transmissionComplete p => exact next (steady_transmissionEnds s p) h
  | activityTimerExpiry u => exact next (UnitsRun.activityExpiry u).any h
  | pollTimerExpiry u => exact next (UnitsRun.pollExpiry u).any h
  | pollReplyWaitExpiry u => exact next (UnitsRun.pollWaitExpiry u).any h
  | lostHoldExpiry u => exact next (UnitsRun.lostExpiry u).any h
  | roamHoldExpiry u => exact next (UnitsRun.roamHoldEnds u).any h
  | replyWaitExpiry u => exact next (UnitsRun.replyWaitEnds u).any h
  | departureExpiry u => exact next (UnitsRun.departureEnds u).any h
  | arrivalExpiry u => exact next (UnitsRun.arrivalEnds u).any h
  | forwardHoldExpiry u => exact next (UnitsRun.forwardHoldEnds u).any h
  | refreshTimerExpiry => exact next AnyRun.expireRefresh h
  | ageTimerExpiry n => exact next (MembersRun.expireAge n).any h
  | waitTimerExpiry n id => exact next (CallsRun.waitTimerEnds n id).any h
  | voiceGapExpiry n => exact next (CallsRun.voiceGapEnds n).any h
  | talkTimerExpiry n => exact next (CallsRun.talkTimerEnds n).any h
  | hangTimerExpiry n => exact next (CallsRun.hangTimerEnds n).any h
  | probeTimerExpiry l => exact next (LinksRun.probeTimerEnds l).any h

/-! ## The restart and the reset line -/

/-- After a restart no port and no work names a buffer, and none is ALLOCATED. -/
theorem balanced_restartIo (io : Io) : balanced .none (restartIo io) := by
  have none (h : Handle) : (restartIo io).references h = 0 := by
    have ports : ∀ x ∈ (io.ports.map restartPort).toList, Port.references h x = 0 := by
      intro x hx
      obtain ⟨y, -, rfl⟩ := List.mem_map.mp (by simpa only [Vector.toList_map] using hx)
      simp [Port.references, restartPort, Port.initial]
    simp only [Io.references, restartIo, List.countP_nil, Nat.add_zero]
    exact List.sum_eq_zero fun n hn => by
      obtain ⟨x, hx, rfl⟩ := List.mem_map.mp hn
      exact ports x hx
  refine ⟨show (List.range' 1 512 ++ []).Nodup by rw [List.append_nil]; exact List.nodup_range', fun h => ?_⟩
  have free : bufferOf h (restartIo io) = Option.none := rfl
  simp only [refsOf, free, Option.map_none, Option.getD_none, none h, Held.none, Option.isSome_none]
  simp

theorem workUp_restartBlocks (s : State) : workUp (restartBlocks s).links (restartBlocks s).io :=
  fun _ hf => absurd hf (List.not_mem_nil)

/-- A restart leaves the balance and the engine's law, whatever was before. -/
theorem restart_lawful (s : State) : balanced .none (takeRestart s).io ∧ workUp (takeRestart s).links (takeRestart s).io := by
  unfold takeRestart
  split
  · have run := AnyRun.enterRunning (extra := .none) (s := restartBlocks s)
    exact ⟨run.refs (balanced_restartIo s.io), run.work (workUp_restartBlocks s)⟩
  · have run := LinksRun.seedAll (extra := .none) (s := restartBlocks s)
    exact ⟨run.refs (balanced_restartIo s.io), run.work (workUp_restartBlocks s)⟩

end Sys2Proof.Machine
end

section
/-! PROOFS. What a command short of the reset line and the restart can do, said once for all of them: `Goes` generates
it from what traffic does (`Acts`) and the changes that line symbols and requests make, each with the right to it that
the command's `Scope` gives. The laws and frames over all commands are inductions over the generators. -/

namespace Sys2Proof.Machine

/-- What a command has the right to move beside what traffic moves. -/
structure Scope where
  symbol : PortNo → Prop
  queues : Prop
  listed : Prop
  manages : Prop
  writes : Prop
  applies : Prop
  collects : Prop

/-- The commands that take an entry or a pair of a list (R155). -/
def Instr.isListed : Instr → Bool
  | .loadSites => true
  | .loadTalkgroups => true
  | .loadNeighbors => true
  | .writeParameters => true
  | _ => false

/-- The commands that take a frame to the request queue (R154). -/
def Instr.isMgmtRequest : Instr → Bool
  | .mgmtRequest _ => true
  | _ => false

/-- The scope of a command. -/
def scopeOf (c : Instr) : Scope where
  symbol p := occasion c = .symbol p
  queues := occasion c = .request ∨ Instr.isMgmtRequest c = true
  listed := Instr.isListed c = true
  manages := occasion c = .request
  writes := c = .writeParameters
  applies := c = .applyParameters
  collects := c = .collectCounters

/-- The changes that a command of a scope makes. -/
inductive Goes (k : Scope) : State → State → Prop
  | acts {s t : State} : Acts s t → Goes k s t
  | trans {s t u : State} : Goes k s t → Goes k t u → Goes k s u
  | port (s : State) (p : PortNo) (f : Port → Port) : (∀ x, (f x).queue = x.queue) →
      (k.symbol p ∨ ∀ x, (f x).reception = x.reception) → Goes k s { s with io := modPort p f s.io }
  | bump (s : State) (i : Nat) : Goes k s { s with io := bumpAt i s.io }
  | phase (s : State) (r : RestartPhase) : Goes k s { s with io := { s.io with restart := r } }
  | requests (s : State) (l : List Request) : k.queues → Goes k s { s with requests := l }
  | progress (s : State) (p : Progress) : k.listed → Goes k s { s with progress := p }
  | every (s : State) (f : Record → Record) : k.manages → (∀ r ∈ s.units, r.touched s.active (f r)) →
      Goes k s { s with units := s.units.map f }
  | talkgroups (s : State) (l : List TalkgroupEntry) : k.manages →
      (s.remoteLaw → ∀ g ∈ l, hasSite g.remote s.own = false) → Goes k s { s with talkgroups := l }
  | neighbors (s : State) (l : List (Option NeighborEntry)) : k.manages →
      (s.neighborLaw → State.neighborLaw { s with neighbors := l }) → Goes k s { s with neighbors := l }
  | marked (s : State) (b : Bool) : k.manages → Goes k s { s with snapshotRead := b }
  | collect (s : State) : k.manages → k.collects → Goes k s (collect s)
  | staged (s : State) (p : Params) : k.manages → k.writes → (s.staged.inRange → p.inRange) →
      Goes k s { s with staged := p }
  | apply (s : State) : k.manages → k.applies →
      (∀ set, hasSite set s.own = false → hasSite set s.staged.ownSite = false) →
      Goes k s { s with active := s.staged }
  | become (s : State) : k.manages → k.applies →
      Goes k s (becomeOwnEntry { s with active := s.staged, partState := .running })

namespace Goes

variable {k : Scope} {s t : State}

theorem refl : Goes k s s := .acts (.refl s)

/-! ## The frames -/

/-- The time base, the reset line and the waiting commands stay, and a part that runs goes on running. -/
theorem clock (h : Goes k s t) :
    t.pending = s.pending ∧ t.timeBase = s.timeBase ∧ t.resetHeld = s.resetHeld
      ∧ (s.partState = .running → t.partState = .running) := by
  induction h with
  | acts h =>
    obtain ⟨⟨held, time, part, -, -, -, -, -, -, -, -, pending⟩, -⟩ := h.management
    exact ⟨pending, time, held, fun run => part.trans run⟩
  | trans _ _ ih ih' =>
    obtain ⟨pending, time, held, part⟩ := ih
    obtain ⟨pending', time', held', part'⟩ := ih'
    exact ⟨pending'.trans pending, time'.trans time, held'.trans held, part' ∘ part⟩
  | become => exact ⟨rfl, rfl, rfl, fun _ => rfl⟩
  | _ => exact ⟨rfl, rfl, rfl, id⟩

/-- Traffic leaves the management state alone. -/
theorem management (h : Goes k s t) (traffic : ¬k.manages) (listed : ¬k.listed) : s.sameManagement t := by
  induction h with
  | acts h => exact h.management.1
  | trans _ _ ih ih' =>
    obtain ⟨a1, a2, a3, a4, a5, a6, a7, a8, a9, a10, a11, a12⟩ := ih
    obtain ⟨b1, b2, b3, b4, b5, b6, b7, b8, b9, b10, b11, b12⟩ := ih'
    exact ⟨b1.trans a1, b2.trans a2, b3.trans a3, b4.trans a4, b5.trans a5, b6.trans a6, b7.trans a7, b8.trans a8,
      b9.trans a9, b10.trans a10, b11.trans a11, b12.trans a12⟩
  | port | bump | phase | requests => exact ⟨rfl, rfl, rfl, rfl, rfl, rfl, rfl, rfl, rfl, rfl, rfl, rfl⟩
  | progress s p hl => exact absurd hl listed
  | every _ _ hm | talkgroups _ _ hm | neighbors _ _ hm | marked _ _ hm | collect _ hm | staged _ _ hm | apply _ hm
  | become _ hm => exact absurd hm traffic

theorem stagedKept (h : Goes k s t) (hw : ¬k.writes) : t.staged = s.staged := by
  induction h with
  | acts h => exact h.management.1.2.2.2.1
  | trans _ _ ih ih' => exact ih'.trans ih
  | staged _ _ _ w => exact absurd w hw
  | _ => rfl

theorem activeKept (h : Goes k s t) (ha : ¬k.applies) : t.active = s.active ∧ t.partState = s.partState := by
  induction h with
  | acts h => exact ⟨h.active, h.management.1.2.2.1⟩
  | trans _ _ ih ih' => exact ⟨ih'.1.trans ih.1, ih'.2.trans ih.2⟩
  | apply _ _ a | become _ _ a => exact absurd a ha
  | _ => exact ⟨rfl, rfl⟩

theorem requestsKept (h : Goes k s t) (hq : ¬k.queues) : t.requests = s.requests := by
  induction h with
  | acts h => exact h.management.2
  | trans _ _ ih ih' => exact ih'.trans ih
  | requests _ _ q => exact absurd q hq
  | _ => rfl

theorem progressKept (h : Goes k s t) (hl : ¬k.listed) : t.progress = s.progress := by
  induction h with
  | acts h =>
    obtain ⟨⟨-, -, -, -, -, -, -, -, -, -, progress, -⟩, -⟩ := h.management
    exact progress
  | trans _ _ ih ih' => exact ih'.trans ih
  | progress _ _ l => exact absurd l hl
  | _ => rfl

/-- A reception moves by line symbols at its own port. -/
theorem reception (h : Goes k s t) (p : PortNo) (hp : ¬k.symbol p) : receptionOf p t = receptionOf p s := by
  induction h with
  | acts h => exact (h.ports p).1
  | trans _ _ ih ih' => exact ih'.trans ih
  | port s q f _ hr =>
    show (modPort q f s.io).ports[p.val].reception = _
    rw [port_modPort]
    split
    · rename_i same
      subst same
      exact (hr.resolve_left hp) _
    · rfl
  | _ => rfl

/-- Counters are only raised. -/
theorem counters (h : Goes k s t) (hc : ¬k.collects) : countersGrow s.io.live t.io.live := by
  induction h with
  | acts h => exact h.counters
  | trans _ _ ih ih' =>
    refine ⟨ih'.1.trans ih.1, fun hb => ?_⟩
    have first := ih.2 hb
    have second := ih'.2 first.1
    exact ⟨second.1, fun i => (first.2 i).trans (second.2 i)⟩
  | bump s i => exact bumpAt_grow i s.io
  | collect _ _ c => exact absurd c hc
  | _ => exact ⟨rfl, fun hb => ⟨hb, fun _ => le_refl _⟩⟩

/-! ## The laws -/

theorem pool (h : Goes k s t) (hs : s.poolLaw) : t.poolLaw := by
  induction h with
  | acts h => exact h.pool hs
  | trans _ _ ih ih' => exact ih' (ih hs)
  | _ => exact hs

theorem params (h : Goes k s t) (hs : s.paramLaw) : t.paramLaw := by
  induction h with
  | acts h =>
    obtain ⟨⟨-, -, -, staged, active, -⟩, -⟩ := h.management
    exact ⟨staged.symm ▸ hs.1, active.symm ▸ hs.2⟩
  | trans _ _ ih ih' => exact ih' (ih hs)
  | staged s p _ _ hp => exact ⟨hp hs.1, hs.2⟩
  | apply | become => exact ⟨hs.1, hs.1⟩
  | _ => exact hs

theorem queues (h : Goes k s t) (hp : s.paramLaw) (hs : s.queueLaw) : t.queueLaw := by
  induction h with
  | acts h => exact h.queues hp.2 hs
  | trans h _ ih ih' => exact ih' (h.params hp) (ih hp hs)
  | port s p f hq =>
    refine ⟨fun q => ?_, hs.2⟩
    have same : (modPort p f s.io).ports[q.val].queue = s.io.ports[q.val].queue := by
      rw [port_modPort]
      split
      · rename_i eq
        subst eq
        exact hq _
      · rfl
    have := hs.1 q
    simp only [State.queueOf] at this ⊢
    rwa [same]
  | _ => exact hs

theorem units (h : Goes k s t) (hs : s.unitLaw) : t.unitLaw := by
  induction h with
  | acts h => exact h.units hs
  | trans _ _ ih ih' => exact ih' (ih hs)
  | every s f _ hf => exact Acts.unitsOk_map hs f fun r hr => ⟨(hf r hr).1, (hf r hr).2.1⟩
  | _ => exact hs

theorem roams (h : Goes k s t) (hp : s.paramLaw) (hs : s.roamLaw) : t.roamLaw := by
  induction h with
  | acts h => exact h.roams hp.2 hs
  | trans h _ ih ih' => exact ih' (h.params hp) (ih hp hs)
  | every s f _ hf =>
    intro r hr
    obtain ⟨x, hx, rfl⟩ := List.mem_map.mp hr
    exact (hf x hx).2.2 hp.2 (hs x hx)
  | _ => exact hs

theorem remotes (h : Goes k s t) (hs : s.remoteLaw) : t.remoteLaw := by
  induction h with
  | acts h => exact h.remotes hs
  | trans _ _ ih ih' => exact ih' (ih hs)
  | talkgroups s l _ hl => exact hl hs
  | apply s _ _ hown => exact fun g hg => hown _ (hs g hg)
  | become s =>
    intro g hg
    obtain ⟨x, -, rfl⟩ := List.mem_map.mp hg
    rw [Bool.eq_false_iff]
    exact fun here => ((hasSite_dropSite x.remote s.staged.ownSite s.staged.ownSite).mp here).2 rfl
  | _ => exact hs

theorem neighborsKept (h : Goes k s t) (hs : s.neighborLaw) : t.neighborLaw := by
  induction h with
  | acts h =>
    obtain ⟨⟨-, -, -, -, -, -, -, -, -, neighbors, -⟩, -⟩ := h.management
    unfold State.neighborLaw
    rwa [neighbors]
  | trans _ _ ih ih' => exact ih' (ih hs)
  | neighbors s l _ hl => exact hl hs
  | _ => exact hs

/-- Saturated sums of two lists of counters are counters. -/
theorem counters_zipWith {old live : List Nat} (h : old.length = 158) (h' : live.length = 158) :
    (List.zipWith (fun a b => saturate (a + b)) old live).length = 158
      ∧ ∀ n ∈ List.zipWith (fun a b => saturate (a + b)) old live, n ≤ 65535 := by
  refine ⟨by simp [h, h'], fun n hn => ?_⟩
  obtain ⟨i, hi, rfl⟩ := List.getElem_of_mem hn
  rw [List.getElem_zipWith]
  exact Nat.min_le_right _ _

theorem counterLaw (h : Goes k s t) (hs : s.counterLaw) : t.counterLaw := by
  induction h with
  | acts h =>
    obtain ⟨⟨-, -, -, -, -, restarts, snapshot, merges, -⟩, -⟩ := h.management
    obtain ⟨⟨length, bound⟩, rest⟩ := hs
    have grow := h.counters
    refine ⟨⟨grow.1.trans length, (grow.2 bound).1⟩, ?_⟩
    rw [snapshot, merges, restarts]
    exact rest
  | trans _ _ ih ih' => exact ih' (ih hs)
  | bump s i =>
    obtain ⟨⟨length, bound⟩, rest⟩ := hs
    have grow := bumpAt_grow i s.io
    exact ⟨⟨grow.1.trans length, (grow.2 bound).1⟩, rest⟩
  | collect s =>
    obtain ⟨⟨length, -⟩, ⟨old, -⟩, merges, restarts⟩ := hs
    have zeros : zeroCounters.length = 158 := List.length_replicate
    refine ⟨⟨zeros, fun n hn => ?_⟩, counters_zipWith ?_ length, ?_, restarts⟩
    · rw [List.eq_of_mem_replicate hn]
      exact Nat.zero_le _
    · show (if s.snapshotRead = true then zeroCounters else s.snapshot).length = 158
      split
      · exact zeros
      · exact old
    · show (if s.snapshotRead = true then 0 else saturate (s.mergeCount + 1)) ≤ 65535
      split
      · exact Nat.zero_le _
      · exact Nat.min_le_right _ _
  | _ => exact hs

end Goes

end Sys2Proof.Machine
end

section
/-! PROOFS. Every command short of the reset line and the restart goes as its scope says (`Goes`). -/

namespace Sys2Proof.Machine.Goes

variable {k : Scope}

/-- A change of frames alone. -/
theorem onIo (s : State) (f : Net → Io → Io) (hf : ∀ P : Prop, (P → hopOk s.net.active) → Moves P s.io (f s.net s.io)) :
    Goes k s (s.onIo f) := .acts (.onIo s f hf)

/-- A buffer's bytes or its completion request are written. -/
theorem write (s : State) (h : Handle) (f : Buffer → Buffer) (hf : ∀ b, (f b).handle = b.handle) :
    Goes k s (s.onIo fun _ => modBuffer h f) := onIo s _ fun _ _ => .write h f hf _

theorem countPortOf (s : State) (p : PortNo) (c : PortCounter) : Goes k s (Machine.countPortOf p c s) := .bump s _

/-! ## Line symbols (R8 to R10) -/

section
variable {p : PortNo} (hp : k.symbol p)
include hp

theorem enterReception (r : Reception) (s : State) : Goes k s (Machine.enterReception p r s) :=
  .port s p (fun x => { x with reception := r }) (fun _ => rfl) (Or.inl hp)

theorem cutReception (c : PortCounter) (r : Reception) (s : State) :
    Goes k s (Machine.enterReception p r (Machine.cutReception p c s)) := by
  refine Goes.trans ?_ (enterReception hp r _)
  unfold Machine.cutReception
  split
  · exact refl
  · exact countPortOf s p c
  · exact (countPortOf s p c).trans
      (onIo (Machine.countPortOf p c s) (fun n => dropReference n _) fun _ hc => .dropReference hc _ _)
  · exact countPortOf s p c
  · exact refl

theorem storeFrame (bytes : List Byte) (reserve : Nat) (s : State) :
    Goes k s (s.onIo fun _ => Machine.storeFrame p bytes reserve) := by
  have asked := onIo (k := k) s (fun _ io => (allocate reserve (parseHeader bytes).frameClass io).2)
    fun _ _ => .allocate reserve (parseHeader bytes).frameClass s.io
  unfold State.onIo Machine.storeFrame at *
  simp only at *
  generalize allocate reserve (parseHeader bytes).frameClass s.io = got at asked ⊢
  obtain ⟨answer, io⟩ := got
  have discarded (c : PortCounter) : Goes k { s with io := io }
      { s with io := setReception p (.discard bytes .refused) (countPort p c io) } :=
    (countPortOf { s with io := io } p c).trans (enterReception hp _ _)
  cases answer with
  | granted h =>
    exact (asked.trans (write { s with io := io } h (fun b => { b with bytes := bytes }) fun _ => rfl)).trans
      (enterReception hp (.store h) _)
  | reserve => exact asked.trans (discarded .reserveDrops)
  | empty => exact asked.trans (discarded .emptyDrops)

theorem takeByte (b : Byte) (s : State) : Goes k s (Machine.takeByte p b s) := by
  unfold Machine.takeByte
  split
  · exact refl
  · unfold takeHeaderByte completeHeader
    split
    · exact enterReception hp _ s
    · simp only
      split
      · exact enterReception hp _ s
      · exact storeFrame hp _ _ s
  · unfold takeStoreByte
    split
    · exact write s _ (fun x => { x with bytes := x.bytes ++ [b] }) fun _ => rfl
    · exact cutReception hp _ _ s
  · unfold takeDiscardByte
    split
    · exact enterReception hp _ s
    · exact cutReception hp _ _ s

theorem takeEnd (s : State) : Goes k s (Machine.takeEnd p s) := by
  have entered (u : State) := enterReception hp .hunt u
  unfold Machine.takeEnd judge
  split
  · exact entered s
  · exact (countPortOf s p _).trans (entered _)
  · unfold judgeStored
    split
    · exact cutReception hp _ _ s
    · split
      · exact cutReception hp _ _ s
      · exact ((countPortOf s p .framesGood).trans (.port _ p
          (fun x => { x with handed := x.handed ++ [{ handle := _, toAgent := s.isUnconfigured }] }) (fun _ => rfl)
            (Or.inl hp))).trans (entered _)
  · exact (countPortOf s p _).trans (entered _)
  · exact entered s

end

theorem whileTaking {f : State → State} (hf : ∀ s, Goes k s (f s)) (s : State) : Goes k s (Machine.whileTaking f s) := by
  unfold Machine.whileTaking
  split
  · exact refl
  · exact hf s

/-! ## Frames handed on (R22) -/

theorem takeHanded (s : State) (p : PortNo) (isMine : Handed → Header → State → Bool)
    (run : Handle → Header → List Byte → State → State) (hr : ∀ h hdr payload s, Goes k s (run h hdr payload s)) :
    Goes k s (Machine.takeHanded p isMine run s) := by
  unfold Machine.takeHanded
  split
  · exact refl
  · simp only
    split
    · refine (Goes.port s p (fun y => { y with handed := y.handed.tail }) (fun _ => rfl) (Or.inr fun _ => rfl)).trans
        ((hr _ _ _ _).trans (onIo _ _ fun _ hc => .dropReference hc _ _))
    · exact refl

theorem takeFromChannel (s : State) (n : ChannelNo) (kind : Kind) (run : Handle → Header → List Byte → State → State)
    (hr : ∀ h hdr payload s, Acts s (run h hdr payload s)) : Goes k s (Machine.takeFromChannel n kind run s) :=
  takeHanded s _ _ _ fun h hdr payload _ => .acts ((Acts.unitNotice _ _ _ _ _).trans (hr h hdr payload _))

theorem takeHandover (s : State) (l : LinkNo) (kind : Kind) (f : HoMessage → State → State)
    (hf : ∀ m s, Acts s (f m s)) : Goes k s (Machine.takeHandover l kind f s) :=
  takeHanded s (linkPort l) (ownKind kind) _ fun _ hdr _ s =>
    .acts (Acts.unlessOwn (hoMessageOf hdr) (f (hoMessageOf hdr)) s (hf _ s))

theorem takeMgmtRequest (hq : k.queues) (q : Request) (s : State) : Goes k s (Machine.takeMgmtRequest q s) := by
  unfold Machine.takeMgmtRequest
  split
  · exact .acts (.count s _)
  · split
    · exact .acts (.sendReply _ _ _ _)
    · exact .requests s _ hq

/-! ## The end of a transmission (R14) -/

/-- Setting order sent is a change of the unit's own record. -/
theorem orderCompleted_units (u : UnitId) (id : Nat) (s : State) :
    ({ s with units := s.units.map (orderCompleted u id) } : State) = modUnit u (orderCompleted u id) s := by
  unfold modUnit
  congr 1
  refine List.map_congr_left fun r _ => ?_
  split
  · rfl
  · rename_i other
    have ne : r.unit ≠ u := by simpa using other
    simp [orderCompleted, ne]

theorem orderCompleted_kept (u : UnitId) (id : Nat) (r : Record) :
    (orderCompleted u id r).slot = r.slot ∧ (orderCompleted u id r).unit = r.unit
      ∧ (orderCompleted u id r).serving = r.serving ∧ (orderCompleted u id r).candidates = r.candidates := by
  unfold orderCompleted
  split
  · split <;> exact ⟨rfl, rfl, rfl, rfl⟩
  · exact ⟨rfl, rfl, rfl, rfl⟩

theorem answerSent (done : Option Completion) (s : State) : Goes k s (Machine.answerSent done s) := by
  unfold Machine.answerSent
  split
  · rw [orderCompleted_units]
    exact .acts (.touchKeep s _ _ (orderCompleted_kept _ _))
  · exact onIo s _ fun _ _ => .answer _
  · exact refl

theorem transmissionEnds (p : PortNo) (s : State) : Goes k s (Machine.transmissionEnds p s) := by
  unfold Machine.transmissionEnds
  split
  · exact refl
  · rename_i x _
    unfold completeTransmission
    simp only
    refine (countPortOf s p .transmitted).trans ?_
    generalize Machine.countPortOf p .transmitted s = u
    refine (answerSent (completionOf x.entry.handle u.io) u).trans ?_
    refine (write _ x.entry.handle (fun b => { b with completion := none }) fun _ => rfl).trans ?_
    refine (onIo _ (fun c => dropReference c x.entry.handle) fun _ hc => .dropReference hc _ _).trans ?_
    exact (Goes.port _ p (fun x => { x with sending := none, lastEnd := some .endDelimiter }) (fun _ => rfl)
      (Or.inr fun _ => rfl)).trans (onIo _ (fun _ => startTransmission p) fun _ _ => .start p _)

/-! ## Requests (R155) -/

section
variable (hq : k.queues)
include hq

theorem serveHead (isCode : Byte → Bool) (run : Request → State → State) (s : State) (hr : ∀ q, Goes k s (run q s)) :
    Goes k s (Machine.serveHead isCode run s) := by
  unfold Machine.serveHead
  split
  · exact refl
  · split
    · exact (hr _).trans (.requests _ _ hq)
    · exact refl

theorem asked (isCode : Byte → Bool) (n : Nat) (f : Request → State → Reply × State) (s : State)
    (hf : ∀ q, Goes k s (f q s).2) : Goes k s (Machine.serveHead isCode (answer (sized n f)) s) := by
  refine serveHead hq _ _ s fun q => ?_
  refine Goes.trans ?_ (.acts (.sendReply _ _ _ _))
  unfold sized
  split
  · exact hf q
  · exact refl

theorem serveListed (hl : k.listed) (isCode : Byte → Bool) (size : Nat) (run : Request → State → Option Reply × State)
    (s : State) (hr : ∀ q, Goes k s (run q s).2) : Goes k s (Machine.serveListed isCode size run s) := by
  unfold Machine.serveListed
  split
  · exact refl
  · rename_i q rest _
    have finish {t : State} (h : Goes k s t) (r : Reply) : Goes k s (finishHead q rest r t) :=
      ((h.trans (.acts (.sendReply q r none t))).trans (.requests _ rest hq)).trans (.progress _ Progress.start hl)
    split
    · split
      · have ran := hr q
        split <;> rename_i eq <;> rw [eq] at ran
        · exact finish ran _
        · exact ran
      · exact finish refl _
    · exact refl

end

theorem load (hl : k.listed) (size : Nat) (check : List Byte → State → Option Byte) (take : List Byte → State → State)
    (s : State) (ht : ∀ e, check e s = none → Goes k s (take e s)) (q : Request) :
    Goes k s (Machine.load size check take q s).2 := by
  unfold Machine.load
  simp only
  split
  · exact refl
  · split
    · exact refl
    · rename_i passed
      split
      · exact (ht _ passed).trans (.progress _ _ hl)
      · exact ht _ passed

theorem takeSite (e : List Byte) (s : State) : Goes k s (Machine.takeSite e s) := by
  unfold Machine.takeSite
  split
  · unfold removeSite
    split
    · exact refl
    · exact .acts ((Acts.dropFromSets _ s).trans (.sites _ _))
  · exact .acts (.sites s _)

theorem takeTalkgroup (hm : k.manages) (e : List Byte) (s : State) : Goes k s (Machine.takeTalkgroup e s) := by
  unfold Machine.takeTalkgroup
  simp only
  split
  · exact .talkgroups s _ hm fun law g hg => law g (List.mem_of_mem_filter hg)
  · refine .talkgroups s _ hm fun law g hg => ?_
    rcases Acts.mem_insertKeyed _ _ hg with rfl | old
    · cases found : findTalkgroup (fieldAt e 0 2) s.talkgroups with
      | none => exact hasSite_zero _
      | some x => exact law x (List.mem_of_find?_eq_some found)
    · exact law g old

/-! ### The Neighbor Table (R71) -/

/-- The law of a Neighbor Table, position by position. -/
theorem neighborLaw_iff (s : State) :
    s.neighborLaw ↔ s.neighbors.length = 8
      ∧ ∀ (i j : Nat) (hi : i < s.neighbors.length) (hj : j < s.neighbors.length), i < j →
        ∀ x, s.neighbors[i] = some x → ∀ y, s.neighbors[j] = some y → x.site ≠ y.site := by
  unfold State.neighborLaw List.Nodup
  rw [List.pairwise_filterMap, List.pairwise_iff_getElem]
  simp only [Option.map_eq_some_iff, forall_exists_index, and_imp, forall_apply_eq_imp_iff₂]

/-- An entry takes the position of its site, or another one in a table without its site. -/
theorem putNeighbor_elsewhere (x : NeighborEntry) {s : State} (hs : s.neighborLaw) :
    ∃ i, (putNeighbor x s).neighbors = s.neighbors.set i (some x)
      ∧ ∀ (j : Nat) (hj : j < s.neighbors.length), j ≠ i → ∀ y, s.neighbors[j] = some y → y.site ≠ x.site := by
  obtain ⟨-, law⟩ := (neighborLaw_iff s).mp hs
  refine ⟨_, rfl, fun j hj ne y hy same => ?_⟩
  have pred : (fun o : Option NeighborEntry => o.any fun e => e.site == x.site) s.neighbors[j] = true := by
    simp [hy, same]
  have found : (findNeighbor x.site s.neighbors).isSome = true := by
    unfold findNeighbor
    rw [List.isSome_findSome?]
    exact List.any_eq_true.mpr ⟨_, List.getElem_mem hj, by simp [hy, same, Option.filter]⟩
  obtain ⟨z, hz⟩ := Option.isSome_iff_exists.mp found
  simp only [hz] at ne
  have inside : neighborIndex x.site s.neighbors < s.neighbors.length :=
    List.findIdx_lt_length_of_exists ⟨_, List.getElem_mem hj, pred⟩
  have here : (s.neighbors[neighborIndex x.site s.neighbors]).any (fun e => e.site == x.site) = true :=
    List.findIdx_getElem (w := inside)
  obtain ⟨w, hw, site⟩ := (Option.any_eq_true _ _).mp here
  have site : w.site = x.site := by simpa using site
  rcases Nat.lt_or_gt_of_ne ne with lt | gt
  · exact law j _ hj inside lt y hy w hw (same.trans site.symm)
  · exact law _ j inside hj gt w hw y hy (site.trans same.symm)

theorem putNeighbor_lawful (x : NeighborEntry) {s : State} (hs : s.neighborLaw) : (putNeighbor x s).neighborLaw := by
  obtain ⟨length, law⟩ := (neighborLaw_iff s).mp hs
  obtain ⟨i, set, elsewhere⟩ := putNeighbor_elsewhere x hs
  rw [neighborLaw_iff, set]
  refine ⟨by rw [List.length_set, length], fun a b ha hb lt u hu v hv => ?_⟩
  rw [List.length_set] at ha hb
  rw [List.getElem_set] at hu hv
  split at hu
  · obtain rfl := Option.some.inj hu
    rw [if_neg (by omega)] at hv
    exact (elsewhere b hb (by omega) v hv).symm
  · split at hv
    · obtain rfl := Option.some.inj hv
      exact elsewhere a ha (by omega) u hu
    · exact law a b ha hb lt u hu v hv

theorem removeNeighbor_lawful (n : SiteId) {s : State} (hs : s.neighborLaw) : (removeNeighbor n s).neighborLaw := by
  obtain ⟨length, law⟩ := (neighborLaw_iff s).mp hs
  refine (neighborLaw_iff _).mpr ⟨by simpa [removeNeighbor] using length, fun a b ha hb lt u hu v hv => ?_⟩
  have cut : (removeNeighbor n s).neighbors = s.neighbors.map fun o => o.filter fun x => x.site != n := rfl
  simp only [cut, List.length_map] at ha hb
  simp only [cut, List.getElem_map, Option.filter_eq_some_iff] at hu hv
  exact law a b ha hb lt u hu.1 v hv.1

theorem takeNeighbor (hm : k.manages) (e : List Byte) (s : State) : Goes k s (Machine.takeNeighbor e s) := by
  unfold Machine.takeNeighbor
  split
  · have cleared : Goes k s { s with units := s.units.map (freeSlotsOf (byteAt e 0).toNat) } :=
      .every s _ hm fun r _ => ⟨rfl, rfl, fun _ => roamOk_freeSlots _ r⟩
    have removed (u : State) (hu : u.neighbors = s.neighbors) : Goes k u
        { u with neighbors := s.neighbors.map fun o => o.filter fun x => x.site != (byteAt e 0).toNat } :=
      .neighbors u _ hm fun law => removeNeighbor_lawful (s := s) _ (by unfold State.neighborLaw at *; rwa [hu] at law)
    unfold removeNeighbor
    split
    · exact cleared.trans (removed _ rfl)
    · exact removed s rfl
  · exact .neighbors s _ hm fun law => putNeighbor_lawful _ law

/-! ### Parameters (R157 to R159) -/

/-- The ranges are not empty, and that of parameter 11 alone holds negative values. -/
theorem paramRanges_ordered :
    ∀ i : Fin 29, (paramRanges.getD i.val (0, 0)).1 ≤ (paramRanges.getD i.val (0, 0)).2
      ∧ (i.val ≠ 10 → 0 ≤ (paramRanges.getD i.val (0, 0)).1) := by decide

/-- A value written is in its parameter's range (R158). -/
theorem clampParam_between {n : Nat} (v : Int) (h1 : 1 ≤ n) (hn : n ≤ 29) :
    (paramRanges.getD (n - 1) (0, 0)).1 ≤ clampParam n v ∧ clampParam n v ≤ (paramRanges.getD (n - 1) (0, 0)).2 := by
  have ordered := (paramRanges_ordered ⟨n - 1, by omega⟩).1
  unfold clampParam
  simp only at ordered ⊢
  split
  · rename_i threshold
    subst threshold
    have range : paramRanges.getD (25 - 1) (0, 0) = (1, 8) := rfl
    rw [range]
    unfold nearestThreshold
    split
    · decide
    · split <;> decide
  · omega

theorem clampParam_threshold (v : Int) : clampParam 25 v = 1 ∨ clampParam 25 v = 4 ∨ clampParam 25 v = 8 := by
  unfold clampParam nearestThreshold
  simp only [if_true]
  split
  · exact Or.inl rfl
  · split
    · exact Or.inr (Or.inl rfl)
    · exact Or.inr (Or.inr rfl)

/-- Writing a parameter sets its value and no other (R157). -/
theorem values_write {n : Nat} (v : Int) (p : Params) (h1 : 1 ≤ n) (hn : n ≤ 29) (hv : n ≠ 11 → 0 ≤ v) :
    (p.write n v).values = p.values.set (n - 1) v := by
  interval_cases n
  all_goals simp [Params.write, Params.values]
  all_goals exact hv (by decide)

theorem length_values (p : Params) : p.values.length = 29 := rfl

theorem values_threshold (p : Params) : p.values.getD 24 0 = p.failThreshold := rfl

/-- A value within its range written into a set in range leaves a set in range. -/
theorem inRange_write {n : Nat} (v : Int) {p : Params} (hp : p.inRange) (h1 : 1 ≤ n) (hn : n ≤ 29) :
    (p.write n (clampParam n v)).inRange := by
  obtain ⟨ranges, threshold⟩ := hp
  have between := clampParam_between v h1 hn
  have written := values_write (clampParam n v) p h1 hn fun ne =>
    le_trans ((paramRanges_ordered ⟨n - 1, by omega⟩).2 (by simp only; omega)) between.1
  have value (i : Nat) (hi : i < 29) :
      (p.write n (clampParam n v)).values.getD i 0 = if n - 1 = i then clampParam n v else p.values.getD i 0 := by
    rw [written, List.getD_eq_getElem?_getD, List.getElem?_set]
    split
    · rename_i same
      subst same
      simp [length_values, hi]
    · rfl
  refine ⟨fun i hi => ?_, ?_⟩
  · rw [value i hi]
    split
    · rename_i same
      subst same
      exact between
    · exact ranges i hi
  · have new := value 24 (by decide)
    rw [values_threshold, values_threshold] at new
    split at new
    · obtain rfl : n = 25 := by omega
      have := clampParam_threshold v
      omega
    · omega

theorem writeParams (hl : k.listed) (hm : k.manages) (hw : k.writes) (q : Request) (s : State) :
    Goes k s (Machine.writeParams q s).2 := by
  unfold Machine.writeParams
  simp only
  split
  · exact refl
  · rename_i e _
    split
    · rename_i inside
      obtain ⟨low, high⟩ := Bool.and_eq_true_iff.mp inside
      have written : Goes k s
          { s with
            staged := (s.staged.write (byteAt e 0).toNat
              (clampParam (byteAt e 0).toNat (signed16 (fieldAt e 1 2)))) } :=
        .staged s _ hm hw fun hp => inRange_write _ hp (of_decide_eq_true low) (of_decide_eq_true high)
      split
      · exact written.trans (.progress _ _ hl)
      · exact written
    · exact refl

theorem applyUnconfigured (hm : k.manages) (ha : k.applies) (s : State) :
    Goes k s (Machine.applyUnconfigured { s with active := s.staged }) := by
  unfold Machine.applyUnconfigured
  split
  · rename_i none
    have zero : s.staged.ownSite = 0 := none
    refine Goes.trans (.apply s hm ha fun set _ => ?_) (.acts (.foldl _ (fun u l => ?_) _ _))
    · rw [zero]
      rfl
    · split
      · exact .seedLink u l
      · exact .refl u
  · exact (Goes.become s hm ha).trans (.acts (.enterRunning _))

theorem applyParams (hm : k.manages) (ha : k.applies) (s : State) : Goes k s (Machine.applyParams s).2 := by
  unfold Machine.applyParams
  split
  · split
    · exact refl
    · rename_i same
      have own : s.staged.ownSite = s.own := not_not.mp same
      exact (Goes.apply s hm ha fun set h => own ▸ h).trans (.acts (.foldl _ Acts.reconsiderLink _ _))
  · exact applyUnconfigured hm ha s

theorem readCountersRequest (hm : k.manages) (q : Request) (s : State) :
    Goes k s (Machine.readCountersRequest q s).2 := by
  unfold Machine.readCountersRequest
  simp only
  split
  · split
    · exact .marked s _ hm
    · exact refl
  · exact refl

theorem clearUnitRequest (q : Request) (s : State) : Goes k s (Machine.clearUnitRequest q s).2 := by
  unfold Machine.clearUnitRequest
  split
  · exact refl
  · exact .acts (.clearRecord _ s)

theorem clearEmergencyRequest (q : Request) (s : State) : Goes k s (Machine.clearEmergencyRequest q s).2 := by
  unfold Machine.clearEmergencyRequest
  split
  · exact refl
  · exact .acts (.clearEmergency _ s)

theorem restartRequest (q : Request) (s : State) : Goes k s (Machine.restartRequest q s) := by
  have asked (P : Prop) := Moves.buildFrame (P := P) (c := s.net) (replyHeader q s) (Reply.done []).payload (some .restartReply) s.io
  unfold Machine.restartRequest
  split
  · split <;> rename_i eq <;> rw [eq] at asked
    · rename_i h io
      have here : Goes k s { s with io := io } := .acts (.io s io fun P _ => asked P)
      exact (here.trans (.phase _ .awaitingReply)).trans
        (onIo { s with io := { io with restart := .awaitingReply } }
          (fun c io => dropReference c h (placeReply c q.link h q.origin io))
          fun _ hc => (Moves.placeReply hc _ _ _ _).trans (.dropReference hc _ _))
    · rename_i io
      exact Goes.trans (.acts (.io s io fun P _ => asked P)) (.phase _ .due)
  · exact .acts (.sendReply _ _ _ _)

/-! ## Every command -/

/-- A command short of the reset line and the restart goes as its scope says. -/
theorem exec (c : Instr) (s t : State) (hreset : occasion c ≠ .reset) (hrestart : occasion c ≠ .restart)
    (h : Machine.exec c s = .next t) : Goes (scopeOf c) s t := by
  have next {u : State} (hu : Goes (scopeOf c) s u)
      (eq : (Host.Outcome.next u : Host.Outcome State Fault Refusal) = .next t) : Goes (scopeOf c) s t :=
    Host.Outcome.next.inj eq ▸ hu
  cases c with
  | fullReset | fullResetEnd => exact absurd rfl hreset
  | restartTakesPlace => exact absurd rfl hrestart
  | startDelimiter p | abortSequence p => exact next (whileTaking (fun s => cutReception rfl _ _ s) s) h
  | dataByte p b => exact next (whileTaking (fun s => takeByte rfl b s) s) h
  | frameHeaderComplete p b =>
    refine next (whileTaking (fun s => ?_) s) h
    unfold takeTwentieth
    split
    · exact takeByte rfl b s
    · exact refl
  | frameTooLong p b =>
    refine next (whileTaking (fun s => ?_) s) h
    unfold takeExcess
    split
    · exact takeByte rfl b s
    · exact refl
  | judgeFrame p => exact next (whileTaking (fun s => takeEnd rfl s) s) h
  | register n => exact next (takeFromChannel s n _ _ fun _ _ _ _ => .registerByState _ _ _) h
  | measure n => exact next (takeFromChannel s n _ _ fun _ _ _ _ => .measureByState _ _ _) h
  | pollReply n => exact next (takeFromChannel s n _ _ fun _ _ _ _ => .pollReplyByState _ _) h
  | callStart n => exact next (takeFromChannel s n _ _ fun _ _ _ _ => .takeLocalStart _ _ _ _) h
  | voice n => exact next (takeFromChannel s n _ _ fun _ _ _ _ => .takeLocalVoice _ _ _ _) h
  | callEnd n => exact next (takeFromChannel s n _ _ fun _ _ _ _ => .takeLocalEnd _ _ _ _) h
  | forwardTargetSet l => exact next (takeHanded s _ _ _ fun _ _ _ s => .acts (.fanOut _ _ _ s)) h
  | forwardSingleDestination l =>
    exact next (takeHanded s _ _ _ fun _ _ _ s => onIo s _ fun _ hc => .forwardSingle hc _ _ _ _ _) h
  | unitMessage l => exact next (takeHanded s _ _ _ fun _ _ _ s => .acts (.takeUnitMessage _ _ _ s)) h
  | hoRequest l => exact next (takeHandover s l _ _ fun m s => .takeRequest m s) h
  | hoAccept l => exact next (takeHandover s l _ _ fun m s => .takeAccept m s) h
  | hoRefuse l => exact next (takeHandover s l _ _ fun m s => .takeRefuse m s) h
  | hoComplete l => exact next (takeHandover s l _ _ fun m s => .takeComplete m s) h
  | hoCancel l => exact next (takeHandover s l _ _ fun m s => .takeCancel m s) h
  | hoClaim l => exact next (takeHandover s l _ _ fun m s => .takeClaim m s) h
  | fullNotice l => exact next (takeHanded s _ _ _ fun _ _ _ s => .acts (.takeFull _ _ s)) h
  | joinNotice l =>
    exact next (takeHanded s _ _ _ fun _ hdr _ s => .acts (.takeChange _ hdr s fun _ _ hn h => Acts.hasSite_add hn h)) h
  | leaveNotice l =>
    exact next (takeHanded s _ _ _ fun _ hdr _ s => .acts (.takeChange _ hdr s fun _ _ _ h => Acts.hasSite_drop h)) h
  | probe l => exact next (takeHanded s _ _ _ fun _ _ _ s => .acts (.takeProbe _ _ s)) h
  | probeReply l => exact next (takeHanded s _ _ _ fun _ _ _ s => .acts (.takeProbeReply _ _ s)) h
  | mgmtRequest l => exact next (takeHanded s _ _ _ fun _ _ _ s => takeMgmtRequest (Or.inr rfl) _ s) h
  | unknownRequestCode => exact next (serveHead (Or.inl rfl) _ _ s fun q => .acts (.sendReply _ _ _ s)) h
  | identify | readParameters | readUnits | readUnit | readLinks | readChannels | readTalkgroups =>
    exact next (asked (Or.inl rfl) _ _ _ s fun _ => refl) h
  | loadSites => exact next (serveListed (Or.inl rfl) rfl _ _ _ s (load rfl _ _ _ s fun e _ => takeSite e s)) h
  | loadTalkgroups =>
    exact next (serveListed (Or.inl rfl) rfl _ _ _ s (load rfl _ _ _ s fun e _ => takeTalkgroup rfl e s)) h
  | loadNeighbors =>
    exact next (serveListed (Or.inl rfl) rfl _ _ _ s (load rfl _ _ _ s fun e _ => takeNeighbor rfl e s)) h
  | writeParameters => exact next (serveListed (Or.inl rfl) rfl _ _ _ s fun q => writeParams rfl rfl rfl q s) h
  | applyParameters => exact next (asked (Or.inl rfl) _ _ _ s fun _ => applyParams rfl rfl s) h
  | collectCounters => exact next (asked (Or.inl rfl) _ _ _ s fun _ => .collect s rfl rfl) h
  | readCounters => exact next (asked (Or.inl rfl) _ _ _ s fun q => readCountersRequest rfl q s) h
  | clearUnit => exact next (asked (Or.inl rfl) _ _ _ s fun q => clearUnitRequest q s) h
  | clearEmergency => exact next (asked (Or.inl rfl) _ _ _ s fun q => clearEmergencyRequest q s) h
  | restart => exact next (serveHead (Or.inl rfl) _ _ s fun q => restartRequest q s) h
  | transmissionComplete p => exact next (transmissionEnds p s) h
  | activityTimerExpiry u => exact next (.acts (.activityExpiry u s)) h
  | pollTimerExpiry u => exact next (.acts (.pollExpiry u s)) h
  | pollReplyWaitExpiry u => exact next (.acts (.pollWaitExpiry u s)) h
  | lostHoldExpiry u => exact next (.acts (.lostExpiry u s)) h
  | roamHoldExpiry u => exact next (.acts (.roamHoldEnds u s)) h
  | replyWaitExpiry u => exact next (.acts (.replyWaitEnds u s)) h
  | departureExpiry u => exact next (.acts (.departureEnds u s)) h
  | arrivalExpiry u => exact next (.acts (.arrivalEnds u s)) h
  | forwardHoldExpiry u => exact next (.acts (.forwardHoldEnds u s)) h
  | refreshTimerExpiry => exact next (.acts (.expireRefresh s)) h
  | ageTimerExpiry n => exact next (.acts (.expireAge n s)) h
  | waitTimerExpiry n id => exact next (.acts (.waitTimerEnds n id s)) h
  | voiceGapExpiry n => exact next (.acts (.voiceGapEnds n s)) h
  | talkTimerExpiry n => exact next (.acts (.talkTimerEnds n s)) h
  | hangTimerExpiry n => exact next (.acts (.hangTimerEnds n s)) h
  | probeTimerExpiry l => exact next (.acts (.probeTimerEnds l s)) h

end Sys2Proof.Machine.Goes
end

section
/-! PROOFS. The laws that every step keeps (O6, O7, O9 and most of O12), and the rules over all commands (O13 to O15),
from what the commands go through (`Goes`), the restart and the reset line. -/

namespace Sys2Proof.Machine

/-! ## A step (section 5.6 of spec/00_scope.md) -/

/-- The state that the reset line leaves. -/
def State.resetTo (held : Bool) (waiting : List Instr) : State :=
  { State.reset with resetHeld := held, pending := waiting }

/-- The reset line leaves the reset state, or changes nothing. -/
theorem exec_reset {c : Instr} {s t : State} (hc : occasion c = .reset) (h : exec c s = .next t) :
    t = s ∨ ∃ held, t = State.resetTo held s.pending := by
  cases c with
  | fullReset => exact Or.inr ⟨true, (Host.Outcome.next.inj h).symm⟩
  | fullResetEnd =>
    have left : releaseReset s = t := Host.Outcome.next.inj h
    unfold releaseReset at left
    split at left
    · exact Or.inr ⟨false, left.symm⟩
    · exact Or.inl left.symm
  | _ => cases hc

/-- A restart that takes place does so by the blocks' restart and what the links then do. -/
theorem exec_restart {c : Instr} {s t : State} (hc : occasion c = .restart) (h : exec c s = .next t) :
    t = s ∨ (t = takeRestart s ∧ Acts (restartBlocks s) t) := by
  cases c with
  | restartTakesPlace =>
    have left : restartIfDue s = t := Host.Outcome.next.inj h
    unfold restartIfDue at left
    split at left
    · subst left
      refine Or.inr ⟨rfl, ?_⟩
      unfold takeRestart
      split
      · exact .enterRunning _
      · exact .seedAll _
    · exact Or.inl left.symm
    · exact Or.inl left.symm
  | _ => cases hc

/-- A law that time, the engine's own turns, every command, the restart and the reset line keep is kept by every
step. -/
theorem step_keeps {L : State → Prop} (waiting : ∀ s w, L s → L { s with pending := w })
    (resting : ∀ s, L s → L (rest s)) (goes : ∀ k s t, Goes k s t → L s → L t) (restart : ∀ s, L s → L (restartBlocks s))
    (reset : ∀ held w, L (State.resetTo held w)) {s t : State} (h : step s = .next t) (hs : L s) : L t := by
  unfold step at h
  split at h
  · exact Host.Outcome.next.inj h ▸ resting s hs
  · rename_i c w hw
    have start := waiting s w hs
    by_cases isReset : occasion c = .reset
    · obtain rfl | ⟨held, rfl⟩ := exec_reset isReset h
      · exact start
      · exact reset held _
    · by_cases isRestart : occasion c = .restart
      · obtain rfl | ⟨-, acts⟩ := exec_restart isRestart h
        · exact start
        · exact goes (scopeOf c) _ _ (.acts acts) (restart _ start)
      · exact goes _ _ _ (.exec c _ t isReset isRestart h) start

/-- A law that reads neither time nor frames is kept while no command waits. -/
theorem rest_keeps {L : State → Prop} (clock : ∀ s b, L s → L { s with timeBase := b })
    (io : ∀ s, L s → L (s.onIo engineTurn)) (s : State) (hs : L s) : L (rest s) := by
  unfold rest
  split
  · unfold passTime
    split
    · exact hs
    · exact clock s _ hs
  · exact io s hs

/-! ## The laws -/

theorem poolLaw_restart (s : State) : (restartBlocks s).poolLaw := by
  simp [State.poolLaw, restartBlocks, restartIo, Pool.initial]

theorem step_poolLaw {s t : State} (h : step s = .next t) (hs : s.poolLaw) : t.poolLaw :=
  step_keeps (L := State.poolLaw) (fun _ _ h => h)
    (rest_keeps (fun _ _ h => h) fun s hs =>
      ((Moves.engineTurn (P := False) (c := s.net) False.elim s.io False.elim).pool
        (hs.nodup_iff.mpr List.nodup_range')).trans hs)
    (fun _ _ _ g h => g.pool h) (fun s _ => poolLaw_restart s) (fun _ _ => poolLaw_reset) h hs

theorem step_balanced {s t : State} (h : step s = .next t) (hs : balanced .none s.io) : balanced .none t.io := by
  unfold step at h
  split at h
  · obtain rfl := Host.Outcome.next.inj h
    unfold rest
    split
    · unfold passTime
      split <;> exact hs
    · exact (Carries.engineTurn (links := s.links) (c := s.net)).refs hs
  · rename_i c w hw
    by_cases isReset : occasion c = .reset
    · obtain rfl | ⟨held, rfl⟩ := exec_reset isReset h
      · exact hs
      · exact (balanced_iff State.reset poolLaw_reset).mpr referenceLaw_reset
    · by_cases isRestart : occasion c = .restart
      · obtain rfl | ⟨rfl, -⟩ := exec_restart isRestart h
        · exact hs
        · exact (restart_lawful _).1
      · exact (steady_exec c _ t isReset isRestart h).refs hs

theorem step_engineLaw {s t : State} (h : step s = .next t) (hs : s.engineLaw) : t.engineLaw := by
  unfold step at h
  split at h
  · obtain rfl := Host.Outcome.next.inj h
    unfold rest
    split
    · unfold passTime
      split <;> exact hs
    · exact (Carries.engineTurn (extra := .none) (c := s.net)).work hs
  · rename_i c w hw
    by_cases isReset : occasion c = .reset
    · obtain rfl | ⟨held, rfl⟩ := exec_reset isReset h
      · exact hs
      · exact engineLaw_reset
    · by_cases isRestart : occasion c = .restart
      · obtain rfl | ⟨rfl, -⟩ := exec_restart isRestart h
        · exact hs
        · exact (restart_lawful _).2
      · exact (steady_exec c _ t isReset isRestart h).work hs

theorem paramLaw_reset : State.reset.paramLaw := ⟨defaults_inRange, defaults_inRange⟩

theorem step_paramLaw {s t : State} (h : step s = .next t) (hs : s.paramLaw) : t.paramLaw :=
  step_keeps (L := State.paramLaw) (fun _ _ h => h) (rest_keeps (fun _ _ h => h) fun _ h => h)
    (fun _ _ _ g h => g.params h) (fun _ h => h) (fun _ _ => paramLaw_reset) h hs

theorem queueLaw_restart (s : State) : (restartBlocks s).queueLaw := by
  refine ⟨fun p => ?_, fun f hf => absurd hf List.not_mem_nil⟩
  have empty : (restartBlocks s).queueOf p = [] := by
    simp [State.queueOf, restartBlocks, restartIo, restartPort, Port.initial]
  rw [empty]
  exact ⟨Nat.zero_le _, List.Pairwise.nil, fun e he => absurd he List.not_mem_nil⟩

theorem step_queueLaw {s t : State} (h : step s = .next t) (hp : s.paramLaw) (hs : s.queueLaw) : t.queueLaw :=
  (step_keeps (L := fun s => s.paramLaw ∧ s.queueLaw) (fun _ _ h => h)
    (rest_keeps (fun _ _ h => h) fun s hs => by
      have hop := Acts.hop_of_inRange hs.1.2
      have moves := Moves.engineTurn (P := True) (c := s.net) (fun _ => hop) s.io fun _ => hs.2.2
      exact ⟨hs.1, moves.queues trivial hs.2.1, moves.work trivial hs.2.2⟩)
    (fun _ _ _ g h => ⟨g.params h.1, g.queues h.1 h.2⟩) (fun s h => ⟨h.1, queueLaw_restart s⟩)
    (fun _ _ => ⟨paramLaw_reset, queueLaw_reset⟩) h ⟨hp, hs⟩).2

theorem step_unitLaw {s t : State} (h : step s = .next t) (hs : s.unitLaw) : t.unitLaw :=
  step_keeps (L := State.unitLaw) (fun _ _ h => h) (rest_keeps (fun _ _ h => h) fun _ h => h)
    (fun _ _ _ g h => g.units h)
    (fun _ _ => ⟨List.Pairwise.nil, fun _ hr => absurd hr List.not_mem_nil, List.Pairwise.nil⟩)
    (fun _ _ => ⟨List.Pairwise.nil, fun _ hr => absurd hr List.not_mem_nil, List.Pairwise.nil⟩) h hs

theorem step_remoteLaw {s t : State} (h : step s = .next t) (hs : s.remoteLaw) : t.remoteLaw :=
  step_keeps (L := State.remoteLaw) (fun _ _ h => h) (rest_keeps (fun _ _ h => h) fun _ h => h)
    (fun _ _ _ g h => g.remotes h)
    (fun s _ g hg => by
      obtain ⟨x, -, rfl⟩ := List.mem_map.mp hg
      exact hasSite_zero _)
    (fun _ _ g hg => absurd hg List.not_mem_nil) h hs

theorem step_roamLaw {s t : State} (h : step s = .next t) (hp : s.paramLaw) (hs : s.roamLaw) : t.roamLaw :=
  (step_keeps (L := fun s => s.paramLaw ∧ s.roamLaw) (fun _ _ h => h) (rest_keeps (fun _ _ h => h) fun _ h => h)
    (fun _ _ _ g h => ⟨g.params h.1, g.roams h.1 h.2⟩) (fun _ h => ⟨h.1, fun _ hr => absurd hr List.not_mem_nil⟩)
    (fun _ _ => ⟨paramLaw_reset, fun _ hr => absurd hr List.not_mem_nil⟩) h ⟨hp, hs⟩).2

theorem step_neighborLaw {s t : State} (h : step s = .next t) (hs : s.neighborLaw) : t.neighborLaw :=
  step_keeps (L := State.neighborLaw) (fun _ _ h => h) (rest_keeps (fun _ _ h => h) fun _ h => h)
    (fun _ _ _ g h => g.neighborsKept h) (fun _ h => h) (fun _ _ => neighborLaw_reset) h hs

theorem step_counterLaw {s t : State} (h : step s = .next t) (hs : s.counterLaw) : t.counterLaw :=
  step_keeps (L := State.counterLaw) (fun _ _ h => h)
    (rest_keeps (fun _ _ h => h) fun s hs => by
      obtain ⟨⟨length, bound⟩, others⟩ := hs
      have grow := (Moves.engineTurn (P := False) (c := s.net) False.elim s.io False.elim).counters
      exact ⟨⟨grow.1.trans length, (grow.2 bound).1⟩, others⟩)
    (fun _ _ _ g h => g.counterLaw h)
    (fun s hs => by
      obtain ⟨live, snapshot, merges, -⟩ := hs
      exact ⟨live, snapshot, merges, Nat.min_le_right _ _⟩)
    (fun _ _ => counterLaw_reset) h hs

/-! ## Frames handed on -/

/-- A command for a handed frame takes it, and what its owner does is traffic or a request that joins the queue. -/
theorem exec_handed {c : Instr} {p : PortNo} (hc : occasion c = .handed p) :
    ∃ (isMine : Handed → Header → State → Bool) (run : Handle → Header → List Byte → State → State),
      (∀ s, exec c s = .next (takeHanded p isMine run s))
        ∧ ∀ h hdr payload s, ∃ u l, Acts s u ∧ run h hdr payload s = { u with requests := l } := by
  have traffic {s u : State} (h : Acts s u) : ∃ v l, Acts s v ∧ u = { v with requests := l } := ⟨u, u.requests, h, rfl⟩
  have handover (f : HoMessage → State → State) (hf : ∀ m s, Acts s (f m s)) (hdr : Header) (s : State) :=
    traffic (Acts.unlessOwn (hoMessageOf hdr) (f (hoMessageOf hdr)) s (hf _ s))
  have noticed (n : ChannelNo) (hdr : Header) (k : Kind) (s : State) :=
    Acts.unitNotice n hdr.unit.toNat k hdr.emergency s
  cases c with
  | register n =>
    obtain rfl := Occasion.handed.inj hc
    exact ⟨_, _, fun _ => rfl, fun h hdr payload s => traffic ((noticed n hdr _ s).trans (.registerByState _ _ _))⟩
  | measure n =>
    obtain rfl := Occasion.handed.inj hc
    exact ⟨_, _, fun _ => rfl, fun h hdr payload s => traffic ((noticed n hdr _ s).trans (.measureByState _ _ _))⟩
  | pollReply n =>
    obtain rfl := Occasion.handed.inj hc
    exact ⟨_, _, fun _ => rfl, fun h hdr payload s => traffic ((noticed n hdr _ s).trans (.pollReplyByState _ _))⟩
  | callStart n =>
    obtain rfl := Occasion.handed.inj hc
    exact ⟨_, _, fun _ => rfl, fun h hdr payload s => traffic ((noticed n hdr _ s).trans (.takeLocalStart _ _ _ _))⟩
  | voice n =>
    obtain rfl := Occasion.handed.inj hc
    exact ⟨_, _, fun _ => rfl, fun h hdr payload s => traffic ((noticed n hdr _ s).trans (.takeLocalVoice _ _ _ _))⟩
  | callEnd n =>
    obtain rfl := Occasion.handed.inj hc
    exact ⟨_, _, fun _ => rfl, fun h hdr payload s => traffic ((noticed n hdr _ s).trans (.takeLocalEnd _ _ _ _))⟩
  | forwardTargetSet l =>
    obtain rfl := Occasion.handed.inj hc
    exact ⟨_, _, fun _ => rfl, fun h hdr payload s => traffic (.fanOut _ _ _ s)⟩
  | forwardSingleDestination l =>
    obtain rfl := Occasion.handed.inj hc
    exact ⟨_, _, fun _ => rfl, fun h hdr payload s => traffic (.onIo s _ fun _ hc => .forwardSingle hc _ _ _ _ _)⟩
  | unitMessage l =>
    obtain rfl := Occasion.handed.inj hc
    exact ⟨_, _, fun _ => rfl, fun h hdr payload s => traffic (.takeUnitMessage _ _ _ s)⟩
  | hoRequest l =>
    obtain rfl := Occasion.handed.inj hc
    exact ⟨_, _, fun _ => rfl, fun _ hdr _ s => handover takeRequest (fun m s => .takeRequest m s) hdr s⟩
  | hoAccept l =>
    obtain rfl := Occasion.handed.inj hc
    exact ⟨_, _, fun _ => rfl, fun _ hdr _ s => handover takeAccept (fun m s => .takeAccept m s) hdr s⟩
  | hoRefuse l =>
    obtain rfl := Occasion.handed.inj hc
    exact ⟨_, _, fun _ => rfl, fun _ hdr _ s => handover takeRefuse (fun m s => .takeRefuse m s) hdr s⟩
  | hoComplete l =>
    obtain rfl := Occasion.handed.inj hc
    exact ⟨_, _, fun _ => rfl, fun _ hdr _ s => handover takeComplete (fun m s => .takeComplete m s) hdr s⟩
  | hoCancel l =>
    obtain rfl := Occasion.handed.inj hc
    exact ⟨_, _, fun _ => rfl, fun _ hdr _ s => handover takeCancel (fun m s => .takeCancel m s) hdr s⟩
  | hoClaim l =>
    obtain rfl := Occasion.handed.inj hc
    exact ⟨_, _, fun _ => rfl, fun _ hdr _ s => handover takeClaim (fun m s => .takeClaim m s) hdr s⟩
  | fullNotice l =>
    obtain rfl := Occasion.handed.inj hc
    exact ⟨_, _, fun _ => rfl, fun h hdr payload s => traffic (.takeFull _ _ s)⟩
  | joinNotice l =>
    obtain rfl := Occasion.handed.inj hc
    exact ⟨_, _, fun _ => rfl, fun h hdr payload s => traffic (.takeChange _ hdr s fun _ _ hn h => Acts.hasSite_add hn h)⟩
  | leaveNotice l =>
    obtain rfl := Occasion.handed.inj hc
    exact ⟨_, _, fun _ => rfl, fun h hdr payload s => traffic (.takeChange _ hdr s fun _ _ _ h => Acts.hasSite_drop h)⟩
  | probe l =>
    obtain rfl := Occasion.handed.inj hc
    exact ⟨_, _, fun _ => rfl, fun h hdr payload s => traffic (.takeProbe _ _ s)⟩
  | probeReply l =>
    obtain rfl := Occasion.handed.inj hc
    exact ⟨_, _, fun _ => rfl, fun h hdr payload s => traffic (.takeProbeReply _ _ s)⟩
  | mgmtRequest l =>
    obtain rfl := Occasion.handed.inj hc
    refine ⟨_, _, fun _ => rfl, fun h hdr payload s => ?_⟩
    unfold takeMgmtRequest
    split
    · exact traffic (.count s _)
    · split
      · exact traffic (.sendReply _ _ _ s)
      · exact ⟨s, _, .refl s, rfl⟩
  | _ => cases hc

/-- A handed frame that is taken leaves the head of its port alone. -/
theorem takeHanded_took {p : PortNo} {isMine : Handed → Header → State → Bool}
    {run : Handle → Header → List Byte → State → State}
    (hr : ∀ h hdr payload s, ∃ u l, Acts s u ∧ run h hdr payload s = { u with requests := l }) (s : State) :
    takeHanded p isMine run s = s
      ∨ (s.handedAt p ≠ [] ∧ s.tookHanded p (takeHanded p isMine run s)) := by
  unfold takeHanded
  split
  · exact Or.inl rfl
  · rename_i x hx
    simp only
    split
    · refine Or.inr ⟨fun none => ?_, ?_⟩
      · simp only [headHanded, State.handedAt] at hx none
        simp [none] at hx
      · obtain ⟨u, l, acts, eq⟩ := hr x.handle (handedHeader x s) (handedPayload x s)
          (s.onIo fun _ => modPort p fun y => { y with handed := y.handed.tail })
        rw [eq]
        have dropped (q : PortNo) :=
          (Moves.dropReference (P := False) (c := u.net) False.elim x.handle u.io).ports q
        have port (q : PortNo) := takenAt_port p q s.io
        refine ⟨fun q => ?_, fun q => ?_⟩
        · refine ((dropped q).2.1.trans (acts.ports q).2.1).trans ?_
          show (takenAt p s.io).ports[q.val].handed = _
          rw [port q]
          by_cases same : p = q
          · rw [if_pos same, if_pos same.symm]
            rfl
          · rw [if_neg same, if_neg (Ne.symm same)]
            rfl
        · refine ((dropped q).1.trans (acts.ports q).1).trans ?_
          show (takenAt p s.io).ports[q.val].reception = _
          rw [port q]
          split <;> rfl
    · exact Or.inl rfl

end Sys2Proof.Machine

open Sys2Proof Sys2Proof.Machine

/-- Settles O6: what every operation does to the references and to the pool, step by step, keeps both laws. -/
theorem bufferLawsKept : Obligations.BufferLawsKept := by
  intro s t h
  refine ⟨step_poolLaw h, fun pool refs => ?_⟩
  exact (balanced_iff t (step_poolLaw h pool)).mp (step_balanced h ((balanced_iff s pool).mpr refs))

/-- Settles O7: the queues by what handling frames can do to them, the engine's work by the links that leave UP. -/
theorem queueLawKept : Obligations.QueueLawKept := fun _ _ h => ⟨step_queueLaw h, step_engineLaw h⟩

/-- Settles O9: every change of a record keeps the Roam Selector's law. -/
theorem roamLawKept : Obligations.RoamLawKept := fun _ _ hp hs h => step_roamLaw h hp hs

/-- Settles O13: a counter is raised by whatever moves it, but for COLLECT COUNTERS and the reset line. -/
theorem countersNeverFall : Obligations.CountersNeverFall := by
  intro c s t law hreset hcollect h i
  have bound : ∀ n ∈ s.io.live, n ≤ 65535 := law.1.2
  by_cases hrestart : occasion c = .restart
  · obtain rfl | ⟨-, acts⟩ := exec_restart hrestart h
    · exact le_refl _
    · exact (acts.counters.2 bound).2 i
  · exact (((Goes.exec c s t hreset hrestart h).counters hcollect).2 bound).2 i

/-- Settles O14: the parts of the management state that a command's scope leaves out stay as they were. -/
theorem managementMovesByRequests : Obligations.ManagementMovesByRequests := by
  intro c s t hreset h
  by_cases hrestart : occasion c = .restart
  · have kept : t.staged = s.staged ∧ t.active = s.active ∧ t.partState = s.partState ∧ t.timeBase = s.timeBase := by
      obtain rfl | ⟨-, acts⟩ := exec_restart hrestart h
      · exact ⟨rfl, rfl, rfl, rfl⟩
      · obtain ⟨⟨-, time, part, staged, active, -⟩, -⟩ := acts.management
        exact ⟨staged, active, part, time⟩
    obtain ⟨staged, active, part, time⟩ := kept
    exact ⟨fun _ none => absurd hrestart none, fun _ => staged, fun _ => active, fun run => part.trans run, time⟩
  · have goes := Goes.exec c s t hreset hrestart h
    obtain ⟨-, time, -, part⟩ := goes.clock
    refine ⟨fun request _ => goes.management request fun listed => request ?_, goes.stagedKept,
      fun ha => (goes.activeKept ha).1, part, time⟩
    cases c with
    | loadSites | loadTalkgroups | loadNeighbors | writeParameters => rfl
    | _ => cases listed

/-- Settles O15: receptions by the scope of the line symbols, handed frames by what taking one does. -/
theorem framesComeInByTheirPort : Obligations.FramesComeInByTheirPort := by
  intro c s t p h
  refine ⟨fun hreset hrestart hsymbol => (Goes.exec c s t hreset hrestart h).reception p hsymbol, fun hc => ?_⟩
  obtain ⟨isMine, run, exec, acts⟩ := exec_handed hc
  rw [exec s] at h
  obtain rfl := Host.Outcome.next.inj h
  exact takeHanded_took acts s
end

section
/-! PROOFS. The rest of the management laws (O12): the ranges of a parameter set written out, the part state and its own
site id, the request queue and the agent's progress. -/

namespace Sys2Proof.Machine

/-- A set is in range when each value is within the range beside it. -/
theorem inRange_iff_zip (p : Params) :
    p.inRange ↔ p.values.length = 29 ∧ (p.failThreshold = 1 ∨ p.failThreshold = 4 ∨ p.failThreshold = 8)
      ∧ ∀ x ∈ p.values.zip paramRanges, x.2.1 ≤ x.1 ∧ x.1 ≤ x.2.2 := by
  have ranges : paramRanges.length = 29 := rfl
  have values : p.values.length = 29 := rfl
  have each (i : Nat) (hi : i < 29) : p.values.getD i 0 = p.values[i]'(by omega)
      ∧ paramRanges.getD i (0, 0) = paramRanges[i]'(by omega) := by
    simp [List.getD_eq_getElem?_getD, values, ranges, hi]
  constructor
  · rintro ⟨inside, threshold⟩
    refine ⟨values, threshold, fun x hx => ?_⟩
    obtain ⟨i, hi, rfl⟩ := List.getElem_of_mem hx
    have bound : i < 29 := by simpa [values, ranges] using hi
    have here := inside i bound
    rw [(each i bound).1, (each i bound).2] at here
    rwa [List.getElem_zip]
  · rintro ⟨-, threshold, inside⟩
    refine ⟨fun i hi => ?_, threshold⟩
    have mem : (p.values[i]'(by omega), paramRanges[i]'(by omega)) ∈ p.values.zip paramRanges := by
      rw [List.mem_iff_getElem]
      exact ⟨i, by simp [values, ranges, hi], by rw [List.getElem_zip]⟩
    rw [(each i hi).1, (each i hi).2]
    exact inside _ mem

/-! ## The part state and the own site id (R153) -/

theorem siteLaw_of {s t : State} (part : t.partState = s.partState) (active : t.active = s.active) (hs : s.siteLaw) :
    t.siteLaw := by
  unfold State.siteLaw State.own at *
  rwa [part, active]

theorem Acts.siteLaw {s t : State} (h : Acts s t) (hs : s.siteLaw) : t.siteLaw := by
  obtain ⟨⟨-, -, part, -⟩, -⟩ := h.management
  exact siteLaw_of part h.active hs

/-- APPLY PARAMETERS makes the part RUNNING exactly when it gives it an own site id (R153, R159). -/
theorem siteLaw_applyParams {s : State} (hs : s.siteLaw) : (applyParams s).2.siteLaw := by
  unfold applyParams
  split
  · rename_i run
    split
    · exact hs
    · rename_i same
      have own : s.staged.ownSite = s.own := not_not.mp same
      refine (Acts.foldl _ Acts.reconsiderLink _ _).siteLaw ?_
      unfold State.siteLaw at *
      simpa only [State.own, own] using hs
  · rename_i idle
    unfold applyUnconfigured
    split
    · rename_i none
      refine (Acts.foldl _ (fun u l => ?_) _ _).siteLaw (iff_of_true idle none)
      split
      · exact .seedLink u l
      · exact .refl u
    · rename_i some
      exact (Acts.enterRunning _).siteLaw (iff_of_false PartState.noConfusion some)

/-- What an answered request keeps is kept by its reply and by its leaving the queue. -/
theorem serveHead_keeps {L : State → Prop} (acts : ∀ s t, Acts s t → L s → L t)
    (requests : ∀ s l, L s → L { s with requests := l }) (isCode : Byte → Bool) (n : Nat)
    (f : Request → State → Reply × State) {s : State} (hf : ∀ q, L (f q s).2) (hs : L s) :
    L (serveHead isCode (answer (sized n f)) s) := by
  unfold serveHead
  split
  · exact hs
  · split
    · refine requests _ _ (acts _ _ (.sendReply _ _ _ _) ?_)
      unfold sized
      split
      · exact hf _
      · exact hs
    · exact hs

theorem exec_siteLaw {c : Instr} {s t : State} (hreset : occasion c ≠ .reset) (hrestart : occasion c ≠ .restart)
    (h : exec c s = .next t) (hs : s.siteLaw) : t.siteLaw := by
  by_cases apply : c = .applyParameters
  · subst apply
    obtain rfl := Host.Outcome.next.inj h
    exact serveHead_keeps (L := State.siteLaw) (fun _ _ h => h.siteLaw) (fun _ _ h => h) _ _ _
      (fun _ => siteLaw_applyParams hs) hs
  · obtain ⟨active, part⟩ := (Goes.exec c s t hreset hrestart h).activeKept apply
    exact siteLaw_of part active hs

/-- A law that every command keeps, by the sort of command. -/
theorem step_keeps_exec {L : State → Prop} (waiting : ∀ s w, L s → L { s with pending := w })
    (resting : ∀ s, L s → L (rest s))
    (exec : ∀ c s t, occasion c ≠ .reset → occasion c ≠ .restart → exec c s = .next t → L s → L t)
    (restart : ∀ s, L s → L (takeRestart s)) (reset : ∀ held w, L (State.resetTo held w)) {s t : State}
    (h : step s = .next t) (hs : L s) : L t := by
  unfold step at h
  split at h
  · exact Host.Outcome.next.inj h ▸ resting s hs
  · rename_i c w hw
    have start := waiting s w hs
    by_cases isReset : occasion c = .reset
    · obtain rfl | ⟨held, rfl⟩ := exec_reset isReset h
      · exact start
      · exact reset held _
    · by_cases isRestart : occasion c = .restart
      · obtain rfl | ⟨rfl, -⟩ := exec_restart isRestart h
        · exact start
        · exact restart _ start
      · exact exec c _ t isReset isRestart h start

/-- A restart goes by the blocks' restart and what the links do. -/
theorem acts_takeRestart (s : State) : Acts (restartBlocks s) (takeRestart s) := by
  unfold takeRestart
  split
  · exact .enterRunning _
  · exact .seedAll _

theorem step_siteLaw {s t : State} (h : step s = .next t) (hs : s.siteLaw) : t.siteLaw :=
  step_keeps_exec (L := State.siteLaw) (fun _ _ h => h) (rest_keeps (fun _ _ h => h) fun _ h => h)
    (fun _ _ _ hr hr' h => exec_siteLaw hr hr' h) (fun s h => (acts_takeRestart s).siteLaw h)
    (fun _ _ => iff_of_true rfl rfl) h hs

/-! ## The request queue and the agent's progress (R154, R155) -/

theorem progressLaw_of {s t : State} (requests : t.requests = s.requests) (progress : t.progress = s.progress)
    (hs : s.progressLaw) : t.progressLaw := by
  unfold State.progressLaw at *
  rwa [requests, progress]

theorem progressLaw_start {s : State} (h : s.progress = Progress.start) : s.progressLaw := by
  unfold State.progressLaw
  split
  · exact h
  · exact Or.inl h

/-- The requests behind the head, for a code that no list has, and the progress at its start. -/
theorem progress_of_code {s : State} {q : Request} {l : List Request} (hs : s.progressLaw) (hq : s.requests = q :: l)
    (code : q.code.toNat < 2 ∨ 5 < q.code.toNat) : s.progress = Progress.start := by
  unfold State.progressLaw at hs
  rw [hq] at hs
  rcases hs with start | ⟨low, high, -⟩
  · exact start
  · omega

/-- A request that is carried out whole leaves the queue, with the agent at its start. -/
theorem serveHead_progressLaw {isCode : Byte → Bool} {run : Request → State → State} {s : State} (hs : s.progressLaw)
    (code : ∀ c, isCode c = true → c.toNat < 2 ∨ 5 < c.toNat) (hr : ∀ q, (run q s).progress = s.progress) :
    (serveHead isCode run s).progressLaw := by
  unfold serveHead
  split
  · exact hs
  · rename_i q rest hq
    split
    · rename_i mine
      refine progressLaw_start ((hr q).trans (progress_of_code hs hq (code _ ?_)))
      exact (Bool.and_eq_true_iff.mp mine).1
    · exact hs

theorem serveHead_requests {isCode : Byte → Bool} {run : Request → State → State} {s : State} :
    (serveHead isCode run s).requests <:+ s.requests := by
  unfold serveHead
  split
  · exact List.suffix_refl _
  · rename_i q rest hq
    split
    · exact hq ▸ List.suffix_cons q rest
    · exact List.suffix_refl _

/-- What one turn of a listed request may leave: it is answered, or has entries left (R155, R158). -/
def listedTurn (q : Request) (s : State) (r : Option Reply × State) : Prop :=
  r.2.requests = s.requests
    ∧ (r.1 = none → r.2.progress.taken < (byteAt q.fields 0).toNat
      ∧ (s.progress.clamped ≤ s.progress.taken → r.2.progress.clamped ≤ r.2.progress.taken))

theorem serveListed_requests {isCode : Byte → Bool} {size : Nat} {run : Request → State → Option Reply × State} {s : State}
    (hr : ∀ q, listedTurn q s (run q s)) : (serveListed isCode size run s).requests <:+ s.requests := by
  unfold serveListed
  split
  · exact List.suffix_refl _
  · rename_i q rest hq
    have finished : rest <:+ s.requests := hq ▸ List.suffix_cons q rest
    split
    · split
      · have turn := hr q
        split <;> rename_i eq <;> rw [eq] at turn
        · exact finished
        · exact turn.1 ▸ List.suffix_refl _
      · exact finished
    · exact List.suffix_refl _

theorem serveListed_progressLaw {isCode : Byte → Bool} {size : Nat} {run : Request → State → Option Reply × State}
    {s : State} (hs : s.progressLaw) (code : ∀ c, isCode c = true → 2 ≤ c.toNat ∧ c.toNat ≤ 5)
    (hr : ∀ q, listedTurn q s (run q s)) : (serveListed isCode size run s).progressLaw := by
  unfold serveListed
  split
  · exact hs
  · rename_i q rest hq
    split
    · rename_i mine
      split
      · have turn := hr q
        split <;> rename_i eq <;> rw [eq] at turn
        · exact progressLaw_start rfl
        · obtain ⟨requests, left⟩ := turn
          obtain ⟨taken, clamped⟩ := left rfl
          obtain ⟨low, high⟩ := code _ (Bool.and_eq_true_iff.mp mine).1
          have before : s.progress.clamped ≤ s.progress.taken := by
            unfold State.progressLaw at hs
            rw [hq] at hs
            rcases hs with start | ⟨-, -, -, bound⟩
            · rw [start]
              exact le_refl _
            · exact bound
          unfold State.progressLaw
          rw [requests, hq]
          exact Or.inr ⟨low, high, taken, clamped before⟩
      · exact progressLaw_start rfl
    · exact hs

/-- The scope of what a load takes: nothing of the request queue and of the agent's progress. -/
def Scope.tables : Scope where
  symbol _ := False
  queues := False
  listed := False
  manages := True
  writes := False
  applies := False
  collects := False

theorem listedTurn_load {size : Nat} {check : List Byte → State → Option Byte} {take : List Byte → State → State} {s : State}
    (ht : ∀ e, Goes .tables s (take e s)) (q : Request) : listedTurn q s (load size check take q s) := by
  unfold load
  simp only [length_entriesOf]
  split
  · exact ⟨rfl, fun none => by cases none⟩
  · rename_i e _
    have requests := (ht e).requestsKept id
    have progress := (ht e).progressKept id
    split
    · exact ⟨rfl, fun none => by cases none⟩
    · split
      · rename_i more
        refine ⟨requests, fun _ => ⟨more, fun bound => ?_⟩⟩
        show (take e s).progress.clamped ≤ s.progress.taken + 1
        rw [progress]
        exact Nat.le_succ_of_le bound
      · exact ⟨requests, fun none => by cases none⟩

theorem listedTurn_writeParams {s : State} (q : Request) : listedTurn q s (writeParams q s) := by
  unfold writeParams
  simp only [length_entriesOf]
  split
  · exact ⟨rfl, fun none => by cases none⟩
  · split
    · split
      · rename_i more
        refine ⟨rfl, fun _ => ⟨more, fun bound => ?_⟩⟩
        simp only
        split <;> omega
      · exact ⟨rfl, fun none => by cases none⟩
    · exact ⟨rfl, fun none => by cases none⟩

/-- A MGMT REQUEST joins the queue while it holds fewer than four (R154). -/
theorem takeMgmtRequest_agent {q : Request} {s : State} :
    (takeMgmtRequest q s).progress = s.progress
      ∧ ((takeMgmtRequest q s).requests = s.requests
        ∨ ((takeMgmtRequest q s).requests = s.requests ++ [q] ∧ s.requests.length < 4)) := by
  have acts {u : State} (h : Acts s u) : u.progress = s.progress ∧ u.requests = s.requests := by
    obtain ⟨⟨-, -, -, -, -, -, -, -, -, -, progress, -⟩, requests⟩ := h.management
    exact ⟨progress, requests⟩
  unfold takeMgmtRequest
  split
  · exact ⟨rfl, Or.inl rfl⟩
  · split
    · obtain ⟨progress, requests⟩ := acts (.sendReply q Reply.busy none s)
      exact ⟨progress, Or.inl requests⟩
    · rename_i room
      refine ⟨rfl, Or.inr ⟨rfl, ?_⟩⟩
      simp only [Bool.or_eq_true, decide_eq_true_eq, not_or, not_le] at room
      exact room.2

/-- A joining request leaves the agent where it is. -/
theorem progressLaw_append {s t : State} {q : Request} (hs : s.progressLaw) (progress : t.progress = s.progress)
    (requests : t.requests = s.requests ++ [q]) : t.progressLaw := by
  unfold State.progressLaw at *
  cases hl : s.requests with
  | nil =>
    rw [hl] at hs requests
    rw [requests, progress]
    exact Or.inl hs
  | cons x l =>
    rw [hl] at hs requests
    rw [requests, progress]
    exact hs

theorem takeHanded_agent {p : PortNo} {isMine : Handed → Header → State → Bool} {l : LinkNo} (s : State) :
    let t := takeHanded p isMine (fun _ hdr payload => takeMgmtRequest (requestOf l hdr payload)) s
    t.progress = s.progress
      ∧ (t.requests = s.requests ∨ ∃ q, t.requests = s.requests ++ [q] ∧ s.requests.length < 4) := by
  unfold takeHanded
  simp only
  split
  · exact ⟨rfl, Or.inl rfl⟩
  · split
    · rename_i x _ _
      obtain ⟨progress, requests⟩ := takeMgmtRequest_agent
        (q := requestOf l (handedHeader x s) (handedPayload x s))
        (s := s.onIo fun _ => modPort p fun y => { y with handed := y.handed.tail })
      exact ⟨progress, requests.imp id fun h => ⟨_, h⟩⟩
    · exact ⟨rfl, Or.inl rfl⟩

/-- The agent's progress stays while a request is carried out whole. -/
theorem answer_progress {k : Scope} (hl : ¬k.listed) (n : Nat) (f : Request → State → Reply × State) {s : State}
    (hf : ∀ q, Goes k s (f q s).2) (q : Request) : (answer (sized n f) q s).progress = s.progress := by
  have made : Goes k s (sized n f q s).2 := by
    unfold sized
    split
    · exact hf q
    · exact .refl
  exact (made.trans (.acts (.sendReply q (sized n f q s).1 none _))).progressKept hl

/-- What a command leaves of the request queue and of the agent's progress. -/
def keepsAgent (s t : State) : Prop := (s.progressLaw → t.progressLaw) ∧ (s.requestLaw → t.requestLaw)

theorem keepsAgent_of_suffix {s t : State} (left : t.requests <:+ s.requests) (h : s.progressLaw → t.progressLaw) :
    keepsAgent s t := ⟨h, fun law => left.length_le.trans law⟩

theorem keepsAgent_serveHead {isCode : Byte → Bool} {run : Request → State → State} {s : State}
    (code : ∀ c, isCode c = true → c.toNat < 2 ∨ 5 < c.toNat) (hr : ∀ q, (run q s).progress = s.progress) :
    keepsAgent s (serveHead isCode run s) :=
  keepsAgent_of_suffix serveHead_requests fun hs => serveHead_progressLaw hs code hr

theorem keepsAgent_serveListed {isCode : Byte → Bool} {size : Nat} {run : Request → State → Option Reply × State}
    {s : State} (code : ∀ c, isCode c = true → 2 ≤ c.toNat ∧ c.toNat ≤ 5) (hr : ∀ q, listedTurn q s (run q s)) :
    keepsAgent s (serveListed isCode size run s) :=
  keepsAgent_of_suffix (serveListed_requests hr) fun hs => serveListed_progressLaw hs code hr

theorem keepsAgent_mgmtRequest (l : LinkNo) (s : State) :
    keepsAgent s
      (takeHanded (linkPort l) isForAgent (fun _ hdr payload => takeMgmtRequest (requestOf l hdr payload)) s) := by
  obtain ⟨progress, requests⟩ := takeHanded_agent (p := linkPort l) (isMine := isForAgent) (l := l) s
  rcases requests with same | ⟨q, joined, room⟩
  · exact keepsAgent_of_suffix (same ▸ List.suffix_refl _) (progressLaw_of same progress)
  · refine ⟨fun hs => progressLaw_append hs progress joined, fun _ => ?_⟩
    unfold State.requestLaw
    rw [joined, List.length_append]
    exact room

theorem exec_agent {c : Instr} {s t : State} (hreset : occasion c ≠ .reset) (hrestart : occasion c ≠ .restart)
    (h : exec c s = .next t) : keepsAgent s t := by
  have kept {u : State} (hu : keepsAgent s u)
      (eq : (Host.Outcome.next u : Host.Outcome State Fault Refusal) = .next t) : keepsAgent s t :=
    Host.Outcome.next.inj eq ▸ hu
  have asked {k : Scope} (hl : ¬k.listed) {isCode : Byte → Bool} (n : Nat) (f : Request → State → Reply × State)
      (code : ∀ b, isCode b = true → b.toNat < 2 ∨ 5 < b.toNat) (hf : ∀ q, Goes k s (f q s).2) :
      keepsAgent s (serveHead isCode (answer (sized n f)) s) :=
    keepsAgent_serveHead code (answer_progress hl n f hf)
  have isCode (a : Byte) (ha : a.toNat < 2 ∨ 5 < a.toNat) (b : Byte) (hb : (b == a) = true) :
      b.toNat < 2 ∨ 5 < b.toNat := eq_of_beq hb ▸ ha
  have isListed (a : Byte) (ha : 2 ≤ a.toNat ∧ a.toNat ≤ 5) (b : Byte) (hb : (b == a) = true) :
      2 ≤ b.toNat ∧ b.toNat ≤ 5 := eq_of_beq hb ▸ ha
  have traffic (hq : ¬(scopeOf c).queues) (hl : ¬(scopeOf c).listed) : keepsAgent s t := by
    have goes := Goes.exec c s t hreset hrestart h
    have requests := goes.requestsKept hq
    exact keepsAgent_of_suffix (requests ▸ List.suffix_refl _) (progressLaw_of requests (goes.progressKept hl))
  cases c with
  | mgmtRequest l => exact kept (keepsAgent_mgmtRequest l s) h
  | unknownRequestCode =>
    refine kept (keepsAgent_serveHead (fun b unknown => ?_) fun q => ?_) h
    · simp only [knownCode, Bool.not_eq_true', Bool.and_eq_false_iff, decide_eq_false_iff_not] at unknown
      omega
    · exact Goes.progressKept (k := .tables) (.acts (.sendReply q Reply.refused none s)) id
  | identify => exact kept (asked (k := .tables) id _ _ (isCode 1 (by decide)) fun _ => .refl) h
  | readParameters => exact kept (asked (k := .tables) id _ _ (isCode 7 (by decide)) fun _ => .refl) h
  | readUnits => exact kept (asked (k := .tables) id _ _ (isCode 8 (by decide)) fun _ => .refl) h
  | readUnit => exact kept (asked (k := .tables) id _ _ (isCode 9 (by decide)) fun _ => .refl) h
  | readLinks => exact kept (asked (k := .tables) id _ _ (isCode 10 (by decide)) fun _ => .refl) h
  | readChannels => exact kept (asked (k := .tables) id _ _ (isCode 11 (by decide)) fun _ => .refl) h
  | readTalkgroups => exact kept (asked (k := .tables) id _ _ (isCode 12 (by decide)) fun _ => .refl) h
  | applyParameters =>
    exact kept (asked (k := scopeOf .applyParameters) Bool.noConfusion _ _ (isCode 6 (by decide))
      fun _ => .applyParams rfl rfl s) h
  | collectCounters =>
    exact kept (asked (k := scopeOf .collectCounters) Bool.noConfusion _ _ (isCode 13 (by decide))
      fun _ => .collect s rfl rfl) h
  | readCounters =>
    exact kept (asked (k := .tables) id _ _ (isCode 14 (by decide)) fun q => .readCountersRequest trivial q s) h
  | clearUnit => exact kept (asked (k := .tables) id _ _ (isCode 15 (by decide)) fun q => .clearUnitRequest q s) h
  | clearEmergency =>
    exact kept (asked (k := .tables) id _ _ (isCode 16 (by decide)) fun q => .clearEmergencyRequest q s) h
  | restart =>
    exact kept (keepsAgent_serveHead (isCode 17 (by decide)) fun q =>
      Goes.progressKept (k := .tables) (.restartRequest q s) id) h
  | loadSites =>
    exact kept (keepsAgent_serveListed (isListed 2 (by decide)) (listedTurn_load fun e => .takeSite e s)) h
  | loadTalkgroups =>
    exact kept (keepsAgent_serveListed (isListed 3 (by decide)) (listedTurn_load fun e => .takeTalkgroup trivial e s)) h
  | loadNeighbors =>
    exact kept (keepsAgent_serveListed (isListed 4 (by decide)) (listedTurn_load fun e => .takeNeighbor trivial e s)) h
  | writeParameters => exact kept (keepsAgent_serveListed (isListed 5 (by decide)) listedTurn_writeParams) h
  | _ => exact traffic (fun q => by rcases q with q | q <;> cases q) (fun l => by cases l)

theorem step_agent {s t : State} (h : step s = .next t) :
    (s.progressLaw → t.progressLaw) ∧ (s.requestLaw → t.requestLaw) := by
  have idle (u : State) (requests : u.requests = []) (progress : u.progress = Progress.start) :
      u.progressLaw ∧ u.requestLaw :=
    ⟨progressLaw_start progress, by unfold State.requestLaw; rw [requests]; exact Nat.zero_le _⟩
  have restarted (u : State) : (takeRestart u).progressLaw ∧ (takeRestart u).requestLaw := by
    obtain ⟨⟨-, -, -, -, -, -, -, -, -, -, progress, -⟩, requests⟩ := (acts_takeRestart u).management
    exact idle _ requests progress
  exact
    ⟨step_keeps_exec (L := State.progressLaw) (fun _ _ h => h) (rest_keeps (fun _ _ h => h) fun _ h => h)
        (fun _ _ _ hr hr' h => (exec_agent hr hr' h).1) (fun u _ => (restarted u).1)
        (fun held w => (idle (State.resetTo held w) rfl rfl).1) h,
      step_keeps_exec (L := State.requestLaw) (fun _ _ h => h) (rest_keeps (fun _ _ h => h) fun _ h => h)
        (fun _ _ _ hr hr' h => (exec_agent hr hr' h).2) (fun u _ => (restarted u).2)
        (fun held w => (idle (State.resetTo held w) rfl rfl).2) h⟩

end Sys2Proof.Machine

open Sys2Proof Sys2Proof.Machine

/-- Settles O12: each law by what a command's scope lets it move, and by its own turn of the agent. -/
theorem managementLawsKept : Obligations.ManagementLawsKept := by
  refine ⟨inRange_iff_zip, fun s t h => ?_⟩
  obtain ⟨progress, requests⟩ := step_agent h
  exact ⟨fun params site => ⟨step_paramLaw h params, step_siteLaw h site⟩, requests, progress, step_neighborLaw h,
    step_counterLaw h⟩
end

section
/-! PROOFS. Which blocks a command moves (R11, R12, R154): each command belongs to a family, and a relation that the
changes of its family satisfy holds of the states before and after it. -/

namespace Sys2Proof.Machine

/-- The block whose state a command moves, frames apart. -/
inductive Family where
  | units
  | calls
  | links
  | membership
  | refresh
  | talkgroups
  | neighbors
  | parameters
  | transmission
  | others
  | whole
  deriving DecidableEq

/-- The family of a command. -/
def familyOf : Instr → Family
  | .register _ | .measure _ | .pollReply _ | .unitMessage _ | .hoRequest _ | .hoAccept _ | .hoRefuse _
  | .hoComplete _ | .hoCancel _ | .hoClaim _ | .activityTimerExpiry _ | .pollTimerExpiry _ | .pollReplyWaitExpiry _
  | .lostHoldExpiry _ | .roamHoldExpiry _ | .replyWaitExpiry _ | .departureExpiry _ | .arrivalExpiry _
  | .forwardHoldExpiry _ | .clearUnit => .units
  | .clearEmergency => .units
  | .callStart _ | .voice _ | .callEnd _ | .forwardTargetSet _ | .waitTimerExpiry _ _ | .voiceGapExpiry _
  | .talkTimerExpiry _ | .hangTimerExpiry _ => .calls
  | .probe _ | .probeReply _ | .probeTimerExpiry _ => .links
  | .fullNotice _ | .joinNotice _ | .leaveNotice _ | .ageTimerExpiry _ | .loadSites => .membership
  | .refreshTimerExpiry => .refresh
  | .loadTalkgroups => .talkgroups
  | .loadNeighbors => .neighbors
  | .applyParameters => .parameters
  | .transmissionComplete _ => .transmission
  | .fullReset | .fullResetEnd | .restartTakesPlace => .whole
  | _ => .others

/-- What APPLY PARAMETERS leaves as it was (R152, R153, R159). -/
def State.sameButApply (s t : State) : Prop :=
  t = { s with
        io := t.io
        links := t.links
        ownSequence := t.ownSequence
        refreshTimer := t.refreshTimer
        sites := t.sites
        talkgroups := t.talkgroups
        active := t.active
        partState := t.partState }
    ∧ t.talkgroups.map TalkgroupEntry.unplaced = s.talkgroups.map TalkgroupEntry.unplaced

/-- A relation of states that the changes of a family satisfy, and those that any command may make: frames, the request
queue, the agent's progress, the snapshot and the staged set. -/
structure FrameFor (F : State → State → Prop) (family : Family) : Prop where
  frame : FrameOf F
  agent : ∀ (s : State) (requests : List Request) (progress : Progress) (staged : Params) (snapshot : List Nat)
    (merges : Nat) (read : Bool),
    F s
      { s with
        requests := requests, progress := progress, staged := staged, snapshot := snapshot, mergeCount := merges,
        snapshotRead := read }
  units : family = .units ∨ family = .calls → ∀ s t, s.sameButUnits t → F s t
  calls : family = .calls → ∀ s t, s.sameButChannels t → F s t
  links : family = .links → ∀ s t, s.sameButLinks t → F s t
  membership : family = .membership → ∀ s t, s.sameButRemote t → F s t
  refresh : family = .refresh → ∀ s b d, F s { s with ownSequence := b, refreshTimer := d }
  talkgroups : family = .talkgroups → ∀ s e, checkTalkgroup e s = none → F s (takeTalkgroup e s)
  neighbors : family = .neighbors → ∀ s e, F s (takeNeighbor e s)
  parameters : family = .parameters → ∀ s t, s.sameButApply t → F s t
  transmission : family = .transmission → ∀ s u id, F s { s with units := s.units.map (orderCompleted u id) }

theorem frameOf_apply : FrameOf State.sameButApply where
  refl _ := ⟨rfl, rfl⟩
  trans h h' := by
    obtain ⟨same, sets⟩ := h
    obtain ⟨same', sets'⟩ := h'
    exact ⟨by rw [same'] ; rw [same], sets'.trans sets⟩
  io _ _ := ⟨rfl, rfl⟩

theorem applyParams_frame (s : State) : s.sameButApply (applyParams s).2 := by
  have trans {t u v : State} (h : t.sameButApply u) (h' : u.sameButApply v) : t.sameButApply v := frameOf_apply.trans h h'
  have links {t u : State} (h : LinksRun .none t u) : t.sameButApply u := by
    have same := h.frame
    unfold State.sameButLinks at same
    exact ⟨by rw [same], by rw [same]⟩
  have active : s.sameButApply { s with active := s.staged } := ⟨rfl, rfl⟩
  unfold applyParams
  split
  · split
    · exact frameOf_apply.refl s
    · exact trans active (links (LinksRun.foldl _ (fun _ l => LinksRun.reconsiderLink l) _ _))
  · refine trans active ?_
    unfold applyUnconfigured
    split
    · refine links (LinksRun.foldl _ (fun u l => ?_) _ _)
      split
      · exact LinksRun.seedLink l
      · exact LinksRun.refl
    · have become : { s with active := s.staged }.sameButApply
          (becomeOwnEntry { s with active := s.staged, partState := .running }) :=
        ⟨rfl, MembersRun.unplaced_map _ _ fun _ => rfl⟩
      refine trans become ?_
      generalize becomeOwnEntry { s with active := s.staged, partState := .running } = u
      unfold enterRunning
      refine trans (links LinksRun.seedAll) ?_
      generalize seedAll u = v
      have started : v.sameButApply (startRefresh v) := ⟨rfl, rfl⟩
      exact trans started (links LinksRun.fullRound)

namespace FrameFor

variable {F : State → State → Prop} {family : Family} (k : FrameFor F family)
include k

theorem refl (s : State) : F s s := k.frame.refl s

theorem trans {s t u : State} (h : F s t) (h' : F t u) : F s u := k.frame.trans h h'

theorem io (s : State) (f : Net → Io → Io) : F s (s.onIo f) := k.frame.io s _

theorem queue (s : State) (l : List Request) : F s { s with requests := l } :=
  k.agent s l s.progress s.staged s.snapshot s.mergeCount s.snapshotRead

theorem sendReply (q : Request) (r : Reply) (d : Option Completion) (s : State) : F s (Machine.sendReply q r d s) :=
  k.io s _

/-! ## Symbols -/

theorem cutReception (p : PortNo) (c : PortCounter) (s : State) : F s (Machine.cutReception p c s) := by
  unfold Machine.cutReception
  split
  · exact k.refl s
  · exact k.io s _
  · exact k.io s _
  · exact k.io s _
  · exact k.refl s

theorem enterReception (p : PortNo) (r : Reception) (s : State) : F s (Machine.enterReception p r s) := k.io s _

theorem takeStart (p : PortNo) (s : State) : F s (Machine.takeStart p s) :=
  k.trans (k.cutReception p _ s) (k.enterReception p _ _)

theorem takeAbort (p : PortNo) (s : State) : F s (Machine.takeAbort p s) :=
  k.trans (k.cutReception p _ s) (k.enterReception p _ _)

theorem takeTooLong (p : PortNo) (s : State) : F s (Machine.takeTooLong p s) :=
  k.trans (k.cutReception p _ s) (k.enterReception p _ _)

theorem takeByte (p : PortNo) (b : Byte) (s : State) : F s (Machine.takeByte p b s) := by
  unfold Machine.takeByte
  split
  · exact k.refl s
  · unfold takeHeaderByte completeHeader
    split
    · exact k.io s _
    · simp only
      split
      · exact k.io s _
      · exact k.io s _
  · unfold takeStoreByte
    split
    · exact k.io s _
    · exact k.takeTooLong p s
  · unfold takeDiscardByte
    split
    · exact k.io s _
    · exact k.takeTooLong p s

theorem takeEnd (p : PortNo) (s : State) : F s (Machine.takeEnd p s) := by
  refine k.trans (t := judge p s) ?_ (k.enterReception p _ _)
  unfold judge
  split
  · exact k.refl s
  · exact k.io s _
  · unfold judgeStored
    split
    · exact k.cutReception p _ s
    · split
      · exact k.cutReception p _ s
      · exact k.io s _
  · exact k.io s _
  · exact k.refl s

theorem whileTaking {f : State → State} (hf : ∀ s, F s (f s)) (s : State) : F s (Machine.whileTaking f s) := by
  unfold Machine.whileTaking
  split
  · exact k.refl s
  · exact hf s

/-! ## Frames, requests and transmissions -/

theorem takeHanded (s : State) (p : PortNo) (isMine : Handed → Header → State → Bool)
    (run : Handle → Header → List Byte → State → State) (hr : ∀ h hdr payload s, F s (run h hdr payload s)) :
    F s (Machine.takeHanded p isMine run s) := by
  unfold Machine.takeHanded
  split
  · exact k.refl s
  · simp only
    split
    · exact k.trans (k.io s _) (k.trans (hr _ _ _ _) (k.io _ _))
    · exact k.refl s

theorem takeMgmtRequest (q : Request) (s : State) : F s (Machine.takeMgmtRequest q s) := by
  unfold Machine.takeMgmtRequest
  split
  · exact k.io s _
  · split
    · exact k.io s _
    · exact k.queue s _

theorem serveHead (isCode : Byte → Bool) (run : Request → State → State) (s : State) (hr : ∀ q, F s (run q s)) :
    F s (Machine.serveHead isCode run s) := by
  unfold Machine.serveHead
  split
  · exact k.refl s
  · split
    · exact k.trans (hr _) (k.queue _ _)
    · exact k.refl s

theorem asked (isCode : Byte → Bool) (n : Nat) (f : Request → State → Reply × State) (s : State)
    (hf : ∀ q, F s (f q s).2) : F s (Machine.serveHead isCode (answer (sized n f)) s) := by
  refine k.serveHead _ _ s fun q => ?_
  refine k.trans ?_ (k.sendReply _ _ _ _)
  unfold sized
  split
  · exact hf q
  · exact k.refl s

theorem serveListed (isCode : Byte → Bool) (size : Nat) (run : Request → State → Option Reply × State)
    (s : State) (hr : ∀ q, F s (run q s).2) : F s (Machine.serveListed isCode size run s) := by
  unfold Machine.serveListed
  split
  · exact k.refl s
  · rename_i q rest _
    have finish {t : State} (h : F s t) (r : Reply) : F s (finishHead q rest r t) :=
      k.trans h (k.trans (k.sendReply q r none t) (k.agent _ rest Progress.start _ _ _ _))
    split
    · split
      · have ran := hr q
        split <;> rename_i eq <;> rw [eq] at ran
        · exact finish ran _
        · exact ran
      · exact finish (k.refl s) _
    · exact k.refl s

theorem load (size : Nat) (check : List Byte → State → Option Byte) (take : List Byte → State → State) (s : State)
    (ht : ∀ e, check e s = none → F s (take e s)) (q : Request) : F s (Machine.load size check take q s).2 := by
  unfold Machine.load
  simp only
  split
  · exact k.refl s
  · split
    · exact k.refl s
    · rename_i passed
      split
      · exact k.trans (ht _ passed) (k.agent _ _ _ _ _ _ _)
      · exact ht _ passed

theorem writeParams (q : Request) (s : State) : F s (Machine.writeParams q s).2 := by
  unfold Machine.writeParams
  simp only
  split
  · exact k.refl s
  · split
    · split
      · exact k.agent s _ _ _ _ _ _
      · exact k.agent s _ _ _ _ _ _
    · exact k.refl s

theorem restartRequest (q : Request) (s : State) : F s (Machine.restartRequest q s) := by
  unfold Machine.restartRequest
  split
  · split
    · exact k.trans (k.frame.io s _) (k.io _ _)
    · exact k.frame.io s _
  · exact k.sendReply _ _ _ s

theorem readCountersRequest (q : Request) (s : State) : F s (Machine.readCountersRequest q s).2 := by
  unfold Machine.readCountersRequest
  simp only
  split
  · split
    · exact k.agent s _ _ _ _ _ _
    · exact k.refl s
  · exact k.refl s

theorem transmissionEnds (hf : family = .transmission) (p : PortNo) (s : State) : F s (Machine.transmissionEnds p s) := by
  have answered (d : Option Completion) (s : State) : F s (answerSent d s) := by
    unfold answerSent
    split
    · exact k.transmission hf s _ _
    · exact k.io s _
    · exact k.refl s
  unfold Machine.transmissionEnds
  split
  · exact k.refl s
  · rename_i x _
    unfold completeTransmission
    simp only
    refine k.trans (k.io s fun _ => countPort p .transmitted) ?_
    refine k.trans (answered (completionOf x.entry.handle (countPortOf p .transmitted s).io) _) ?_
    refine k.trans (k.io _ fun _ => modBuffer x.entry.handle fun b => { b with completion := none }) ?_
    exact k.trans (k.io _ fun c => dropReference c x.entry.handle) (k.io _ _)

theorem expireRefresh (hf : family = .refresh) (s : State) : F s (Machine.expireRefresh s) := by
  unfold Machine.expireRefresh
  split
  · refine k.trans (k.refresh hf s (s.ownSequence + 1)
      (some (s.after (s.active.refreshPeriod * 1000)))) ?_
    exact k.frame.io _ _
  · exact k.refl s

/-! ## Every command -/

/-- The relation holds of the states before and after a command of the family. -/
theorem exec {c : Instr} (hc : familyOf c = family) {s t : State} (hw : family ≠ .whole) (h : Machine.exec c s = .next t) :
    F s t := by
  have next {u : State} (hu : F s u) (eq : (Host.Outcome.next u : Host.Outcome State Fault Refusal) = .next t) : F s t :=
    Host.Outcome.next.inj eq ▸ hu
  have unit (hf : family = .units ∨ family = .calls) {s u : State} (h : UnitsRun .none s u) : F s u :=
    k.units hf s u h.frame
  have heard (hf : family = .units ∨ family = .calls) (n : ChannelNo) (kind : Kind)
      (run : Handle → Header → List Byte → State → State) (hr : ∀ h hdr payload s, F s (run h hdr payload s)) :
      F s (takeFromChannel n kind run s) :=
    k.takeHanded s _ _ _ fun h hdr payload s => k.trans (unit hf (UnitsRun.unitNotice _ _ _ _)) (hr h hdr payload _)
  have handover (hf : family = .units) (l : LinkNo) (kind : Kind) (f : HoMessage → State → State)
      (hr : ∀ m s, UnitsRun .none s (f m s)) : F s (takeHandover l kind f s) :=
    k.takeHanded s (linkPort l) (ownKind kind) _ fun _ hdr _ s =>
      unit (Or.inl hf) (UnitsRun.unlessOwn (hoMessageOf hdr) (f (hoMessageOf hdr)) (hr _ s))
  have call (hf : family = .calls) {h : Handle} {s u : State} (run : CallsRun (oneMore h .none) s u) : F s u :=
    k.calls hf s u run.frame
  have timed (hf : family = .calls) {s u : State} (run : CallsRun .none s u) : F s u := k.calls hf s u run.frame
  have linked (hf : family = .links) {s u : State} (run : LinksRun .none s u) : F s u := k.links hf s u run.frame
  have member (hf : family = .membership) {s u : State} (run : MembersRun .none s u) : F s u :=
    k.membership hf s u run.frame
  cases c with
  | fullReset | fullResetEnd | restartTakesPlace => exact absurd hc.symm hw
  | startDelimiter p => exact next (k.whileTaking (fun s => k.takeStart p s) s) h
  | abortSequence p => exact next (k.whileTaking (fun s => k.takeAbort p s) s) h
  | dataByte p b => exact next (k.whileTaking (fun s => k.takeByte p b s) s) h
  | frameHeaderComplete p b =>
    refine next (k.whileTaking (fun s => ?_) s) h
    unfold takeTwentieth
    split
    · exact k.takeByte p b s
    · exact k.refl s
  | frameTooLong p b =>
    refine next (k.whileTaking (fun s => ?_) s) h
    unfold takeExcess
    split
    · exact k.takeByte p b s
    · exact k.refl s
  | judgeFrame p => exact next (k.whileTaking (fun s => k.takeEnd p s) s) h
  | register n => exact next (heard (.inl hc.symm) n _ _ fun _ _ _ _ => unit (.inl hc.symm) (UnitsRun.registerByState _ _)) h
  | measure n => exact next (heard (.inl hc.symm) n _ _ fun _ _ _ _ => unit (.inl hc.symm) (UnitsRun.measureByState _ _)) h
  | pollReply n => exact next (heard (.inl hc.symm) n _ _ fun _ _ _ _ => unit (.inl hc.symm) (UnitsRun.pollReplyByState _)) h
  | callStart n =>
    exact next (heard (.inr hc.symm) n _ _ fun h _ _ _ =>
      call hc.symm (CallsRun.takeLocalStart (one_le_oneMore h _) _ _)) h
  | voice n =>
    exact next (heard (.inr hc.symm) n _ _ fun h _ _ _ =>
      call hc.symm (CallsRun.takeLocalVoice (one_le_oneMore h _) _ _)) h
  | callEnd n =>
    exact next (heard (.inr hc.symm) n _ _ fun h _ _ _ =>
      call hc.symm (CallsRun.takeLocalEnd (one_le_oneMore h _) _ _)) h
  | forwardTargetSet l =>
    refine next (k.takeHanded s _ _ (fun h hdr _ => fanOut l h hdr) fun h hdr _ s => ?_) h
    unfold fanOut
    refine k.trans ?_ (k.io _ fun c => forwardTargets c l h hdr)
    split
    · exact call hc.symm (CallsRun.localCopy (one_le_oneMore h _) hdr)
    · exact k.refl s
  | forwardSingleDestination l => exact next (k.takeHanded s _ _ _ fun _ _ _ s => k.io s _) h
  | unitMessage l =>
    refine next (k.takeHanded s _ _ _ fun h _ _ s => ?_) h
    exact k.units (.inl hc.symm) s _ (UnitsRun.takeUnitMessage _ _ (one_le_oneMore h .none)).frame
  | hoRequest l => exact next (handover hc.symm l _ _ fun m _ => UnitsRun.takeRequest m) h
  | hoAccept l => exact next (handover hc.symm l _ _ fun m _ => UnitsRun.takeAccept m) h
  | hoRefuse l => exact next (handover hc.symm l _ _ fun m _ => UnitsRun.takeRefuse m) h
  | hoComplete l => exact next (handover hc.symm l _ _ fun m _ => UnitsRun.takeComplete m) h
  | hoCancel l => exact next (handover hc.symm l _ _ fun m _ => UnitsRun.takeCancel m) h
  | hoClaim l => exact next (handover hc.symm l _ _ fun m _ => UnitsRun.takeClaim m) h
  | fullNotice l => exact next (k.takeHanded s _ _ _ fun _ _ _ _ => member hc.symm (MembersRun.takeFull _ _)) h
  | joinNotice l => exact next (k.takeHanded s _ _ _ fun _ _ _ _ => member hc.symm (MembersRun.takeChange _ _)) h
  | leaveNotice l => exact next (k.takeHanded s _ _ _ fun _ _ _ _ => member hc.symm (MembersRun.takeChange _ _)) h
  | probe l => exact next (k.takeHanded s _ _ _ fun _ _ _ _ => linked hc.symm (LinksRun.takeProbe _ _)) h
  | probeReply l => exact next (k.takeHanded s _ _ _ fun _ _ _ _ => linked hc.symm (LinksRun.takeProbeReply _ _)) h
  | mgmtRequest l => exact next (k.takeHanded s _ _ _ fun _ _ _ s => k.takeMgmtRequest _ s) h
  | unknownRequestCode => exact next (k.serveHead _ _ s fun q => k.sendReply q _ _ s) h
  | identify | readParameters | readUnits | readUnit | readLinks | readChannels | readTalkgroups =>
    exact next (k.asked _ _ _ s fun _ => k.refl s) h
  | loadSites =>
    exact next (k.serveListed _ _ _ s (k.load _ _ _ s fun e _ => member hc.symm (MembersRun.takeSite e))) h
  | loadTalkgroups => exact next (k.serveListed _ _ _ s (k.load _ _ _ s fun e => k.talkgroups hc.symm s e)) h
  | loadNeighbors => exact next (k.serveListed _ _ _ s (k.load _ _ _ s fun e _ => k.neighbors hc.symm s e)) h
  | writeParameters => exact next (k.serveListed _ _ _ s fun q => k.writeParams q s) h
  | applyParameters => exact next (k.asked _ _ _ s fun _ => k.parameters hc.symm s _ (applyParams_frame s)) h
  | collectCounters =>
    refine next (k.asked _ _ _ s fun _ => ?_) h
    exact k.trans (k.frame.io s { s.io with live := zeroCounters })
      (k.agent _ s.requests s.progress s.staged (collect s).snapshot (collect s).mergeCount (collect s).snapshotRead)
  | readCounters => exact next (k.asked _ _ _ s fun q => k.readCountersRequest q s) h
  | clearUnit =>
    refine next (k.asked _ _ _ s fun q => ?_) h
    unfold clearUnitRequest
    split
    · exact k.refl s
    · exact unit (.inl hc.symm) (UnitsRun.clearRecord _)
  | clearEmergency =>
    refine next (k.asked _ _ _ s fun q => ?_) h
    unfold clearEmergencyRequest
    split
    · exact k.refl s
    · exact unit (.inl hc.symm) (UnitsRun.modUnit _ _)
  | restart => exact next (k.serveHead _ _ s fun q => k.restartRequest q s) h
  | transmissionComplete p => exact next (k.transmissionEnds hc.symm p s) h
  | activityTimerExpiry u => exact next (unit (.inl hc.symm) (UnitsRun.activityExpiry u)) h
  | pollTimerExpiry u => exact next (unit (.inl hc.symm) (UnitsRun.pollExpiry u)) h
  | pollReplyWaitExpiry u => exact next (unit (.inl hc.symm) (UnitsRun.pollWaitExpiry u)) h
  | lostHoldExpiry u => exact next (unit (.inl hc.symm) (UnitsRun.lostExpiry u)) h
  | roamHoldExpiry u => exact next (unit (.inl hc.symm) (UnitsRun.roamHoldEnds u)) h
  | replyWaitExpiry u => exact next (unit (.inl hc.symm) (UnitsRun.replyWaitEnds u)) h
  | departureExpiry u => exact next (unit (.inl hc.symm) (UnitsRun.departureEnds u)) h
  | arrivalExpiry u => exact next (unit (.inl hc.symm) (UnitsRun.arrivalEnds u)) h
  | forwardHoldExpiry u => exact next (unit (.inl hc.symm) (UnitsRun.forwardHoldEnds u)) h
  | refreshTimerExpiry => exact next (k.expireRefresh hc.symm s) h
  | ageTimerExpiry n => exact next (member hc.symm (MembersRun.expireAge n)) h
  | waitTimerExpiry n id => exact next (timed hc.symm (CallsRun.waitTimerEnds n id)) h
  | voiceGapExpiry n => exact next (timed hc.symm (CallsRun.voiceGapEnds n)) h
  | talkTimerExpiry n => exact next (timed hc.symm (CallsRun.talkTimerEnds n)) h
  | hangTimerExpiry n => exact next (timed hc.symm (CallsRun.hangTimerEnds n)) h
  | probeTimerExpiry l => exact next (linked hc.symm (LinksRun.probeTimerEnds l)) h

end FrameFor

end Sys2Proof.Machine
end

section
/-! PROOFS. What the Link Supervisors make of a link's fields, operation by operation (chapter 9), and the law of the
links that every step keeps (O11). -/

namespace Sys2Proof.Machine

/-! ## One link at a time -/

/-- What the supervisors read beside the links: parameters, part state and time base. -/
def State.sameInputs (s t : State) : Prop :=
  t.active = s.active ∧ t.partState = s.partState ∧ t.timeBase = s.timeBase

theorem State.sameButLinks.inputs {s t : State} (h : s.sameButLinks t) : s.sameInputs t := by
  unfold State.sameButLinks at h
  rw [h]
  exact ⟨rfl, rfl, rfl⟩

/-- One link's fields become `y`; the other links, and what the supervisors read, stay. -/
structure State.setsLink (s : State) (l : LinkNo) (y : Link) (t : State) : Prop where
  links : ∀ k, t.link k = if k = l then y else s.link k
  inputs : s.sameInputs t

namespace State.setsLink

variable {s t u : State} {l : LinkNo} {x y z : Link}

theorem here (h : s.setsLink l y t) : t.link l = y := by simpa using h.links l

theorem other (h : s.setsLink l y t) {k : LinkNo} (hk : k ≠ l) : t.link k = s.link k := by simpa [hk] using h.links k

theorem refl (h : s.link l = y := by rfl) : s.setsLink l y s := by
  refine ⟨fun k => ?_, rfl, rfl, rfl⟩
  by_cases hk : k = l
  · simp [hk, h]
  · simp [hk]

theorem trans (h : s.setsLink l y t) (h' : t.setsLink l z u) : s.setsLink l z u := by
  obtain ⟨active, part, time⟩ := h.inputs
  obtain ⟨active', part', time'⟩ := h'.inputs
  refine ⟨fun k => ?_, active'.trans active, part'.trans part, time'.trans time⟩
  by_cases hk : k = l
  · simp [hk, h'.here]
  · simp [hk, h'.other hk, h.other hk]

/-- A change of frames and of the own sequence moves no link. -/
theorem elsewhere (h : s.setsLink l y t) (links : u.links = t.links) (inputs : t.sameInputs u) : s.setsLink l y u := by
  refine h.trans ⟨fun k => ?_, inputs⟩
  have same : u.link k = t.link k := by simp only [State.link, links]
  by_cases hk : k = l
  · subst hk
    simp [same, h.here]
  · simp [hk, same]

theorem onIo (h : s.setsLink l y t) (f : Net → Io → Io) : s.setsLink l y (t.onIo f) := h.elsewhere rfl ⟨rfl, rfl, rfl⟩

theorem modLink (s : State) (l : LinkNo) (f : Link → Link) :
    s.setsLink l (f (s.link l)) (Machine.modLink l f s) :=
  ⟨fun k => link_modLink s l k f, rfl, rfl, rfl⟩

/-- The fields of the link that was set are changed again. -/
theorem mod (h : s.setsLink l y t) (f : Link → Link) : s.setsLink l (f y) (Machine.modLink l f t) := by
  have := modLink t l f
  rw [h.here] at this
  exact h.trans this

/-! ### State changes and judgements (R149) -/

theorem setLinkState (h : s.setsLink l y t) (new : LinkState) :
    s.setsLink l { y with state := new } (Machine.setLinkState l new t) := by
  have set := h.mod fun x => { x with state := new }
  unfold Machine.setLinkState
  simp only
  split
  · exact (set.onIo _).onIo _
  · exact set

theorem linkUp (h : s.setsLink l y t) :
    s.setsLink l { y with state := .up, errors := 0, goods := 0 } (Machine.linkUp l t) := by
  have up := (h.mod fun x => { x with errors := 0, goods := 0 }).setLinkState .up
  unfold Machine.linkUp
  generalize Machine.setLinkState l .up _ = u at up ⊢
  exact up.elsewhere rfl ⟨rfl, rfl, rfl⟩

theorem linkLost (h : s.setsLink l y t) (reported : LinkState) :
    s.setsLink l { y with state := .down, goods := 0 } (Machine.linkLost l reported t) := by
  have down := (h.mod fun x => { x with goods := 0 }).setLinkState .down
  unfold Machine.linkLost
  generalize Machine.setLinkState l .down _ = u at down ⊢
  exact down.onIo _

theorem goodInTrial (h : s.setsLink l y t) (goods : Nat) :
    s.setsLink l
      (if t.active.restoreCount ≤ goods then { y with state := .up, errors := 0, goods := 0 }
        else { y with state := .trial, goods := goods })
      (Machine.goodInTrial l goods t) := by
  unfold Machine.goodInTrial
  split
  · exact h.linkUp
  · exact (h.mod fun x => { x with goods := goods }).setLinkState .trial

theorem judgedGood (h : s.setsLink l y t) : s.setsLink l (y.afterGood s.active) (Machine.judgedGood l t) := by
  obtain ⟨active, -, -⟩ := h.inputs
  unfold Machine.judgedGood Link.afterGood
  rw [h.here, ← active]
  obtain ⟨state, far, token, advance, outstanding, timer, errors, goods, looped⟩ := y
  cases state with
  | disabled => exact h
  | down => exact h.goodInTrial 1
  | trial => exact h.goodInTrial (goods + 1)
  | up => exact h.mod fun x => { x with errors := x.errors - 1 }

theorem judgedError (h : s.setsLink l y t) : s.setsLink l (y.afterError s.active) (Machine.judgedError l t) := by
  obtain ⟨active, -, -⟩ := h.inputs
  unfold Machine.judgedError Link.afterError
  rw [h.here, ← active]
  obtain ⟨state, far, token, advance, outstanding, timer, errors, goods, looped⟩ := y
  cases state with
  | disabled => exact h
  | down => exact h
  | trial => exact (h.mod fun x => { x with goods := 0 }).setLinkState .down
  | up =>
    have counted := h.mod fun x => { x with errors := x.errors + 1 }
    have same : (Machine.modLink l (fun x => { x with errors := x.errors + 1 }) t).active = t.active := rfl
    simp only [counted.here, same]
    split
    · exact counted.linkLost .down
    · exact counted

/-! ### Probes (R145 to R147) -/

theorem closeWindow (h : s.setsLink l y t) :
    s.setsLink l (if y.outstanding then { y with outstanding := false }.afterError s.active else y)
      (Machine.closeWindow l t) := by
  unfold Machine.closeWindow
  rw [h.here]
  split
  · exact (h.mod fun x => { x with outstanding := false }).judgedError
  · exact h

theorem sendProbe (h : s.setsLink l y t) : s.setsLink l { y with outstanding := true } (Machine.sendProbe l t) :=
  (h.onIo _).mod fun x => { x with outstanding := true }

theorem startProbeTimer (h : s.setsLink l y t) :
    s.setsLink l { y with timer := some (s.after s.active.probePeriod) } (Machine.startProbeTimer l t) := by
  obtain ⟨active, -, time⟩ := h.inputs
  have same : t.after t.active.probePeriod = s.after s.active.probePeriod := by
    unfold State.after
    rw [active, time]
  rw [← same]
  exact h.mod fun x => { x with timer := some (t.after t.active.probePeriod) }

end State.setsLink

/-- A link after its probe timer has ended: an open window is judged, a pending advance made, and the next window
opens unless the link is DISABLED (R145). -/
def State.probed (s : State) (x : Link) : Link :=
  let judged := if x.outstanding then { x with outstanding := false }.afterError s.active else x
  let advanced := applyAdvance judged
  { advanced with
    outstanding := advanced.outstanding || decide (advanced.state ≠ .disabled)
    timer := some (s.after s.active.probePeriod) }

theorem setsLink_probeTimerEnds {s : State} {l : LinkNo} (due : s.due (s.link l).timer = true) :
    s.setsLink l (s.probed (s.link l)) (probeTimerEnds l s) := by
  unfold probeTimerEnds State.probed
  rw [if_pos due]
  have advanced := (State.setsLink.refl (s := s) (l := l)).closeWindow.mod applyAdvance
  simp only [advanced.here]
  generalize applyAdvance _ = y at advanced ⊢
  by_cases disabled : y.state = .disabled
  · rw [if_pos disabled, decide_eq_false (not_not.mpr disabled), Bool.or_false]
    exact advanced.startProbeTimer
  · rw [if_neg disabled, decide_eq_true disabled, Bool.or_true]
    exact advanced.sendProbe.startProbeTimer

/-- A link after a seeding (R144). -/
def State.seeded (s : State) (l : LinkNo) : Link :=
  let probing := decide (s.active.farSite l ≠ 0) && decide (s.partState = .running)
  { state := if s.active.farSite l = 0 then .disabled else .down
    farSite := s.active.farSite l
    token := seedToken s.own l
    advance := false
    outstanding := probing
    timer := if probing then some (s.after s.active.probePeriod) else none
    errors := 0
    goods := 0
    looped := false }

theorem State.sameInputs.seeded {s t : State} (h : s.sameInputs t) (l : LinkNo) : t.seeded l = s.seeded l := by
  obtain ⟨active, part, time⟩ := h
  unfold State.seeded State.own State.after
  rw [active, part, time]

theorem setsLink_seedLink (s : State) (l : LinkNo) : s.setsLink l (s.seeded l) (seedLink s l) := by
  have set := (State.setsLink.refl (s := s) (l := l)).setLinkState (if s.active.farSite l = 0 then .disabled else .down)
  obtain ⟨active, part, -⟩ := set.inputs
  unfold seedLink State.seeded
  simp only
  generalize setLinkState l (if s.active.farSite l = 0 then .disabled else .down) s = t at set active part ⊢
  have seeded := set.mod (seededLink t.own (s.active.farSite l) l)
  have own : t.own = s.own := congrArg Params.ownSite active
  have probes : (decide (s.active.farSite l ≠ 0) && decide ((modLink l (seededLink t.own (s.active.farSite l) l) t).partState = .running))
      = (decide (s.active.farSite l ≠ 0) && decide (s.partState = .running)) := by
    rw [modLink_partState, part]
  rw [probes, ← own]
  cases decide (s.active.farSite l ≠ 0) && decide (s.partState = .running) with
  | true => exact seeded.sendProbe.startProbeTimer
  | false => exact seeded

/-- A link after an APPLY of a RUNNING part: seeded anew with another far site, and taken down out of UP by a fail
threshold that its errors reach (R151). -/
def State.reconsidered (s : State) (l : LinkNo) (x : Link) : Link :=
  if s.active.farSite l ≠ x.farSite then s.seeded l
  else if x.state = .up ∧ s.active.failThreshold ≤ x.errors then { x with state := .down, goods := 0 }
  else x

theorem setsLink_reconsiderLink (s : State) (l : LinkNo) :
    s.setsLink l (s.reconsidered l (s.link l)) (reconsiderLink s l) := by
  have still := State.setsLink.refl (s := s) (l := l)
  have seed {y : Link} {t : State} (h : s.setsLink l y t) : s.setsLink l (s.seeded l) (seedLink t l) :=
    h.inputs.seeded l ▸ h.trans (setsLink_seedLink t l)
  unfold reconsiderLink State.reconsidered
  simp only
  split
  · split
    · exact seed (still.linkLost _)
    · exact seed still
  · by_cases lost : (s.link l).state = .up ∧ s.active.failThreshold ≤ (s.link l).errors
    · rw [if_pos lost, if_pos (by simpa using lost)]
      exact still.linkLost .down
    · rw [if_neg lost, if_neg (by simpa using lost)]
      exact still

/-! ## All links in turn -/

/-- An operation that sets each link by its fields before, taken on every link, sets every link so. -/
theorem foldl_allLinks (f : State → LinkNo → State) (g : State → LinkNo → Link → Link)
    (hf : ∀ (s : State) l, s.setsLink l (g s l (s.link l)) (f s l))
    (hg : ∀ (s t : State) l x, s.sameInputs t → g t l x = g s l x) (s : State) :
    s.sameInputs (allLinks.foldl f s) ∧ ∀ l, (allLinks.foldl f s).link l = g s l (s.link l) := by
  have run (ls : List LinkNo) (nodup : ls.Nodup) (t : State) (inputs : s.sameInputs t) :
      s.sameInputs (ls.foldl f t)
        ∧ ∀ l, (ls.foldl f t).link l = if l ∈ ls then g s l (t.link l) else t.link l := by
    induction ls generalizing t with
    | nil => exact ⟨inputs, fun l => by simp⟩
    | cons k ls ih =>
      obtain ⟨fresh, nodup⟩ := List.nodup_cons.mp nodup
      have set := hf t k
      rw [hg s t k _ inputs] at set
      obtain ⟨active, part, time⟩ := inputs
      obtain ⟨active', part', time'⟩ := set.inputs
      obtain ⟨inputs, links⟩ := ih nodup (f t k) ⟨active'.trans active, part'.trans part, time'.trans time⟩
      refine ⟨inputs, fun l => ?_⟩
      rw [List.foldl_cons, links l, set.links l]
      by_cases hl : l = k
      · subst hl
        simp [fresh]
      · simp [hl]
  obtain ⟨inputs, links⟩ := run allLinks (by decide) s ⟨rfl, rfl, rfl⟩
  refine ⟨inputs, fun l => ?_⟩
  have mem : l ∈ allLinks := by
    match l with
    | 0 | 1 | 2 | 3 => decide
  simpa [mem] using links l

theorem seedAll_links (s : State) : s.sameInputs (seedAll s) ∧ ∀ l, (seedAll s).link l = s.seeded l :=
  foldl_allLinks seedLink (fun s l _ => s.seeded l) setsLink_seedLink (fun _ _ l _ h => h.seeded l) s

theorem reconsider_links (s : State) :
    s.sameInputs (allLinks.foldl reconsiderLink s)
      ∧ ∀ l, (allLinks.foldl reconsiderLink s).link l = s.reconsidered l (s.link l) :=
  foldl_allLinks reconsiderLink State.reconsidered setsLink_reconsiderLink
    (fun s t l x h => by
      unfold State.reconsidered
      rw [h.seeded l]
      obtain ⟨active, -, -⟩ := h
      rw [active])
    s

/-- A link after an APPLY of a part that stays UNCONFIGURED: seeded anew with another far site (R152). -/
def State.reseeded (s : State) (l : LinkNo) (x : Link) : Link :=
  if s.active.farSite l ≠ x.farSite then s.seeded l else x

theorem reseed_links (s : State) :
    let t := allLinks.foldl (fun s l => if s.active.farSite l ≠ (s.link l).farSite then seedLink s l else s) s
    s.sameInputs t ∧ ∀ l, t.link l = s.reseeded l (s.link l) := by
  refine foldl_allLinks _ State.reseeded (fun s l => ?_) (fun s t l x h => ?_) s
  · unfold State.reseeded
    split
    · exact setsLink_seedLink s l
    · exact .refl
  · unfold State.reseeded
    rw [h.seeded l]
    obtain ⟨active, -, -⟩ := h
    rw [active]

/-! ## The law of one link -/

/-- R143, R152: the law of one link's fields under parameters and a part state. -/
def Link.ok (p : Params) (part : PartState) (l : LinkNo) (x : Link) : Prop :=
  x.farSite = p.farSite l
    ∧ (x.state = .disabled ↔ x.farSite = 0)
    ∧ (x.state = .disabled → x.timer = none ∧ x.outstanding = false ∧ x.advance = false)
    ∧ (part = .running → x.state ≠ .disabled → x.timer.isSome = true)
    ∧ (part = .unconfigured → (x.state = .disabled ∨ x.state = .down) ∧ x.timer = none ∧ x.outstanding = false)
    ∧ x.errors ≤ 15 ∧ x.goods ≤ 15 ∧ (x.state = .up → x.errors < p.failThreshold)
    ∧ x.token ≠ 0

theorem linkLaw_iff (s : State) : s.linkLaw ↔ ∀ l, (s.link l).ok s.active s.partState l := Iff.rfl

theorem inRange_link {p : Params} (h : p.inRange) :
    1 ≤ p.failThreshold ∧ p.failThreshold ≤ 8 ∧ 1 ≤ p.restoreCount ∧ p.restoreCount ≤ 15 ∧ p.ownSite ≤ 32 := by
  obtain ⟨ranges, threshold⟩ := h
  have own := ranges 0 (by decide)
  have restore := ranges 25 (by decide)
  simp [Params.values, paramRanges] at own restore
  omega

namespace Link.ok

variable {p : Params} {part : PartState} {l : LinkNo} {x : Link}

/-- With a window open the part is RUNNING and the link is not DISABLED. -/
theorem of_outstanding (h : x.ok p part l) (open_ : x.outstanding = true) : part = .running ∧ x.state ≠ .disabled := by
  obtain ⟨-, -, disabled, -, unconfigured, -⟩ := h
  constructor
  · cases part with
    | running => rfl
    | unconfigured => simp [(unconfigured rfl).2.2] at open_
  · intro e
    simp [(disabled e).2.1] at open_

theorem loop (h : x.ok p part l) (b : Bool) : ({ x with looped := b } : Link).ok p part l := h

theorem close (h : x.ok p part l) : ({ x with outstanding := false } : Link).ok p part l := by
  obtain ⟨far, zero, disabled, running, unconfigured, rest⟩ := h
  exact ⟨far, zero, fun e => ⟨(disabled e).1, rfl, (disabled e).2.2⟩, running,
    fun e => ⟨(unconfigured e).1, (unconfigured e).2.1, rfl⟩, rest⟩

theorem good (h : x.ok p part l) (enabled : x.state ≠ .disabled) :
    ({ x with advance := true, looped := false } : Link).ok p part l := by
  obtain ⟨far, zero, -, rest⟩ := h
  exact ⟨far, zero, fun e => absurd e enabled, rest⟩

theorem afterError (h : x.ok p part l) (hp : p.inRange) : (x.afterError p).ok p part l := by
  obtain ⟨-, threshold, -, -, -⟩ := inRange_link hp
  have ok := h
  obtain ⟨far, zero, disabled, running, unconfigured, errors, goods, up, token⟩ := h
  unfold Link.afterError
  cases hx : x.state with
  | disabled => exact ok
  | down => exact ok
  | trial => simp_all [Link.ok]
  | up =>
    have below := up hx
    simp only
    split
    · simp_all [Link.ok]
      omega
    · simp_all [Link.ok]
      omega

theorem afterGood (h : x.ok p part l) (hp : p.inRange) (hr : part = .running) : (x.afterGood p).ok p part l := by
  obtain ⟨positive, -, -, restore, -⟩ := inRange_link hp
  have ok := h
  obtain ⟨far, zero, disabled, running, unconfigured, errors, goods, up, token⟩ := h
  unfold Link.afterGood
  cases hx : x.state with
  | disabled => exact ok
  | down =>
    simp only
    split <;> simp_all [Link.ok]
    omega
  | trial =>
    simp only
    split <;> simp_all [Link.ok]
    · omega
    · omega
  | up =>
    simp_all [Link.ok]
    omega

theorem window (h : x.ok p part l) (hp : p.inRange) :
    (if x.outstanding then { x with outstanding := false }.afterError p else x : Link).ok p part l := by
  split
  · exact h.close.afterError hp
  · exact h

end Link.ok

/-! ## Tokens (R144) -/

theorem advanceToken_succ (t : BitVec 16) {i : Nat} (hi : i < 15) :
    (advanceToken t).getLsbD (i + 1) = t.getLsbD i := by
  have inside : i + 1 < 16 := by omega
  have low : (if ((t.getLsbD 15 != t.getLsbD 13) != (t.getLsbD 12 != t.getLsbD 10)) then 1#16 else 0#16).getLsbD (i + 1)
      = false := by
    split
    · simp [BitVec.getLsbD_one]
    · simp
  unfold advanceToken
  rw [BitVec.getLsbD_or, low, BitVec.getLsbD_shiftLeft]
  simp [inside]

theorem advanceToken_zero (t : BitVec 16) :
    (advanceToken t).getLsbD 0 = ((t.getLsbD 15 ^^ t.getLsbD 13) ^^ (t.getLsbD 12 ^^ t.getLsbD 10)) := by
  unfold advanceToken
  rw [BitVec.getLsbD_or]
  cases t.getLsbD 15 <;> cases t.getLsbD 13 <;> cases t.getLsbD 12 <;> cases t.getLsbD 10 <;> simp

/-- A token that is not 0 advances to one that is not 0: fifteen bits move up, and with them 0 the last one is the new
bit 0. -/
theorem advanceToken_ne_zero {t : BitVec 16} (h : t ≠ 0) : advanceToken t ≠ 0 := by
  intro zero
  have low (i : Nat) (hi : i < 15) : t.getLsbD i = false := by
    rw [← advanceToken_succ t hi, zero]
    exact BitVec.getLsbD_zero
  have last : t.getLsbD 15 = false := by
    have new := advanceToken_zero t
    rw [zero, low 13 (by decide), low 12 (by decide), low 10 (by decide)] at new
    simpa using new.symm
  refine h (BitVec.eq_of_getLsbD_eq fun i hi => ?_)
  rw [show (0 : BitVec 16).getLsbD i = false from BitVec.getLsbD_zero]
  by_cases top : i = 15
  · rw [top, last]
  · exact low i (by omega)

theorem seedToken_ne_zero {own : Nat} (h : own ≤ 32) (l : LinkNo) : seedToken own l ≠ 0 := by
  intro zero
  have value := congrArg BitVec.toNat zero
  have link := l.isLt
  rw [seedToken, BitVec.toNat_ofNat, Nat.mod_eq_of_lt (by omega)] at value
  exact Nat.succ_ne_zero _ value

namespace Link.ok

variable {p : Params} {part : PartState} {l : LinkNo} {x : Link}

theorem applyAdvance (h : x.ok p part l) : (Machine.applyAdvance x).ok p part l := by
  unfold Machine.applyAdvance
  split
  · obtain ⟨far, zero, disabled, running, unconfigured, errors, goods, up, token⟩ := h
    exact ⟨far, zero, fun e => ⟨(disabled e).1, (disabled e).2.1, rfl⟩, running, unconfigured, errors, goods, up,
      advanceToken_ne_zero token⟩
  · exact h

end Link.ok

theorem ok_seeded {s : State} (hp : s.active.inRange) (l : LinkNo) : (s.seeded l).ok s.active s.partState l := by
  obtain ⟨-, -, -, -, own⟩ := inRange_link hp
  have token := seedToken_ne_zero own l
  unfold State.seeded Link.ok
  refine ⟨rfl, ?_, ?_, ?_, ?_, Nat.zero_le _, Nat.zero_le _, ?_, token⟩
  · by_cases far : s.active.farSite l = 0 <;> simp [far]
  · by_cases far : s.active.farSite l = 0 <;> simp [far]
  · intro running
    by_cases far : s.active.farSite l = 0 <;> simp [far, running]
  · intro unconfigured
    by_cases far : s.active.farSite l = 0 <;> simp [far, unconfigured]
  · by_cases far : s.active.farSite l = 0 <;> simp [far]

/-- A timer that runs is of a RUNNING part and of a link with a far site. -/
theorem Link.ok.of_timer {p : Params} {part : PartState} {l : LinkNo} {x : Link} (h : x.ok p part l)
    (runs : x.timer ≠ none) : part = .running ∧ p.farSite l ≠ 0 := by
  obtain ⟨far, zero, disabled, -, unconfigured, -⟩ := h
  refine ⟨?_, fun e => runs (disabled (zero.mpr (far.trans e))).1⟩
  cases part with
  | running => rfl
  | unconfigured => exact absurd (unconfigured rfl).2.1 runs

theorem ok_probed {s : State} {l : LinkNo} {x : Link} (h : x.ok s.active s.partState l) (hp : s.active.inRange)
    (runs : x.timer ≠ none) : (s.probed x).ok s.active s.partState l := by
  obtain ⟨running, far⟩ := h.of_timer runs
  have advanced := (h.window hp).applyAdvance
  unfold State.probed
  simp only
  generalize Machine.applyAdvance _ = y at advanced ⊢
  obtain ⟨same, zero, -, -, -, rest⟩ := advanced
  have enabled : y.state ≠ .disabled := fun e => far (same.symm.trans (zero.mp e))
  exact ⟨same, zero, fun e => absurd e enabled, fun _ _ => rfl,
    fun e => PartState.noConfusion (running.symm.trans e), rest⟩

theorem ok_reconsidered {s : State} {p : Params} {l : LinkNo} {x : Link} (h : x.ok p s.partState l)
    (hp : s.active.inRange) (hr : s.partState = .running) : (s.reconsidered l x).ok s.active s.partState l := by
  unfold State.reconsidered
  obtain ⟨far, zero, disabled, running, unconfigured, errors, goods, up, token⟩ := h
  split
  · exact ok_seeded hp l
  · rename_i same
    have here : x.farSite = s.active.farSite l := by simpa using Eq.symm (not_not.mp same)
    split
    · rename_i lost
      have enabled : x.farSite ≠ 0 := fun e => by simp [zero.mpr e] at lost
      refine ⟨here, by simpa using enabled, by simp, fun r _ => running r (by simp [lost.1]), ?_, errors, Nat.zero_le _,
        by simp, token⟩
      intro e
      rw [hr] at e
      cases e
    · rename_i kept
      exact ⟨here, zero, disabled, running, unconfigured, errors, goods,
        fun e => Nat.lt_of_not_le fun le => kept ⟨e, le⟩, token⟩

theorem ok_reseeded {s : State} {p : Params} {l : LinkNo} {x : Link} (h : x.ok p s.partState l)
    (hp : s.active.inRange) (hu : s.partState = .unconfigured) : (s.reseeded l x).ok s.active s.partState l := by
  unfold State.reseeded
  obtain ⟨far, zero, disabled, running, unconfigured, errors, goods, up, token⟩ := h
  split
  · exact ok_seeded hp l
  · rename_i same
    refine ⟨by simpa using Eq.symm (not_not.mp same), zero, disabled, running, unconfigured, errors, goods, ?_, token⟩
    intro e
    rcases (unconfigured hu).1 with down | down
    · simp [down] at e
    · simp [down] at e

/-! ## Every step (R143) -/

/-- A link's fields change within the law, and nothing that the law reads else. -/
theorem linkLaw_of_sets {s t : State} {l : LinkNo} {y : Link} (h : s.setsLink l y t)
    (ok : y.ok s.active s.partState l) (law : s.linkLaw) : t.linkLaw := by
  obtain ⟨active, part, -⟩ := h.inputs
  refine (linkLaw_iff t).mpr fun k => ?_
  rw [active, part, h.links k]
  split
  · rename_i here
    exact here ▸ ok
  · exact law k

/-- The links and what their law reads are as before. -/
def State.sameLinks (s t : State) : Prop := t.links = s.links ∧ t.active = s.active ∧ t.partState = s.partState

theorem State.sameLinks.linkLaw {s t : State} (h : s.sameLinks t) (law : s.linkLaw) : t.linkLaw := by
  obtain ⟨links, active, part⟩ := h
  refine (linkLaw_iff t).mpr fun k => ?_
  rw [active, part, show t.link k = s.link k by simp only [State.link, links]]
  exact law k

theorem sameLinks_frame {family : Family} (h : family ≠ .links) (h' : family ≠ .parameters) :
    FrameFor State.sameLinks family where
  frame := {
    refl := fun _ => ⟨rfl, rfl, rfl⟩
    trans := fun h h' => ⟨h'.1.trans h.1, h'.2.1.trans h.2.1, h'.2.2.trans h.2.2⟩
    io := fun _ _ => ⟨rfl, rfl, rfl⟩ }
  agent _ _ _ _ _ _ _ := ⟨rfl, rfl, rfl⟩
  units _ s t h := by
    unfold State.sameButUnits at h
    rw [h]
    exact ⟨rfl, rfl, rfl⟩
  calls _ s t h := by
    have same := h.1
    unfold State.sameButCalls at same
    rw [same]
    exact ⟨rfl, rfl, rfl⟩
  links e := absurd e h
  membership _ s t h := by
    have same := h.1
    unfold State.sameButMembership at same
    rw [same]
    exact ⟨rfl, rfl, rfl⟩
  refresh _ _ _ _ := ⟨rfl, rfl, rfl⟩
  talkgroups _ s e _ := by
    unfold takeTalkgroup
    split <;> exact ⟨rfl, rfl, rfl⟩
  neighbors _ s e := by
    unfold takeNeighbor
    split <;> exact ⟨rfl, rfl, rfl⟩
  parameters e := absurd e h'
  transmission _ _ _ _ := ⟨rfl, rfl, rfl⟩

/-- The law of the links with parameters in range. -/
def State.linksInOrder (s : State) : Prop := s.active.inRange ∧ s.linkLaw

/-- The law of the links reads no frames, and nothing that any command may change. -/
theorem linksInOrder_frame : FrameFor (fun s t : State => s.linksInOrder → t.linksInOrder) .whole where
  frame := ⟨fun _ => id, fun h h' => h' ∘ h, fun _ _ => id⟩
  agent _ _ _ _ _ _ _ := id
  units e := by rcases e with e | e <;> cases e
  calls e := by cases e
  links e := by cases e
  membership e := by cases e
  refresh e := by cases e
  talkgroups e := by cases e
  neighbors e := by cases e
  parameters e := by cases e
  transmission e := by cases e

theorem linksInOrder_of_sets {s t : State} {l : LinkNo} {y : Link} (h : s.setsLink l y t)
    (ok : y.ok s.active s.partState l) (law : s.linksInOrder) : t.linksInOrder :=
  ⟨h.inputs.1 ▸ law.1, linkLaw_of_sets h ok law.2⟩

theorem linksInOrder_takeProbe {s : State} (law : s.linksInOrder) (l : LinkNo) (hdr : Header) :
    (takeProbe l hdr s).linksInOrder := by
  unfold takeProbe
  split
  · have looped := State.setsLink.modLink s l fun x => { x with looped := true }
    exact linksInOrder_of_sets looped.closeWindow ((((linkLaw_iff s).mp law.2 l).loop true).window law.1) law
  · split
    · exact law
    · exact law

theorem linksInOrder_takeProbeReply {s : State} (law : s.linksInOrder) (l : LinkNo) (hdr : Header) :
    (takeProbeReply l hdr s).linksInOrder := by
  unfold takeProbeReply
  simp only
  split
  · exact law
  · rename_i judged
    have ok : (s.link l).ok s.active s.partState l := law.2 l
    have isOpen : (s.link l).outstanding = true := by
      by_contra closed
      simp [closed] at judged
    obtain ⟨running, enabled⟩ := ok.of_outstanding isOpen
    have closed := State.setsLink.modLink s l fun x => { x with outstanding := false }
    split
    · exact linksInOrder_of_sets (closed.mod fun x => { x with advance := true, looped := false }).judgedGood
        ((ok.close.good enabled).afterGood law.1 running) law
    · exact linksInOrder_of_sets closed.judgedError (ok.close.afterError law.1) law

theorem linksInOrder_probeTimerEnds {s : State} (law : s.linksInOrder) (l : LinkNo) :
    (probeTimerEnds l s).linksInOrder := by
  by_cases due : s.due (s.link l).timer = true
  · refine linksInOrder_of_sets (setsLink_probeTimerEnds due) (ok_probed (law.2 l) law.1 fun stopped => ?_) law
    rw [stopped] at due
    cases due
  · unfold probeTimerEnds
    rw [if_neg due]
    exact law

/-- Seeding leaves every link in order, whatever the links were. -/
theorem linksInOrder_seedAll {s : State} (hp : s.active.inRange) : (seedAll s).linksInOrder := by
  obtain ⟨⟨active, part, -⟩, links⟩ := seedAll_links s
  refine ⟨active ▸ hp, (linkLaw_iff _).mpr fun l => ?_⟩
  rw [active, part, links l]
  exact ok_seeded hp l

theorem linksInOrder_enterRunning {s : State} (hp : s.active.inRange) : (enterRunning s).linksInOrder := by
  have seeded := linksInOrder_seedAll hp
  unfold enterRunning
  generalize seedAll s = t at seeded ⊢
  exact seeded

theorem linksInOrder_applyParams {s : State} (hp : s.paramLaw) (law : s.linkLaw) :
    (applyParams s).2.linksInOrder := by
  obtain ⟨staged, active⟩ := hp
  unfold applyParams
  split
  · rename_i running
    split
    · exact ⟨active, law⟩
    · obtain ⟨⟨active', part, -⟩, links⟩ := reconsider_links { s with active := s.staged }
      refine ⟨active' ▸ staged, (linkLaw_iff _).mpr fun l => ?_⟩
      rw [active', part, links l]
      exact ok_reconsidered (s := { s with active := s.staged }) (law l) staged running
  · rename_i unconfigured
    unfold applyUnconfigured
    split
    · obtain ⟨⟨active', part, -⟩, links⟩ := reseed_links { s with active := s.staged }
      refine ⟨active' ▸ staged, (linkLaw_iff _).mpr fun l => ?_⟩
      rw [active', part, links l]
      exact ok_reseeded (s := { s with active := s.staged }) (law l) staged unconfigured
    · exact linksInOrder_enterRunning staged

theorem linksInOrder_takeRestart {s : State} (hp : s.active.inRange) : (takeRestart s).linksInOrder := by
  unfold takeRestart
  split
  · exact linksInOrder_enterRunning hp
  · exact linksInOrder_seedAll hp

theorem exec_linkLaw {c : Instr} {s t : State} (hreset : occasion c ≠ .reset) (hrestart : occasion c ≠ .restart)
    (h : exec c s = .next t) (hp : s.paramLaw) (law : s.linkLaw) : t.linkLaw := by
  have start : s.linksInOrder := ⟨hp.2, law⟩
  have next {u : State} (hu : u.linksInOrder) (eq : (Host.Outcome.next u : Host.Outcome State Fault Refusal) = .next t) :
      t.linkLaw := Host.Outcome.next.inj eq ▸ hu.2
  have elsewhere (hl : familyOf c ≠ .links) (hf : familyOf c ≠ .parameters) (hw : familyOf c ≠ .whole) : t.linkLaw :=
    ((sameLinks_frame hl hf).exec rfl hw h).linkLaw law
  cases c with
  | fullReset | fullResetEnd => exact absurd rfl hreset
  | restartTakesPlace => exact absurd rfl hrestart
  | probe l =>
    exact next (linksInOrder_frame.takeHanded s _ _ _ (fun _ hdr _ _ law => linksInOrder_takeProbe law l hdr) start) h
  | probeReply l =>
    exact next
      (linksInOrder_frame.takeHanded s _ _ _ (fun _ hdr _ _ law => linksInOrder_takeProbeReply law l hdr) start) h
  | probeTimerExpiry l => exact next (linksInOrder_probeTimerEnds start l) h
  | applyParameters =>
    exact next (linksInOrder_frame.asked _ _ _ s (fun _ _ => linksInOrder_applyParams hp law) start) h
  | _ => exact elsewhere Family.noConfusion Family.noConfusion Family.noConfusion

theorem step_linkLaw {s t : State} (h : step s = .next t) (hp : s.paramLaw) (law : s.linkLaw) : t.linkLaw := by
  have goes (c : Instr) (s t : State) (hr : occasion c ≠ .reset) (hr' : occasion c ≠ .restart) (h : exec c s = .next t)
      (hs : s.paramLaw ∧ s.linkLaw) : t.paramLaw ∧ t.linkLaw :=
    ⟨(Goes.exec c s t hr hr' h).params hs.1, exec_linkLaw hr hr' h hs.1 hs.2⟩
  have restart (s : State) (hs : s.paramLaw ∧ s.linkLaw) : (takeRestart s).paramLaw ∧ (takeRestart s).linkLaw :=
    ⟨Goes.params (k := .tables) (.acts (acts_takeRestart s)) hs.1, (linksInOrder_takeRestart hs.1.2).2⟩
  exact
    (step_keeps_exec (L := fun s => s.paramLaw ∧ s.linkLaw) (fun _ _ h => h) (rest_keeps (fun _ _ h => h) fun _ h => h)
      goes restart (fun _ _ => ⟨paramLaw_reset, linkLaw_reset⟩) h ⟨hp, law⟩).2

end Sys2Proof.Machine

open Sys2Proof Sys2Proof.Machine

/-- Settles O11, by what each operation of the supervisors makes of a link's fields. -/
theorem linkLawKept : Obligations.LinkLawKept := fun _ _ hp law h => step_linkLaw h hp law
end

section
/-! PROOFS. What the Channel Arbiters make of a channel record, operation by operation (chapter 8): the wait list, the
decision, the end of a call and who follows, and call ids. -/

namespace Sys2Proof.Machine

/-! ## Wait lists (R126, R132, R133) -/

theorem perm_joinEntry (w : WaitEntry) (l : List WaitEntry) : (joinEntry w l).Perm (w :: l) := by
  unfold joinEntry
  split
  · refine List.perm_middle.trans ?_
    rw [List.takeWhile_append_dropWhile]
  · exact List.perm_append_comm

theorem perm_rejoinEntry (w : WaitEntry) (l : List WaitEntry) : (rejoinEntry w l).Perm (w :: l) := by
  unfold rejoinEntry
  refine List.perm_middle.trans ?_
  rw [List.takeWhile_append_dropWhile]

/-- In a list with its emergency entries first, those behind the first routine one are all routine. -/
theorem routine_of_emergencyFirst {w : WaitEntry} {l : List WaitEntry} (h : emergencyFirst (w :: l))
    (routine : w.isEmergency = false) : ∀ v ∈ l, v.isEmergency = false := by
  intro v hv
  obtain ⟨head, -⟩ := List.pairwise_cons.mp h
  cases hw : v.isEmergency with
  | false => rfl
  | true => simpa [routine] using head v hv hw

theorem routine_of_dropWhile {l : List WaitEntry} (h : emergencyFirst l) :
    ∀ v ∈ l.dropWhile WaitEntry.isEmergency, v.isEmergency = false := by
  induction l with
  | nil => exact fun _ hv => absurd hv List.not_mem_nil
  | cons w l ih =>
    obtain ⟨-, rest⟩ := List.pairwise_cons.mp h
    cases hw : w.isEmergency with
    | true =>
      rw [List.dropWhile_cons_of_pos hw]
      exact ih rest
    | false =>
      rw [List.dropWhile_cons_of_neg (by simp [hw])]
      intro v hv
      rcases List.mem_cons.mp hv with rfl | hv
      · exact hw
      · exact routine_of_emergencyFirst h hw v hv

theorem emergency_of_takeWhile (l : List WaitEntry) :
    ∀ v ∈ l.takeWhile WaitEntry.isEmergency, v.isEmergency = true := fun _ hv => List.mem_takeWhile_imp hv

/-- An entry between the emergency entries and the routine ones keeps the order, whatever its class. -/
theorem emergencyFirst_between {l : List WaitEntry} (h : emergencyFirst l) (w : WaitEntry) :
    emergencyFirst (l.takeWhile WaitEntry.isEmergency ++ w :: l.dropWhile WaitEntry.isEmergency) := by
  have ahead := emergency_of_takeWhile l
  have behind := routine_of_dropWhile h
  refine List.pairwise_append.mpr ⟨h.sublist (List.takeWhile_sublist _), List.pairwise_cons.mpr ⟨?_, ?_⟩, ?_⟩
  · intro v hv e
    rw [behind v hv] at e
    cases e
  · exact h.sublist (List.dropWhile_sublist _)
  · exact fun v hv _ _ _ => ahead v hv

theorem emergencyFirst_joinEntry {l : List WaitEntry} (h : emergencyFirst l) (w : WaitEntry) :
    emergencyFirst (joinEntry w l) := by
  unfold joinEntry
  cases hw : w.isEmergency with
  | true => exact emergencyFirst_between h w
  | false =>
    refine List.pairwise_append.mpr ⟨h, List.pairwise_singleton _ _, fun v _ u hu e => ?_⟩
    rw [List.mem_singleton.mp hu, hw] at e
    cases e

/-- The newest routine entry has none but emergency entries behind it, and without a routine entry there is none
(R133). -/
theorem removeNewestWait_spec (l : List WaitEntry) :
    match removeNewestWait l with
    | none => ∀ w ∈ l, w.call.emergency = true
    | some (d, rest) => ∃ ahead behind, newestRoutine ahead d behind l ∧ rest = ahead ++ behind := by
  induction l with
  | nil => exact fun _ hw => absurd hw List.not_mem_nil
  | cons w l ih =>
    unfold removeNewestWait
    cases hl : removeNewestWait l with
    | some found =>
      obtain ⟨d, rest⟩ := found
      simp only [hl] at ih
      obtain ⟨ahead, behind, ⟨whole, routine, later⟩, rfl⟩ := ih
      exact ⟨w :: ahead, behind, ⟨by rw [whole]; rfl, routine, later⟩, rfl⟩
    | none =>
      simp only [hl] at ih
      cases hw : w.isEmergency with
      | true =>
        intro v hv
        rcases List.mem_cons.mp hv with rfl | hv
        · exact hw
        · exact ih v hv
      | false => exact ⟨[], l, ⟨rfl, hw, ih⟩, rfl⟩

/-- The newest routine entry of a list is one alone. -/
theorem removeNewestWait_of_newest {ahead : List WaitEntry} {w : WaitEntry} {behind l : List WaitEntry}
    (h : newestRoutine ahead w behind l) : removeNewestWait l = some (w, ahead ++ behind) := by
  obtain ⟨rfl, routine, later⟩ := h
  have behindNone : removeNewestWait behind = none := by
    have spec := removeNewestWait_spec behind
    cases found : removeNewestWait behind with
    | none => rfl
    | some d =>
      obtain ⟨d, rest⟩ := d
      simp only [found] at spec
      obtain ⟨before, after, ⟨whole, dRoutine, -⟩, -⟩ := spec
      have emergency := later d (by rw [whole]; simp)
      rw [dRoutine] at emergency
      cases emergency
  induction ahead with
  | nil => simp [removeNewestWait, behindNone, WaitEntry.isEmergency, routine]
  | cons v ahead ih =>
    rw [List.cons_append, removeNewestWait, ih]
    rfl

theorem removeNewestWait_of_emergency {l : List WaitEntry} (h : ∀ w ∈ l, w.call.emergency = true) :
    removeNewestWait l = none := by
  have spec := removeNewestWait_spec l
  cases found : removeNewestWait l with
  | none => rfl
  | some d =>
    obtain ⟨d, rest⟩ := d
    simp only [found] at spec
    obtain ⟨ahead, behind, ⟨whole, routine, -⟩, -⟩ := spec
    have emergency := h d (by rw [whole]; simp)
    rw [routine] at emergency
    cases emergency

theorem sublist_of_removeNewestWait {l rest : List WaitEntry} {d : WaitEntry}
    (h : removeNewestWait l = some (d, rest)) : rest.Sublist l ∧ rest.length < l.length := by
  have spec := removeNewestWait_spec l
  simp only [h] at spec
  obtain ⟨ahead, behind, ⟨rfl, -, -⟩, rfl⟩ := spec
  exact ⟨(List.append_sublist_append_left ahead).mpr (List.sublist_cons_self d behind), by simp⟩

/-! ## A channel record on its own -/

/-- A waiting call on a channel record: it joins the list, displaces the newest routine entry, or is turned away
(R133). -/
def Channel.joined (w : WaitEntry) (b : Channel) : Channel :=
  if b.waits.length < Config.waitListCapacity then { b with waits := joinEntry w b.waits }
  else if w.call.emergency then
    match removeNewestWait b.waits with
    | none => b
    | some (_, rest) => { b with waits := joinEntry w rest }
  else b

/-- A preempted remote call on a channel record (R132). -/
def Channel.requeued (w : WaitEntry) (b : Channel) : Channel :=
  if b.waits.length < Config.waitListCapacity then { b with waits := rejoinEntry w b.waits }
  else
    match removeNewestWait b.waits with
    | none => b
    | some (_, rest) => { b with waits := rejoinEntry w rest }

/-- A channel record whose current call is preempted (R132). -/
def Channel.preempted (back : WaitEntry) (b : Channel) : Channel :=
  if back.call.isLocal then { b with lastEnded := some back.call.id } else b.requeued back

/-- A channel record without the entry of a call id. -/
def Channel.without (id : CallId) (b : Channel) : Channel :=
  { b with waits := b.waits.eraseP fun w => w.call.id == id }

/-- A channel record that has decided a call (R130). -/
def State.decidedChannel (s : State) (call : Call) (b : Channel) : Channel :=
  match b.phase with
  | .idle => { b with phase := s.grantedPhase call }
  | .hang g emergency _ =>
    if call.talkgroup = g then { b with phase := s.grantedPhase call }
    else if call.emergency && !emergency then { b with phase := s.grantedPhase call }
    else b.joined (waitEntryOf call s)
  | .active cur _ _ =>
    if call.emergency && !cur.emergency then
      { b.preempted (waitEntryOf { cur with emergency := false } s) with phase := s.grantedPhase call }
    else b.joined (waitEntryOf call s)

/-- A channel record that grants the first entry of a sort that can be granted, of a number of tries, and whether one
was (R137). -/
def State.passedChannel (s : State) (ok : WaitEntry → Bool) : Nat → Channel → Bool × Channel
  | 0, b => (false, b)
  | k + 1, b =>
    match b.waits.find? ok with
    | none => (false, b)
    | some w =>
      if s.mayGrant w then (true, { b.without w.call.id with phase := s.grantedPhase w.call })
      else s.passedChannel ok k (b.without w.call.id)

/-- A channel record that has become IDLE (R137). -/
def State.idleChannel (s : State) (b : Channel) : Channel :=
  (s.passedChannel (fun _ => true) b.waits.length { b with phase := .idle }).2

/-- A channel record whose current call has ended (R136, R137). -/
def State.endedChannel (s : State) (call : Call) (b : Channel) : Channel :=
  let hang := hangTimeOf call.talkgroup s
  let search :=
    s.passedChannel (fun w => w.call.talkgroup == call.talkgroup) b.waits.length
      { b with
        phase := .hang call.talkgroup call.emergency (s.timeBase.toNat + hang)
        lastEnded := some call.id }
  if search.1 then search.2 else if hang = 0 then s.idleChannel search.2 else search.2

/-! ## One channel at a time -/

/-- One channel record becomes `b`; the other channels stay, and so does all that the arbiters leave alone. -/
structure State.setsChannel (s : State) (n : ChannelNo) (b : Channel) (t : State) : Prop where
  channels : ∀ k, t.channel k = if k = n then b else s.channel k
  frame : s.sameButChannels t

/-- What the arbiters read that they leave alone: time, parameters, talkgroups, and who is a member. -/
theorem State.sameButChannels.reads {s t : State} (h : s.sameButChannels t) :
    t.timeBase = s.timeBase ∧ t.active = s.active ∧ t.talkgroups = s.talkgroups := by
  have same := h.1
  unfold State.sameButCalls at same
  rw [same]
  exact ⟨rfl, rfl, rfl⟩

theorem State.sameButChannels.grantedPhase {s t : State} (h : s.sameButChannels t) (call : Call) :
    t.grantedPhase call = s.grantedPhase call := by
  obtain ⟨time, active, talkgroups⟩ := h.reads
  unfold State.grantedPhase talkLimitOf
  rw [time, active, talkgroups]

theorem State.sameButChannels.waitEntryOf {s t : State} (h : s.sameButChannels t) (call : Call) :
    Machine.waitEntryOf call t = Machine.waitEntryOf call s := by
  obtain ⟨time, active, -⟩ := h.reads
  unfold Machine.waitEntryOf State.after
  rw [time, active]

theorem State.sameButChannels.hangTimeOf {s t : State} (h : s.sameButChannels t) (g : TalkgroupId) :
    Machine.hangTimeOf g t = Machine.hangTimeOf g s := by
  obtain ⟨-, -, talkgroups⟩ := h.reads
  unfold Machine.hangTimeOf
  rw [talkgroups]

/-- The record of a unit but for its flags. -/
theorem record_unflagged (s : State) (u : UnitId) :
    (s.record u).map Record.unflagged = (s.units.map Record.unflagged).find? fun r => r.unit == u := by
  rw [List.find?_map]
  rfl

theorem State.sameButChannels.unflagged {s t : State} (h : s.sameButChannels t) (u : UnitId) :
    (t.record u).map Record.unflagged = (s.record u).map Record.unflagged := by
  rw [record_unflagged, record_unflagged, h.2]

theorem State.sameButChannels.grantable {s t : State} (h : s.sameButChannels t) (call : Call) :
    Machine.grantable call t = Machine.grantable call s := by
  obtain ⟨-, -, talkgroups⟩ := h.reads
  have member (v : State) : (v.record call.talker).any (fun r => r.phase.isMember)
      = ((v.record call.talker).map Record.unflagged).any fun r => r.phase.isMember := by
    cases v.record call.talker <;> rfl
  unfold Machine.grantable membersOf
  rw [talkgroups, member t, member s, h.unflagged]

namespace State.setsChannel

variable {s t u : State} {n : ChannelNo} {b c : Channel}

theorem here (h : s.setsChannel n b t) : t.channel n = b := by simpa using h.channels n

theorem other (h : s.setsChannel n b t) {k : ChannelNo} (hk : k ≠ n) : t.channel k = s.channel k := by
  simpa [hk] using h.channels k

theorem refl : s.setsChannel n (s.channel n) s := by
  refine ⟨fun k => ?_, frameOf_channels.refl s⟩
  by_cases hk : k = n
  · simp [hk]
  · simp [hk]

theorem trans (h : s.setsChannel n b t) (h' : t.setsChannel n c u) : s.setsChannel n c u := by
  refine ⟨fun k => ?_, frameOf_channels.trans h.frame h'.frame⟩
  by_cases hk : k = n
  · simp [hk, h'.here]
  · simp [hk, h'.other hk, h.other hk]

/-- A change that moves no channel. -/
theorem elsewhere (h : s.setsChannel n b t) (frame : t.sameButChannels u) (channels : u.channels = t.channels := by rfl) :
    s.setsChannel n b u := by
  refine h.trans ⟨fun k => ?_, frame⟩
  have same : u.channel k = t.channel k := by simp only [State.channel, channels]
  by_cases hk : k = n
  · subst hk
    simp [same, h.here]
  · simp [hk, same]

theorem onIo (h : s.setsChannel n b t) (f : Net → Io → Io) : s.setsChannel n b (t.onIo f) :=
  h.elsewhere (frameOf_channels.io t _)

theorem count (h : s.setsChannel n b t) (c : DevCounter) : s.setsChannel n b (t.count c) :=
  h.elsewhere (frameOf_channels.io t _)

theorem sendAnswer (h : s.setsChannel n b t) (m : ChannelNo) (hdr : Header) :
    s.setsChannel n b (Machine.sendAnswer m hdr t) := h.onIo _

theorem offerCall (h : s.setsChannel n b t) (k : Kind) (call : Call) : s.setsChannel n b (Machine.offerCall k call t) :=
  h.onIo fun c => offerBuilt c (callHeader k call) (remoteSet call.talkgroup t)

theorem deliverCall (h : s.setsChannel n b t) (k : Kind) (m : ChannelNo) (call : Call) :
    s.setsChannel n b (Machine.deliverCall k m call t) := h.onIo _

theorem offerFrame (h : s.setsChannel n b t) (m : ChannelNo) (f : Handle) (call : Call) :
    s.setsChannel n b (Machine.offerFrame m f call t) := h.onIo _

theorem deliverReceived (h : s.setsChannel n b t) (m : ChannelNo) (f : Handle) :
    s.setsChannel n b (Machine.deliverReceived m f t) := h.onIo _

theorem mod (h : s.setsChannel n b t) (f : Channel → Channel) : s.setsChannel n (f b) (modChannel n f t) := by
  refine h.trans ⟨fun k => ?_, rfl, rfl⟩
  rw [channel_modChannel, h.here]

theorem setTalking (h : s.setsChannel n b t) (v : UnitId) (on : Bool) : s.setsChannel n b (Machine.setTalking v on t) :=
  h.elsewhere (CallsRun.setTalking (extra := .none) v on).frame

theorem setLimited (h : s.setsChannel n b t) (v : UnitId) (on : Bool) : s.setsChannel n b (Machine.setLimited v on t) :=
  h.elsewhere (CallsRun.setLimited (extra := .none) v on).frame

theorem endTalking (h : s.setsChannel n b t) (call : Call) : s.setsChannel n b (Machine.endTalking call t) := by
  unfold Machine.endTalking
  split
  · exact h.setTalking _ _
  · exact h

theorem removeWait (h : s.setsChannel n b t) (id : CallId) : s.setsChannel n (b.without id) (Machine.removeWait n id t) :=
  h.mod fun x => { x with waits := x.waits.eraseP fun w => w.call.id == id }

theorem turnAway (h : s.setsChannel n b t) (call : Call) (cause : Byte) :
    s.setsChannel n b (Machine.turnAway n call cause t) := by
  unfold Machine.turnAway
  refine State.setsChannel.count ?_ _
  split
  · exact h.sendAnswer _ _
  · exact h

theorem makeCurrent (h : s.setsChannel n b t) (call : Call) :
    s.setsChannel n { b with phase := s.grantedPhase call } (Machine.makeCurrent n call t) := by
  have current : s.setsChannel n { b with phase := t.grantedPhase call } (setPhase n (t.grantedPhase call) t) :=
    h.mod fun x => { x with phase := t.grantedPhase call }
  rw [← h.frame.grantedPhase call]
  unfold Machine.makeCurrent
  simp only
  split
  · exact current.setTalking _ _
  · exact current

theorem grantArrival (h : s.setsChannel n b t) (call : Call) (src : Arrival) :
    s.setsChannel n { b with phase := s.grantedPhase call } (Machine.grantArrival n call src t) := by
  have current := h.makeCurrent call
  cases src with
  | localStart f => exact ((current.sendAnswer _ _).onIo _).offerFrame _ _ _
  | remoteFrame f => exact current.deliverReceived _ _

theorem grantWaiting (h : s.setsChannel n b t) (call : Call) :
    s.setsChannel n { b with phase := s.grantedPhase call } (Machine.grantWaiting n call t) := by
  unfold Machine.grantWaiting
  have current := h.makeCurrent call
  simp only
  split
  · exact (current.sendAnswer _ _).offerCall _ _
  · exact current.deliverCall _ _ _

theorem joinList (h : s.setsChannel n b t) (call : Call) :
    s.setsChannel n { b with waits := joinEntry (waitEntryOf call s) b.waits } (Machine.joinList n call t) := by
  have joined := h.mod fun x => { x with waits := joinEntry (waitEntryOf call t) x.waits }
  rw [← h.frame.waitEntryOf call]
  unfold Machine.joinList
  simp only
  split
  · exact joined.sendAnswer _ _
  · exact joined

theorem joinWait (h : s.setsChannel n b t) (call : Call) :
    s.setsChannel n (b.joined (waitEntryOf call s)) (Machine.joinWait n call t) := by
  unfold Machine.joinWait Channel.joined
  simp only [h.here, show (waitEntryOf call s).call = call from rfl]
  split
  · exact h.joinList call
  · split
    · cases removeNewestWait b.waits with
      | none => exact h.turnAway _ _
      | some found => exact ((h.mod fun x => { x with waits := found.2 }).turnAway _ _).joinList call
    · exact h.turnAway _ _

theorem requeueRemote (h : s.setsChannel n b t) (call : Call) :
    s.setsChannel n (b.requeued (waitEntryOf { call with emergency := false } s)) (Machine.requeueRemote n call t) := by
  unfold Machine.requeueRemote Channel.requeued
  simp only [h.here, h.frame.waitEntryOf]
  split
  · exact h.mod fun x => { x with waits := rejoinEntry (Machine.waitEntryOf { call with emergency := false } s) x.waits }
  · cases removeNewestWait b.waits with
    | none => exact h.count _
    | some found =>
      exact ((h.mod fun x => { x with waits := found.2 }).turnAway _ _).mod
        fun x => { x with waits := rejoinEntry (Machine.waitEntryOf { call with emergency := false } s) x.waits }

theorem preemptCall (h : s.setsChannel n b t) (call : Call) :
    s.setsChannel n (b.preempted (waitEntryOf { call with emergency := false } s)) (Machine.preemptCall n call t) := by
  unfold Machine.preemptCall Channel.preempted
  simp only [show (waitEntryOf { call with emergency := false } s).call = { call with emergency := false } from rfl]
  split
  · exact (((h.sendAnswer _ _).setTalking _ _).offerCall _ _).mod fun x => { x with lastEnded := some call.id }
  · exact h.requeueRemote call

theorem decideCall (h : s.setsChannel n b t) (call : Call) (src : Arrival) :
    s.setsChannel n (s.decidedChannel call b) (Machine.decideCall n call src t) := by
  unfold Machine.decideCall State.decidedChannel
  rw [h.here]
  cases b.phase with
  | idle => exact h.grantArrival call src
  | hang g emergency d =>
    simp only
    split
    · exact h.grantArrival call src
    · split
      · exact h.grantArrival call src
      · exact h.joinWait call
  | active cur talk gap =>
    simp only
    split
    · exact (h.preemptCall cur).grantArrival call src
    · exact h.joinWait call

theorem grantFrom (h : s.setsChannel n b t) (ok : WaitEntry → Bool) (k : Nat) :
    (Machine.grantFrom n ok k t).1 = (s.passedChannel ok k b).1
      ∧ s.setsChannel n (s.passedChannel ok k b).2 (Machine.grantFrom n ok k t).2 := by
  induction k generalizing b t with
  | zero => exact ⟨rfl, h⟩
  | succ k ih =>
    unfold Machine.grantFrom State.passedChannel
    rw [h.here]
    cases b.waits.find? ok with
    | none => exact ⟨rfl, h⟩
    | some w =>
      have removed := h.removeWait w.call.id
      have may : Machine.grantable w.call (Machine.removeWait n w.call.id t) = s.mayGrant w :=
        removed.frame.grantable w.call
      simp only [may]
      split
      · exact ⟨rfl, removed.grantWaiting w.call⟩
      · exact ih (removed.turnAway _ _)

theorem enterIdle (h : s.setsChannel n b t) : s.setsChannel n (s.idleChannel b) (Machine.enterIdle n t) := by
  have idle : s.setsChannel n { b with phase := .idle } (setPhase n .idle t) := h.mod fun x => { x with phase := .idle }
  unfold Machine.enterIdle State.idleChannel
  simp only [idle.here]
  exact (idle.grantFrom _ _).2

theorem enterHang (h : s.setsChannel n b t) (call : Call) :
    s.setsChannel n (s.endedChannel call b) (Machine.enterHang n call t) := by
  unfold Machine.enterHang State.endedChannel
  have time : t.after (Machine.hangTimeOf call.talkgroup t) = s.timeBase.toNat + Machine.hangTimeOf call.talkgroup s := by
    unfold State.after
    rw [h.frame.hangTimeOf, h.frame.reads.1]
  rw [← h.frame.hangTimeOf call.talkgroup] at *
  simp only
  rw [← time]
  have hang := h.mod fun x =>
    { x with
      phase := .hang call.talkgroup call.emergency (t.after (Machine.hangTimeOf call.talkgroup t))
      lastEnded := some call.id }
  simp only [hang.here]
  obtain ⟨granted, search⟩ := hang.grantFrom (fun w => w.call.talkgroup == call.talkgroup) b.waits.length
  rw [← granted]
  split
  · exact search
  · split
    · exact search.enterIdle
    · exact search

theorem continueCall (h : s.setsChannel n b t) (call : Call) (talk : Timer) :
    s.setsChannel n
      { b with
        phase := .active call (if call.emergency then none else talk) (s.timeBase.toNat + s.active.voiceGap) }
      (Machine.continueCall n call talk t) := by
  have time : t.after t.active.voiceGap = s.timeBase.toNat + s.active.voiceGap := by
    obtain ⟨time, active, -⟩ := h.frame.reads
    unfold State.after
    rw [time, active]
  rw [← time]
  exact h.mod fun x =>
    { x with phase := .active call (if call.emergency then none else talk) (t.after t.active.voiceGap) }

end State.setsChannel

/-! ## The law of one channel (R125, R126) -/

/-- The call ids of a wait list. -/
def idsOf (l : List WaitEntry) : List CallId := l.map fun w => w.call.id

/-- The law of a wait list: its bound, its order, and no call id twice. -/
def waitsOk (l : List WaitEntry) : Prop := l.length ≤ Config.waitListCapacity ∧ emergencyFirst l ∧ (idsOf l).Nodup

theorem Channel.heldIds_eq (b : Channel) : b.heldIds = b.phase.call?.toList.map Call.id ++ idsOf b.waits := rfl

theorem waitsOk.sublist {l l' : List WaitEntry} (h : waitsOk l) (le : l'.Sublist l) : waitsOk l' := by
  obtain ⟨length, order, ids⟩ := h
  exact ⟨le.length_le.trans length, order.sublist le, ids.sublist (le.map _)⟩

theorem Channel.lawful.waits {b : Channel} (h : b.lawful) : waitsOk b.waits := by
  obtain ⟨length, order, ids, -⟩ := h
  exact ⟨length, order, (List.nodup_append.mp ids).2.1⟩

/-- A list with one more entry among its own keeps the law where there was room and the id is new. -/
theorem waitsOk.insert {l l' : List WaitEntry} {w : WaitEntry} (h : waitsOk l) (room : l.length < Config.waitListCapacity)
    (perm : l'.Perm (w :: l)) (order : emergencyFirst l') (new : w.call.id ∉ idsOf l) : waitsOk l' := by
  obtain ⟨-, -, ids⟩ := h
  refine ⟨by rw [perm.length_eq]; exact room, order, ?_⟩
  exact ((perm.map _).nodup_iff).mpr (List.nodup_cons.mpr ⟨new, ids⟩)

/-- A channel that is not IDLE is lawful when its wait list is and its current call does not wait. -/
theorem lawful_of {b : Channel} (waits : waitsOk b.waits) (busy : b.phase ≠ .idle)
    (current : ∀ c, b.phase.call? = some c → c.id ∉ idsOf b.waits) : b.lawful := by
  obtain ⟨length, order, ids⟩ := waits
  refine ⟨length, order, ?_, fun e => absurd e busy⟩
  rw [Channel.heldIds_eq]
  cases held : b.phase.call? with
  | none => exact ids
  | some c => exact List.nodup_cons.mpr ⟨current c held, ids⟩

/-- The current call of a lawful channel does not wait on it. -/
theorem Channel.lawful.current {b : Channel} (h : b.lawful) {c : Call} (held : b.phase.call? = some c) :
    c.id ∉ idsOf b.waits := by
  obtain ⟨-, -, ids, -⟩ := h
  rw [Channel.heldIds_eq, held] at ids
  exact (List.nodup_cons.mp ids).1

theorem lawful_granted {s : State} {b : Channel} {call : Call} (waits : waitsOk b.waits)
    (new : call.id ∉ idsOf b.waits) : ({ b with phase := s.grantedPhase call } : Channel).lawful :=
  lawful_of waits ChannelPhase.noConfusion fun c held => by
    obtain rfl : call = c := Option.some.inj held
    exact new

theorem not_mem_idsOf {b : Channel} {id : CallId} (h : id ∉ b.heldIds) : id ∉ idsOf b.waits := fun hw =>
  h (List.mem_append_right _ hw)

theorem idsOf_sublist {l l' : List WaitEntry} (h : l'.Sublist l) {id : CallId} (new : id ∉ idsOf l) : id ∉ idsOf l' :=
  fun hw => new ((h.map _).subset hw)

/-- The wait list of a channel that a call with a new id has joined: lawful, and of no more ids. -/
theorem joined_waits {b : Channel} {w : WaitEntry} (h : waitsOk b.waits) (new : w.call.id ∉ idsOf b.waits) :
    waitsOk (b.joined w).waits ∧ (b.joined w).phase = b.phase
      ∧ ∀ id ∈ idsOf (b.joined w).waits, id = w.call.id ∨ id ∈ idsOf b.waits := by
  unfold Channel.joined
  have join {l : List WaitEntry} (le : l.Sublist b.waits) (room : l.length < Config.waitListCapacity) :
      waitsOk (joinEntry w l) ∧ ∀ id ∈ idsOf (joinEntry w l), id = w.call.id ∨ id ∈ idsOf b.waits := by
    have ok := h.sublist le
    refine ⟨ok.insert room (perm_joinEntry w l) (emergencyFirst_joinEntry ok.2.1 w) (idsOf_sublist le new), fun id hid => ?_⟩
    rcases List.mem_cons.mp (((perm_joinEntry w l).map _).subset hid) with here | there
    · exact Or.inl here
    · exact Or.inr ((le.map _).subset there)
  split
  · rename_i room
    obtain ⟨ok, ids⟩ := join (List.Sublist.refl _) room
    exact ⟨ok, rfl, ids⟩
  · split
    · cases found : removeNewestWait b.waits with
      | none => exact ⟨h, rfl, fun _ => Or.inr⟩
      | some d =>
        obtain ⟨le, shorter⟩ := sublist_of_removeNewestWait found
        obtain ⟨ok, ids⟩ := join le (shorter.trans_le h.1)
        exact ⟨ok, rfl, ids⟩
    · exact ⟨h, rfl, fun _ => Or.inr⟩

theorem requeued_waits {b : Channel} {w : WaitEntry} (h : waitsOk b.waits) (new : w.call.id ∉ idsOf b.waits) :
    waitsOk (b.requeued w).waits ∧ ∀ id ∈ idsOf (b.requeued w).waits, id = w.call.id ∨ id ∈ idsOf b.waits := by
  unfold Channel.requeued
  have rejoin {l : List WaitEntry} (le : l.Sublist b.waits) (room : l.length < Config.waitListCapacity) :
      waitsOk (rejoinEntry w l) ∧ ∀ id ∈ idsOf (rejoinEntry w l), id = w.call.id ∨ id ∈ idsOf b.waits := by
    have ok := h.sublist le
    refine ⟨ok.insert room (perm_rejoinEntry w l) (emergencyFirst_between ok.2.1 w) (idsOf_sublist le new), fun id hid => ?_⟩
    rcases List.mem_cons.mp (((perm_rejoinEntry w l).map _).subset hid) with here | there
    · exact Or.inl here
    · exact Or.inr ((le.map _).subset there)
  split
  · rename_i room
    exact rejoin (List.Sublist.refl _) room
  · cases found : removeNewestWait b.waits with
    | none => exact ⟨h, fun _ => Or.inr⟩
    | some d =>
      obtain ⟨le, shorter⟩ := sublist_of_removeNewestWait found
      exact rejoin le (shorter.trans_le h.1)

theorem lawful_joined {b : Channel} {w : WaitEntry} (h : b.lawful) (busy : b.phase ≠ .idle)
    (new : w.call.id ∉ b.heldIds) : (b.joined w).lawful := by
  obtain ⟨ok, phase, ids⟩ := joined_waits h.waits (not_mem_idsOf new)
  refine lawful_of ok (phase ▸ busy) fun c held waits => ?_
  rw [phase] at held
  rcases ids _ waits with e | waits
  · refine new (List.mem_append_left _ ?_)
    rw [held, ← e]
    exact List.mem_singleton.mpr rfl
  · exact h.current held waits

/-- A call with a new id is decided within the law (R130). -/
theorem lawful_decided {s : State} {b : Channel} {call : Call} (h : b.lawful) (new : call.id ∉ b.heldIds) :
    (s.decidedChannel call b).lawful := by
  have granted : ({ b with phase := s.grantedPhase call } : Channel).lawful :=
    lawful_granted h.waits (not_mem_idsOf new)
  unfold State.decidedChannel
  cases phase : b.phase with
  | idle => exact granted
  | hang g emergency d =>
    have busy : b.phase ≠ .idle := by simp [phase]
    simp only
    split
    · exact granted
    · split
      · exact granted
      · exact lawful_joined h busy new
  | active cur talk gap =>
    have busy : b.phase ≠ .idle := by simp [phase]
    simp only
    split
    · have held : b.phase.call? = some cur := by rw [phase]; rfl
      have waiting := h.current held
      unfold Channel.preempted
      split
      · exact lawful_granted h.waits (not_mem_idsOf new)
      · obtain ⟨ok, ids⟩ := requeued_waits (w := waitEntryOf { cur with emergency := false } s) h.waits waiting
        refine lawful_granted ok fun mem => ?_
        rcases ids _ mem with e | mem
        · refine new (List.mem_append_left _ ?_)
          rw [held, e]
          exact List.mem_singleton.mpr rfl
        · exact not_mem_idsOf new mem
    · exact lawful_joined h busy new

theorem sublist_without (id : CallId) (b : Channel) : (b.without id).waits.Sublist b.waits := List.eraseP_sublist

/-- An id that stands once in a wait list is not left in it when its entry is taken out. -/
theorem not_mem_without {b : Channel} (h : (idsOf b.waits).Nodup) (id : CallId) : id ∉ idsOf (b.without id).waits := by
  unfold Channel.without
  generalize b.waits = l at h
  induction l with
  | nil => exact List.not_mem_nil
  | cons w l ih =>
    obtain ⟨fresh, rest⟩ := List.nodup_cons.mp h
    by_cases hw : w.call.id = id
    · subst hw
      rw [List.eraseP_cons_of_pos (by simp)]
      exact fresh
    · rw [List.eraseP_cons_of_neg (by simpa using hw)]
      intro mem
      rcases List.mem_cons.mp mem with e | mem
      · exact hw e.symm
      · exact ih rest mem

theorem lawful_without {b : Channel} (h : b.lawful) (id : CallId) : (b.without id).lawful := by
  by_cases idle : b.phase = .idle
  · have none := h.2.2.2 idle
    have same : b.without id = b := by
      unfold Channel.without
      rw [none]
      cases b
      simp_all
    rw [same]
    exact h
  · exact lawful_of (h.waits.sublist (sublist_without id b)) idle fun c held =>
      idsOf_sublist (sublist_without id b) (h.current held)

/-- The entries that are tried are granted in turn within the law, or leave the phase as it was (R137). -/
theorem passedChannel_spec (s : State) (ok : WaitEntry → Bool) (k : Nat) {b : Channel} (h : waitsOk b.waits) :
    ((s.passedChannel ok k b).1 = true → (s.passedChannel ok k b).2.lawful)
      ∧ ((s.passedChannel ok k b).1 = false →
        (s.passedChannel ok k b).2.phase = b.phase ∧ (s.passedChannel ok k b).2.waits.Sublist b.waits) := by
  induction k generalizing b with
  | zero => exact ⟨Bool.noConfusion, fun _ => ⟨rfl, List.Sublist.refl _⟩⟩
  | succ k ih =>
    unfold State.passedChannel
    cases b.waits.find? ok with
    | none => exact ⟨Bool.noConfusion, fun _ => ⟨rfl, List.Sublist.refl _⟩⟩
    | some w =>
      have le := sublist_without w.call.id b
      simp only
      split
      · exact ⟨fun _ => lawful_granted (h.sublist le) (not_mem_without h.2.2 _), Bool.noConfusion⟩
      · obtain ⟨granted, none⟩ := ih (h.sublist le)
        exact ⟨granted, fun e => ⟨(none e).1, (none e).2.trans le⟩⟩

/-- With every entry tried and none granted the list is empty. -/
theorem passedChannel_all (s : State) (k : Nat) {b : Channel} (enough : b.waits.length ≤ k)
    (none : (s.passedChannel (fun _ => true) k b).1 = false) : (s.passedChannel (fun _ => true) k b).2.waits = [] := by
  induction k generalizing b with
  | zero => exact List.length_eq_zero_iff.mp (Nat.le_zero.mp enough)
  | succ k ih =>
    unfold State.passedChannel at none ⊢
    cases waits : b.waits with
    | nil => simpa using waits
    | cons w l =>
      rw [waits] at none
      simp only [List.find?_cons_of_pos] at none ⊢
      split
      · rename_i granted
        rw [if_pos granted] at none
        cases none
      · rename_i refused
        rw [if_neg refused] at none
        refine ih ?_ none
        simp only [Channel.without, waits, List.eraseP_cons_of_pos (p := fun v : WaitEntry => v.call.id == w.call.id)
          (beq_self_eq_true _)]
        rw [waits] at enough
        exact Nat.le_of_succ_le_succ enough

theorem lawful_idle (s : State) {b : Channel} (h : waitsOk b.waits) : (s.idleChannel b).lawful := by
  unfold State.idleChannel
  obtain ⟨granted, none⟩ := passedChannel_spec s (fun _ => true) b.waits.length (b := { b with phase := .idle }) h
  cases tried : (s.passedChannel (fun _ => true) b.waits.length { b with phase := .idle }).1 with
  | true => exact granted tried
  | false =>
    have phase := (none tried).1
    have empty := passedChannel_all s b.waits.length (b := { b with phase := .idle }) le_rfl tried
    generalize (s.passedChannel (fun _ => true) b.waits.length { b with phase := .idle }).2 = c at phase empty
    obtain ⟨ph, waits, last⟩ := c
    simp only at phase empty
    subst phase empty
    exact ⟨Nat.zero_le _, List.Pairwise.nil, List.nodup_nil, fun _ => rfl⟩

theorem lawful_ended (s : State) (call : Call) {b : Channel} (h : waitsOk b.waits) : (s.endedChannel call b).lawful := by
  unfold State.endedChannel
  simp only
  generalize hb : ({ b with
      phase := .hang call.talkgroup call.emergency (s.timeBase.toNat + hangTimeOf call.talkgroup s)
      lastEnded := some call.id } : Channel) = hang
  have waits : hang.waits = b.waits := by rw [← hb]
  have phase : hang.phase.call? = none ∧ hang.phase ≠ .idle := by rw [← hb]; exact ⟨rfl, ChannelPhase.noConfusion⟩
  obtain ⟨granted, none⟩ :=
    passedChannel_spec s (fun w => w.call.talkgroup == call.talkgroup) b.waits.length (waits ▸ h)
  split
  · rename_i e
    exact granted e
  · rename_i e
    obtain ⟨same, le⟩ := none (Bool.not_eq_true _ ▸ e)
    have ok : waitsOk (s.passedChannel (fun w => w.call.talkgroup == call.talkgroup) b.waits.length hang).2.waits :=
      (waits ▸ h).sublist (waits ▸ le)
    split
    · exact lawful_idle s ok
    · refine lawful_of ok (same ▸ phase.2) fun c held => ?_
      rw [same, phase.1] at held
      cases held

/-! ## Call ids (R127) -/

theorem freeCounter_spec (held : List CallId) (own : SiteId) (k : Nat) (c : Byte)
    (some_free : ∃ i, i < k ∧ own * 256 + (c + BitVec.ofNat 8 i).toNat ∉ held) :
    ∃ d, d < k ∧ freeCounter held own k c = c + BitVec.ofNat 8 d
      ∧ own * 256 + (c + BitVec.ofNat 8 d).toNat ∉ held
      ∧ ∀ i, i < d → own * 256 + (c + BitVec.ofNat 8 i).toNat ∈ held := by
  have next (c : Byte) (i : Nat) : c + 1 + BitVec.ofNat 8 i = c + BitVec.ofNat 8 (i + 1) := by
    rw [BitVec.ofNat_add, BitVec.add_assoc, BitVec.add_comm (BitVec.ofNat 8 i)]
    rfl
  induction k generalizing c with
  | zero =>
    obtain ⟨i, hi, -⟩ := some_free
    exact absurd hi (Nat.not_lt_zero i)
  | succ k ih =>
    unfold freeCounter
    by_cases taken : held.contains (own * 256 + c.toNat) = true
    · rw [if_pos taken]
      obtain ⟨i, hi, free⟩ := some_free
      have later : ∃ i, i < k ∧ own * 256 + (c + 1 + BitVec.ofNat 8 i).toNat ∉ held := by
        cases i with
        | zero =>
          refine absurd (List.contains_iff_mem.mp taken) ?_
          simpa using free
        | succ i => exact ⟨i, Nat.lt_of_succ_lt_succ hi, by rw [next]; exact free⟩
      obtain ⟨d, hd, found, free, before⟩ := ih (c + 1) later
      rw [next] at found free
      refine ⟨d + 1, Nat.succ_lt_succ hd, found, free, fun i hi => ?_⟩
      cases i with
      | zero => simpa using List.contains_iff_mem.mp taken
      | succ i => simpa only [next] using before i (Nat.lt_of_succ_lt_succ hi)
    · rw [if_neg taken]
      exact ⟨0, Nat.succ_pos k, by simp, by simpa using taken, fun i hi => absurd hi (Nat.not_lt_zero i)⟩

/-- Six channels hold nine ids each at most. -/
theorem length_heldIds {s : State} (law : s.callLaw) : (heldIds s).length ≤ 54 := by
  have each : ∀ k ∈ s.channels.toList.map (fun b => b.heldIds.length), k ≤ 9 := by
    intro k hk
    obtain ⟨b, hb, rfl⟩ := List.mem_map.mp hk
    obtain ⟨i, hi, rfl⟩ := List.mem_iff_getElem.mp hb
    obtain ⟨length, -⟩ : (s.channels.toList[i]).lawful := by
      simpa [State.channel] using law ⟨i, by simpa using hi⟩
    rw [Channel.heldIds_eq, List.length_append, idsOf, List.length_map, List.length_map]
    have one (c : Option Call) : c.toList.length ≤ 1 := by cases c <;> simp
    exact Nat.add_le_add (one _) length |>.trans (by decide)
  have total := List.sum_le_card_nsmul _ 9 each
  unfold heldIds
  rw [List.length_flatMap]
  simpa using total

/-- The channels of a lawful state hold fewer ids than there are counter values, so one is free. -/
theorem counter_free {s : State} (law : s.callLaw) (own : SiteId) (c : Byte) :
    ∃ i, i < 256 ∧ own * 256 + (c + BitVec.ofNat 8 i).toNat ∉ heldIds s := by
  by_contra all
  have taken (i : Nat) (hi : i < 256) : own * 256 + (c + BitVec.ofNat 8 i).toNat ∈ heldIds s := by
    by_contra free
    exact all ⟨i, hi, free⟩
  have nodup : ((List.range 256).map fun i => own * 256 + (c + BitVec.ofNat 8 i).toNat).Nodup := by
    refine (List.nodup_map_iff_inj_on List.nodup_range).mpr fun i hi j hj e => ?_
    have same : c + BitVec.ofNat 8 i = c + BitVec.ofNat 8 j := BitVec.eq_of_toNat_eq (Nat.add_left_cancel e)
    have values := congrArg BitVec.toNat (add_left_cancel same)
    rwa [BitVec.toNat_ofNat, BitVec.toNat_ofNat, Nat.mod_eq_of_lt (List.mem_range.mp hi),
      Nat.mod_eq_of_lt (List.mem_range.mp hj)] at values
  have le := (nodup.subperm (l₂ := heldIds s) fun id hid => by
    obtain ⟨i, hi, rfl⟩ := List.mem_map.mp hid
    exact taken i (List.mem_range.mp hi)).length_le
  have few := length_heldIds law
  simp only [List.length_map, List.length_range] at le
  omega

/-- R127: the id a local CALL START is given is the first from the counter on that no channel holds, and the counter
goes on behind it. -/
theorem assignCallId_spec {s : State} (law : s.callLaw) :
    (assignCallId s).1 ∉ heldIds s
      ∧ ∃ d, d < 256 ∧ (assignCallId s).1 = s.own * 256 + (s.callCounter + BitVec.ofNat 8 d).toNat
        ∧ (assignCallId s).2 = { s with callCounter := s.callCounter + BitVec.ofNat 8 (d + 1) }
        ∧ ∀ i, i < d → s.own * 256 + (s.callCounter + BitVec.ofNat 8 i).toNat ∈ heldIds s := by
  obtain ⟨d, hd, found, free, before⟩ := freeCounter_spec _ _ 256 s.callCounter (counter_free law s.own s.callCounter)
  unfold assignCallId
  simp only [found]
  refine ⟨free, d, hd, rfl, ?_, before⟩
  rw [BitVec.ofNat_add, ← BitVec.add_assoc]
  rfl

theorem not_held_on {s : State} {id : CallId} (h : id ∉ heldIds s) (n : ChannelNo) : id ∉ (s.channel n).heldIds :=
  fun mem => h (List.mem_flatMap.mpr ⟨s.channel n, by simp [State.channel], mem⟩)

/-! ## Every step (R125, R126) -/

theorem callLaw_of_sets {s t : State} {n : ChannelNo} {b : Channel} (h : s.setsChannel n b t) (ok : b.lawful)
    (law : s.callLaw) : t.callLaw := by
  intro k
  rw [h.channels k]
  split
  · exact ok
  · exact law k

section
variable {s : State} (law : s.callLaw) (n : ChannelNo)
include law

theorem callLaw_decide {t : State} {b : Channel} (h : s.setsChannel n b t) (ok : b.lawful) (call : Call) (src : Arrival)
    (new : call.id ∉ b.heldIds) : (decideCall n call src t).callLaw :=
  callLaw_of_sets (h.decideCall call src) (lawful_decided ok new) law

theorem callLaw_removeWait (id : CallId) : (removeWait n id s).callLaw :=
  callLaw_of_sets (State.setsChannel.refl.removeWait id) (lawful_without (law n) id) law

theorem callLaw_enterHang {t : State} (h : s.setsChannel n (s.channel n) t) (call : Call) :
    (enterHang n call t).callLaw :=
  callLaw_of_sets (h.enterHang call) (lawful_ended s call (law n).waits) law

theorem callLaw_continue {t : State} (h : s.setsChannel n (s.channel n) t) {cur call : Call} {talk : Timer} {gap : Nat}
    (phase : (s.channel n).phase = .active cur talk gap) (same : call.id = cur.id) (talk' : Timer) :
    (continueCall n call talk' t).callLaw := by
  refine callLaw_of_sets (h.continueCall call talk') (lawful_of (law n).waits ChannelPhase.noConfusion ?_) law
  intro c held
  obtain rfl : call = c := Option.some.inj held
  rw [same]
  exact (law n).current (by rw [phase]; rfl)

theorem callLaw_reask (h : Handle) (hdr : Header) {w : WaitEntry} (waits : w ∈ (s.channel n).waits) :
    (reaskStart n h hdr w s).callLaw := by
  unfold reaskStart
  simp only
  split
  · refine callLaw_decide law n (State.setsChannel.refl.removeWait w.call.id) (lawful_without (law n) _) _ _ fun held => ?_
    rcases List.mem_append.mp held with current | waiting
    · cases phase : (s.channel n).phase.call? with
      | none => simp [Channel.without, phase] at current
      | some c =>
        have same : w.call.id = c.id := by simpa [Channel.without, phase, localCall] using current
        refine (law n).current phase ?_
        rw [← same]
        exact List.mem_map_of_mem waits
    · exact not_mem_without (law n).waits.2.2 _ waiting
  · exact law

theorem callLaw_newStart (h : Handle) (hdr : Header) : (newStart n h hdr s).callLaw := by
  obtain ⟨free, d, -, -, given, -⟩ := assignCallId_spec law
  have still : s.setsChannel n (s.channel n) (assignCallId s).2 :=
    State.setsChannel.refl.elsewhere (given ▸ ⟨rfl, rfl⟩) (given ▸ rfl)
  exact callLaw_decide law n still (law n) _ _ (not_held_on free n)

theorem callLaw_takeLocalStart (h : Handle) (hdr : Header) : (takeLocalStart n h hdr s).callLaw := by
  have onChannel (r : Record) : (startOnChannel n h hdr r s).callLaw := by
    unfold startOnChannel
    split
    · exact law
    · split
      · rename_i w found
        exact callLaw_reask law n h hdr (List.mem_of_find?_eq_some found)
      · split
        · exact law
        · exact callLaw_newStart law n h hdr
  unfold takeLocalStart
  split
  · exact law
  · split
    · exact law
    · split
      · exact law
      · split
        · exact law
        · split
          · exact onChannel _
          · exact law

theorem callLaw_takeLocalVoice (h : Handle) (hdr : Header) : (takeLocalVoice n h hdr s).callLaw := by
  unfold takeLocalVoice
  split
  · exact law
  · exact law
  · rename_i cur talk gap phase
    split
    · exact callLaw_continue law n .refl (call := promotedBy hdr cur s) phase rfl talk
    · exact law

theorem callLaw_endLocal {t : State} (h : s.setsChannel n (s.channel n) t) (f : Handle) (hdr : Header) (cleared : Bool) :
    (endLocal n f hdr cleared t).callLaw := by
  have same : t.callLaw := callLaw_of_sets h (law n) law
  have waiting : (endLocal.endWaiting n hdr t cleared).callLaw := by
    unfold endLocal.endWaiting
    split
    · exact callLaw_removeWait same n _
    · split
      · exact same
      · exact same
  unfold endLocal
  split
  · split
    · exact callLaw_enterHang law n ((h.endTalking _).offerFrame _ _ _) _
    · exact waiting
  · exact waiting

theorem callLaw_admitRemote (h : Handle) (hdr : Header) (new : hdr.callId.toNat ∉ (s.channel n).heldIds) :
    (admitRemote n h hdr s).callLaw := by
  unfold admitRemote
  split
  · exact law
  · exact callLaw_decide law n .refl (law n) _ _ new

theorem callLaw_otherVoice (h : Handle) (hdr : Header) (other : ∀ c, (s.channel n).phase.call? = some c → c.id ≠ hdr.callId.toNat) :
    (takeOtherVoice n h hdr s).callLaw := by
  unfold takeOtherVoice
  simp only
  split
  · exact law
  · rename_i unknown
    refine callLaw_admitRemote law n h hdr fun held => ?_
    rcases List.mem_append.mp held with current | waits
    · cases phase : (s.channel n).phase.call? with
      | none => simp [phase] at current
      | some c =>
        refine other c phase ?_
        simpa [phase, eq_comm] using current
    · obtain ⟨w, hw, same⟩ := List.mem_map.mp waits
      refine unknown (Bool.or_eq_true_iff.mpr (Or.inl ?_))
      exact List.find?_isSome.mpr ⟨w, hw, by simpa using same⟩

theorem callLaw_localCopy (h : Handle) (hdr : Header) : (localCopy h hdr s).callLaw := by
  unfold localCopy
  split
  · exact law
  · rename_i g _
    split
    · unfold takeRemoteStart
      simp only
      split
      · exact law
      · rename_i unknown
        refine callLaw_admitRemote law _ h hdr fun held => unknown (Bool.or_eq_true_iff.mpr (Or.inl ?_))
        exact List.contains_iff_mem.mpr held
    · split
      · unfold takeRemoteVoice
        split
        · rename_i phase
          exact callLaw_otherVoice law _ h hdr fun c held => by rw [phase] at held; cases held
        · rename_i phase
          exact callLaw_otherVoice law _ h hdr fun c held => by rw [phase] at held; cases held
        · rename_i cur talk gap phase
          split
          · exact callLaw_continue law _ (State.setsChannel.refl.deliverReceived _ _) (call := promotedBy hdr cur s) phase
              rfl talk
          · rename_i other
            refine callLaw_otherVoice law _ h hdr fun c held => ?_
            rw [phase] at held
            obtain rfl : cur = c := Option.some.inj held
            exact other
      · have ended : (endOther g.channel hdr s).callLaw := by
          unfold endOther
          split
          · exact callLaw_removeWait law _ _
          · exact law
        unfold takeRemoteEnd
        split
        · exact ended
        · exact ended
        · split
          · exact callLaw_enterHang law _ ((State.setsChannel.refl.deliverReceived _ _).endTalking _) _
          · exact ended

theorem callLaw_voiceGap : (voiceGapEnds n s).callLaw := by
  unfold voiceGapEnds
  split
  · exact law
  · exact law
  · rename_i call _ _ _
    split
    · refine callLaw_enterHang law n ?_ _
      split
      · exact (State.setsChannel.refl.setTalking _ _).offerCall _ _
      · exact State.setsChannel.refl.deliverCall _ _ _
    · exact law

theorem callLaw_talkTimer : (talkTimerEnds n s).callLaw := by
  unfold talkTimerEnds
  split
  · exact law
  · exact law
  · rename_i call _ _ _
    split
    · have ended := callLaw_enterHang law n
        (((State.setsChannel.refl.sendAnswer n (answerHeader .dekeyOrder call.talker 0 1#8 call.emergency)).setTalking
          call.talker false).offerCall .callEnd call) call
      unfold sendDekey
      simp only
      generalize enterHang n call _ = t at ended ⊢
      exact ended
    · exact law

theorem callLaw_hangTimer : (hangTimerEnds n s).callLaw := by
  unfold hangTimerEnds
  split
  · exact law
  · exact law
  · split
    · exact callLaw_of_sets State.setsChannel.refl.enterIdle (lawful_idle s (law n).waits) law
    · exact law

theorem callLaw_waitTimer (id : CallId) : (waitTimerEnds n id s).callLaw := by
  unfold waitTimerEnds
  split
  · exact law
  · split
    · have removed := callLaw_removeWait law n id
      simp only
      split
      · exact removed
      · exact removed
    · exact law

end

/-- The channels are as before. -/
theorem channelsKept_frame {family : Family} (h : family ≠ .calls) :
    FrameFor (fun s t : State => t.channels = s.channels) family where
  frame := ⟨fun _ => rfl, fun h h' => h'.trans h, fun _ _ => rfl⟩
  agent _ _ _ _ _ _ _ := rfl
  units _ s t h := by
    unfold State.sameButUnits at h
    rw [h]
  calls e := absurd e h
  links _ s t h := by
    unfold State.sameButLinks at h
    rw [h]
  membership _ s t h := by
    have same := h.1
    unfold State.sameButMembership at same
    rw [same]
  refresh _ _ _ _ := rfl
  talkgroups _ s e _ := by
    unfold takeTalkgroup
    split <;> rfl
  neighbors _ s e := by
    unfold takeNeighbor
    split <;> rfl
  parameters _ s t h := by
    rw [h.1]
  transmission _ _ _ _ := rfl

/-- The law of the arbiters reads no frames, and nothing that any command may change. -/
theorem callLaw_frame : FrameFor (fun s t : State => s.callLaw → t.callLaw) .whole where
  frame := ⟨fun _ => id, fun h h' => h' ∘ h, fun _ _ => id⟩
  agent _ _ _ _ _ _ _ := id
  units e := by rcases e with e | e <;> cases e
  calls e := by cases e
  links e := by cases e
  membership e := by cases e
  refresh e := by cases e
  talkgroups e := by cases e
  neighbors e := by cases e
  parameters e := by cases e
  transmission e := by cases e

theorem callLaw_of_channels {s t : State} (h : t.channels = s.channels) (law : s.callLaw) : t.callLaw := by
  intro n
  rw [show t.channel n = s.channel n by simp only [State.channel, h]]
  exact law n

theorem exec_callLaw {c : Instr} {s t : State} (hreset : occasion c ≠ .reset) (hrestart : occasion c ≠ .restart)
    (h : exec c s = .next t) (law : s.callLaw) : t.callLaw := by
  have next {u : State} (hu : u.callLaw) (eq : (Host.Outcome.next u : Host.Outcome State Fault Refusal) = .next t) :
      t.callLaw := Host.Outcome.next.inj eq ▸ hu
  have heard (n : ChannelNo) (kind : Kind) (run : Handle → Header → List Byte → State → State)
      (hr : ∀ h hdr payload s, s.callLaw → (run h hdr payload s).callLaw) : (takeFromChannel n kind run s).callLaw := by
    refine callLaw_frame.takeHanded s _ _ _ (fun h hdr payload s law => hr _ _ _ _ ?_) law
    have noticed : s.sameButUnits _ := (UnitsRun.unitNotice (extra := .none) n hdr.unit.toNat kind hdr.emergency).frame
    unfold State.sameButUnits at noticed
    exact callLaw_of_channels (by rw [noticed]) law
  have elsewhere (hc : familyOf c ≠ .calls) (hw : familyOf c ≠ .whole) : t.callLaw :=
    callLaw_of_channels ((channelsKept_frame hc).exec rfl hw h) law
  cases c with
  | fullReset | fullResetEnd => exact absurd rfl hreset
  | restartTakesPlace => exact absurd rfl hrestart
  | callStart n => exact next (heard n _ _ fun h hdr _ _ law => callLaw_takeLocalStart law n h hdr) h
  | voice n => exact next (heard n _ _ fun h hdr _ _ law => callLaw_takeLocalVoice law n h hdr) h
  | callEnd n =>
    exact next (heard n _ _ fun h hdr _ _ law =>
      callLaw_endLocal law n (State.setsChannel.refl.setLimited _ _) h hdr _) h
  | forwardTargetSet l =>
    refine next (callLaw_frame.takeHanded s _ _ (fun h hdr _ => fanOut l h hdr) (fun h hdr _ s law => ?_) law) h
    unfold fanOut
    split
    · exact callLaw_localCopy law h hdr
    · exact law
  | waitTimerExpiry n id => exact next (callLaw_waitTimer law n id) h
  | voiceGapExpiry n => exact next (callLaw_voiceGap law n) h
  | talkTimerExpiry n => exact next (callLaw_talkTimer law n) h
  | hangTimerExpiry n => exact next (callLaw_hangTimer law n) h
  | _ => exact elsewhere Family.noConfusion Family.noConfusion

theorem callLaw_initial {s : State} (h : ∀ n, s.channel n = Channel.initial) : s.callLaw := by
  intro n
  rw [h n, ← channel_reset n]
  exact callLaw_reset n

theorem takeRestart_channels (s : State) : (takeRestart s).channels = Vector.replicate 6 Channel.initial := by
  have linked {s t : State} (h : LinksRun .none s t) : t.channels = s.channels := by
    have same := h.frame
    unfold State.sameButLinks at same
    rw [same]
  have seeded := linked (LinksRun.seedAll (s := restartBlocks s))
  unfold takeRestart
  split
  · unfold enterRunning
    generalize seedAll (restartBlocks s) = u at seeded ⊢
    exact (linked (LinksRun.fullRound (s := startRefresh u))).trans seeded
  · exact seeded

theorem step_callLaw {s t : State} (h : step s = .next t) (law : s.callLaw) : t.callLaw :=
  step_keeps_exec (L := State.callLaw) (fun _ _ h => h) (rest_keeps (fun _ _ h => h) fun _ h => h)
    (fun _ _ _ hr hr' h => exec_callLaw hr hr' h)
    (fun s _ => callLaw_initial fun n => by simp [State.channel, takeRestart_channels])
    (fun _ _ => callLaw_reset) h law

end Sys2Proof.Machine

open Sys2Proof Sys2Proof.Machine

/-- Settles O10, by what each operation of the arbiters makes of a channel record. -/
theorem callLawKept : Obligations.CallLawKept := fun _ _ law h => step_callLaw h law
end

section
/-! PROOFS. The local member counts (R112, R113): the talkgroups of the members, listed once for each member, are what
the counts count; an entry report adds one and an exit report takes one away. -/

namespace Sys2Proof.Machine

/-! ## The roll of the members -/

/-- The talkgroups of the records in a member state, one for each. -/
def rollOf (l : List Record) : List TalkgroupId := (l.filter fun r => r.phase.isMember).map Record.talkgroup

/-- Talkgroups in ascending order, with every one of a roll among them and its number there as local member count. -/
def countsRoll (roll : List TalkgroupId) (talkgroups : List TalkgroupEntry) : Prop :=
  (talkgroups.map TalkgroupEntry.id).Pairwise (· < ·)
    ∧ (∀ g ∈ roll, ∃ e ∈ talkgroups, e.id = g)
    ∧ ∀ e ∈ talkgroups, e.members = roll.count e.id

theorem rollOf_append (l l' : List Record) : rollOf (l ++ l') = rollOf l ++ rollOf l' := by simp [rollOf]

theorem rollOf_cons (r : Record) (l : List Record) : rollOf (r :: l) = rollOf [r] ++ rollOf l := rollOf_append [r] l

theorem rollOf_member {r : Record} (h : r.phase.isMember = true) : rollOf [r] = [r.talkgroup] := by simp [rollOf, h]

theorem rollOf_absent {r : Record} (h : r.phase.isMember = false) : rollOf [r] = [] := by simp [rollOf, h]

theorem count_rollOf (g : TalkgroupId) (l : List Record) : (rollOf l).count g = memberCount g l := by
  rw [rollOf, memberCount, List.count, List.countP_map, List.countP_filter]
  refine List.countP_congr fun r _ => ?_
  simp [and_comm]

theorem memberLaw_iff (s : State) : s.memberLaw ↔ countsRoll (rollOf s.units) s.talkgroups := by
  unfold State.memberLaw countsRoll
  simp only [count_rollOf]
  refine and_congr_right fun _ => and_congr_left fun _ => ?_
  simp only [rollOf, List.mem_map, List.mem_filter]
  exact ⟨fun h g ⟨r, ⟨hr, member⟩, same⟩ => same ▸ h r hr member, fun h r hr member => h _ ⟨r, ⟨hr, member⟩, rfl⟩⟩

theorem countsRoll.perm {roll roll' : List TalkgroupId} {l : List TalkgroupEntry} (h : countsRoll roll l)
    (p : roll.Perm roll') : countsRoll roll' l := by
  obtain ⟨order, known, counts⟩ := h
  exact ⟨order, fun g hg => known g (p.mem_iff.mpr hg), fun e he => (counts e he).trans (p.count_eq _)⟩

theorem modTalkgroup_map {α : Type} (g : TalkgroupId) (f : TalkgroupEntry → TalkgroupEntry) (l : List TalkgroupEntry)
    (key : TalkgroupEntry → α) (hf : ∀ e, key (f e) = key e) : (modTalkgroup g f l).map key = l.map key := by
  unfold modTalkgroup
  rw [List.map_map]
  refine List.map_congr_left fun e _ => ?_
  simp only [Function.comp_apply]
  split
  · exact hf e
  · rfl

/-- The local member count of one talkgroup changes as the roll does. -/
theorem countsRoll.mod {roll roll' : List TalkgroupId} {l : List TalkgroupEntry} (h : countsRoll roll l) (g : TalkgroupId)
    (f : Nat → Nat) (known : ∀ x ∈ roll', ∃ e ∈ l, e.id = x) (here : f (roll.count g) = roll'.count g)
    (other : ∀ x, x ≠ g → roll'.count x = roll.count x) :
    countsRoll roll' (modTalkgroup g (fun e => { e with members := f e.members }) l) := by
  obtain ⟨order, -, counts⟩ := h
  refine ⟨?_, fun x hx => ?_, fun e he => ?_⟩
  · rwa [modTalkgroup_map g (fun e => { e with members := f e.members }) l TalkgroupEntry.id fun _ => rfl]
  · obtain ⟨e, he, rfl⟩ := known x hx
    refine ⟨_, List.mem_map_of_mem he, ?_⟩
    split <;> rfl
  · obtain ⟨x, hx, rfl⟩ := List.mem_map.mp he
    by_cases same : x.id = g
    · simp only [same, beq_self_eq_true, if_true]
      rw [counts x hx, same, here]
    · have differ : (x.id == g) = false := by simpa using same
      simp only [differ, Bool.false_eq_true, if_false]
      rw [counts x hx, other _ same]

theorem findTalkgroup_isSome (g : TalkgroupId) (l : List TalkgroupEntry) :
    (findTalkgroup g l).isSome = true ↔ g ∈ l.map TalkgroupEntry.id := by
  simp [findTalkgroup, List.find?_isSome]

theorem findTalkgroup_mem {g : TalkgroupId} {l : List TalkgroupEntry} {e : TalkgroupEntry}
    (h : findTalkgroup g l = some e) : e ∈ l ∧ e.id = g :=
  ⟨List.mem_of_find?_eq_some h, by simpa using List.find?_some h⟩

/-- An entry report of a talkgroup in the table counts one member more on it. -/
theorem countsRoll_memberEntry {s : State} {roll : List TalkgroupId} {g : TalkgroupId} {e : TalkgroupEntry}
    (h : countsRoll roll s.talkgroups) (found : findTalkgroup g s.talkgroups = some e) :
    countsRoll (g :: roll) (memberEntry g s).talkgroups := by
  have counted := h.mod (roll' := g :: roll) g (· + 1)
    (fun x hx => by
      rcases List.mem_cons.mp hx with rfl | hx
      · obtain ⟨mem, id⟩ := findTalkgroup_mem found
        exact ⟨e, mem, id⟩
      · exact h.2.1 x hx)
    (by simp) (fun x hx => by simp [Ne.symm hx])
  unfold memberEntry
  rw [found]
  simp only
  split
  · exact counted
  · exact counted

/-- An exit report of a member's talkgroup counts one member less on it. -/
theorem countsRoll_memberExit {s : State} {roll : List TalkgroupId} {g : TalkgroupId}
    (h : countsRoll (g :: roll) s.talkgroups) : countsRoll roll (memberExit g s).talkgroups := by
  have counted := h.mod (roll' := roll) g (· - 1) (fun x hx => h.2.1 x (List.mem_cons_of_mem g hx)) (by simp)
    (fun x hx => by simp [Ne.symm hx])
  obtain ⟨e, he, hg⟩ := h.2.1 g List.mem_cons_self
  have found : (findTalkgroup g s.talkgroups).isSome := List.find?_isSome.mpr ⟨e, he, by simpa using hg⟩
  obtain ⟨x, hx⟩ := Option.isSome_iff_exists.mp found
  unfold memberExit
  rw [hx]
  simp only
  split
  · exact counted
  · exact counted

theorem exitReport_units (r : Record) (s : State) : (exitReport r s).units = s.units := by
  unfold exitReport memberExit
  split
  · split
    · rfl
    · simp only
      split <;> rfl
  · rfl

theorem memberExit_units (g : TalkgroupId) (s : State) : (memberExit g s).units = s.units := by
  unfold memberExit
  split
  · rfl
  · simp only
    split <;> rfl

theorem memberExit_ids (g : TalkgroupId) (s : State) :
    (memberExit g s).talkgroups.map TalkgroupEntry.id = s.talkgroups.map TalkgroupEntry.id := by
  have counted := modTalkgroup_map g (fun e => { e with members := e.members - 1 }) s.talkgroups TalkgroupEntry.id
    fun _ => rfl
  unfold memberExit
  split
  · rfl
  · simp only
    split
    · exact counted
    · exact counted

theorem memberEntry_units (g : TalkgroupId) (s : State) : (memberEntry g s).units = s.units := by
  unfold memberEntry
  split
  · rfl
  · simp only
    split <;> rfl

theorem countsRoll_exitReport {s : State} {roll : List TalkgroupId} {r : Record}
    (h : countsRoll (rollOf [r] ++ roll) s.talkgroups) : countsRoll roll (exitReport r s).talkgroups := by
  unfold exitReport
  cases member : r.phase.isMember with
  | true =>
    rw [rollOf_member member] at h
    exact countsRoll_memberExit h
  | false =>
    rw [rollOf_absent member] at h
    exact h

/-! ## One record among the others -/

/-- The record of a unit stands between records of other units. -/
theorem units_split {s : State} {u : UnitId} {r : Record} (law : s.unitLaw) (h : s.record u = some r) :
    ∃ a b, s.units = a ++ r :: b ∧ ∀ x ∈ a ++ b, x.unit ≠ u := by
  obtain ⟨-, -, distinct⟩ := law
  have unit := unit_of_record s h
  obtain ⟨a, b, whole⟩ := List.append_of_mem (mem_of_record s h)
  refine ⟨a, b, whole, fun x hx e => ?_⟩
  rw [whole, List.map_append, List.map_cons] at distinct
  have fresh := (List.nodup_cons.mp (List.perm_middle.nodup_iff.mp distinct)).1
  rw [← List.map_append] at fresh
  exact fresh (List.mem_map.mpr ⟨x, hx, e.trans unit.symm⟩)

/-- The roll with one unit's record apart: what it is, and what becomes of it when the record is changed or
removed. -/
theorem roll_split {s : State} {u : UnitId} {r : Record} (law : s.unitLaw) (h : s.record u = some r) :
    ∃ rest, (rollOf s.units).Perm (rollOf [r] ++ rest)
      ∧ (∀ f, (rollOf (modUnit u f s).units).Perm (rollOf [f r] ++ rest))
      ∧ rollOf (removeRecord u s).units = rest := by
  obtain ⟨a, b, whole, others⟩ := units_split law h
  have unit := unit_of_record s h
  have apart (x : Record) : (rollOf (a ++ x :: b)).Perm (rollOf [x] ++ rollOf (a ++ b)) := by
    rw [rollOf_append, rollOf_cons, rollOf_append]
    exact List.perm_append_comm_assoc ..
  have left (l : List Record) (hl : ∀ x ∈ l, x ∈ a ++ b) (f : Record → Record) :
      l.map (fun x => if x.unit == u then f x else x) = l := by
    refine (List.map_congr_left fun x hx => ?_).trans (List.map_id l)
    simp [others x (hl x hx)]
  have kept (l : List Record) (hl : ∀ x ∈ l, x ∈ a ++ b) : l.filter (fun x => x.unit != u) = l :=
    List.filter_eq_self.mpr fun x hx => by simpa using others x (hl x hx)
  refine ⟨rollOf (a ++ b), whole ▸ apart r, fun f => ?_, ?_⟩
  · have mapped : (modUnit u f s).units = a ++ f r :: b := by
      rw [modUnit_units, whole, List.map_append, List.map_cons, left a (fun x => List.mem_append_left b),
        left b (fun x => List.mem_append_right a)]
      simp [unit]
    rw [mapped]
    exact apart (f r)
  · have removed : (removeRecord u s).units = a ++ b := by
      rw [removeRecord_units, whole, List.filter_append, List.filter_cons, kept a (fun x => List.mem_append_left b),
        kept b (fun x => List.mem_append_right a)]
      simp [unit]
    rw [removed]

theorem modUnit_of_none {s : State} {u : UnitId} (h : s.record u = none) (f : Record → Record) : modUnit u f s = s := by
  have none (r : Record) (hr : r ∈ s.units) : (r.unit == u) = false := by
    simpa using List.find?_eq_none.mp h r hr
  unfold modUnit
  rw [show (s.units.map fun r => if r.unit == u then f r else r) = s.units from
    (List.map_congr_left fun r hr => by rw [none r hr]; rfl).trans (List.map_id _)]

/-! ## Steps that keep the counts -/

/-- Traffic that keeps the local member counts exact. -/
structure Tallied (s t : State) : Prop where
  acts : Acts s t
  law : s.unitLaw → s.memberLaw → t.memberLaw

namespace Tallied

variable {s t v : State}

theorem refl : Tallied s s := ⟨.refl s, fun _ => id⟩

theorem trans (h : Tallied s t) (h' : Tallied t v) : Tallied s v :=
  ⟨h.acts.trans h'.acts, fun unit law => h'.law (h.acts.units unit) (h.law unit law)⟩

/-- Neither the records nor the talkgroups move. -/
theorem quiet (acts : Acts s t) (units : t.units = s.units := by rfl) (talkgroups : t.talkgroups = s.talkgroups := by rfl) :
    Tallied s t :=
  ⟨acts, fun _ law => by
    rw [memberLaw_iff] at law ⊢
    rwa [units, talkgroups]⟩

theorem count (c : DevCounter) : Tallied s (s.count c) := quiet (.count s c)

theorem memberLaw_touch {u : UnitId} {f : Record → Record} (unit : s.unitLaw) (law : s.memberLaw)
    (same : ∀ r, s.record u = some r → rollOf [f r] = rollOf [r]) : (modUnit u f s).memberLaw := by
  cases found : s.record u with
  | none => rwa [modUnit_of_none found]
  | some r =>
    obtain ⟨rest, before, after, -⟩ := roll_split unit found
    rw [memberLaw_iff] at law ⊢
    refine (law.perm before).perm ?_
    rw [← same r found]
    exact (after f).symm

/-- A record is changed and stays in its talkgroup's count, or out of the counts. -/
theorem touch {u : UnitId} {f : Record → Record} (acts : Acts s (modUnit u f s))
    (same : ∀ r, s.record u = some r → rollOf [f r] = rollOf [r]) : Tallied s (modUnit u f s) :=
  ⟨acts, fun unit law => memberLaw_touch unit law same⟩

/-- A record that was in no count enters a member state, and its talkgroup counts it. -/
theorem enters {u : UnitId} {f : Record → Record} {r : Record} {g : TalkgroupId} {e : TalkgroupEntry}
    (acts : Acts s (modUnit u f s)) (found : s.record u = some r) (absent : r.phase.isMember = false)
    (member : rollOf [f r] = [g]) (known : findTalkgroup g s.talkgroups = some e) :
    Tallied s (memberEntry g (modUnit u f s)) := by
  refine ⟨acts.trans (.memberEntry _ _), fun unit law => ?_⟩
  obtain ⟨rest, before, after, -⟩ := roll_split unit found
  rw [rollOf_absent absent] at before
  have changed := after f
  rw [member] at changed
  rw [memberLaw_iff] at law ⊢
  rw [memberEntry_units]
  exact (countsRoll_memberEntry (s := modUnit u f s) (law.perm before) known).perm changed.symm

/-- A record's exit report is made, and it leaves the counts; what goes between moves frames alone. -/
theorem leaves {u : UnitId} {f : Record → Record} {r : Record} (before : Acts s v) (units : v.units = s.units)
    (talkgroups : v.talkgroups = (exitReport r s).talkgroups) (acts : Acts v (modUnit u f v))
    (found : s.record u = some r) (absent : rollOf [f r] = []) : Tallied s (modUnit u f v) := by
  refine ⟨before.trans acts, fun unit law => ?_⟩
  have found' : v.record u = some r := by rw [State.record, units]; exact found
  obtain ⟨rest, whole, after, -⟩ := roll_split (before.units unit) found'
  rw [units] at whole
  have changed := after f
  rw [absent] at changed
  rw [memberLaw_iff] at law ⊢
  have counted := countsRoll_exitReport (s := s) (law.perm whole)
  rw [← talkgroups] at counted
  exact counted.perm changed.symm

theorem deleteRecord (u : UnitId) : Tallied s (Machine.deleteRecord u s) := by
  refine ⟨.deleteRecord u s, fun unit law => ?_⟩
  unfold Machine.deleteRecord
  split
  · exact law
  · rename_i r found
    obtain ⟨rest, whole, -, removed⟩ := roll_split unit found
    rw [memberLaw_iff] at law ⊢
    have left : rollOf ((removeRecord u (exitReport r s)).count .recordsDeleted).units = rest := by
      rw [State_count_units, removeRecord_units, exitReport_units]
      exact removed
    rw [left]
    exact countsRoll_exitReport (law.perm whole)

/-! ### Frames -/

theorem sendAccept (n : ChannelNo) (u : UnitId) (g : TalkgroupId) (ch : ChannelNo) :
    Tallied s (Machine.sendAccept n u g ch s) := quiet (.sendAccept _ _ _ _ s)

theorem sendRefuse (n : ChannelNo) (u : UnitId) (cause : Byte) : Tallied s (Machine.sendRefuse n u cause s) :=
  quiet (.sendRefuse _ _ _ s)

theorem sendCancel (u : UnitId) (id : Nat) (reason : Byte) (site : SiteId) :
    Tallied s (Machine.sendCancel u id reason site s) := quiet (.sendCancel _ _ _ _ s)

theorem sendHoRefuse (u : UnitId) (id : Nat) (cause : Byte) (site : SiteId) :
    Tallied s (Machine.sendHoRefuse u id cause site s) := quiet (.sendHoRefuse _ _ _ _ s)

theorem sendHoAccept (u : UnitId) (id : Nat) (ch : ChannelNo) (site : SiteId) :
    Tallied s (Machine.sendHoAccept u id ch site s) := quiet (.sendHoAccept _ _ _ _ s)

theorem sendHoComplete (u : UnitId) (id : Nat) (emergency : Bool) (site : SiteId) :
    Tallied s (Machine.sendHoComplete u id emergency site s) := quiet (.sendHoComplete _ _ _ _ s)

theorem sendClaim (u : UnitId) (emergency : Bool) (site : SiteId) : Tallied s (Machine.sendClaim u emergency site s) :=
  quiet (.sendClaim _ _ _ s)

theorem claimLastSite (g : Registration) (emergency : Bool) : Tallied s (Machine.claimLastSite g emergency s) := by
  unfold Machine.claimLastSite
  split
  · exact refl
  · exact sendClaim _ _ _

/-! ### Records -/

theorem rollOf_phase {r r' : Record} (talkgroup : r'.talkgroup = r.talkgroup)
    (member : r'.phase.isMember = r.phase.isMember) : rollOf [r'] = rollOf [r] := by
  cases h : r.phase.isMember with
  | true => rw [rollOf_member h, rollOf_member (member.trans h), talkgroup]
  | false => rw [rollOf_absent h, rollOf_absent (member.trans h)]

theorem isMember_mapActivity (f : Activity → Activity) (p : Phase) : (p.mapActivity f).isMember = p.isMember := by
  cases p <;> rfl

theorem isMember_withChannel (c : ChannelNo) (p : Phase) : (p.withChannel c).isMember = p.isMember := by
  cases p <;> rfl

theorem startRoamHold (u : UnitId) : Tallied s (Machine.startRoamHold u s) :=
  touch (.startRoamHold u s) fun r _ => rollOf_phase (r := r) rfl rfl

theorem attemptFailed (u : UnitId) : Tallied s (Machine.attemptFailed u s) := (startRoamHold u).trans (count _)

/-- A member goes on as a member on its talkgroup. -/
theorem enterPhase {u : UnitId} {p : Phase} (same : ∀ r, s.record u = some r → r.phase.isMember = p.isMember) :
    Tallied s (Machine.enterPhase u p s) :=
  touch (.enterPhase u p s) fun r found => rollOf_phase rfl (same r found).symm

theorem mapActivity (u : UnitId) (f : State → Record → Activity → Activity) :
    Tallied s (modUnit u (fun r => { r with phase := r.phase.mapActivity (f s r) }) s) :=
  touch (.mapActivity u f s) fun _ _ => rollOf_phase rfl (isMember_mapActivity _ _)

/-! ### The unit notice and registration -/

/-- The record of a unit is `r` but for what its notice has written in it. -/
def notedFor (s : State) (r : Record) : Prop :=
  ∃ x, s.record r.unit = some x ∧ x.phase.isMember = r.phase.isMember ∧ x.talkgroup = r.talkgroup

theorem reviveRecord {r : Record} {g : TalkgroupEntry} (noted : notedFor s r)
    (absent : r.phase.isMember = false) (known : findTalkgroup r.talkgroup s.talkgroups = some g) :
    Tallied s (Machine.reviveRecord r g s) := by
  obtain ⟨x, found, member, talkgroup⟩ := noted
  refine enters (.enterPhase _ _ s) found (member.trans absent) ?_ known
  rw [← talkgroup]
  exact rollOf_member rfl

theorem reviveOrDelete {r : Record} (noted : notedFor s r) (absent : r.phase.isMember = false) :
    Tallied s (Machine.reviveOrDelete r s) := by
  unfold Machine.reviveOrDelete
  split
  · rename_i g known
    exact reviveRecord noted absent known
  · exact deleteRecord _

theorem radioReturned {u : UnitId} {r : Record} (found : s.record u = some r) (member : r.phase.isMember = true)
    (ch : ChannelNo) (ho : Handover) : Tallied s (Machine.radioReturned u ch ho s) :=
  (((enterPhase fun x hx => by
    obtain rfl : r = x := Option.some.inj (found.symm.trans hx)
    exact member).trans (sendCancel _ _ _ _)).trans (startRoamHold u)).trans (count _)

theorem noticeByState {r : Record} (noted : notedFor s r) (n : ChannelNo) (k : Kind) :
    Tallied s (Machine.noticeByState n k r s) := by
  unfold Machine.noticeByState
  cases phase : r.phase with
  | served _ _ _ | proposing _ _ _ =>
    simp only
    split
    · exact refl
    · exact mapActivity r.unit (fun s _ => touchActivity s)
  | departing ch ho sent =>
    simp only
    split
    · obtain ⟨x, found, member, -⟩ := noted
      exact radioReturned found (member.trans (by rw [phase]; rfl)) ch ho
    · exact refl
  | arriving _ | forward _ => exact refl
  | lost _ _ =>
    have absent : r.phase.isMember = false := by rw [phase]; rfl
    simp only
    split
    · unfold reviveByNotice
      split
      · rename_i g known
        exact (reviveRecord noted absent known).trans (sendAccept _ _ _ _)
      · exact deleteRecord _
    · exact refl

theorem setEmergency_kept (s : State) (r : Record) :
    (Machine.setEmergency s r).unit = r.unit ∧ (Machine.setEmergency s r).talkgroup = r.talkgroup
      ∧ (Machine.setEmergency s r).phase.isMember = r.phase.isMember := by
  unfold Machine.setEmergency
  split
  · exact ⟨rfl, rfl, rfl⟩
  · exact ⟨rfl, rfl, isMember_mapActivity _ _⟩

theorem unitNotice (n : ChannelNo) (u : UnitId) (k : Kind) (marker : Bool) :
    Tallied s (Machine.unitNotice n u k marker s) := by
  unfold Machine.unitNotice
  split
  · exact refl
  · rename_i r found
    have unit := unit_of_record s found
    cases marker with
    | true =>
      have marked : Tallied s (modUnit u (Machine.setEmergency s) s) := touch (.setEmergency u s) fun r _ => by
        obtain ⟨-, talkgroup, member⟩ := setEmergency_kept s r
        exact rollOf_phase talkgroup member
      refine marked.trans (noticeByState ⟨Machine.setEmergency s r, ?_, ?_, ?_⟩ n k)
      · rw [unit, record_modUnit s u u _ fun x => (setEmergency_kept s x).1, if_pos rfl, found]
        rfl
      · exact (setEmergency_kept s r).2.2
      · exact (setEmergency_kept s r).2.1
    | false => exact noticeByState ⟨r, unit.symm ▸ found, rfl, rfl⟩ n k

/-! ### A record joins the table -/

theorem reclaimFirst_mem (l : List Record) (b : Option Record) {x : Record} (h : l.foldl reclaimFirst b = some x) :
    x ∈ l ∨ b = some x := by
  induction l generalizing b with
  | nil => exact Or.inr h
  | cons y l ih =>
    rcases ih _ h with mem | first
    · exact Or.inl (List.mem_cons_of_mem y mem)
    · unfold reclaimFirst at first
      split at first
      · exact Or.inl (Option.some.inj first ▸ List.mem_cons_self)
      · split at first
        · exact Or.inl (Option.some.inj first ▸ List.mem_cons_self)
        · exact Or.inr first

theorem mem_of_reclaimCandidate {x : Record} (h : reclaimCandidate s = some x) :
    x ∈ s.units ∧ x.phase.reclaimable = true := by
  rcases reclaimFirst_mem _ _ h with mem | none
  · exact List.mem_filter.mp mem
  · cases none

theorem isMember_of_reclaimable {p : Phase} (h : p.reclaimable = true) : p.isMember = false := by
  cases p with
  | forward _ | lost _ _ => rfl
  | served _ _ _ | proposing _ _ _ | departing _ _ _ | arriving _ => cases h

/-- A slot is free, or is that of a record that is reclaimed and is then free (R51). -/
theorem takeSlot_eq {slot : Nat} (h : Machine.takeSlot s = some (slot, t)) :
    (freeSlot s = some slot ∧ t = s)
      ∨ (freeSlot s = none ∧ ∃ x, reclaimCandidate s = some x ∧ slot = x.slot
        ∧ t = (removeRecord x.unit s).count .recordsReclaimed) := by
  unfold Machine.takeSlot at h
  cases free : freeSlot s with
  | some m =>
    rw [free] at h
    obtain ⟨rfl, rfl⟩ := Prod.mk.inj (Option.some.inj h)
    exact Or.inl ⟨rfl, rfl⟩
  | none =>
    rw [free] at h
    cases candidate : reclaimCandidate s with
    | none =>
      rw [candidate] at h
      cases h
    | some x =>
      rw [candidate] at h
      obtain ⟨rfl, rfl⟩ := Prod.mk.inj (Option.some.inj h)
      exact Or.inr ⟨rfl, x, rfl, rfl, rfl⟩

theorem record_of_mem (law : s.unitLaw) {x : Record} (h : x ∈ s.units) : s.record x.unit = some x := by
  obtain ⟨-, -, distinct⟩ := law
  have found : (s.record x.unit).isSome := List.find?_isSome.mpr ⟨x, h, beq_self_eq_true _⟩
  obtain ⟨y, hy⟩ := Option.isSome_iff_exists.mp found
  rw [hy, List.inj_on_of_nodup_map distinct (mem_of_record s hy) h (unit_of_record s hy)]

theorem freeSlot_free {slot : Nat} (h : freeSlot s = some slot) : ∀ x ∈ s.units, x.slot ≠ slot := by
  intro x hx e
  have none := List.find?_some h
  simp only [Bool.not_eq_true', List.any_eq_false, beq_iff_eq] at none
  exact none x hx e

/-- Where a slot is taken, the roll and the talkgroups stay, and no record has the slot. -/
theorem takeSlot_spec (law : s.unitLaw) {slot : Nat} (h : Machine.takeSlot s = some (slot, t)) :
    (rollOf t.units).Perm (rollOf s.units) ∧ t.talkgroups = s.talkgroups ∧ ∀ x ∈ t.units, x.slot ≠ slot := by
  rcases takeSlot_eq h with ⟨free, rfl⟩ | ⟨-, x, candidate, rfl, rfl⟩
  · exact ⟨List.Perm.refl _, rfl, freeSlot_free free⟩
  · obtain ⟨mem, reclaimable⟩ := mem_of_reclaimCandidate candidate
    obtain ⟨rest, whole, -, removed⟩ := roll_split law (record_of_mem law mem)
    rw [rollOf_absent (isMember_of_reclaimable reclaimable)] at whole
    refine ⟨?_, rfl, fun y hy e => ?_⟩
    · rw [State_count_units, removed]
      exact whole.symm
    · obtain ⟨hy, other⟩ := List.mem_filter.mp hy
      have same := List.inj_on_of_nodup_map (law.1.imp Nat.ne_of_lt) hy mem e
      simp [same] at other

/-- A new record in a slot that was taken for it. -/
theorem inserts {r : Record} {slot : Nat} (slotted : Machine.takeSlot s = some (slot, t)) (here : r.slot = slot)
    (unknown : s.record r.unit = none) (roam : r.roamOk) (absent : r.phase.isMember = false) :
    Tallied s (insertRecord r t) := by
  refine ⟨Acts.takeSlot slotted r here unknown roam, fun unit law => ?_⟩
  obtain ⟨roll, talkgroups, fresh⟩ := takeSlot_spec unit slotted
  have inserted : (rollOf (insertRecord r t).units).Perm (rollOf (r :: t.units)) :=
    (List.Perm.filter _ (Acts.perm_insertKeyed Record.slot r fun x hx => here ▸ fresh x hx)).map _
  rw [rollOf_cons, rollOf_absent absent, List.nil_append] at inserted
  rw [memberLaw_iff] at law ⊢
  rw [insertRecord_talkgroups, talkgroups]
  exact law.perm (inserted.trans roll).symm

/-- A new member in a slot that was taken for it, counted on its talkgroup. -/
theorem joins {r : Record} {slot : Nat} {e : TalkgroupEntry} (slotted : Machine.takeSlot s = some (slot, t))
    (here : r.slot = slot) (unknown : s.record r.unit = none) (roam : r.roamOk) (member : r.phase.isMember = true)
    (known : findTalkgroup r.talkgroup s.talkgroups = some e) :
    Tallied s (memberEntry r.talkgroup (insertRecord r t)) := by
  refine ⟨(Acts.takeSlot slotted r here unknown roam).trans (.memberEntry _ _), fun unit law => ?_⟩
  obtain ⟨roll, talkgroups, fresh⟩ := takeSlot_spec unit slotted
  have inserted : (rollOf (insertRecord r t).units).Perm (rollOf (r :: t.units)) :=
    (List.Perm.filter _ (Acts.perm_insertKeyed Record.slot r fun x hx => here ▸ fresh x hx)).map _
  rw [rollOf_cons, rollOf_member member] at inserted
  rw [memberLaw_iff] at law ⊢
  rw [memberEntry_units]
  have counted := countsRoll_memberEntry (s := insertRecord r t) (roll := rollOf t.units) (g := r.talkgroup) (e := e)
    (by rw [insertRecord_talkgroups, talkgroups]; exact law.perm roll.symm)
    (by rw [insertRecord_talkgroups, talkgroups]; exact known)
  exact counted.perm inserted.symm

theorem registerNew (n : ChannelNo) (g : Registration) (unknown : s.record g.unit = none) :
    Tallied s (Machine.registerNew n g s) := by
  unfold Machine.registerNew
  split
  · exact sendRefuse _ _ _
  · rename_i e known
    split
    · exact sendRefuse _ _ _
    · rename_i slot u slotted
      have joined : Tallied s (memberEntry g.talkgroup (insertRecord (newRecord g slot e.channel u) u)) :=
        joins (r := newRecord g slot e.channel u) slotted rfl unknown (Acts.roamOk_clear _ rfl rfl) rfl known
      exact ((joined.trans (count _)).trans (sendAccept _ _ _ _)).trans (claimLastSite _ _)

/-- A member changes its talkgroup: the old one counts it no more and the new one does. -/
theorem changes {u : UnitId} {f : Record → Record} {r : Record} {g : TalkgroupId} {e : TalkgroupEntry}
    (acts : Acts (memberEntry g (memberExit r.talkgroup s)) (modUnit u f (memberEntry g (memberExit r.talkgroup s))))
    (found : s.record u = some r) (member : r.phase.isMember = true) (changed : rollOf [f r] = [g])
    (known : findTalkgroup g s.talkgroups = some e) :
    Tallied s (modUnit u f (memberEntry g (memberExit r.talkgroup s))) := by
  refine ⟨((Acts.memberExit _ s).trans (.memberEntry _ _)).trans acts, fun unit law => ?_⟩
  have units : (memberEntry g (memberExit r.talkgroup s)).units = s.units := by rw [memberEntry_units, memberExit_units]
  obtain ⟨rest, whole, after, -⟩ := roll_split unit found
  have mapped : (modUnit u f (memberEntry g (memberExit r.talkgroup s))).units = (modUnit u f s).units := by
    rw [modUnit_units, modUnit_units, units]
  rw [rollOf_member member] at whole
  have later := after f
  rw [changed] at later
  rw [memberLaw_iff] at law ⊢
  have exited := countsRoll_memberExit (s := s) (law.perm whole)
  have still : (findTalkgroup g (memberExit r.talkgroup s).talkgroups).isSome = true := by
    rw [findTalkgroup_isSome, memberExit_ids, ← findTalkgroup_isSome, known]
    rfl
  obtain ⟨x, hx⟩ := Option.isSome_iff_exists.mp still
  rw [mapped]
  exact (countsRoll_memberEntry exited hx).perm later.symm

theorem registerServed (n : ChannelNo) (g : Registration) {r : Record} (found : s.record g.unit = some r)
    (member : r.phase.isMember = true) : Tallied s (Machine.registerServed n g r s) := by
  unfold Machine.registerServed
  split
  · exact sendRefuse _ _ _
  · rename_i e known
    split
    · exact (touch (f := g.note) (.touchKeep s _ _ (by intro _; exact ⟨rfl, rfl, rfl, rfl⟩))
        fun x _ => rollOf_phase (r := x) rfl rfl).trans (sendAccept _ _ _ _)
    · refine trans ?_ (sendAccept _ _ _ _)
      refine changes (f := fun r => g.note { r with talkgroup := g.talkgroup, phase := r.phase.withChannel e.channel })
        (.touchKeep _ _ _ (by intro _; exact ⟨rfl, rfl, rfl, rfl⟩)) found member (rollOf_member ?_) known
      exact (isMember_withChannel e.channel r.phase).trans member

theorem enterServed {g : Registration} {talkgroup : TalkgroupId} {r : Record} {e : TalkgroupEntry} (ch : ChannelNo)
    (found : s.record g.unit = some r) (absent : r.phase.isMember = false)
    (known : findTalkgroup talkgroup s.talkgroups = some e) :
    Tallied s (memberEntry talkgroup (Machine.enterServed g talkgroup ch s)) :=
  enters (.enterServed g talkgroup ch s) found absent (rollOf_member rfl) known

theorem registerForward (n : ChannelNo) (g : Registration) {r : Record} (ho : Handover)
    (found : s.record g.unit = some r) (absent : r.phase.isMember = false) :
    Tallied s (Machine.registerForward n g r ho s) := by
  unfold Machine.registerForward
  split
  · exact sendRefuse _ _ _
  · rename_i e known
    exact ((enterServed _ found absent known).trans (sendAccept _ _ _ _)).trans (sendClaim _ _ _)

theorem registerArriving (n : ChannelNo) (g : Registration) {r : Record} (ho : Handover)
    (found : s.record g.unit = some r) (absent : r.phase.isMember = false) :
    Tallied s (Machine.registerArriving n g r ho s) := by
  unfold Machine.registerArriving
  split
  · exact sendRefuse _ _ _
  · rename_i e chosen
    have known : findTalkgroup e.id s.talkgroups = some e := by
      unfold chosenTalkgroup at chosen
      rcases Option.or_eq_some_iff.mp chosen with first | ⟨-, second⟩
      · rw [(findTalkgroup_mem first).2]
        exact first
      · rw [(findTalkgroup_mem second).2]
        exact second
    exact (((enterServed _ found absent known).trans (sendAccept _ _ _ _)).trans (sendHoComplete _ _ _ _)).trans
      (startRoamHold _)

/-- The record that a revival leaves is a member's. -/
theorem revived_isMember {r x : Record} (found : s.record r.unit = some r)
    (h : (Machine.reviveOrDelete r s).record r.unit = some x) : x.phase.isMember = true := by
  unfold Machine.reviveOrDelete at h
  split at h
  · rename_i g known
    unfold Machine.reviveRecord at h
    rw [State.record, memberEntry_units, ← State.record, enterPhase_record, if_pos rfl, found] at h
    obtain rfl := Option.some.inj h
    rfl
  · unfold Machine.deleteRecord at h
    rw [found] at h
    have gone := removeRecord_record r.unit r.unit (exitReport r s)
    rw [if_pos rfl] at gone
    cases gone.symm.trans h

theorem registerRevived (n : ChannelNo) (g : Registration)
    (member : ∀ x, s.record g.unit = some x → x.phase.isMember = true) : Tallied s (Machine.registerRevived n g s) := by
  unfold Machine.registerRevived
  split
  · rename_i x found
    exact registerServed n g found (member x found)
  · rename_i unknown
    exact registerNew n g unknown

theorem registerByState (n : ChannelNo) (g : Registration) : Tallied s (Machine.registerByState n g s) := by
  unfold Machine.registerByState
  split
  · rename_i unknown
    exact registerNew n g unknown
  · rename_i r found
    have unit := unit_of_record s found
    cases phase : r.phase with
    | served _ _ _ | proposing _ _ _ | departing _ _ _ => exact registerServed n g found (by rw [phase]; rfl)
    | arriving ho => exact registerArriving n g ho found (by rw [phase]; rfl)
    | forward ho => exact registerForward n g ho found (by rw [phase]; rfl)
    | lost _ _ =>
      have absent : r.phase.isMember = false := by rw [phase]; rfl
      exact (reviveOrDelete ⟨r, unit.symm ▸ found, rfl, rfl⟩ absent).trans
        (registerRevived n g fun x hx => revived_isMember (unit.symm ▸ found) (unit ▸ hx))

/-! ### Presence and messages -/

theorem activityExpiry (u : UnitId) : Tallied s (Machine.activityExpiry u s) := by
  unfold Machine.activityExpiry
  split
  · exact refl
  · split
    · exact refl
    · split
      · exact mapActivity u expireActivity
      · exact refl

theorem sendPoll (ch : ChannelNo) (r : Record) : Tallied s (Machine.sendPoll ch r s) := by
  refine ⟨.sendPoll ch r s, fun unit law => ?_⟩
  unfold Machine.sendPoll
  split
  · rename_i h io _
    exact memberLaw_touch
      (s := { s with io := dropReference s.net h (deliver s.net ch (pollHeader r).frameClass h io) }) unit law
      fun x _ => rollOf_phase rfl (isMember_mapActivity _ x.phase)
  · rename_i io _
    exact memberLaw_touch (s := { s with io := io }) unit law fun x _ => rollOf_phase rfl (isMember_mapActivity _ x.phase)

theorem pollExpiry (u : UnitId) : Tallied s (Machine.pollExpiry u s) := by
  unfold Machine.pollExpiry
  split
  · exact refl
  · split
    · split
      · exact sendPoll _ _
      · exact refl
    all_goals exact refl

/-- A record enters a state that is no member's, its exit report made before. -/
theorem exits {u : UnitId} {r : Record} {p : Phase} (found : s.record u = some r) (absent : p.isMember = false) :
    Tallied s (Machine.enterPhase u p (exitReport r s)) :=
  leaves (.exitReport r s) (exitReport_units r s) rfl (.enterPhase _ _ _) found (rollOf_absent absent)

theorem goLost {r : Record} (found : s.record r.unit = some r) (ch : ChannelNo) : Tallied s (Machine.goLost r ch s) := by
  have lost := (exits (p := .lost ch ((exitReport r s).after ((exitReport r s).active.lostHold * 1000))) found rfl).trans
    (count .unitsLost)
  refine ⟨.goLost r ch s, fun unit law => ?_⟩
  unfold Machine.goLost
  simp only
  split
  · exact lost.law unit law
  · exact lost.law unit law

theorem pollWaitExpiry (u : UnitId) : Tallied s (Machine.pollWaitExpiry u s) := by
  unfold Machine.pollWaitExpiry
  split
  · exact refl
  · rename_i r found
    have unit := unit_of_record s found
    split
    · split
      · unfold Machine.missPoll
        split
        · exact goLost (unit.symm ▸ found) _
        · exact mapActivity r.unit fun s _ a => restartPoll s { a with outstanding := none, misses := a.misses + 1 }
      · exact refl
    all_goals exact refl

theorem pollReplyByState (u : UnitId) : Tallied s (Machine.pollReplyByState u s) := by
  unfold Machine.pollReplyByState
  split
  · exact count _
  · exact mapActivity u fun s _ => answerPoll s

theorem lostExpiry (u : UnitId) : Tallied s (Machine.lostExpiry u s) := by
  unfold Machine.lostExpiry
  split
  · exact refl
  · split
    · split
      · exact deleteRecord _
      · exact refl
    all_goals exact refl

theorem takeUnitMessage (l : LinkNo) (h : Handle) (hdr : Header) : Tallied s (Machine.takeUnitMessage l h hdr s) := by
  refine ⟨.takeUnitMessage l h hdr s, fun _ law => ?_⟩
  unfold Machine.takeUnitMessage
  simp only
  split
  · exact law
  · exact law
  · exact law

/-! ### The Roam Selector -/

/-- The members stay members when one of them enters another member state. -/
theorem memberLaw_enterPhase {u : UnitId} {p : Phase} (unit : s.unitLaw) (law : s.memberLaw)
    (same : ∀ r, s.record u = some r → r.phase.isMember = p.isMember) : (Machine.enterPhase u p s).memberLaw :=
  memberLaw_touch unit law fun r found => rollOf_phase rfl (same r found).symm

theorem takeTrigger {r : Record} (found : s.record r.unit = some r) (member : r.phase.isMember = true) (ch : ChannelNo)
    (a : Activity) (target : SiteId) : Tallied s (Machine.takeTrigger r ch a target s) := by
  refine ⟨.takeTrigger r ch a target s, fun unit law => ?_⟩
  unfold Machine.takeTrigger
  simp only
  split
  · rename_i io _
    exact (startRoamHold (s := { s with io := io }) r.unit).law unit law
  · rename_i h io _
    refine memberLaw_enterPhase (s := { s with io := io, handoverCounter := nextHandoverId s.handoverCounter }) unit law ?_
    intro x hx
    obtain rfl : r = x := Option.some.inj (found.symm.trans hx)
    exact member

theorem triggerRoam (u : UnitId) : Tallied s (Machine.triggerRoam u s) := by
  unfold Machine.triggerRoam
  split
  · exact refl
  · rename_i r found
    have unit := unit_of_record s found
    split
    · rename_i phase _
      exact takeTrigger (unit.symm ▸ found) (by rw [phase]; rfl) _ _ _
    all_goals exact refl

theorem measureByState (u : UnitId) (payload : List Byte) : Tallied s (Machine.measureByState u payload s) := by
  unfold Machine.measureByState
  split
  · exact count _
  · split
    · exact (touch (.learn u payload s) fun r _ => rollOf_phase (r := r) rfl rfl).trans (triggerRoam u)
    · exact refl

theorem roamHoldEnds (u : UnitId) : Tallied s (Machine.roamHoldEnds u s) := by
  refine ⟨.roamHoldEnds u s, fun unit law => ?_⟩
  unfold Machine.roamHoldEnds
  split
  · exact law
  · split
    · exact memberLaw_touch unit law fun r _ => rollOf_phase (r := r) rfl rfl
    · exact law

/-! ### The Handover Controller -/

theorem enterForward {r : Record} (found : s.record r.unit = some r) (partner : SiteId) (id : Nat) :
    Tallied s (Machine.enterForward r partner id s) :=
  leaves (.exitReport r s) (exitReport_units r s) rfl (.setForward _ _ _ _) found (rollOf_absent rfl)

theorem claimHandover {r : Record} (found : s.record r.unit = some r) (ho : Handover) (claimant : SiteId) :
    Tallied s (Machine.claimHandover r ho claimant s) :=
  leaves (v := Machine.sendCancel r.unit ho.id 6#8 ho.partner (exitReport r s))
    ((Acts.exitReport r s).trans (.sendCancel _ _ _ _ _)) (exitReport_units r s) rfl (.setForward _ _ _ _) found
    (rollOf_absent rfl)

section
variable {r : Record} (found : s.record r.unit = some r)
include found

/-- A record found in a member state enters another. -/
theorem stays {p : Phase} (was : r.phase.isMember = true) (is : p.isMember = true) :
    Tallied s (Machine.enterPhase r.unit p s) :=
  enterPhase fun x hx => by
    obtain rfl : r = x := Option.some.inj (found.symm.trans hx)
    exact was.trans is.symm

theorem acceptProposing (m : HoMessage) (was : r.phase.isMember = true) (ch : ChannelNo) (a : Activity) (ho : Handover) :
    Tallied s (Machine.acceptProposing m r ch a ho s) := by
  unfold Machine.acceptProposing
  split
  · have cancelled : Tallied s (Machine.sendCancel r.unit ho.id 3#8 ho.partner s) := sendCancel _ _ _ _
    exact (cancelled.trans
      (stays (p := .served ch a none) (s := Machine.sendCancel r.unit ho.id 3#8 ho.partner s) found was rfl)).trans
      (attemptFailed _)
  · have ordered : Tallied s (Machine.sendRoamOrder ch r m.channel ho s) := quiet (.sendRoamOrder _ _ _ _ s)
    exact ordered.trans (stays (s := Machine.sendRoamOrder ch r m.channel ho s) found was rfl)

end

theorem acceptLate (m : HoMessage) : Tallied s (Machine.acceptLate m s) := (sendCancel _ _ _ _).trans (count _)

theorem takeAccept (m : HoMessage) : Tallied s (Machine.takeAccept m s) := by
  unfold Machine.takeAccept
  split
  · exact acceptLate _
  · rename_i r found
    have found : s.record r.unit = some r := (unit_of_record s found).symm ▸ found
    split
    · rename_i phase
      split
      · exact acceptProposing found m (by rw [phase]; rfl) _ _ _
      · exact acceptLate _
    · split
      · exact count _
      · exact acceptLate _
    all_goals exact acceptLate _

theorem takeRefuse (m : HoMessage) : Tallied s (Machine.takeRefuse m s) := by
  unfold Machine.takeRefuse
  split
  · exact count _
  · rename_i r found
    have found : s.record r.unit = some r := (unit_of_record s found).symm ▸ found
    split
    · rename_i phase
      split
      · exact (stays found (by rw [phase]; rfl) rfl).trans (attemptFailed _)
      · exact count _
    all_goals exact count _

theorem takeComplete (m : HoMessage) : Tallied s (Machine.takeComplete m s) := by
  unfold Machine.takeComplete
  split
  · exact count _
  · rename_i r found
    have found : s.record r.unit = some r := (unit_of_record s found).symm ▸ found
    split
    · split
      · exact (enterForward found _ _).trans (count _)
      · exact count _
    · split
      · split
        · exact (enterForward found _ _).trans (count _)
        · exact count _
      · exact count _
    all_goals exact count _

theorem takeCancel (m : HoMessage) : Tallied s (Machine.takeCancel m s) := by
  unfold Machine.takeCancel
  split
  · exact count _
  · rename_i r found
    have found : s.record r.unit = some r := (unit_of_record s found).symm ▸ found
    split
    · rename_i phase
      split
      · exact (stays found (by rw [phase]; rfl) rfl).trans (attemptFailed _)
      · exact count _
    · rename_i phase
      split
      · exact (stays found (by rw [phase]; rfl) rfl).trans (attemptFailed _)
      · exact count _
    · split
      · exact deleteRecord _
      · exact count _
    all_goals exact count _

/-- A record that is in no count becomes ARRIVING. -/
theorem setArriving {m : HoMessage} {r : Record} (found : s.record m.unit = some r) (absent : r.phase.isMember = false)
    (keep : Bool) : Tallied s (Machine.setArriving m keep s) :=
  touch (.setArriving m keep s) fun x hx => by
    obtain rfl : r = x := Option.some.inj (found.symm.trans hx)
    rw [rollOf_absent absent]
    exact rollOf_absent rfl

theorem requestByState (m : HoMessage) (g : TalkgroupEntry) : Tallied s (Machine.requestByState m g s) := by
  unfold Machine.requestByState
  split
  · rename_i unknown
    unfold Machine.requestNew
    split
    · exact sendHoRefuse _ _ _ _
    · rename_i slot u slotted
      have inserted : Tallied s (insertRecord (arrivingRecord m slot u) u) :=
        inserts slotted rfl unknown (Acts.roamOk_clear _ rfl rfl) rfl
      exact (inserted.trans (count _)).trans (sendHoAccept _ _ _ _)
  · rename_i r found
    cases phase : r.phase with
    | served _ _ _ | proposing _ _ _ | departing _ _ _ => exact sendHoRefuse _ _ _ _
    | arriving ho =>
      have absent : r.phase.isMember = false := by rw [phase]; rfl
      simp only
      split
      · exact (setArriving found absent true).trans (sendHoAccept _ _ _ _)
      · have cancelled : Tallied s (Machine.sendCancel m.unit ho.id 5#8 ho.partner s) := sendCancel _ _ _ _
        exact (cancelled.trans
          (setArriving (s := Machine.sendCancel m.unit ho.id 5#8 ho.partner s) found absent false)).trans (sendHoAccept _ _ _ _)
    | forward _ | lost _ _ =>
      exact (setArriving found (by rw [phase]; rfl) false).trans (sendHoAccept _ _ _ _)

theorem takeRequest (m : HoMessage) : Tallied s (Machine.takeRequest m s) := by
  unfold Machine.takeRequest
  split
  · exact sendHoRefuse _ _ _ _
  · split
    · exact sendHoRefuse _ _ _ _
    · exact requestByState _ _

theorem takeClaim (m : HoMessage) : Tallied s (Machine.takeClaim m s) := by
  unfold Machine.takeClaim
  refine (count .claimsReceived).trans ?_
  simp only
  generalize s.count .claimsReceived = t
  split
  · exact count _
  · rename_i r found
    have found : t.record r.unit = some r := (unit_of_record t found).symm ▸ found
    cases phase : r.phase with
    | served _ _ _ | lost _ _ | arriving _ => exact enterForward found _ _
    | proposing _ _ ho | departing _ ho _ => exact claimHandover found _ _
    | forward _ =>
      refine enterPhase fun x hx => ?_
      obtain rfl : r = x := Option.some.inj (found.symm.trans hx)
      rw [phase]
      rfl

theorem unlessOwn (m : HoMessage) (f : State → State) (hf : Tallied s (f s)) : Tallied s (Machine.unlessOwn m f s) := by
  unfold Machine.unlessOwn
  split
  · exact count _
  · exact hf

theorem replyWaitEnds (u : UnitId) : Tallied s (Machine.replyWaitEnds u s) := by
  unfold Machine.replyWaitEnds
  split
  · exact refl
  · rename_i r found
    obtain rfl := unit_of_record s found
    split
    · rename_i phase
      split
      · exact (stays found (by rw [phase]; rfl) rfl).trans (attemptFailed _)
      · exact refl
    all_goals exact refl

theorem departureEnds (u : UnitId) : Tallied s (Machine.departureEnds u s) := by
  unfold Machine.departureEnds
  split
  · exact refl
  · rename_i r found
    obtain rfl := unit_of_record s found
    split
    · rename_i phase
      split
      · exact ((stays found (by rw [phase]; rfl) rfl).trans (sendCancel _ _ _ _)).trans (attemptFailed _)
      · exact refl
    all_goals exact refl

theorem arrivalEnds (u : UnitId) : Tallied s (Machine.arrivalEnds u s) := by
  unfold Machine.arrivalEnds
  split
  · exact refl
  · split
    · split
      · exact deleteRecord _
      · exact refl
    all_goals exact refl

theorem forwardHoldEnds (u : UnitId) : Tallied s (Machine.forwardHoldEnds u s) := by
  unfold Machine.forwardHoldEnds
  split
  · exact refl
  · split
    · split
      · exact deleteRecord _
      · exact refl
    all_goals exact refl

theorem clearRecord (r : Record) : Tallied s (Machine.clearRecord r s) := by
  unfold Machine.clearRecord
  cases r.phase with
  | proposing _ _ _ | departing _ _ _ | arriving _ => exact (sendCancel _ _ _ _).trans (deleteRecord _)
  | served _ _ _ | forward _ | lost _ _ => exact deleteRecord _

theorem clearEmergency (u : UnitId) : Tallied s (modUnit u (clearFlag s) s) :=
  touch (.clearEmergency u s) fun r _ => by
    unfold clearFlag
    split
    · exact rollOf_phase rfl (isMember_mapActivity _ _)
    · rfl

end Tallied

/-! ## Every step (R112, R113) -/

/-- The roll of the members, and each talkgroup's id and count, are as before. -/
def State.sameCounts (s t : State) : Prop :=
  rollOf t.units = rollOf s.units
    ∧ t.talkgroups.map (fun e => (e.id, e.members)) = s.talkgroups.map fun e => (e.id, e.members)

theorem State.sameCounts.memberLaw {s t : State} (h : s.sameCounts t) (law : s.memberLaw) : t.memberLaw := by
  obtain ⟨roll, talkgroups⟩ := h
  have ids : t.talkgroups.map TalkgroupEntry.id = s.talkgroups.map TalkgroupEntry.id := by
    simpa [Function.comp_def] using congrArg (List.map Prod.fst) talkgroups
  rw [memberLaw_iff] at law ⊢
  obtain ⟨order, known, counts⟩ := law
  refine ⟨ids ▸ order, fun g hg => ?_, fun e he => ?_⟩
  · obtain ⟨e, he, rfl⟩ := known g (roll ▸ hg)
    have mem : e.id ∈ t.talkgroups.map TalkgroupEntry.id := ids ▸ List.mem_map_of_mem he
    obtain ⟨x, hx, same⟩ := List.mem_map.mp mem
    exact ⟨x, hx, same⟩
  · have mem : (e.id, e.members) ∈ s.talkgroups.map fun e => (e.id, e.members) :=
      talkgroups ▸ List.mem_map_of_mem (f := fun e : TalkgroupEntry => (e.id, e.members)) he
    obtain ⟨x, hx, same⟩ := List.mem_map.mp mem
    obtain ⟨id, members⟩ := Prod.mk.inj same
    rw [← members, ← id, roll]
    exact counts x hx

theorem counts_of_unplaced {l l' : List TalkgroupEntry}
    (h : l'.map TalkgroupEntry.unplaced = l.map TalkgroupEntry.unplaced) :
    l'.map (fun e => (e.id, e.members)) = l.map fun e => (e.id, e.members) := by
  simpa [TalkgroupEntry.unplaced, Function.comp_def] using
    congrArg (List.map fun e : TalkgroupEntry => (e.id, e.members)) h

theorem rollOf_map {f : Record → Record} (h : ∀ r, rollOf [f r] = rollOf [r]) (l : List Record) :
    rollOf (l.map f) = rollOf l := by
  induction l with
  | nil => rfl
  | cons r l ih => rw [List.map_cons, rollOf_cons, rollOf_cons r l, h r, ih]

theorem rollOf_of_unflagged {l l' : List Record} (h : l'.map Record.unflagged = l.map Record.unflagged) :
    rollOf l' = rollOf l := by
  have same (r : Record) : rollOf [r.unflagged] = rollOf [r] := Tallied.rollOf_phase (r := r) rfl rfl
  rw [← rollOf_map same l', h, rollOf_map same]

theorem rollOf_orderCompleted (u : UnitId) (id : Nat) (r : Record) : rollOf [orderCompleted u id r] = rollOf [r] := by
  unfold orderCompleted
  split
  · cases phase : r.phase with
    | departing _ _ _ => exact Tallied.rollOf_phase rfl (by rw [phase]; rfl)
    | served _ _ _ | proposing _ _ _ | arriving _ | forward _ | lost _ _ => rfl
  · rfl

theorem sameCounts_frame {family : Family} (hu : family ≠ .units) (hc : family ≠ .calls) (ht : family ≠ .talkgroups) :
    FrameFor State.sameCounts family where
  frame := ⟨fun _ => ⟨rfl, rfl⟩, fun h h' => ⟨h'.1.trans h.1, h'.2.trans h.2⟩, fun _ _ => ⟨rfl, rfl⟩⟩
  agent _ _ _ _ _ _ _ := ⟨rfl, rfl⟩
  units e := (e.elim hu hc).elim
  calls e := absurd e hc
  links _ s t h := by
    unfold State.sameButLinks at h
    rw [h]
    exact ⟨rfl, rfl⟩
  membership _ s t h := by
    refine ⟨?_, counts_of_unplaced h.2⟩
    have same := h.1
    unfold State.sameButMembership at same
    rw [same]
  refresh _ _ _ _ := ⟨rfl, rfl⟩
  talkgroups e := absurd e ht
  neighbors _ s e := by
    unfold takeNeighbor
    split
    · refine ⟨?_, rfl⟩
      unfold removeNeighbor
      simp only
      split
      · exact rollOf_map (f := freeSlotsOf (byteAt e 0).toNat) (fun r => Tallied.rollOf_phase (r := r) rfl rfl) _
      · rfl
    · exact ⟨rfl, rfl⟩
  parameters _ s t h := by
    refine ⟨?_, counts_of_unplaced h.2⟩
    rw [h.1]
  transmission _ s u id := ⟨rollOf_map (rollOf_orderCompleted u id) s.units, rfl⟩

/-! ### Loads -/

theorem count_of_unknown {roll : List TalkgroupId} {l : List TalkgroupEntry} (h : countsRoll roll l) {g : TalkgroupId}
    (unknown : findTalkgroup g l = none) : roll.count g = 0 := by
  refine List.count_eq_zero.mpr fun hg => ?_
  obtain ⟨e, he, same⟩ := h.2.1 g hg
  exact List.find?_eq_none.mp unknown e he (by simpa using same)

/-- A talkgroup that is removed has no members. -/
theorem countsRoll_filter {roll : List TalkgroupId} {l : List TalkgroupEntry} (h : countsRoll roll l) {g : TalkgroupId}
    (unused : roll.count g = 0) : countsRoll roll (l.filter fun e => e.id != g) := by
  obtain ⟨order, known, counts⟩ := h
  refine ⟨order.sublist (List.filter_sublist.map _), fun x hx => ?_, fun e he => counts e (List.mem_of_mem_filter he)⟩
  obtain ⟨e, he, rfl⟩ := known x hx
  refine ⟨e, List.mem_filter.mpr ⟨he, ?_⟩, rfl⟩
  by_contra same
  have here : e.id = g := by simpa using same
  exact List.count_eq_zero.mp unused (here ▸ hx)

theorem key_mem_insertKeyed {α : Type} (key : α → Nat) (x : α) {l : List α} {y : α} (h : y ∈ l) :
    ∃ z ∈ insertKeyed key x l, key z = key y := by
  induction l with
  | nil => cases h
  | cons w l ih =>
    unfold insertKeyed
    rcases List.mem_cons.mp h with rfl | h
    · split
      · exact ⟨y, by simp, rfl⟩
      · split
        · rename_i same
          exact ⟨x, by simp, same⟩
        · exact ⟨y, by simp, rfl⟩
    · split
      · exact ⟨y, by simp [h], rfl⟩
      · split
        · exact ⟨y, by simp [h], rfl⟩
        · obtain ⟨z, hz, same⟩ := ih h
          exact ⟨z, List.mem_cons_of_mem w hz, same⟩

theorem countsRoll_insert {roll : List TalkgroupId} {l : List TalkgroupEntry} (h : countsRoll roll l) {e : TalkgroupEntry}
    (members : e.members = roll.count e.id) : countsRoll roll (insertKeyed TalkgroupEntry.id e l) := by
  obtain ⟨order, known, counts⟩ := h
  refine ⟨Acts.sorted_insertKeyed _ _ order, fun x hx => ?_, fun y hy => ?_⟩
  · obtain ⟨y, hy, rfl⟩ := known x hx
    exact key_mem_insertKeyed TalkgroupEntry.id e hy
  · rcases Acts.mem_insertKeyed _ _ hy with rfl | hy
    · exact members
    · exact counts y hy

theorem memberLaw_takeTalkgroup {s : State} {e : List Byte} (passed : checkTalkgroup e s = none) (law : s.memberLaw) :
    (takeTalkgroup e s).memberLaw := by
  rw [memberLaw_iff] at law ⊢
  unfold checkTalkgroup at passed
  split at passed
  · cases passed
  · unfold takeTalkgroup
    cases found : findTalkgroup (fieldAt e 0 2) s.talkgroups with
    | none =>
      have none := count_of_unknown law found
      simp only
      split
      · exact countsRoll_filter law none
      · exact countsRoll_insert law (by simpa [found] using none.symm)
    | some g =>
      obtain ⟨mem, id⟩ := findTalkgroup_mem found
      have counted := law.2.2 g mem
      rw [id] at counted
      rw [found] at passed
      simp only at passed ⊢
      split
      · rename_i removal
        refine countsRoll_filter law (counted.symm.trans ?_)
        simp only [removal, beq_self_eq_true, Bool.true_or, Bool.and_true, ite_eq_right_iff, reduceCtorEq,
          imp_false, Bool.not_eq_true] at passed
        unfold talkgroupInUse at passed
        simpa using (Bool.or_eq_false_iff.mp passed).1
      · exact countsRoll_insert law (by simpa [found] using counted)

/-! ### Commands -/

/-- The laws of the records. -/
def State.recordsInOrder (s : State) : Prop := s.unitLaw ∧ s.memberLaw

theorem recordsInOrder_frame : FrameFor (fun s t : State => s.recordsInOrder → t.recordsInOrder) .whole where
  frame := ⟨fun _ => id, fun h h' => h' ∘ h, fun _ _ => id⟩
  agent _ _ _ _ _ _ _ := id
  units e := by rcases e with e | e <;> cases e
  calls e := by cases e
  links e := by cases e
  membership e := by cases e
  refresh e := by cases e
  talkgroups e := by cases e
  neighbors e := by cases e
  parameters e := by cases e
  transmission e := by cases e

theorem Tallied.keeps {s t : State} (h : Tallied s t) (law : s.recordsInOrder) : t.recordsInOrder :=
  ⟨h.acts.units law.1, h.law law.1 law.2⟩

theorem CallsRun.keeps {extra : Held} {s t : State} (h : CallsRun extra s t) (law : s.recordsInOrder) :
    t.recordsInOrder := by
  obtain ⟨calls, flags⟩ := h.frame
  have talkgroups : t.talkgroups = s.talkgroups := by
    unfold State.sameButCalls at calls
    rw [calls]
  refine ⟨?_, (show s.sameCounts t from ⟨rollOf_of_unflagged flags, by rw [talkgroups]⟩).memberLaw law.2⟩
  obtain ⟨slots, bound, units⟩ := law.1
  have field {α : Type} (f : Record → α) (hf : ∀ r, f r.unflagged = f r) : t.units.map f = s.units.map f := by
    simpa [Function.comp_def, hf] using congrArg (List.map f) flags
  refine ⟨field Record.slot (fun _ => rfl) ▸ slots, fun r hr => ?_, field Record.unit (fun _ => rfl) ▸ units⟩
  have mem : r.slot ∈ s.units.map Record.slot := field Record.slot (fun _ => rfl) ▸ List.mem_map_of_mem hr
  obtain ⟨x, hx, same⟩ := List.mem_map.mp mem
  exact same ▸ bound x hx

theorem exec_memberLaw {c : Instr} {s t : State} (hreset : occasion c ≠ .reset) (hrestart : occasion c ≠ .restart)
    (h : exec c s = .next t) (law : s.recordsInOrder) : t.memberLaw := by
  have k := recordsInOrder_frame
  have next {u : State} (hu : u.recordsInOrder) (eq : (Host.Outcome.next u : Host.Outcome State Fault Refusal) = .next t) :
      t.memberLaw := Host.Outcome.next.inj eq ▸ hu.2
  have tallied {u : State} (hu : Tallied s u) (eq : (Host.Outcome.next u : Host.Outcome State Fault Refusal) = .next t) :
      t.memberLaw := next (hu.keeps law) eq
  have called {extra : Held} {u : State} (hu : CallsRun extra s u)
      (eq : (Host.Outcome.next u : Host.Outcome State Fault Refusal) = .next t) : t.memberLaw := next (hu.keeps law) eq
  have elsewhere (hu : familyOf c ≠ .units) (hc : familyOf c ≠ .calls) (ht : familyOf c ≠ .talkgroups)
      (hw : familyOf c ≠ .whole) : t.memberLaw := ((sameCounts_frame hu hc ht).exec rfl hw h).memberLaw law.2
  have heard (n : ChannelNo) (kind : Kind) (run : Handle → Header → List Byte → State → State)
      (hr : ∀ h hdr payload s, s.recordsInOrder → (run h hdr payload s).recordsInOrder) :
      (takeFromChannel n kind run s).recordsInOrder :=
    k.takeHanded s _ _ _ (fun _ hdr _ _ law => hr _ _ _ _ ((Tallied.unitNotice n hdr.unit.toNat kind hdr.emergency).keeps law))
      law
  have handover (l : LinkNo) (kind : Kind) (f : HoMessage → State → State) (hf : ∀ m s, Tallied s (f m s)) :
      (takeHandover l kind f s).recordsInOrder :=
    k.takeHanded s (linkPort l) (ownKind kind) _
      (fun _ hdr _ s law => (Tallied.unlessOwn (hoMessageOf hdr) (f (hoMessageOf hdr)) (hf _ s)).keeps law) law
  cases c with
  | fullReset | fullResetEnd => exact absurd rfl hreset
  | restartTakesPlace => exact absurd rfl hrestart
  | register n =>
    exact next (heard n _ _ fun _ hdr payload _ law => (Tallied.registerByState n (registrationOf hdr payload)).keeps law) h
  | measure n => exact next (heard n _ _ fun _ hdr payload _ law => (Tallied.measureByState _ payload).keeps law) h
  | pollReply n => exact next (heard n _ _ fun _ hdr _ _ law => (Tallied.pollReplyByState _).keeps law) h
  | callStart n =>
    exact next (heard n _ _ fun h hdr _ _ law => (CallsRun.takeLocalStart (one_le_oneMore h .none) _ _).keeps law) h
  | voice n =>
    exact next (heard n _ _ fun h hdr _ _ law => (CallsRun.takeLocalVoice (one_le_oneMore h .none) _ _).keeps law) h
  | callEnd n =>
    exact next (heard n _ _ fun h hdr _ _ law => (CallsRun.takeLocalEnd (one_le_oneMore h .none) _ _).keeps law) h
  | forwardTargetSet l =>
    refine next (k.takeHanded s _ _ (fun h hdr _ => fanOut l h hdr) (fun h hdr _ s law => ?_) law) h
    unfold fanOut
    split
    · exact (CallsRun.localCopy (one_le_oneMore h .none) hdr).keeps law
    · exact law
  | unitMessage l => exact next (k.takeHanded s _ _ _ (fun _ _ _ _ law => (Tallied.takeUnitMessage _ _ _).keeps law) law) h
  | hoRequest l => exact next (handover l _ _ fun m _ => .takeRequest m) h
  | hoAccept l => exact next (handover l _ _ fun m _ => .takeAccept m) h
  | hoRefuse l => exact next (handover l _ _ fun m _ => .takeRefuse m) h
  | hoComplete l => exact next (handover l _ _ fun m _ => .takeComplete m) h
  | hoCancel l => exact next (handover l _ _ fun m _ => .takeCancel m) h
  | hoClaim l => exact next (handover l _ _ fun m _ => .takeClaim m) h
  | activityTimerExpiry u => exact tallied (.activityExpiry u) h
  | pollTimerExpiry u => exact tallied (.pollExpiry u) h
  | pollReplyWaitExpiry u => exact tallied (.pollWaitExpiry u) h
  | lostHoldExpiry u => exact tallied (.lostExpiry u) h
  | roamHoldExpiry u => exact tallied (.roamHoldEnds u) h
  | replyWaitExpiry u => exact tallied (.replyWaitEnds u) h
  | departureExpiry u => exact tallied (.departureEnds u) h
  | arrivalExpiry u => exact tallied (.arrivalEnds u) h
  | forwardHoldExpiry u => exact tallied (.forwardHoldEnds u) h
  | waitTimerExpiry n id => exact called (CallsRun.waitTimerEnds (extra := .none) n id) h
  | voiceGapExpiry n => exact called (CallsRun.voiceGapEnds (extra := .none) n) h
  | talkTimerExpiry n => exact called (CallsRun.talkTimerEnds (extra := .none) n) h
  | hangTimerExpiry n => exact called (CallsRun.hangTimerEnds (extra := .none) n) h
  | clearUnit =>
    refine next (k.asked _ _ _ s (fun q => ?_) law) h
    unfold clearUnitRequest
    split
    · exact id
    · exact (Tallied.clearRecord _).keeps
  | clearEmergency =>
    refine next (k.asked _ _ _ s (fun q => ?_) law) h
    unfold clearEmergencyRequest
    split
    · exact id
    · exact (Tallied.clearEmergency _).keeps
  | loadTalkgroups =>
    refine next (k.serveListed _ _ _ s (k.load _ _ _ s fun e passed law => ⟨?_, memberLaw_takeTalkgroup passed law.2⟩) law) h
    have units : (takeTalkgroup e s).units = s.units := by
      unfold takeTalkgroup
      split <;> rfl
    unfold State.unitLaw
    rw [units]
    exact law.1
  | _ => exact elsewhere Family.noConfusion Family.noConfusion Family.noConfusion Family.noConfusion

theorem takeRestart_members (s : State) :
    (takeRestart s).units = [] ∧ (takeRestart s).talkgroups = s.talkgroups.map restartTalkgroup := by
  have linked {s t : State} (h : LinksRun .none s t) : t.units = s.units ∧ t.talkgroups = s.talkgroups := by
    have same := h.frame
    unfold State.sameButLinks at same
    rw [same]
    exact ⟨rfl, rfl⟩
  have seeded := linked (LinksRun.seedAll (s := restartBlocks s))
  unfold takeRestart
  split
  · unfold enterRunning
    generalize seedAll (restartBlocks s) = u at seeded ⊢
    have round := linked (LinksRun.fullRound (s := startRefresh u))
    exact ⟨round.1.trans seeded.1, round.2.trans seeded.2⟩
  · exact seeded

theorem memberLaw_takeRestart {s : State} (law : s.memberLaw) : (takeRestart s).memberLaw := by
  obtain ⟨units, talkgroups⟩ := takeRestart_members s
  obtain ⟨order, -, -⟩ := law
  refine ⟨?_, fun r hr => ?_, fun g hg => ?_⟩
  · rw [talkgroups, List.map_map]
    exact order
  · rw [units] at hr
    cases hr
  · rw [talkgroups] at hg
    obtain ⟨x, -, rfl⟩ := List.mem_map.mp hg
    rw [units]
    rfl

theorem step_memberLaw {s t : State} (h : step s = .next t) (unit : s.unitLaw) (law : s.memberLaw) : t.memberLaw :=
  (step_keeps_exec (L := State.recordsInOrder) (fun _ _ h => h) (rest_keeps (fun _ _ h => h) fun _ h => h)
    (fun c s t hr hr' h law => ⟨(Goes.exec c s t hr hr' h).units law.1, exec_memberLaw hr hr' h law⟩)
    (fun s law => ⟨by
      unfold State.unitLaw
      rw [(takeRestart_members s).1]
      exact ⟨List.Pairwise.nil, fun _ hr => absurd hr List.not_mem_nil, List.Pairwise.nil⟩,
      memberLaw_takeRestart law.2⟩)
    (fun _ _ =>
      ⟨⟨List.Pairwise.nil, fun _ hr => absurd hr List.not_mem_nil, List.Pairwise.nil⟩,
        List.Pairwise.nil, fun _ hr => absurd hr List.not_mem_nil, fun _ hg => absurd hg List.not_mem_nil⟩)
    h ⟨unit, law⟩).2

end Sys2Proof.Machine

open Sys2Proof Sys2Proof.Machine

/-- Settles O8: the roll of the members moves with the entry and exit reports. -/
theorem recordLawsKept : Obligations.RecordLawsKept := fun _ _ h =>
  ⟨step_unitLaw h, step_memberLaw h, step_remoteLaw h⟩
end

section
/-! PROOFS. A command whose event is not there changes nothing (log entry 1), and what goes on when no command
waits (log entries 5 and 36). -/

namespace Sys2Proof.Machine

variable {s : State}

/-! ## Frames that are not the command's -/

/-- No frame is taken when the oldest one is not the command's. -/
theorem takeHanded_absent {p : PortNo} {isMine : Handed → Header → State → Bool}
    {run : Handle → Header → List Byte → State → State}
    (h : (s.handsOn p fun x hdr => isMine x hdr s) = false) : takeHanded p isMine run s = s := by
  unfold takeHanded headHanded
  unfold State.handsOn State.handedAt at h
  cases e : s.io.ports[p.val].handed.head? with
  | none => rfl
  | some x =>
    simp only [e, Option.any_some] at h
    simp [h]

theorem takeFromChannel_absent {n : ChannelNo} {k : Kind} {run : Handle → Header → List Byte → State → State}
    (h : s.hears n k = false) : takeFromChannel n k run s = s := takeHanded_absent h

theorem takeForOwn_absent {l : LinkNo} {k : Kind} {run : Handle → Header → List Byte → State → State}
    (h : s.gets l k = false) : takeForOwn l k run s = s := by
  refine takeHanded_absent (Eq.trans ?_ h)
  unfold State.gets ownKind
  congr 1
  funext x hdr
  ac_rfl

theorem takeHanded_nil {p : PortNo} {isMine : Handed → Header → State → Bool}
    {run : Handle → Header → List Byte → State → State} (h : s.handedAt p = []) : takeHanded p isMine run s = s :=
  takeHanded_absent (by simp [State.handsOn, h])

theorem getsNotice_eq (l : LinkNo) (c : Byte) :
    s.getsNotice l c = s.handsOn (linkPort l) fun x hdr => ownNotice c x hdr s := by
  unfold State.getsNotice ownNotice ownKind
  congr 1
  funext x hdr
  ac_rfl

theorem handsOn_another (l : LinkNo) :
    (s.handsOn (linkPort l) fun x hdr => addressedAs .single hdr && !x.toAgent && hdr.destination.toNat != s.own)
      = s.handsOn (linkPort l) fun x hdr => isForAnother x hdr s := by
  unfold isForAnother
  congr 1
  funext x hdr
  ac_rfl

/-! ## Requests that are not the command's -/

/-- The request the agent can carry out is of another code, or there is none, or a restart is pending. -/
theorem serveHead_absent {isCode : Byte → Bool} {run : Request → State → State} (h : s.isAsked isCode = false) :
    serveHead isCode run s = s := by
  unfold serveHead restartPending
  unfold State.isAsked at h
  cases e : s.requests with
  | nil => rfl
  | cons q rest =>
    simp only [e, List.head?_cons, Option.any_some, Bool.and_eq_false_iff] at h
    obtain h | h := h <;> simp_all

theorem serveListed_absent {isCode : Byte → Bool} {size : Nat} {run : Request → State → Option Reply × State}
    (h : s.isAsked isCode = false) : serveListed isCode size run s = s := by
  unfold serveListed restartPending
  unfold State.isAsked at h
  cases e : s.requests with
  | nil => rfl
  | cons q rest =>
    simp only [e, List.head?_cons, Option.any_some, Bool.and_eq_false_iff] at h
    obtain h | h := h <;> simp_all

/-- A code is unknown when it is 0 or above 17 (R155). -/
theorem knownCode_eq (c : Byte) : (!knownCode c) = (c == 0 || decide (17 < c.toNat)) := by
  have h0 : (c == 0) = decide (c.toNat = 0) := by
    rw [Bool.eq_iff_iff, beq_iff_eq, decide_eq_true_iff]
    exact BitVec.toNat_inj.symm
  rw [h0, knownCode, Bool.eq_iff_iff]
  simp

/-- With no request queued or a restart pending nothing is asked. -/
theorem isAsked_none (h : s.requests = [] ∨ s.io.restart ≠ .none) (f : Byte → Bool) : s.isAsked f = false := by
  unfold State.isAsked
  obtain h | h := h <;> simp [h]

/-! ## The line -/

theorem whileTaking_held {f : State → State} (h : s.resetHeld = true) : whileTaking f s = s := by
  simp [whileTaking, h]

theorem headerNearlyComplete_eq (p : PortNo) :
    headerNearlyComplete p s
      = match receptionOf p s with
        | .hunt => false
        | .header bytes => bytes.length == 19
        | .store _ => false
        | .discard _ _ => false := by
  unfold headerNearlyComplete
  cases receptionOf p s <;> rfl

theorem frameFull_eq (p : PortNo) :
    frameFull p s
      = match receptionOf p s with
        | .hunt => false
        | .header _ => false
        | .store h => 256 ≤ (bytesOf h s.io).length
        | .discard bytes _ => 256 ≤ bytes.length := by
  unfold frameFull byteCount
  cases receptionOf p s <;> rfl

/-- A command of the line does nothing when the reset line is held or its byte is not there. -/
theorem whileTaking_absent {f : State → State} {b : Bool} (h : (!s.resetHeld && b) = false)
    (hf : b = false → f s = s) : whileTaking f s = s := by
  unfold whileTaking
  split
  · rfl
  · simp_all

theorem takeTwentieth_absent {p : PortNo} (b : Byte) (h : headerNearlyComplete p s = false) :
    takeTwentieth p b s = s := by simp [takeTwentieth, h]

theorem takeExcess_absent {p : PortNo} (b : Byte) (h : frameFull p s = false) : takeExcess p b s = s := by
  simp [takeExcess, h]

/-! ## Timers that are not due -/

theorem activityExpiry_absent {u : UnitId} (h : (s.activityAny u fun a => s.due a.timer) = false) :
    activityExpiry u s = s := by
  unfold activityExpiry
  unfold State.activityAny at h
  cases hr : s.record u with
  | none => rfl
  | some r =>
    simp only [hr, Option.any_some] at h ⊢
    cases ha : r.phase.activity? with
    | none => rfl
    | some a => simp_all

theorem pollExpiry_absent {u : UnitId}
    (h : (s.activityAny u fun a => s.due a.poll && a.cls != .active && a.outstanding.isNone) = false) :
    pollExpiry u s = s := by
  unfold pollExpiry
  unfold State.activityAny at h
  cases hr : s.record u with
  | none => rfl
  | some r =>
    simp only [hr, Option.any_some] at h ⊢
    cases ha : r.phase.activity? with
    | none => cases r.phase.channel? <;> rfl
    | some a =>
      rw [ha, Option.any_some] at h
      cases hc : r.phase.channel? with
      | none => rfl
      | some ch => exact if_neg (by rw [h]; decide)

theorem pollWaitExpiry_absent {u : UnitId} (h : (s.activityAny u fun a => s.due a.outstanding) = false) :
    pollWaitExpiry u s = s := by
  unfold pollWaitExpiry
  unfold State.activityAny at h
  cases hr : s.record u with
  | none => rfl
  | some r =>
    simp only [hr, Option.any_some] at h ⊢
    cases ha : r.phase.activity? with
    | none => cases r.phase.channel? <;> rfl
    | some a =>
      rw [ha, Option.any_some] at h
      cases hc : r.phase.channel? with
      | none => rfl
      | some ch => exact if_neg (by rw [h]; decide)

theorem lostExpiry_absent {u : UnitId} (h : ((s.record u).any fun r => s.due r.phase.lostHold?) = false) :
    lostExpiry u s = s := by
  unfold lostExpiry
  cases hr : s.record u with
  | none => rfl
  | some r =>
    simp only [hr, Option.any_some] at h ⊢
    cases hp : r.phase with
    | lost ch d =>
      simp only [hp, Phase.lostHold?, State.due] at h
      simp [h]
    | served | proposing | departing | arriving | forward => rfl

theorem roamHoldEnds_absent {u : UnitId} (h : ((s.record u).any fun r => s.due r.roamHold) = false) :
    roamHoldEnds u s = s := by
  unfold roamHoldEnds
  cases hr : s.record u with
  | none => rfl
  | some r =>
    simp only [hr, Option.any_some] at h
    simp [h]

theorem replyWaitEnds_absent {u : UnitId} (h : s.handoverDue u 1 = false) : replyWaitEnds u s = s := by
  unfold replyWaitEnds
  unfold State.handoverDue at h
  cases hr : s.record u with
  | none => rfl
  | some r =>
    simp only [hr, Option.any_some] at h ⊢
    cases hp : r.phase with
    | proposing ch a ho =>
      simp only [hp, Phase.number, Phase.handover?, Option.any_some] at h
      simp_all
    | served | departing | arriving | forward | lost => rfl

theorem departureEnds_absent {u : UnitId} (h : s.handoverDue u 2 = false) : departureEnds u s = s := by
  unfold departureEnds
  unfold State.handoverDue at h
  cases hr : s.record u with
  | none => rfl
  | some r =>
    simp only [hr, Option.any_some] at h ⊢
    cases hp : r.phase with
    | departing ch ho o =>
      simp only [hp, Phase.number, Phase.handover?, Option.any_some] at h
      simp_all
    | served | proposing | arriving | forward | lost => rfl

theorem arrivalEnds_absent {u : UnitId} (h : s.handoverDue u 3 = false) : arrivalEnds u s = s := by
  unfold arrivalEnds
  unfold State.handoverDue at h
  cases hr : s.record u with
  | none => rfl
  | some r =>
    simp only [hr, Option.any_some] at h ⊢
    cases hp : r.phase with
    | arriving ho =>
      simp only [hp, Phase.number, Phase.handover?, Option.any_some] at h
      simp_all
    | served | proposing | departing | forward | lost => rfl

theorem forwardHoldEnds_absent {u : UnitId} (h : s.handoverDue u 4 = false) : forwardHoldEnds u s = s := by
  unfold forwardHoldEnds
  unfold State.handoverDue at h
  cases hr : s.record u with
  | none => rfl
  | some r =>
    simp only [hr, Option.any_some] at h ⊢
    cases hp : r.phase with
    | forward ho =>
      simp only [hp, Phase.number, Phase.handover?, Option.any_some] at h
      simp_all
    | served | proposing | departing | arriving | lost => rfl

theorem expireRefresh_absent (h : s.due s.refreshTimer = false) : expireRefresh s = s := by
  simp [expireRefresh, h]

theorem expireAge_absent {n : SiteId} (h : ((findSite n s.sites).any fun e => s.due e.ageTimer) = false) :
    expireAge n s = s := by
  unfold expireAge
  cases he : findSite n s.sites with
  | none => rfl
  | some e =>
    simp only [he, Option.any_some] at h
    simp [h]

theorem waitTimerEnds_absent {n : ChannelNo} {id : CallId}
    (h : (((s.channel n).waiting id).any fun w => s.elapsed w.deadline) = false) : waitTimerEnds n id s = s := by
  unfold waitTimerEnds
  cases hw : (s.channel n).waiting id with
  | none => rfl
  | some w =>
    simp only [hw, Option.any_some] at h
    simp [h]

theorem voiceGapEnds_absent {n : ChannelNo} (h : s.due (s.channel n).phase.voiceGap = false) :
    voiceGapEnds n s = s := by
  unfold voiceGapEnds
  cases hp : (s.channel n).phase with
  | idle | hang => rfl
  | active call talk gap =>
    simp only [hp, ChannelPhase.voiceGap, State.due] at h
    simp [h]

theorem talkTimerEnds_absent {n : ChannelNo} (h : s.due (s.channel n).phase.talkTimer = false) :
    talkTimerEnds n s = s := by
  unfold talkTimerEnds
  cases hp : (s.channel n).phase with
  | idle | hang => rfl
  | active call talk gap =>
    simp only [hp, ChannelPhase.talkTimer] at h
    simp [h]

theorem hangTimerEnds_absent {n : ChannelNo} (h : s.due (s.channel n).phase.hangTimer = false) :
    hangTimerEnds n s = s := by
  unfold hangTimerEnds
  cases hp : (s.channel n).phase with
  | idle | active => rfl
  | hang g c d =>
    simp only [hp, ChannelPhase.hangTimer, State.due] at h
    simp [h]

theorem probeTimerEnds_absent {l : LinkNo} (h : s.due (s.link l).timer = false) : probeTimerEnds l s = s := by
  simp [probeTimerEnds, h]

/-! ## Every command -/

/-- Every command answers a next state. -/
theorem exec_next (c : Instr) (s : State) : ∃ t, exec c s = .next t := by
  cases c <;> exact ⟨_, rfl⟩

/-- No command moves the commands that wait. -/
theorem exec_pending {c : Instr} {s t : State} (h : exec c s = .next t) : t.pending = s.pending := by
  by_cases hreset : occasion c = .reset
  · obtain rfl | ⟨held, rfl⟩ := exec_reset hreset h <;> rfl
  by_cases hrestart : occasion c = .restart
  · obtain rfl | ⟨rfl, acts⟩ := exec_restart hrestart h
    · rfl
    · exact (Goes.clock (k := scopeOf c) (.acts acts)).1
  · exact (Goes.exec c s t hreset hrestart h).clock.1

/-- A command whose event is not there changes nothing. -/
theorem exec_absent {c : Instr} (h : s.isThere c = false) : exec c s = .next s := by
  cases c with
  | fullReset => exact absurd h (by rw [State.isThere]; decide)
  | fullResetEnd =>
    simp only [State.isThere] at h
    exact congrArg Host.Outcome.next (by simp [releaseReset, h])
  | startDelimiter p =>
    exact congrArg Host.Outcome.next (whileTaking_held (by simpa [State.isThere] using h))
  | abortSequence p =>
    exact congrArg Host.Outcome.next (whileTaking_held (by simpa [State.isThere] using h))
  | judgeFrame p => exact congrArg Host.Outcome.next (whileTaking_held (by simpa [State.isThere] using h))
  | dataByte p b => exact congrArg Host.Outcome.next (whileTaking_held (by simpa [State.isThere] using h))
  | frameHeaderComplete p b =>
    exact congrArg Host.Outcome.next (whileTaking_absent h fun hb => takeTwentieth_absent b ((headerNearlyComplete_eq p).trans hb))
  | frameTooLong p b =>
    exact congrArg Host.Outcome.next (whileTaking_absent h fun hb => takeExcess_absent b ((frameFull_eq p).trans hb))
  | register n | measure n | pollReply n | callStart n | voice n | callEnd n =>
    have h : s.hears n _ = false := h
    exact congrArg Host.Outcome.next (takeFromChannel_absent h)
  | forwardTargetSet l => exact congrArg Host.Outcome.next (takeHanded_absent (isMine := isTargetSet) h)
  | probe l | probeReply l => exact congrArg Host.Outcome.next (takeHanded_absent (isMine := ofKind _) h)
  | mgmtRequest l => exact congrArg Host.Outcome.next (takeHanded_absent (isMine := isForAgent) h)
  | forwardSingleDestination l => exact congrArg Host.Outcome.next (takeHanded_absent ((handsOn_another l).symm.trans h))
  | unitMessage l | hoRequest l | hoAccept l | hoRefuse l | hoComplete l | hoCancel l | hoClaim l =>
    have h : s.gets l _ = false := h
    exact congrArg Host.Outcome.next (takeForOwn_absent h)
  | fullNotice l | joinNotice l | leaveNotice l =>
    exact congrArg Host.Outcome.next (takeHanded_absent ((getsNotice_eq l _).symm.trans h))
  | unknownRequestCode =>
    refine congrArg Host.Outcome.next (serveHead_absent ?_)
    rw [funext knownCode_eq]
    exact h
  | identify | applyParameters | readParameters | readUnits | readUnit | readLinks | readChannels | readTalkgroups
  | collectCounters | readCounters | clearUnit | clearEmergency | restart =>
    refine congrArg Host.Outcome.next (serveHead_absent ?_)
    exact h
  | loadSites | loadTalkgroups | loadNeighbors | writeParameters =>
    refine congrArg Host.Outcome.next (serveListed_absent ?_)
    exact h
  | restartTakesPlace =>
    refine congrArg Host.Outcome.next ?_
    unfold restartIfDue
    cases hr : s.io.restart with
    | due => simp [State.isThere, hr] at h
    | none | awaitingReply => rfl
  | transmissionComplete p =>
    refine congrArg Host.Outcome.next ?_
    unfold transmissionEnds
    cases ht : s.io.ports[p.val].sending with
    | none => rfl
    | some x => simp [State.isThere, ht] at h
  | activityTimerExpiry u => exact congrArg Host.Outcome.next (activityExpiry_absent h)
  | pollTimerExpiry u => exact congrArg Host.Outcome.next (pollExpiry_absent h)
  | pollReplyWaitExpiry u => exact congrArg Host.Outcome.next (pollWaitExpiry_absent h)
  | lostHoldExpiry u => exact congrArg Host.Outcome.next (lostExpiry_absent h)
  | roamHoldExpiry u => exact congrArg Host.Outcome.next (roamHoldEnds_absent h)
  | replyWaitExpiry u => exact congrArg Host.Outcome.next (replyWaitEnds_absent h)
  | departureExpiry u => exact congrArg Host.Outcome.next (departureEnds_absent h)
  | arrivalExpiry u => exact congrArg Host.Outcome.next (arrivalEnds_absent h)
  | forwardHoldExpiry u => exact congrArg Host.Outcome.next (forwardHoldEnds_absent h)
  | refreshTimerExpiry => exact congrArg Host.Outcome.next (expireRefresh_absent h)
  | ageTimerExpiry n => exact congrArg Host.Outcome.next (expireAge_absent h)
  | waitTimerExpiry n id => exact congrArg Host.Outcome.next (waitTimerEnds_absent h)
  | voiceGapExpiry n => exact congrArg Host.Outcome.next (voiceGapEnds_absent h)
  | talkTimerExpiry n => exact congrArg Host.Outcome.next (talkTimerEnds_absent h)
  | hangTimerExpiry n => exact congrArg Host.Outcome.next (hangTimerEnds_absent h)
  | probeTimerExpiry l => exact congrArg Host.Outcome.next (probeTimerEnds_absent h)

/-- A request command asks for nothing when no request is queued or a restart is pending. -/
theorem isThere_request {c : Instr} (hc : occasion c = .request) (h : s.requests = [] ∨ s.io.restart ≠ .none) :
    s.isThere c = false := by
  cases c with
  | unknownRequestCode | identify | loadSites | loadTalkgroups | loadNeighbors | writeParameters | applyParameters
  | readParameters | readUnits | readUnit | readLinks | readChannels | readTalkgroups | collectCounters | readCounters
  | clearUnit | clearEmergency | restart =>
    rw [State.isThere]
    exact isAsked_none h _
  | _ => exact absurd hc (by simp [occasion])

/-- With no transmission in progress its end is not there. -/
theorem isThere_transmission {c : Instr} {p : PortNo} (hc : occasion c = .transmission p)
    (h : s.io.ports[p.val].sending = none) : s.isThere c = false := by
  cases c with
  | transmissionComplete q =>
    obtain rfl : q = p := by simpa [occasion] using hc
    simp [State.isThere, h]
  | _ => exact absurd hc (by simp [occasion])

theorem isThere_restart {c : Instr} (hc : occasion c = .restart) (h : s.io.restart ≠ .due) : s.isThere c = false := by
  cases c with
  | restartTakesPlace => simp [State.isThere, h]
  | _ => exact absurd hc (by simp [occasion])

/-! ## With no command waiting -/

/-- Handling frames moves a restart's phase only by letting its reply go, and then it is due (R163). -/
theorem Moves.restartPhase {P : Prop} {a b : Io} (h : Moves P a b) :
    b.restart = a.restart ∨ (a.restart = .awaitingReply ∧ b.restart = .due) := by
  have answered : ∀ io : Io, (answerRestart io).restart = io.restart
      ∨ (io.restart = .awaitingReply ∧ (answerRestart io).restart = .due) := fun io => by
    unfold answerRestart
    cases hr : io.restart <;> simp_all
  induction h with
  | refl | bump | write | take | flags | engine | insert | displace | flush => exact .inl rfl
  | trans _ _ ih1 ih2 =>
    obtain e1 | ⟨e1, d1⟩ := ih1
    · rw [← e1]; exact ih2
    · exact .inr ⟨e1, by simpa [d1] using ih2⟩
  | release reserve b io _ =>
    unfold releaseBuffer answerUnsent
    split
    · exact .inl rfl
    · exact answered io
    · exact .inl rfl
  | start p io => unfold startTransmission; split <;> exact .inl rfl
  | answer io => exact answered io

/-- The placement of one group does not make the work longer. -/
theorem engineTurn_length (c : Net) (io : Io) :
    (engineTurn c io).engine.work.length ≤ io.engine.work.length
      ∧ (engineTurn c io).engine.atOnce = io.engine.atOnce := by
  cases h : io.engine.work with
  | nil => simp [engineTurn, h]
  | cons f rest =>
    rw [engineTurn_work c h]
    dsimp only
    split <;> simp

/-- An event of frames alone that moves by `Moves` leaves the rest of the state and the receptions. -/
theorem rest_of_work (h : s.io.engine.work ≠ []) :
    ∃ t, rest s = t ∧ s.sameButIo t ∧ s.sameIntake t
      ∧ t.io.engine.work.length ≤ s.io.engine.work.length ∧ t.io.engine.atOnce = s.io.engine.atOnce
      ∧ (t.io.restart = s.io.restart ∨ (s.io.restart = .awaitingReply ∧ t.io.restart = .due)) := by
  have he : rest s = s.onIo engineTurn := by
    unfold rest
    cases e : s.io.engine.work with
    | nil => exact absurd e h
    | cons => rfl
  have moved : Moves False s.io (engineTurn s.net s.io) := Moves.engineTurn False.elim _ False.elim
  exact ⟨_, he, rfl, fun p => ⟨(moved.ports p).2.1, (moved.ports p).1⟩, (engineTurn_length _ _).1,
    (engineTurn_length _ _).2, moved.restartPhase⟩

end Sys2Proof.Machine

open Sys2Proof Sys2Proof.Machine

/-- Settles O2: each command's event that is not there is the failed test at the head of its meaning; what waits is
outside every command's reach by `Goes.clock`. -/
theorem everyCommandGoesOn : Obligations.EveryCommandGoesOn := by
  intro c s
  refine ⟨?_, ?_, ?_, exec_absent, ?_, fun hc h => exec_absent (isThere_request hc h),
    fun p hc h => exec_absent (isThere_transmission hc h), fun hc h => exec_absent (isThere_restart hc h)⟩
  · intro idle done
    refine ⟨_, by rw [step, idle], ?_⟩
    unfold rest passTime
    rw [done]
    by_cases h : s.resetHeld
    · simp only [if_pos h]
    · simp only [if_neg h]
  · intro idle left
    obtain ⟨t, ht, k⟩ := rest_of_work left
    exact ⟨t, by rw [step, idle]; exact congrArg _ ht, k⟩
  · obtain ⟨t, ht⟩ := exec_next c s
    exact ⟨t, ht, exec_pending ht⟩
  · intro p hc none
    obtain ⟨isMine, run, he, -⟩ := exec_handed hc
    rw [he s, takeHanded_nil none]
end

section
/-! PROOFS. The pool and the output queues as equations (R19, R24, R26, R27, R41, R42, R45): what a request, a dropped
reference and a placement do, case by case. -/

namespace Sys2Proof.Machine

variable {c : Net} {io : Io} {h : Handle} {p : PortNo} {e : Entry}

/-! ## Requests (R19, R26) -/

/-- An empty pool answers empty, and a set exhaustion flag becomes a pending notice. -/
theorem allocate_empty (reserve : Nat) (cls : FrameClass) (hf : io.pool.free = []) :
    allocate reserve cls io
      = (.empty,
        { io with
          pool :=
            { io.pool with
              exhaustion := false
              noticePending := io.pool.noticePending || io.pool.exhaustion } }) := by
  unfold allocate noteExcess noteEmpty
  obtain ⟨⟨free, allocated, exhaustion, pending⟩, ports, live, restart, engine⟩ := io
  simp only at hf
  subst hf
  cases exhaustion <;> simp

/-- A routine request at or below the reserve changes nothing. -/
theorem allocate_reserve {rest : List Handle} {reserve : Nat} (hf : io.pool.free = h :: rest)
    (low : io.pool.free.length ≤ reserve) : allocate reserve .routine io = (.reserve, io) := by
  unfold allocate noteExcess
  obtain ⟨⟨free, allocated, exhaustion, pending⟩, ports, live, restart, engine⟩ := io
  simp only at hf low ⊢
  subst hf
  rw [List.length_cons] at low
  simp [Nat.not_le.mpr low, Nat.lt_of_succ_le low]

/-- Any other request takes the head handle. -/
theorem allocate_granted {rest : List Handle} {reserve : Nat} {cls : FrameClass} (hf : io.pool.free = h :: rest)
    (hc : cls = .priority ∨ reserve < io.pool.free.length) :
    allocate reserve cls io = (.granted h, takeBuffer h rest (noteExcess reserve io)) := by
  unfold allocate
  have free : (noteExcess reserve io).pool.free = h :: rest := hf
  simp only [free]
  refine if_neg fun low => ?_
  simp only [Bool.and_eq_true, decide_eq_true_iff] at low
  obtain ⟨rfl, low⟩ := low
  rw [hf] at hc
  obtain hc | hc := hc
  · cases hc
  · omega

/-! ## Dropped references (R23, R24) -/

/-- With no notice pending a drop is steps 1 to 3 of R24. -/
theorem dropReference_quietly (c : Net) (h : Handle) (hn : io.pool.noticePending = false) :
    dropReference c h io = dropReferenceQuietly c.active.bufferReserve h io := by
  simp only [dropReference, dropReferenceQuietly_noticePending, hn, Bool.and_false, Bool.false_eq_true, if_false]

theorem dropReferenceQuietly_none (reserve : Nat) (hb : bufferOf h io = none) : dropReferenceQuietly reserve h io = io := by
  rw [dropReferenceQuietly, hb]

/-- A reference that is not the last. -/
theorem dropReferenceQuietly_many {b : Buffer} (reserve : Nat) (hb : bufferOf h io = some b) (many : 2 ≤ b.refs) :
    dropReferenceQuietly reserve h io = modBuffer h (fun b => { b with refs := b.refs - 1 }) io := by
  simp only [dropReferenceQuietly, hb, if_neg (show ¬b.refs ≤ 1 by omega)]

/-- The last reference. -/
theorem dropReferenceQuietly_last {b : Buffer} (reserve : Nat) (hb : bufferOf h io = some b) (last : b.refs ≤ 1) :
    dropReferenceQuietly reserve h io = releaseBuffer reserve b io := by
  simp only [dropReferenceQuietly, hb, if_pos last]

theorem releaseBuffer_free (reserve : Nat) (b : Buffer) (io : Io) :
    (releaseBuffer reserve b io).pool.free = io.pool.free ++ [b.handle] := by
  simp only [releaseBuffer, answerUnsent_pool]

theorem answerUnsent_live (d : Option Completion) (io : Io) : (answerUnsent d io).live = io.live := by
  unfold answerUnsent answerRestart
  split
  · rfl
  · split <;> rfl
  · rfl

theorem dropReferenceQuietly_live (reserve : Nat) (h : Handle) (io : Io) :
    (dropReferenceQuietly reserve h io).live = io.live := by
  unfold dropReferenceQuietly
  split
  · rfl
  · split
    · exact answerUnsent_live _ io
    · rfl

/-- With no notice pending the last reference frees the buffer at the tail of the free list. -/
theorem dropReference_last {b : Buffer} (c : Net) (hb : bufferOf h io = some b) (last : b.refs = 1)
    (hn : io.pool.noticePending = false) :
    bufferOf h (dropReference c h io) = none ∧ (dropReference c h io).pool.free = io.pool.free ++ [h] := by
  rw [dropReference_quietly c h hn, dropReferenceQuietly_last _ hb (by omega)]
  have hh := handle_of_bufferOf hb
  exact ⟨by rw [bufferOf_releaseBuffer, if_pos hh.symm], by rw [releaseBuffer_free, hh]⟩

/-- A drop with no notice pending, seen from another buffer. -/
theorem dropReference_other {k : Handle} (c : Net) (hn : io.pool.noticePending = false) (hk : k ≠ h) :
    bufferOf k (dropReference c h io) = bufferOf k io := by
  rw [dropReference_quietly c h hn]
  cases hb : bufferOf h io with
  | none => rw [dropReferenceQuietly_none _ hb]
  | some b =>
    by_cases last : b.refs ≤ 1
    · rw [dropReferenceQuietly_last _ hb last, bufferOf_releaseBuffer, if_neg (by rw [handle_of_bufferOf hb]; exact hk)]
    · rw [dropReferenceQuietly_many _ hb (by omega), bufferOf_modBuffer, if_neg hk]
      intro _; rfl

/-! ## Placements (R41, R42, R45) -/

/-- An entry joins a queue whose transmitter does not take it, and its buffer has a reference more. -/
def putEntry (p : PortNo) (e : Entry) (io : Io) : Io :=
  addReference e.handle (modPort p (fun x => { x with queue := insertEntry e x.queue }) io)

/-- A placement at a queue with room whose transmitter is busy or that is not empty. -/
theorem placeEntryWith_room {drop : Handle → Io → Io} (room : io.ports[p.val].queue.length < 64)
    (busy : io.ports[p.val].sending.isSome = true) : placeEntryWith drop p e io = putEntry p e io := by
  have idle : io.ports[p.val].sending.isNone = false := by
    cases hs : io.ports[p.val].sending with
    | none => simp [hs] at busy
    | some x => rfl
  simp only [placeEntryWith, Config.queueCapacity, room, if_true, placeWithRoom, idle, Bool.and_false,
    Bool.false_eq_true, if_false, putEntry]

theorem placeEntry_room (c : Net) (room : io.ports[p.val].queue.length < 64)
    (busy : io.ports[p.val].sending.isSome = true) : placeEntry c p e io = putEntry p e io :=
  placeEntryWith_room room busy

/-- A placement at an IDLE port with an empty queue is sent at once. -/
theorem placeEntry_idle (c : Net) (empty : io.ports[p.val].queue = []) (idle : io.ports[p.val].sending = none) :
    placeEntry c p e io
      = startTransmission p (putEntry p e io) := by
  simp only [placeEntry, placeEntryWith, empty, List.length_nil, Config.queueCapacity, Nat.zero_lt_succ, if_true,
    placeWithRoom, idle, List.isEmpty_nil, Option.isNone_none, Bool.and_true, putEntry]

/-- An entry stands behind the priority entries and, being priority, ahead of the routine ones. -/
theorem insertEntry_split (e : Entry) {q : List Entry} (hq : priorityFirst q) :
    ∃ a b, q = a ++ b ∧ insertEntry e q = a ++ e :: b
      ∧ (e.cls = .priority → (∀ x ∈ a, x.cls = .priority) ∧ ∀ x ∈ b, x.cls = .routine)
      ∧ (e.cls = .routine → b = []) := by
  have routine_of : ∀ x : Entry, x.isPriority = false → x.cls = .routine := fun x hx => by
    cases hc : x.cls with
    | routine => rfl
    | priority => simp [Entry.isPriority, hc] at hx
  cases hc : e.cls with
  | routine => exact ⟨q, [], by simp, by simp [insertEntry, Entry.isPriority, hc], by simp⟩
  | priority =>
    refine ⟨q.takeWhile Entry.isPriority, q.dropWhile Entry.isPriority, List.takeWhile_append_dropWhile.symm,
      by simp [insertEntry, Entry.isPriority, hc], fun _ => ⟨fun x hx => ?_, fun x hx => ?_⟩, by simp⟩
    · simpa [Entry.isPriority] using List.mem_takeWhile_imp hx
    · have tail : priorityFirst (q.dropWhile Entry.isPriority) := hq.sublist (List.dropWhile_sublist _)
      have first : ∀ y, (q.dropWhile Entry.isPriority).head? = some y → y.isPriority = false := fun y hy => by
        have := List.head?_dropWhile_not Entry.isPriority q
        rw [hy] at this
        exact this
      cases hd : q.dropWhile Entry.isPriority with
      | nil => rw [hd] at hx; cases hx
      | cons y ys =>
        rw [hd] at hx tail
        have hy := first y (by rw [hd]; rfl)
        refine routine_of x ?_
        obtain rfl | hx := List.mem_cons.mp hx
        · exact hy
        · by_contra hp
          exact Bool.false_ne_true
            (hy.symm.trans ((List.rel_of_pairwise_cons tail hx) (Bool.not_eq_false _ ▸ hp)))

/-- A queue without routine entries has none to give up. -/
theorem removeNewestRoutine_none {q : List Entry} (hq : ∀ x ∈ q, x.cls = .priority) : removeNewestRoutine q = none := by
  induction q with
  | nil => rfl
  | cons x q ih =>
    simp [removeNewestRoutine, ih fun y hy => hq y (by simp [hy]), Entry.isPriority, hq x (by simp)]

/-- A queue in order gives up its last entry when it has a routine one. -/
theorem removeNewestRoutine_some {q : List Entry} (hq : priorityFirst q) (hr : ∃ x ∈ q, x.cls = .routine) :
    ∃ q' d, q = q' ++ [d] ∧ d.cls = .routine ∧ removeNewestRoutine q = some (d, q') := by
  induction q with
  | nil => obtain ⟨x, hx, _⟩ := hr; cases hx
  | cons x q ih =>
    by_cases hr' : ∃ y ∈ q, y.cls = .routine
    · obtain ⟨q', d, rfl, hd, he⟩ := ih (List.Pairwise.of_cons hq) hr'
      exact ⟨x :: q', d, rfl, hd, by simp [removeNewestRoutine, he]⟩
    · have all : ∀ y ∈ q, y.cls = .priority := fun y hy => by
        cases hc : y.cls with
        | priority => rfl
        | routine => exact absurd ⟨y, hy, hc⟩ hr'
      have hx : x.cls = .routine := by
        obtain ⟨y, hy, hc⟩ := hr
        obtain rfl | hy := List.mem_cons.mp hy
        · exact hc
        · exact absurd ⟨y, hy, hc⟩ hr'
      have hn : q = [] := by
        cases q with
        | nil => rfl
        | cons y ys =>
          have first := List.rel_of_pairwise_cons hq (List.mem_cons_self (a := y) (l := ys))
          have hy := all y (by simp)
          simp [Entry.isPriority, hx, hy] at first
      subst hn
      exact ⟨[], x, rfl, hx, by simp [removeNewestRoutine, Entry.isPriority, hx]⟩

/-- A displacing placement drops the reference of a routine entry after its own has been placed. -/
theorem placeEntry_full (c : Net) (full : io.ports[p.val].queue.length = 64) (hc : e.cls = .priority) {d : Entry}
    {q : List Entry} (hd : removeNewestRoutine io.ports[p.val].queue = some (d, q)) :
    placeEntry c p e io
      = dropReference c d.handle
          (addReference e.handle (modPort p (fun x => { x with queue := insertEntry e q }) (countPort p .displaced io))) := by
  simp only [placeEntry, placeEntryWith, full, Config.queueCapacity, Nat.lt_irrefl, if_false, hc, hd]

/-- A placement that a full queue turns away. -/
theorem placeEntry_turnedAway (c : Net) (full : io.ports[p.val].queue.length = 64)
    (h : e.cls = .routine ∨ ∀ x ∈ io.ports[p.val].queue, x.cls = .priority) :
    placeEntry c p e io = countPort p .queueDrops io := by
  simp only [placeEntry, placeEntryWith, full, Config.queueCapacity, Nat.lt_irrefl, if_false]
  cases hc : e.cls with
  | routine => rfl
  | priority =>
    obtain h | h := h
    · rw [hc] at h; cases h
    · simp only [removeNewestRoutine_none h]

theorem startTransmission_other {k : PortNo} (hk : k ≠ p) (io : Io) :
    (startTransmission p io).ports[k.val] = io.ports[k.val] := by
  unfold startTransmission
  split
  · rfl
  · rw [port_modPort, if_neg hk]

/-- With no notice pending a placement moves no other port. -/
theorem placeEntry_other {k : PortNo} (c : Net) (hn : io.pool.noticePending = false) (hk : k ≠ p) :
    (placeEntry c p e io).ports[k.val] = io.ports[k.val] := by
  have other (f : Port → Port) (io : Io) : (modPort p f io).ports[k.val] = io.ports[k.val] := by
    rw [port_modPort, if_neg hk]
  have put : (putEntry p e io).ports[k.val] = io.ports[k.val] := other (fun x => { x with queue := insertEntry e x.queue }) io
  unfold placeEntry placeEntryWith
  dsimp only
  split
  · unfold placeWithRoom
    dsimp only
    split
    · exact (startTransmission_other hk _).trans put
    · exact put
  · split
    · rfl
    · split
      · rfl
      · rename_i d q _
        have same := dropReference_ports_of_no_notice c d.handle (io := addReference e.handle
          (modPort p (fun x => { x with queue := insertEntry e q }) (countPort p .displaced io))) hn
        exact (congrArg (fun v : Vector Port 10 => v[k.val]) same).trans
          (other (fun x => { x with queue := insertEntry e q }) (countPort p .displaced io))

/-! ## Several entries of one buffer -/

/-- The entries of one buffer join their queues, one after the other. -/
def putEntries (l : List (PortNo × Entry)) (io : Io) : Io := l.foldl (fun io x => putEntry x.1 x.2 io) io

@[simp] theorem putEntry_free : (putEntry p e io).pool.free = io.pool.free := rfl
@[simp] theorem putEntry_exhaustion : (putEntry p e io).pool.exhaustion = io.pool.exhaustion := rfl
@[simp] theorem putEntry_noticePending : (putEntry p e io).pool.noticePending = io.pool.noticePending := rfl
@[simp] theorem putEntry_live : (putEntry p e io).live = io.live := rfl
@[simp] theorem putEntry_engine : (putEntry p e io).engine = io.engine := rfl
@[simp] theorem putEntry_restart : (putEntry p e io).restart = io.restart := rfl
@[simp] theorem putEntry_handles : (putEntry p e io).pool.allocated.map Buffer.handle = io.pool.allocated.map Buffer.handle := by
  simp only [putEntry, addReference, modBuffer, List.map_map]
  refine List.map_congr_left fun b _ => ?_
  simp only [Function.comp_apply]
  split <;> rfl

theorem putEntry_ports (q : PortNo) :
    (putEntry p e io).ports[q.val]
      = if q = p then { io.ports[p.val] with queue := insertEntry e io.ports[p.val].queue } else io.ports[q.val] :=
  port_modPort p q (fun x => { x with queue := insertEntry e x.queue }) io

@[simp] theorem putEntry_sending (q : PortNo) : (putEntry p e io).ports[q.val].sending = io.ports[q.val].sending := by
  rw [putEntry_ports]
  split
  · simp_all
  · rfl

theorem putEntry_queue (q : PortNo) :
    (putEntry p e io).ports[q.val].queue
      = if q = p then insertEntry e io.ports[q.val].queue else io.ports[q.val].queue := by
  rw [putEntry_ports]
  by_cases hq : q = p
  · subst hq; simp
  · simp [hq]

theorem putEntry_buffer (k : Handle) :
    bufferOf k (putEntry p e io)
      = if k = e.handle then (bufferOf k io).map fun b => { b with refs := b.refs + 1 } else bufferOf k io :=
  (bufferOf_modBuffer e.handle k (fun b => { b with refs := b.refs + 1 }) (fun _ => rfl) _).trans rfl

@[simp] theorem putEntries_nil : putEntries [] io = io := rfl
@[simp] theorem putEntries_cons (x : PortNo × Entry) (l : List (PortNo × Entry)) :
    putEntries (x :: l) io = putEntries l (putEntry x.1 x.2 io) := rfl

/-- What several placements leave as it was. -/
theorem putEntries_same (l : List (PortNo × Entry)) (io : Io) :
    (putEntries l io).pool.free = io.pool.free
      ∧ (putEntries l io).pool.exhaustion = io.pool.exhaustion
      ∧ (putEntries l io).pool.noticePending = io.pool.noticePending
      ∧ (putEntries l io).pool.allocated.map Buffer.handle = io.pool.allocated.map Buffer.handle
      ∧ (putEntries l io).live = io.live ∧ (putEntries l io).engine = io.engine
      ∧ (putEntries l io).restart = io.restart
      ∧ ∀ q : PortNo, (putEntries l io).ports[q.val].sending = io.ports[q.val].sending := by
  induction l generalizing io with
  | nil => simp
  | cons x l ih =>
    obtain ⟨h1, h2, h3, h4, h5, h6, h7, h8⟩ := ih (putEntry x.1 x.2 io)
    simp only [putEntries_cons, h1, h2, h3, h4, h5, h6, h7, h8]
    simp

/-- Each queue takes its entries in their order. -/
theorem putEntries_queue (l : List (PortNo × Entry)) (io : Io) (q : PortNo) :
    (putEntries l io).ports[q.val].queue
      = (l.filter fun x => x.1 == q).foldl (fun queue x => insertEntry x.2 queue) io.ports[q.val].queue := by
  induction l generalizing io with
  | nil => rfl
  | cons x l ih =>
    rw [putEntries_cons, ih, putEntry_queue]
    by_cases hq : q = x.1
    · simp [hq]
    · simp [hq, Ne.symm hq]

theorem putEntries_length (l : List (PortNo × Entry)) (io : Io) (q : PortNo) :
    (putEntries l io).ports[q.val].queue.length ≤ io.ports[q.val].queue.length + l.length := by
  induction l generalizing io with
  | nil => simp
  | cons x l ih =>
    refine (ih _).trans ?_
    rw [putEntry_queue, List.length_cons]
    split
    · rw [length_insertEntry]; omega
    · omega

theorem mem_putEntries {l : List (PortNo × Entry)} {io : Io} {q : PortNo} {e : Entry} :
    e ∈ (putEntries l io).ports[q.val].queue ↔ e ∈ io.ports[q.val].queue ∨ (q, e) ∈ l := by
  induction l generalizing io with
  | nil => simp
  | cons x l ih =>
    rw [putEntries_cons, ih, putEntry_queue]
    by_cases hq : q = x.1
    · subst hq
      simp only [if_true, mem_insertEntry, List.mem_cons, Prod.ext_iff, true_and]
      tauto
    · simp [hq, Prod.ext_iff]

/-- The buffer that the entries name has a reference more for each. -/
theorem putEntries_buffer {l : List (PortNo × Entry)} (hl : ∀ x ∈ l, x.2.handle = h) (io : Io) (k : Handle) :
    bufferOf k (putEntries l io)
      = if k = h then (bufferOf k io).map fun b => { b with refs := b.refs + l.length } else bufferOf k io := by
  induction l generalizing io with
  | nil => simp
  | cons x l ih =>
    rw [putEntries_cons, ih fun y hy => hl y (by simp [hy]), putEntry_buffer, hl x (by simp)]
    by_cases hk : k = h
    · simp only [hk, if_true, Option.map_map]
      congr 1
      funext b
      simp only [Function.comp_apply, List.length_cons, Buffer.mk.injEq, and_true, true_and]
      omega
    · simp [hk]

/-- The entry of a destination site with its port: none without a route (R35). -/
def Net.entryFor (c : Net) (cls : FrameClass) (h : Handle) (n : SiteId) : Option (PortNo × Entry) :=
  (c.route n).map fun j =>
    (linkPort j, { handle := h, cls := cls, hop := c.active.hopLimit, addressing := .destination n })

theorem entryFor_handle {cls : FrameClass} {sites : List SiteId} :
    ∀ x ∈ sites.filterMap (c.entryFor cls h), x.2.handle = h := by
  intro x hx
  obtain ⟨n, _, hn⟩ := List.mem_filterMap.mp hx
  obtain ⟨j, _, rfl⟩ := Option.map_eq_some_iff.mp hn
  rfl

/-- Placements for sites that have routes, at busy link ports with room. -/
theorem placeForSitesWith_room {drop : Handle → Io → Io} (cls : FrameClass) {sites : List SiteId}
    (routed : ∀ n ∈ sites, (c.route n).isSome = true) (io : Io)
    (room : ∀ j : LinkNo, io.ports[(linkPort j).val].sending.isSome = true
      ∧ io.ports[(linkPort j).val].queue.length + sites.length ≤ 64) :
    placeForSitesWith drop c cls h sites io = putEntries (sites.filterMap (c.entryFor cls h)) io := by
  induction sites generalizing io with
  | nil => rfl
  | cons n sites ih =>
    obtain ⟨j, hj⟩ := Option.isSome_iff_exists.mp (routed n (by simp))
    have first : placeForSiteWith drop c cls h n io
        = putEntry (linkPort j) { handle := h, cls := cls, hop := c.active.hopLimit, addressing := .destination n } io := by
      have := (room j).2
      simp only [List.length_cons] at this
      simp only [placeForSiteWith, hj, placeEntryWith_room (show _ < 64 by omega) (room j).1]
    have entry : c.entryFor cls h n
        = some (linkPort j, { handle := h, cls := cls, hop := c.active.hopLimit, addressing := .destination n }) := by
      simp [Net.entryFor, hj]
    rw [List.filterMap_cons_some entry, putEntries_cons, ← first]
    have step : placeForSitesWith drop c cls h (n :: sites) io
        = placeForSitesWith drop c cls h sites (placeForSiteWith drop c cls h n io) := rfl
    rw [step]
    refine ih (fun m hm => routed m (by simp [hm])) _ fun k => ?_
    rw [first, putEntry_sending, putEntry_queue]
    have hk := room k
    simp only [List.length_cons] at hk
    refine ⟨hk.1, ?_⟩
    split
    · rw [length_insertEntry]; omega
    · omega

/-- The entries of one link's queue are those of the sites it routes, in their order. -/
theorem queuedVia_eq (c : Net) (h : Handle) (sites : List SiteId) (j : LinkNo) (q : List Entry) :
    c.queuedVia h sites j q
      = ((sites.filterMap (c.entryFor .priority h)).filter fun x => x.1 == linkPort j).foldl
          (fun q x => insertEntry x.2 q) q := by
  unfold Net.queuedVia
  induction sites generalizing q with
  | nil => rfl
  | cons n sites ih =>
    cases hr : c.route n with
    | none =>
      have none : c.entryFor .priority h n = none := by simp [Net.entryFor, hr]
      rw [List.filterMap_cons_none none, List.filter_cons_of_neg (by simp [hr])]
      exact ih q
    | some k =>
      have entry : c.entryFor .priority h n
          = some (linkPort k, { handle := h, cls := .priority, hop := c.active.hopLimit, addressing := .destination n }) := by
        simp [Net.entryFor, hr]
      rw [List.filterMap_cons_some entry]
      by_cases hk : k = j
      · rw [List.filter_cons_of_pos (by simp [hr, hk]), List.filter_cons_of_pos (by simp [hk])]
        exact ih _
      · have apart : ¬linkPort k = linkPort j := fun he => hk (Fin.ext (by
          have := congrArg Fin.val he
          simpa [linkPort_val] using this))
        rw [List.filter_cons_of_neg (by simp [hr, hk]), List.filter_cons_of_neg (by simpa using apart)]
        exact ih q

theorem managementSites_routed (c : Net) : ∀ n ∈ c.managementSites, (c.route n).isSome = true := fun _ hn =>
  (List.mem_filter.mp hn).2

theorem routedSites_routed (c : Net) : ∀ n ∈ c.routedSites, (c.route n).isSome = true := fun _ hn =>
  (List.mem_filter.mp hn).2

/-! ## The pending notice (R27) -/

/-- What the last drop of R24 meets when a notice is pending and the free list is empty: step 4 takes the handle that
step 3 has just freed. -/
theorem dropReference_notice {b : Buffer} (c : Net) (hb : bufferOf h io = some b) (last : b.refs = 1)
    (hn : io.pool.noticePending = true) (hf : io.pool.free = []) :
    ∃ io', dropReference c h io
        = dropReferenceQuietly c.active.bufferReserve h
            (placeForSitesWith (dropReferenceQuietly c.active.bufferReserve) c .priority h c.managementSites io')
      ∧ bufferOf h io' = some { handle := h, refs := 1, bytes := mgmtNoticeBytes c 3#8 0 0 [], completion := none }
      ∧ io'.pool.free = [] ∧ io'.pool.noticePending = false ∧ io'.live = io.live ∧ io'.ports = io.ports := by
  have hh := handle_of_bufferOf hb
  have released : dropReferenceQuietly c.active.bufferReserve h io = releaseBuffer c.active.bufferReserve b io :=
    dropReferenceQuietly_last _ hb (by omega)
  have pending : (releaseBuffer c.active.bufferReserve b io).pool.noticePending = true := by
    simpa only [releaseBuffer, answerUnsent_pool] using hn
  have free : (releaseBuffer c.active.bufferReserve b io).pool.free = [h] := by
    rw [releaseBuffer_free, hf, hh, List.nil_append]
  have lastRef : isLastReference h io = true := by simp [isLastReference, hb, last]
  refine ⟨modBuffer h (fun b => { b with bytes := mgmtNoticeBytes c 3#8 0 0 [] })
    (takeBuffer h []
      { releaseBuffer c.active.bufferReserve b io with
        pool := { (releaseBuffer c.active.bufferReserve b io).pool with noticePending := false } }),
    ?_, ?_, rfl, rfl, answerUnsent_live _ io, answerUnsent_ports _ io⟩
  · simp only [dropReference, lastRef, released, pending, Bool.and_true, if_true, sendPoolExhausted, free]
  · rw [bufferOf_modBuffer _ _ (fun b => { b with bytes := mgmtNoticeBytes c 3#8 0 0 [] }) (fun _ => rfl), if_pos rfl, bufferOf_takeBuffer, if_pos rfl]
    rfl

/-- With no management site to tell, the handle is free again. -/
theorem dropReference_notice_let_go {b : Buffer} (c : Net) (hb : bufferOf h io = some b) (last : b.refs = 1)
    (hn : io.pool.noticePending = true) (hf : io.pool.free = []) (none : c.managementSites = []) :
    (dropReference c h io).pool.noticePending = false ∧ (dropReference c h io).pool.free = [h]
      ∧ bufferOf h (dropReference c h io) = Option.none := by
  obtain ⟨io', he, hb', free, pending, -⟩ := dropReference_notice c hb last hn hf
  have drop : dropReference c h io = dropReferenceQuietly c.active.bufferReserve h io' := by rw [he, none]; rfl
  have quiet : dropReferenceQuietly c.active.bufferReserve h io' = dropReference c h io' :=
    (dropReference_quietly c h pending).symm
  obtain ⟨gone, joined⟩ := dropReference_last c hb' rfl pending
  rw [drop, dropReferenceQuietly_noticePending, pending, quiet, gone, joined, free]
  exact ⟨rfl, rfl, rfl⟩

/-- Otherwise the notice stands in the buffer, with a reference for each of its entries. -/
theorem dropReference_notice_sent {b : Buffer} (c : Net) (hb : bufferOf h io = some b) (last : b.refs = 1)
    (hn : io.pool.noticePending = true) (hf : io.pool.free = []) (some : c.managementSites ≠ [])
    (room : ∀ p : PortNo, io.ports[p.val].sending.isSome = true
      ∧ io.ports[p.val].queue.length + c.managementSites.length ≤ 64) :
    ∃ io', dropReference c h io = modBuffer h (fun b => { b with refs := b.refs - 1 })
          (putEntries (c.managementSites.filterMap (c.entryFor .priority h)) io')
      ∧ bufferOf h io'
        = Option.some { handle := h, refs := 1, bytes := mgmtNoticeBytes c 3#8 0 0 [], completion := Option.none }
      ∧ io'.pool.free = [] ∧ io'.pool.noticePending = false ∧ io'.live = io.live ∧ io'.ports = io.ports
      ∧ (c.managementSites.filterMap (c.entryFor .priority h)).length = c.managementSites.length := by
  obtain ⟨io', he, hb', free, pending, live, ports⟩ := dropReference_notice c hb last hn hf
  have routed := managementSites_routed c
  have placed := placeForSitesWith_room (h := h) (drop := dropReferenceQuietly c.active.bufferReserve) .priority routed
    io' fun j => by rw [ports]; exact room (linkPort j)
  have length : (c.managementSites.filterMap (c.entryFor .priority h)).length = c.managementSites.length := by
    generalize c.managementSites = sites at routed
    induction sites with
    | nil => rfl
    | cons n sites ih =>
      obtain ⟨j, hj⟩ := Option.isSome_iff_exists.mp (routed n (by simp))
      have entry : c.entryFor .priority h n
          = Option.some (linkPort j, { handle := h, cls := .priority, hop := c.active.hopLimit, addressing := .destination n }) := by
        simp [Net.entryFor, hj]
      simp [List.filterMap_cons_some entry, ih fun m hm => routed m (by simp [hm])]
  have count : 1 ≤ c.managementSites.length := List.length_pos_of_ne_nil some
  refine ⟨io', ?_, hb', free, pending, live, ports, length⟩
  rw [he, placed]
  refine dropReferenceQuietly_many
    (b := { handle := h
            refs := 1 + (c.managementSites.filterMap (c.entryFor .priority h)).length
            bytes := mgmtNoticeBytes c 3#8 0 0 []
            completion := Option.none }) _ ?_ ?_
  · rw [putEntries_buffer entryFor_handle, if_pos rfl, hb']
    rfl
  · show 2 ≤ 1 + _
    omega

end Sys2Proof.Machine

open Sys2Proof Sys2Proof.Machine

/-- Settles O24: requests by the three cases of `allocate`; drops by whether the reference is the last one and whether a
notice waits for the buffer. -/
theorem poolGrantsAndReleases : Obligations.PoolGrantsAndReleases := by
  refine ⟨fun reserve cls io => ?_, fun c h b io hb => ⟨fun many => ?_, fun last hn => ?_, ?_, ?_⟩⟩
  · refine ⟨?_, ?_, ?_, fun hf => by rw [allocate_empty reserve cls hf]; exact ⟨rfl, rfl⟩, fun h rest hf hc low => ?_,
      fun h rest hf hc => ?_⟩
    case _ | _ | _ =>
      unfold allocate noteExcess noteEmpty
      cases hf : io.pool.free with
      | nil => simp only [hf]; split <;> rfl
      | cons h rest => simp only [hf]; split <;> rfl
    · subst hc
      rw [allocate_reserve hf low]
      exact ⟨rfl, rfl⟩
    · rw [allocate_granted hf hc]
      refine ⟨rfl, rfl, ?_, fun k hk => ?_, rfl, rfl⟩
      · rw [bufferOf_takeBuffer, if_pos rfl]
      · rw [bufferOf_takeBuffer, if_neg hk]
        rfl
  · have notLast : isLastReference h io = false := by simp [isLastReference, hb]; omega
    have drop : dropReference c h io = modBuffer h (fun b => { b with refs := b.refs - 1 }) io := by
      simp only [dropReference, notLast, Bool.false_and, Bool.false_eq_true, if_false]
      exact dropReferenceQuietly_many _ hb many
    rw [drop, bufferOf_modBuffer _ _ (fun b => { b with refs := b.refs - 1 }) (fun _ => rfl), if_pos rfl, hb]
    exact ⟨rfl, rfl⟩
  · obtain ⟨gone, free⟩ := dropReference_last c hb last hn
    refine ⟨gone, free, ?_⟩
    rw [dropReference_quietly c h hn, dropReferenceQuietly_last _ hb (by omega)]
    simp only [releaseBuffer, answerUnsent_pool]
  · exact dropReference_notice_let_go c hb
  · intro last hn hf some room
    obtain ⟨io', he, hb', free, pending, live, ports, length⟩ := dropReference_notice_sent c hb last hn hf some room
    obtain ⟨sameFree, -, samePending, -, sameLive, -, -, -⟩ :=
      putEntries_same (c.managementSites.filterMap (c.entryFor .priority h)) io'
    have queue : ∀ p : PortNo, (dropReference c h io).ports[p.val].queue
        = ((c.managementSites.filterMap (c.entryFor .priority h)).filter fun x => x.1 == p).foldl
            (fun queue x => insertEntry x.2 queue) io.ports[p.val].queue := fun p => by
      rw [he]
      refine (putEntries_queue _ io' p).trans ?_
      rw [ports]
    dsimp only
    refine ⟨?_, ?_, ?_, ?_, fun n => ?_, fun j => ?_⟩
    · rw [he]; exact samePending.trans pending
    · rw [he]; exact sameFree.trans free
    · rw [he]; exact sameLive.trans live
    · rw [he, bufferOf_modBuffer _ _ (fun b => { b with refs := b.refs - 1 }) (fun _ => rfl), if_pos rfl,
        putEntries_buffer entryFor_handle, if_pos rfl, hb', length]
      simp only [Option.map_some, Nat.add_sub_cancel_left]
      rfl
    · rw [queue]
      have none : ((c.managementSites.filterMap (c.entryFor .priority h)).filter fun x => x.1 == chanPort n) = [] := by
        refine List.filter_eq_nil_iff.mpr fun x hx => ?_
        obtain ⟨m, _, hm⟩ := List.mem_filterMap.mp hx
        obtain ⟨j, _, rfl⟩ := Option.map_eq_some_iff.mp hm
        have := n.isLt
        simp only [beq_iff_eq, Fin.ext_iff, linkPort, chanPort]
        omega
      rw [none]
      rfl
    · rw [queue, queuedVia_eq]

/-- Settles O25: a placement either finds room, sending at once at an IDLE port, or is turned away, or displaces the
newest routine entry. -/
theorem queuePlacesByClass : Obligations.QueuePlacesByClass := by
  intro c p e io hn
  refine ⟨fun k hk => ?_, fun room busy order => ?_, fun empty idle => ?_, fun full h => placeEntry_turnedAway c full h,
    fun full hc some order => ?_⟩
  · rw [placeEntry_other c hn hk]
  · obtain ⟨a, b, hq, hi, hp, hr⟩ := insertEntry_split e order
    rw [placeEntry_room c room busy]
    exact ⟨a, b, hq, by rw [putEntry_queue, if_pos rfl, hi], rfl, hp, hr⟩
  · rw [placeEntry_idle c empty idle]
    have queue : (putEntry p e io).ports[p.val].queue = [e] := by
      rw [putEntry_queue, if_pos rfl, empty]
      cases hc : e.isPriority <;> simp [insertEntry, hc]
    have bytes : bytesOf e.handle (putEntry p e io) = bytesOf e.handle io := by
      unfold bytesOf
      rw [putEntry_buffer, if_pos rfl]
      cases bufferOf e.handle io <;> rfl
    simp only [startTransmission, queue, port_modPort, if_true, bytes, and_self]
  · obtain ⟨q', d, hq, hd, removed⟩ := removeNewestRoutine_some order some
    rw [placeEntry_full c full hc removed]
    have sub : priorityFirst q' := by
      rw [hq] at order
      exact order.sublist (List.sublist_append_left q' [d])
    obtain ⟨a, b, hq', hi, hp, -⟩ := insertEntry_split e sub
    obtain ⟨ha, hb⟩ := hp hc
    refine ⟨a, b, d, a ++ e :: b, by rw [hq, hq'], hd, rfl, ?_, ha, hb, ?_⟩
    · rw [dropReference_ports_of_no_notice _ _ (by exact hn)]
      refine (congrArg Port.queue (port_modPort p p (fun x => { x with queue := insertEntry e q' }) _)).trans ?_
      simp [hi]
    · rw [dropReference_quietly _ _ (by exact hn), dropReferenceQuietly_live]
      rfl
end

section
/-! PROOFS. Reception at a port (R4, R5, R7 to R12, R19, R20): the checks of a header by kind code, the frame in
progress that is cut off, the data bytes, the 20th byte, and the judgement at the end delimiter. -/

namespace Sys2Proof.Machine

/-! ## Kinds by code (R4) -/

theorem ofCode_eq_some {c : Byte} {k : Kind} (h : Kind.ofCode c = some k) : c = k.code := by
  have := List.find?_some h
  exact (beq_iff_eq.mp this).symm

/-- A code that names no kind is none of the 28 (R4). -/
theorem ofCode_eq_none {c : Byte} (h : Kind.ofCode c = none) :
    c.toNat ∉ [1, 2, 3, 4, 5, 6, 7, 16, 17, 18, 19, 20, 21, 22, 32, 33, 48, 49, 50, 51, 52, 53, 64, 80, 81, 96, 97, 98] := by
  have codes : [1, 2, 3, 4, 5, 6, 7, 16, 17, 18, 19, 20, 21, 22, 32, 33, 48, 49, 50, 51, 52, 53, 64, 80, 81, 96, 97, 98]
      = Kind.all.map fun k => k.code.toNat := rfl
  rw [codes, List.mem_map]
  rintro ⟨k, hk, he⟩
  have := List.find?_eq_none.mp h k hk
  exact this (beq_iff_eq.mpr (BitVec.eq_of_toNat_eq he))

/-- The Length check of R10 is the range of the kind's code. -/
theorem lengthCheck_iff (h : Header) : lengthCheck h = true ↔ h.lengthInRange := by
  unfold lengthCheck Header.kindOf Header.lengthInRange
  cases hk : Kind.ofCode h.kind with
  | none =>
    have := ofCode_eq_none hk
    simp only [List.mem_cons, List.not_mem_nil, or_false, not_or] at this ⊢
    simp [this]
  | some k =>
    have sub (n : Nat) (hn : n < 256) : h.subcode.toNat = n ↔ h.subcode = BitVec.ofNat 8 n := by
      rw [← BitVec.toNat_inj, BitVec.toNat_ofNat, Nat.mod_eq_of_lt hn]
    rw [ofCode_eq_some hk]
    cases k <;> simp [Kind.code, Kind.lengthOk, and_assoc, sub]
    by_cases h1 : h.subcode = 1#8
    · simp [h1]
    · by_cases h2 : h.subcode = 2#8
      · simp [h2]
      · by_cases h3 : h.subcode = 3#8 <;> simp [h1, h2, h3]

/-- The class of R5 by kind code. -/
theorem frameClass_iff (h : Header) : h.frameClass = .priority ↔ h.isUrgent := by
  unfold Header.frameClass Header.kindOf Header.isUrgent
  cases hk : Kind.ofCode h.kind with
  | none =>
    have := ofCode_eq_none hk
    simp only [List.mem_cons, List.not_mem_nil, or_false, not_or] at this ⊢
    simp [this]
  | some k =>
    rw [ofCode_eq_some hk]
    cases k <;> cases h.emergency <;> simp [Kind.code, Kind.frameClass]

theorem unitIdOk_iff (u : UnitId) : unitIdOk u = true ↔ 1 ≤ u ∧ u ≤ 16777214 := by
  rw [unitIdOk, Bool.and_eq_true, decide_eq_true_iff, decide_eq_true_iff]
  rfl

/-- The Header check of R10 by kind code. -/
theorem headerCheck_iff (p : PortNo) (h : Header) (s : State) :
    headerCheck s.isUnconfigured s.own (isLinkPort p) h = true ↔ s.headerInOrder p h := by
  unfold headerCheck Header.kindOf State.headerInOrder
  cases hk : Kind.ofCode h.kind with
  | none =>
    have := ofCode_eq_none hk
    simp only [List.mem_cons, List.not_mem_nil, or_false, not_or] at this ⊢
    by_cases hp : p.val < 6 <;> simp [this, hp, Nat.le_of_not_lt]
  | some k =>
    rw [ofCode_eq_some hk]
    by_cases hp : p.val < 6
    · have channel : isLinkPort p = false := by simp [isLinkPort]; omega
      have low : ¬6 ≤ p.val := by omega
      cases k <;> simp [channel, hp, low, Kind.code, Kind.onChannel, Kind.subcodeOk, Kind.subcodes, Kind.usesUnit,
        Kind.carriesHandoverId, unitIdOk_iff]
    · have link : isLinkPort p = true := by simp [isLinkPort]; omega
      have high : 6 ≤ p.val := by omega
      cases k <;> simp [link, hp, high, Kind.code, Kind.onLink, Kind.subcodeOk, Kind.subcodes, Kind.usesUnit,
        Kind.carriesHandoverId, unitIdOk_iff, siteIdOk_iff, addressCheck, Kind.addressing, Kind.passedOnOnly, Header.tagLow,
        State.isUnconfigured, and_assoc]
      have two : h.subcode.toNat = 2 ↔ h.subcode = 2#8 := by rw [← BitVec.toNat_inj]; rfl
      intro _ _ _ _ _ _ _
      rw [two]
      exact imp_iff_not_or.symm

/-! ## The frame in progress -/

variable {p : PortNo} {s : State}

@[simp] theorem enterReception_receptionOf (q : PortNo) (r : Reception) :
    receptionOf q (enterReception p r s) = if q = p then r else receptionOf q s := by
  refine (congrArg Port.reception (port_modPort p q (fun x => { x with reception := r }) s.io)).trans ?_
  split <;> rfl

@[simp] theorem enterReception_handedAt (q : PortNo) (r : Reception) :
    (enterReception p r s).handedAt q = s.handedAt q := by
  refine (congrArg Port.handed (port_modPort p q (fun x => { x with reception := r }) s.io)).trans ?_
  split
  · subst_vars; rfl
  · rfl

@[simp] theorem enterReception_pool (r : Reception) : (enterReception p r s).io.pool = s.io.pool := rfl
@[simp] theorem enterReception_live (r : Reception) : (enterReception p r s).io.live = s.io.live := rfl
theorem enterReception_frame (r : Reception) : s.sameButIo (enterReception p r s) := rfl

/-- The counters of the ports lie among the 158 (R161). -/
theorem portCounterNumber_lt (p : PortNo) (c : PortCounter) : portCounterNumber p c < 158 := by
  have := p.isLt
  cases c <;> simp only [portCounterNumber, PortCounter.offset] <;> omega

theorem countPort_raisedAt (c : PortCounter) (hs : s.counterLaw) {t : State}
    (ht : t.io.live.getD (portCounterNumber p c) 0 = (countPort p c s.io).live.getD (portCounterNumber p c) 0) :
    s.raisedAt p c t :=
  ht.trans (bumpAt_self (by rw [hs.1.1]; exact portCounterNumber_lt p c))

/-- The causes by which a frame in progress fails, but for the hop count, are not counters of sending (R161). -/
theorem not_sendCounter_port (p : PortNo) {c : PortCounter}
    (hc : c ≠ .hopExpired ∧ c ≠ .queueDrops ∧ c ≠ .displaced ∧ c ≠ .noRoute) : ¬sendCounter (portCounterNumber p c) := by
  obtain ⟨h1, h2, h3, h4⟩ := hc
  have := p.isLt
  cases c <;> simp only [sendCounter, portCounterNumber, PortCounter.offset] <;>
    simp only [ne_eq, not_true_eq_false] at h1 h2 h3 h4 <;> omega

/-- A frame in progress that ends uncounted or is counted, its buffer let go (R8, R9). -/
structure CutAs (p : PortNo) (c : PortCounter) (s t : State) : Prop where
  counted : (receptionOf p s).isJudged = true → s.raisedAt p c t
  kept : (receptionOf p s).isJudged = false → t.io.live = s.io.live
  intake : s.sameIntake t
  frame : s.sameButIo t
  released : ∀ h b, receptionOf p s = .store h → bufferOf h s.io = some b → b.refs = 1 →
    s.io.pool.noticePending = false → bufferOf h t.io = none ∧ t.io.pool.free = s.io.pool.free ++ [h]

theorem cutReception_cuts {c : PortCounter} (hs : s.counterLaw)
    (hc : c ≠ .hopExpired ∧ c ≠ .queueDrops ∧ c ≠ .displaced ∧ c ≠ .noRoute) : CutAs p c s (cutReception p c s) := by
  have counted : CutAs p c s (countPortOf p c s) ∨ (receptionOf p s).isJudged = false ∨ ∃ h, receptionOf p s = .store h := by
    cases hr : receptionOf p s with
    | hunt => exact .inr (.inl rfl)
    | store h => exact .inr (.inr ⟨h, rfl⟩)
    | header bytes =>
      exact .inl ⟨fun _ => countPort_raisedAt c hs rfl, by simp [hr, Reception.isJudged], fun _ => ⟨rfl, rfl⟩, rfl,
        by simp [hr]⟩
    | discard bytes why =>
      cases why with
      | refused => exact .inr (.inl rfl)
      | failed f =>
        exact .inl ⟨fun _ => countPort_raisedAt c hs rfl, by simp [hr, Reception.isJudged], fun _ => ⟨rfl, rfl⟩, rfl,
          by simp [hr]⟩
  unfold cutReception
  cases hr : receptionOf p s with
  | hunt => exact ⟨by simp [hr, Reception.isJudged], fun _ => rfl, fun _ => ⟨rfl, rfl⟩, rfl, by simp [hr]⟩
  | header bytes => simpa [hr, Reception.isJudged] using counted
  | store h =>
    have moved := Moves.dropReference (P := False) (c := s.net) False.elim h (countPort p c s.io)
    refine ⟨fun _ => countPort_raisedAt c hs (moved.kept (not_sendCounter_port p hc)), by simp [hr, Reception.isJudged],
      fun q => ⟨(moved.ports q).2.1, (moved.ports q).1⟩, rfl, fun k b hk hb last hn => ?_⟩
    obtain rfl : h = k := by simpa [hr] using hk
    exact dropReference_last (io := countPort p c s.io) s.net hb last hn
  | discard bytes why =>
    cases why with
    | failed f => simpa [hr, Reception.isJudged] using counted
    | refused => exact ⟨by simp [hr, Reception.isJudged], fun _ => rfl, fun _ => ⟨rfl, rfl⟩, rfl, by simp [hr]⟩

/-- The same with the port in its next reception state. -/
theorem CutAs.enter {c : PortCounter} {t : State} (h : CutAs p c s t) (r : Reception) :
    let u := enterReception p r t
    receptionOf p u = r
      ∧ ((receptionOf p s).isJudged = true → s.raisedAt p c u)
      ∧ ((receptionOf p s).isJudged = false → u.io.live = s.io.live)
      ∧ (∀ q, q ≠ p → receptionOf q u = receptionOf q s) ∧ (∀ q, u.handedAt q = s.handedAt q)
      ∧ s.sameButIo u
      ∧ ∀ h b, receptionOf p s = .store h → bufferOf h s.io = some b → b.refs = 1 →
          s.io.pool.noticePending = false → bufferOf h u.io = none ∧ u.io.pool.free = s.io.pool.free ++ [h] := by
  refine ⟨by simp, h.counted, h.kept, fun q hq => by simp [hq, (h.intake q).2], fun q => by simp [(h.intake q).1], ?_,
    h.released⟩
  have frame := h.frame
  unfold State.sameButIo at frame ⊢
  rw [frame]
  rfl

theorem whileTaking_released {f : State → State} (h : s.resetHeld = false) : whileTaking f s = f s := by
  simp [whileTaking, h]

/-- The 257th byte ends the frame as too long. -/
theorem takeByte_tooLong (b : Byte)
    (full : (∃ h, receptionOf p s = .store h ∧ 256 ≤ (bytesOf h s.io).length)
      ∨ ∃ bytes why, receptionOf p s = .discard bytes why ∧ 256 ≤ bytes.length) :
    frameFull p s = true ∧ takeByte p b s = takeTooLong p s := by
  rw [frameFull_eq]
  unfold takeByte
  obtain ⟨h, hr, long⟩ | ⟨bytes, why, hr, long⟩ := full
  · rw [hr]
    exact ⟨by simpa using long, if_neg (Nat.not_lt.mpr long)⟩
  · rw [hr]
    exact ⟨by simpa using long, if_neg (Nat.not_lt.mpr long)⟩

/-! ## The 20th byte (R10) -/

theorem HeaderFailures.any_eq_false (f : HeaderFailures) :
    f.any = false ↔ f.length = false ∧ f.header = false ∧ f.hop = false ∧ f.running = false := by
  simp [HeaderFailures.any, and_assoc]

theorem takeByte_twentieth (b : Byte) {bytes : List Byte} (hr : receptionOf p s = .header bytes)
    (len : bytes.length = 19) :
    headerNearlyComplete p s = true ∧ takeByte p b s = completeHeader p (bytes ++ [b]) s := by
  rw [headerNearlyComplete_eq]
  unfold takeByte
  rw [hr]
  exact ⟨by simpa using len, if_neg (by rw [len]; decide)⟩

/-- A header that passes asks the pool, which grants it the head handle, or refuses it (R10, R19, R20). -/
theorem storeFrame_granted {bytes : List Byte} {reserve : Nat} {io : Io} {k : Handle} {rest : List Handle}
    (hf : io.pool.free = k :: rest) (hc : (parseHeader bytes).frameClass = .priority ∨ reserve < io.pool.free.length) :
    storeFrame p bytes reserve io
      = setReception p (.store k)
          (modBuffer k (fun b => { b with bytes := bytes }) (takeBuffer k rest (noteExcess reserve io))) := by
  rw [storeFrame, allocate_granted hf hc]

theorem storeFrame_reserve {bytes : List Byte} {reserve : Nat} {io : Io} {k : Handle} {rest : List Handle}
    (hf : io.pool.free = k :: rest) (hc : (parseHeader bytes).frameClass = .routine) (low : io.pool.free.length ≤ reserve) :
    storeFrame p bytes reserve io = setReception p (.discard bytes .refused) (countPort p .reserveDrops io) := by
  rw [storeFrame, hc, allocate_reserve hf low]

theorem storeFrame_empty {bytes : List Byte} {reserve : Nat} {io : Io} (hf : io.pool.free = []) :
    ∃ pool, storeFrame p bytes reserve io
      = setReception p (.discard bytes .refused) (countPort p .emptyDrops { io with pool := pool }) := by
  rw [storeFrame, allocate_empty reserve _ hf]
  exact ⟨_, rfl⟩

theorem setReception_reception (q : PortNo) (r : Reception) (io : Io) :
    (setReception p r io).ports[q.val].reception = if q = p then r else io.ports[q.val].reception := by
  refine (congrArg Port.reception (port_modPort p q (fun x => { x with reception := r }) io)).trans ?_
  split <;> rfl

theorem setReception_handed (q : PortNo) (r : Reception) (io : Io) :
    (setReception p r io).ports[q.val].handed = io.ports[q.val].handed := by
  refine (congrArg Port.handed (port_modPort p q (fun x => { x with reception := r }) io)).trans ?_
  split
  · subst_vars; rfl
  · rfl

end Sys2Proof.Machine

open Sys2Proof Sys2Proof.Machine

/-- Settles O19: all three ends of a frame in progress are `cutReception` for their cause. -/
theorem cutFramesAreCounted : Obligations.CutFramesAreCounted := by
  intro p s released hs
  have cuts (c : PortCounter) (hc : c ≠ .hopExpired ∧ c ≠ .queueDrops ∧ c ≠ .displaced ∧ c ≠ .noRoute)
      (r : Reception) := (cutReception_cuts (p := p) hs hc).enter r
  refine ⟨⟨_, congrArg Host.Outcome.next (whileTaking_released released), cuts .aborted (by decide) (.header [])⟩,
    ⟨_, congrArg Host.Outcome.next (whileTaking_released released), cuts .aborted (by decide) .hunt⟩, fun b full => ?_⟩
  obtain ⟨isFull, long⟩ := takeByte_tooLong b full
  have excess : exec (.frameTooLong p b) s = .next (takeTooLong p s) := by
    refine congrArg Host.Outcome.next ((whileTaking_released released).trans ?_)
    rw [takeExcess, if_pos isFull, long]
  refine ⟨?_, _, excess, cuts .tooLong (by decide) .hunt⟩
  rw [excess]
  exact congrArg Host.Outcome.next ((whileTaking_released released).trans long)

/-- Settles O20, by the reception state. -/
theorem dataBytesFillFrames : Obligations.DataBytesFillFrames := by
  intro p b s released
  have taken : exec (.dataByte p b) s = .next (takeByte p b s) :=
    congrArg Host.Outcome.next (whileTaking_released released)
  refine ⟨fun hr => ⟨s, ?_, rfl⟩, fun bytes hr short => ⟨_, taken, ?_⟩, fun h x hr hx short => ⟨_, taken, ?_⟩,
    fun bytes why hr short => ⟨_, taken, ?_⟩⟩
  · rw [taken, takeByte, hr]
  · rw [takeByte, hr]
    exact if_pos (show bytes.length + 1 < 20 by omega)
  · have room : (bytesOf h s.io).length < 256 := by rw [bytesOf, hx]; exact short
    have write : takeByte p b s = s.onIo fun _ => modBuffer h fun x => { x with bytes := x.bytes ++ [b] } := by
      rw [takeByte, hr]
      exact if_pos room
    have kept : ∀ x : Buffer, ({ x with bytes := x.bytes ++ [b] } : Buffer).handle = x.handle := fun _ => rfl
    rw [write]
    refine ⟨rfl, ?_, ?_, fun k hk => ?_⟩
    · simp only [State_onIo_io, modBuffer, List.map_map]
      refine List.map_congr_left fun y _ => ?_
      simp only [Function.comp_apply]
      split <;> rfl
    · rw [State_onIo_io, bufferOf_modBuffer _ _ _ kept, if_pos rfl, hx]
      rfl
    · rw [State_onIo_io, bufferOf_modBuffer _ _ _ kept, if_neg hk]
  · rw [takeByte, hr]
    exact if_pos short

/-- Settles O21: the checks by kind code, and the pool's three answers. -/
theorem twentiethByteDecides : Obligations.TwentiethByteDecides := by
  refine ⟨fun p h s => ⟨?_, ?_, ?_, ?_, HeaderFailures.any_eq_false _, frameClass_iff h⟩,
    fun p b bytes s released hs hr len => ?_⟩
  · simpa [headerFailures] using lengthCheck_iff h
  · simpa [headerFailures] using headerCheck_iff p h s
  · by_cases hp : 6 ≤ p.val <;> simp [headerFailures, hopCheck, isLinkPort, hp]
  · by_cases hp : 6 ≤ p.val <;> cases hps : s.partState <;>
      simp [headerFailures, runningCheck, isLinkPort, hp, State.isUnconfigured, hps, Header.isKind, Kind.code]
  · intro all hdr f
    obtain ⟨nearly, complete⟩ := takeByte_twentieth b hr len
    have named : exec (.frameHeaderComplete p b) s = .next (completeHeader p all s) := by
      refine congrArg Host.Outcome.next ((whileTaking_released released).trans ?_)
      rw [takeTwentieth, if_pos nearly, complete]
    refine ⟨?_, _, named, ?_⟩
    · rw [named]
      exact congrArg Host.Outcome.next ((whileTaking_released released).trans complete)
    by_cases hf : f.any = true
    · have failed : completeHeader p all s = enterReception p (.discard all (.failed f)) s := if_pos hf
      rw [failed]
      exact ⟨rfl, fun q hq => by simp [hq], fun q => by simp, fun _ => ⟨by simp, rfl, rfl⟩, fun h => by simp [hf] at h⟩
    · have passed : completeHeader p all s = s.onIo fun c => storeFrame p all c.active.bufferReserve := if_neg hf
      rw [passed]
      have stored (r : Reception) (io : Io)
          (he : storeFrame p all s.active.bufferReserve s.io = setReception p r io) (same : io.ports = s.io.ports) :
          receptionOf p (s.onIo fun c => storeFrame p all c.active.bufferReserve) = r
            ∧ (∀ q, q ≠ p → receptionOf q (s.onIo fun c => storeFrame p all c.active.bufferReserve) = receptionOf q s)
            ∧ ∀ q, (s.onIo fun c => storeFrame p all c.active.bufferReserve).handedAt q = s.handedAt q := by
        have io_eq : (s.onIo fun c => storeFrame p all c.active.bufferReserve).io = setReception p r io := he
        simp only [receptionOf, State.handedAt, io_eq, setReception_reception, setReception_handed, if_true]
        refine ⟨trivial, fun q hq => ?_, fun q => ?_⟩
        · rw [if_neg hq, same]
        · rw [same]
      cases hfree : s.io.pool.free with
      | nil =>
        obtain ⟨pool, he⟩ := storeFrame_empty (p := p) (bytes := all) (reserve := s.active.bufferReserve) hfree
        obtain ⟨h1, h2, h3⟩ := stored _ _ he rfl
        refine ⟨rfl, h2, h3, fun h => absurd h hf, fun _ => ⟨by simp, by simp, fun _ => ⟨h1, ?_⟩⟩⟩
        exact countPort_raisedAt .emptyDrops hs ((congrArg (fun io : Io => io.live.getD _ 0) he).trans rfl)
      | cons k rest =>
        by_cases hc : hdr.frameClass = .priority ∨ s.active.bufferReserve < s.io.pool.free.length
        · have he := storeFrame_granted (p := p) (bytes := all) hfree hc
          obtain ⟨h1, h2, h3⟩ := stored _ _ he rfl
          have io_eq : (s.onIo fun c => storeFrame p all c.active.bufferReserve).io = _ := he
          refine ⟨rfl, h2, h3, fun h => absurd h hf, fun _ => ⟨fun k' rest' hk' _ => ?_, fun _ routine low => ?_, by simp⟩⟩
          · obtain ⟨rfl, rfl⟩ := List.cons.inj hk'
            refine ⟨h1, by rw [io_eq]; rfl, by rw [io_eq]; rfl, ?_⟩
            rw [io_eq]
            refine (bufferOf_modBuffer k k (fun b => { b with bytes := all }) (fun _ => rfl) _).trans ?_
            rw [if_pos rfl, bufferOf_takeBuffer, if_pos rfl]
            rfl
          · rw [hfree] at hc
            obtain hc | hc := hc
            · rw [routine] at hc; cases hc
            · omega
        · have routine : hdr.frameClass = .routine := by
            cases h : hdr.frameClass with
            | routine => rfl
            | priority => exact absurd (.inl h) hc
          have low : s.io.pool.free.length ≤ s.active.bufferReserve := Nat.not_lt.mp fun h => hc (.inr h)
          have he := storeFrame_reserve (p := p) (bytes := all) hfree routine low
          obtain ⟨h1, h2, h3⟩ := stored _ _ he rfl
          have io_eq : (s.onIo fun c => storeFrame p all c.active.bufferReserve).io = _ := he
          refine ⟨rfl, h2, h3, fun h => absurd h hf, fun _ => ⟨fun k' rest' _ hc' => ?_, fun _ _ _ => ⟨h1, ?_, ?_⟩, by simp⟩⟩
          · rw [hfree] at hc
            exact absurd hc' hc
          · rw [io_eq]
            exact hfree
          · exact countPort_raisedAt .reserveDrops hs ((congrArg (fun io : Io => io.live.getD _ 0) he).trans rfl)
end

section
/-! PROOFS. A frame at its end delimiter (R8, R9, R11, R12) and the end of a transmission (R14, R25, R95). -/

namespace Sys2Proof.Machine

variable {p : PortNo} {s : State}

/-- Cause 3 of R9 does not apply: the byte count, the payload length and its range, and a FULL notice's count. -/
theorem frameLengthOk_iff (bytes : List Byte) :
    frameLengthOk bytes = true ↔
      22 ≤ bytes.length ∧ bytes.length = 22 + (parseHeader bytes).payloadLength.toNat
        ∧ (parseHeader bytes).lengthInRange
        ∧ ((parseHeader bytes).kind = 64 → (parseHeader bytes).subcode = 3 →
          (parseHeader bytes).payloadLength.toNat = 2 + 2 * (byteAt bytes 21).toNat ∧ (byteAt bytes 21).toNat ≤ 64) := by
  have notice : (parseHeader bytes).isKind .membershipNotice = true ↔ (parseHeader bytes).kind = 64 := beq_iff_eq
  unfold frameLengthOk
  simp only [Bool.and_eq_true, Bool.or_eq_true, Bool.not_eq_true', decide_eq_true_iff, beq_iff_eq, lengthCheck_iff,
    ← Bool.not_eq_true, notice, and_assoc]
  tauto

/-- A frame that ends counted for one cause, or good and handed on, or uncounted. -/
theorem takeEnd_eq : takeEnd p s = enterReception p .hunt (judge p s) := rfl

/-- The frame in progress is handed on with its buffer. -/
theorem handOn_handedAt (h : Handle) (q : PortNo) :
    (handOn p h s).handedAt q
      = if q = p then s.handedAt p ++ [{ handle := h, toAgent := s.partState == .unconfigured }] else s.handedAt q := by
  refine (congrArg Port.handed (port_modPort p q
    (fun x => { x with handed := x.handed ++ [{ handle := h, toAgent := s.isUnconfigured }] }) _)).trans ?_
  split <;> rfl

theorem handOn_receptionOf (h : Handle) (q : PortNo) : receptionOf q (handOn p h s) = receptionOf q s := by
  refine (congrArg Port.reception (port_modPort p q
    (fun x => { x with handed := x.handed ++ [{ handle := h, toAgent := s.isUnconfigured }] }) _)).trans ?_
  split
  · subst_vars; rfl
  · rfl

/-- What the judgement of a frame that is not handed on leaves. -/
def judgedAs (s t : State) : Prop :=
  (∀ q, receptionOf q t = receptionOf q s) ∧ (∀ q, t.handedAt q = s.handedAt q) ∧ s.sameButIo t

theorem judgedAs_count (c : PortCounter) : judgedAs s (countPortOf p c s) := ⟨fun _ => rfl, fun _ => rfl, rfl⟩

theorem CutAs.judged {c : PortCounter} {t : State} (h : CutAs p c s t) : judgedAs s t :=
  ⟨fun q => (h.intake q).2, fun q => (h.intake q).1, h.frame⟩

/-- The port is in HUNT after its end delimiter and no other port has moved. -/
theorem judgedAs.enter {t : State} (h : judgedAs s t) :
    let u := enterReception p .hunt t
    receptionOf p u = .hunt ∧ (∀ q, q ≠ p → receptionOf q u = receptionOf q s)
      ∧ (∀ q, q ≠ p → u.handedAt q = s.handedAt q) ∧ s.sameButIo u ∧ u.handedAt p = s.handedAt p := by
  obtain ⟨receptions, handed, frame⟩ := h
  refine ⟨by simp, fun q hq => by simp [hq, receptions], fun q _ => by simp [handed], ?_, by simp [handed]⟩
  unfold State.sameButIo at frame ⊢
  rw [frame]
  rfl

/-- The cause of a discarded frame is counted (R9). -/
theorem failedCause_counted (bytes : List Byte) (f : HeaderFailures) (hs : s.counterLaw) {t : State}
    (ht : t.io.live = (countPort p (failedCause bytes f) s.io).live) :
    if frameLengthOk bytes = false then s.raisedAt p .lengthErrors t
    else if crcGood bytes = false then s.raisedAt p .crcErrors t
    else if f.header = true then s.raisedAt p .headerErrors t
    else if f.hop = true then s.raisedAt p .hopExpired t
    else s.raisedAt p .notRunning t := by
  have raised : s.raisedAt p (failedCause bytes f) t := countPort_raisedAt _ hs (by rw [ht])
  unfold failedCause at raised
  cases h1 : frameLengthOk bytes <;> cases h2 : crcGood bytes <;> cases h3 : f.header <;> cases h4 : f.hop <;>
    simpa [h1, h2, h3, h4] using raised

/-! ## The end of a transmission (R14) -/

/-- Completion requests are answered in the records, in the restart's phase, or nowhere (R25, R95, R163). -/
theorem answerSent_frame (d : Option Completion) (s : State) :
    answerSent d s = { s with io := (answerSent d s).io, units := (answerSent d s).units }
      ∧ (answerSent d s).io.live = s.io.live ∧ (answerSent d s).io.pool = s.io.pool
      ∧ (answerSent d s).io.ports = s.io.ports := by
  unfold answerSent
  split
  · exact ⟨rfl, rfl, rfl, rfl⟩
  · refine ⟨rfl, ?_, ?_, ?_⟩ <;> (simp only [State_onIo_io, answerRestart]; split <;> rfl)
  · exact ⟨rfl, rfl, rfl, rfl⟩

/-- Order sent is set in the DEPARTING record of the unit and attempt that the request names (R95). -/
theorem orderCompleted_eq (u : UnitId) (id : Nat) (r : Record) :
    orderCompleted u id r =
      { r with
        phase :=
          match r.phase with
          | .departing ch ho sent => .departing ch ho (sent || (r.unit == u && ho.id == id))
          | other => other } := by
  unfold orderCompleted
  obtain ⟨slot, unit, phase⟩ := r
  cases phase <;> by_cases hu : unit = u <;> simp [hu]

/-- The state in which a transmission's buffer is let go, and the port's next one starts (R14). -/
theorem completeTransmission_eq (p : PortNo) (x : Transmission) (s : State) :
    ∃ m : State, m = { s with io := m.io, units := (answerSent (completionOf x.entry.handle s.io) s).units }
      ∧ completeTransmission p x s
        = (m.onIo fun c io =>
            startTransmission p
              (modPort p (fun y => { y with sending := none, lastEnd := some .endDelimiter })
                (dropReference c x.entry.handle io)))
      ∧ m.io.live = (countPort p .transmitted s.io).live ∧ m.io.ports = s.io.ports
      ∧ m.io.pool = (modBuffer x.entry.handle (fun b => { b with completion := none }) s.io).pool
      ∧ (completionOf x.entry.handle s.io = some .restartReply → s.io.restart = .awaitingReply →
          m.io.restart = .due) := by
  have answered := answerSent_frame (completionOf x.entry.handle s.io) (countPortOf p .transmitted s)
  have units : (answerSent (completionOf x.entry.handle s.io) (countPortOf p .transmitted s)).units
      = (answerSent (completionOf x.entry.handle s.io) s).units := by
    unfold answerSent
    split <;> rfl
  obtain ⟨frame, live, pool, ports⟩ := answered
  refine ⟨(answerSent (completionOf x.entry.handle s.io) (countPortOf p .transmitted s)).onIo
      fun _ => modBuffer x.entry.handle fun b => { b with completion := none }, ?_, rfl, live, ports, ?_, ?_⟩
  · rw [← units]
    generalize answerSent (completionOf x.entry.handle s.io) (countPortOf p .transmitted s) = m at frame ⊢
    rw [frame]
    rfl
  · simp only [State_onIo_io, modBuffer, pool]
    rfl
  · intro reply waits
    have waiting : (countPort p .transmitted s.io).restart = .awaitingReply := waits
    simp only [reply, answerSent, State_onIo_io, modBuffer, answerRestart, countPortOf, waiting]

/-- An idle transmitter takes the head of its queue. -/
theorem startTransmission_sending {io : Io} (idle : io.ports[p.val].sending = none) :
    (startTransmission p io).ports[p.val].sending.map Transmission.entry = io.ports[p.val].queue.head? := by
  unfold startTransmission
  split
  · rename_i h
    rw [idle, h]
    rfl
  · rename_i e q h
    rw [port_modPort, if_pos rfl, h]
    rfl

theorem startTransmission_rest (io : Io) :
    (startTransmission p io).pool = io.pool ∧ (startTransmission p io).live = io.live
      ∧ (startTransmission p io).restart = io.restart := by
  unfold startTransmission
  split <;> exact ⟨rfl, rfl, rfl⟩

end Sys2Proof.Machine

open Sys2Proof Sys2Proof.Machine

/-- Settles O22, by the reception state, and for a stored frame by the first cause that applies. -/
theorem endedFrameIsJudged : Obligations.EndedFrameIsJudged := by
  refine ⟨frameLengthOk_iff, fun p s released hs => ?_⟩
  refine ⟨takeEnd p s, congrArg Host.Outcome.next (whileTaking_released released), ?_⟩
  rw [takeEnd_eq]
  unfold judge
  have whole {t : State} (h : judgedAs s t) := h.enter (p := p)
  cases hr : receptionOf p s with
  | hunt =>
    obtain ⟨h1, h2, h3, h4, h5⟩ := whole (t := s) ⟨fun _ => rfl, fun _ => rfl, rfl⟩
    exact ⟨h1, h2, h3, h4, by simp, rfl, h5⟩
  | header bytes =>
    obtain ⟨h1, h2, h3, h4, h5⟩ := whole (judgedAs_count .lengthErrors)
    exact ⟨h1, h2, h3, h4, by simp, countPort_raisedAt .lengthErrors hs rfl, h5⟩
  | discard bytes why =>
    cases why with
    | refused =>
      obtain ⟨h1, h2, h3, h4, h5⟩ := whole (t := s) ⟨fun _ => rfl, fun _ => rfl, rfl⟩
      exact ⟨h1, h2, h3, h4, by simp, rfl, h5⟩
    | failed f =>
      obtain ⟨h1, h2, h3, h4, h5⟩ := whole (judgedAs_count (failedCause bytes f))
      exact ⟨h1, h2, h3, h4, by simp, h5, failedCause_counted bytes f hs rfl⟩
  | store h =>
    have failed (c : PortCounter) (hc : c ≠ .hopExpired ∧ c ≠ .queueDrops ∧ c ≠ .displaced ∧ c ≠ .noRoute) :=
      cutReception_cuts (p := p) hs hc
    have counted (c : PortCounter) (hc : c ≠ .hopExpired ∧ c ≠ .queueDrops ∧ c ≠ .displaced ∧ c ≠ .noRoute) :
        s.raisedAt p c (cutReception p c s) := (failed c hc).counted (by rw [hr]; rfl)
    dsimp only
    unfold judgeStored
    cases hlen : frameLengthOk (bytesOf h s.io) with
    | false =>
      have cut := failed .lengthErrors (by decide)
      obtain ⟨h1, h2, h3, h4, h5⟩ := whole cut.judged
      rw [if_pos (by simp)]
      exact ⟨h1, h2, h3, h4, fun k b hk _ hb last hn => cut.released k b (hr.trans hk) hb last hn,
        by rw [if_pos rfl]; exact ⟨counted .lengthErrors (by decide), h5⟩⟩
    | true =>
      rw [if_neg (by simp)]
      cases hcrc : crcGood (bytesOf h s.io) with
      | false =>
        have cut := failed .crcErrors (by decide)
        obtain ⟨h1, h2, h3, h4, h5⟩ := whole cut.judged
        rw [if_pos (by simp)]
        exact ⟨h1, h2, h3, h4, fun k b hk _ hb last hn => cut.released k b (hr.trans hk) hb last hn,
          by rw [if_neg (by simp), if_pos rfl]; exact ⟨counted .crcErrors (by decide), h5⟩⟩
      | true =>
        rw [if_neg (by simp), if_neg (by simp), if_neg (by simp)]
        refine ⟨by simp, fun q hq => by simp [hq, handOn_receptionOf], fun q hq => by simp [handOn_handedAt, hq], rfl, ?_,
          countPort_raisedAt .framesGood hs rfl, rfl, by simp [handOn_handedAt]⟩
        intro k b hk failing
        obtain rfl : h = k := by simpa using hk
        rw [hlen, hcrc] at failing
        simp at failing

/-- Settles O23: the four steps of R14, each by its lemma. -/
theorem transmissionCompletes : Obligations.TransmissionCompletes := by
  intro p x s sending hs
  obtain ⟨m, frame, he, live, ports, pool, restart⟩ := completeTransmission_eq p x s
  have ends : transmissionEnds p s = completeTransmission p x s := by rw [transmissionEnds, sending]
  have moved := Moves.dropReference (P := False) (c := m.net) False.elim x.entry.handle m.io
  have stopped (q : PortNo) := port_modPort p q
    (fun y => { y with sending := none, lastEnd := some .endDelimiter }) (dropReference m.net x.entry.handle m.io)
  have started := startTransmission_ports p
    (modPort p (fun y => { y with sending := none, lastEnd := some .endDelimiter })
      (dropReference m.net x.entry.handle m.io))
  obtain ⟨poolKept, liveKept, restartKept⟩ := startTransmission_rest (p := p)
    (modPort p (fun y => { y with sending := none, lastEnd := some .endDelimiter })
      (dropReference m.net x.entry.handle m.io))
  have units : (completeTransmission p x s).units = (answerSent (completionOf x.entry.handle s.io) s).units := by
    rw [he, frame]
    rfl
  refine ⟨_, congrArg Host.Outcome.next ends, ?_, ?_, fun q => ⟨?_, ?_⟩, ?_, ?_, ?_, ?_, ?_, ?_, ?_, ?_⟩
  · refine countPort_raisedAt .transmitted hs ?_
    have kept := moved.kept (not_sendCounter_port p (c := .transmitted) (by decide))
    rw [he, State_onIo_io, liveKept, ← live]
    exact kept
  · rw [he]
    exact (started p).2.2.2.trans ((congrArg Port.lastEnd (stopped p)).trans (by rw [if_pos rfl]))
  · rw [he]
    refine (started q).2.2.1.trans ((congrArg Port.handed (stopped q)).trans ?_)
    rw [apply_ite Port.handed, (moved.ports p).2.1, (moved.ports q).2.1, ports]
    split
    · subst_vars; rfl
    · rfl
  · rw [he]
    refine (started q).2.1.trans ((congrArg Port.reception (stopped q)).trans ?_)
    rw [apply_ite Port.reception, (moved.ports p).1, (moved.ports q).1, ports]
    split
    · subst_vars; rfl
    · rfl
  case refine_5 | refine_6 | refine_7 | refine_8 =>
    rw [he, frame]
    rfl
  · intro u id order
    rw [units, order]
    exact List.map_congr_left fun r _ => orderCompleted_eq u id r
  · intro other
    rw [units]
    unfold answerSent
    split
    · rename_i u id h
      exact absurd h (other u id)
    · rfl
    · rfl
  · intro reply waits
    rw [he, State_onIo_io, restartKept]
    have due := restart reply waits
    obtain h | ⟨h, -⟩ := moved.restartPhase
    · exact h.trans due
    · rw [due] at h; cases h
  · intro hn
    have quiet : m.io.pool.noticePending = false := by rw [pool]; exact hn
    have dropped : (dropReference m.net x.entry.handle m.io).ports = s.io.ports :=
      (dropReference_ports_of_no_notice m.net _ quiet).trans ports
    have queue : (dropReference m.net x.entry.handle m.io).ports[p.val].queue = s.queueOf p :=
      congrArg (fun v : Vector Port 10 => v[p.val].queue) dropped
    refine ⟨?_, ?_, fun b hb last => ?_⟩
    · rw [he]
      refine (started p).1.trans ?_
      rw [if_pos rfl, stopped p, if_pos rfl]
      exact congrArg List.tail queue
    · rw [he]
      refine (startTransmission_sending (by rw [stopped p, if_pos rfl])).trans ?_
      rw [stopped p, if_pos rfl]
      exact congrArg List.head? queue
    · have free : m.io.pool.free = s.io.pool.free := by rw [pool]; rfl
      have buffer : bufferOf x.entry.handle m.io = some { b with completion := none } := by
        have same : bufferOf x.entry.handle m.io
            = bufferOf x.entry.handle (modBuffer x.entry.handle (fun b => { b with completion := none }) s.io) := by
          unfold bufferOf
          rw [pool]
        rw [same, bufferOf_modBuffer _ _ (fun b => { b with completion := none }) (fun _ => rfl), if_pos rfl, hb]
        rfl
      rw [he, State_onIo_io, poolKept, ← free]
      exact (dropReference_last m.net buffer last quiet).2
end

section
/-! PROOFS. What building and sending frames leaves (R19, R21 to R23, R35, R41, R44): one frame built with a buffer to be
had and room at its port, and several frames of one event, each with a buffer of its own, where the pool and every
queue have room for them all. -/

namespace Sys2Proof.Machine

variable {c : Net} {io io' : Io} {k x : Handle} {p : PortNo}

/-! ## A granted frame (R21) -/

/-- The pool with a frame built in its head buffer. -/
def builtIn (reserve : Nat) (k : Handle) (rest : List Handle) (bytes : List Byte) (done : Option Completion) (io : Io) :
    Io :=
  modBuffer k (fun b => { b with bytes := bytes, completion := done }) (takeBuffer k rest (noteExcess reserve io))

theorem builtIn_buffer (reserve : Nat) (rest : List Handle) (bytes : List Byte) (done : Option Completion) (h : Handle) :
    bufferOf h (builtIn reserve k rest bytes done io)
      = if h = k then some { handle := k, refs := 1, bytes := bytes, completion := done } else bufferOf h io := by
  refine (bufferOf_modBuffer k h (fun b => { b with bytes := bytes, completion := done }) (fun _ => rfl) _).trans ?_
  rw [bufferOf_takeBuffer]
  by_cases hk : h = k
  · simp only [hk, if_true, Option.map_some]
  · simp only [hk, if_false]
    rfl

/-- A frame whose buffer is granted is built, placed and let go. -/
theorem sendBuilt_granted {rest : List Handle} {hdr : Header} (payload : List Byte) (done : Option Completion)
    (place : Handle → Io → Io) (hf : io.pool.free = k :: rest)
    (hc : hdr.frameClass = .priority ∨ c.active.bufferReserve < io.pool.free.length) :
    sendBuilt c hdr payload done place io
      = dropReference c k (place k (builtIn c.active.bufferReserve k rest (frameBytes hdr payload) done io)) := by
  simp only [sendBuilt, buildFrame, allocate_granted hf hc]
  rfl

/-- One frame has been built and stands on a port's queue, in the buffer that was the head of the free list. -/
structure SentOne (k : Handle) (p : PortNo) (e : Entry) (bytes : List Byte) (io io' : Io) : Prop where
  queue : ∀ q : PortNo, io'.ports[q.val].queue
    = if q = p then insertEntry e io.ports[q.val].queue else io.ports[q.val].queue
  sending : ∀ q : PortNo, io'.ports[q.val].sending = io.ports[q.val].sending
  buffer : ∃ done, bufferOf k io' = some { handle := k, refs := 1, bytes := bytes, completion := done }
  quiet : io'.pool.noticePending = false

section

variable {rest : List Handle} {hdr : Header} (payload : List Byte) (done : Option Completion) {place : Handle → Io → Io}
  {e : Entry}

/-- A reference that is not the last is dropped without more (R23). -/
theorem dropReference_many (c : Net) {h : Handle} {b : Buffer} (hb : bufferOf h io = some b) (many : 2 ≤ b.refs) :
    dropReference c h io = modBuffer h (fun b => { b with refs := b.refs - 1 }) io := by
  have held : isLastReference h io = false := by
    simp only [isLastReference, hb, decide_eq_false_iff_not]
    omega
  simp only [dropReference, held, Bool.false_and, Bool.false_eq_true, if_false, dropReferenceQuietly_many _ hb many]

/-- A frame whose buffer is granted, and that joins a queue with room at a busy transmitter. -/
theorem sendBuilt_waits (hf : io.pool.free = k :: rest)
    (hc : hdr.frameClass = .priority ∨ c.active.bufferReserve < io.pool.free.length)
    (he : e.handle = k)
    (placed : ∀ io', place k io' = placeEntry c p e io')
    (waits : io.ports[p.val].sending.isSome = true ∧ io.ports[p.val].queue.length < 64) :
    sendBuilt c hdr payload done place io
        = modBuffer k (fun b => { b with refs := b.refs - 1 })
            (putEntry p e (builtIn c.active.bufferReserve k rest (frameBytes hdr payload) done io))
      ∧ bufferOf k (sendBuilt c hdr payload done place io)
        = some { handle := k, refs := 1, bytes := frameBytes hdr payload, completion := done } := by
  have built := builtIn_buffer (io := io) (k := k) c.active.bufferReserve rest (frameBytes hdr payload) done
  have put : place k (builtIn c.active.bufferReserve k rest (frameBytes hdr payload) done io)
      = putEntry p e (builtIn c.active.bufferReserve k rest (frameBytes hdr payload) done io) := by
    rw [placed]
    exact placeEntry_room c waits.2 waits.1
  have buffer : bufferOf k (putEntry p e (builtIn c.active.bufferReserve k rest (frameBytes hdr payload) done io))
      = some { handle := k, refs := 2, bytes := frameBytes hdr payload, completion := done } := by
    rw [putEntry_buffer, if_pos he.symm, built, if_pos rfl]
    rfl
  rw [sendBuilt_granted payload done place hf hc, put, dropReference_many c buffer (le_refl 2)]
  refine ⟨rfl, ?_⟩
  rw [bufferOf_modBuffer _ _ (fun b => { b with refs := b.refs - 1 }) (fun _ => rfl), if_pos rfl, buffer]
  rfl

theorem sendBuilt_one (hf : io.pool.free = k :: rest)
    (hc : hdr.frameClass = .priority ∨ c.active.bufferReserve < io.pool.free.length)
    (hn : io.pool.noticePending = false) (he : e.handle = k)
    (placed : ∀ io', place k io' = placeEntry c p e io')
    (waits : io.ports[p.val].sending.isSome = true ∧ io.ports[p.val].queue.length < 64) :
    SentOne k p e (frameBytes hdr payload) io (sendBuilt c hdr payload done place io) := by
  obtain ⟨sent, buffer⟩ := sendBuilt_waits payload done hf hc he placed waits
  refine ⟨fun q => ?_, fun q => ?_, ⟨done, buffer⟩, ?_⟩
  · rw [sent]
    exact putEntry_queue q
  · rw [sent]
    exact putEntry_sending q
  · rw [sent]
    exact hn

/-- The completion request of a frame that waits (R25). -/
theorem sendBuilt_completion (hf : io.pool.free = k :: rest)
    (hc : hdr.frameClass = .priority ∨ c.active.bufferReserve < io.pool.free.length)
    (he : e.handle = k)
    (placed : ∀ io', place k io' = placeEntry c p e io')
    (waits : io.ports[p.val].sending.isSome = true ∧ io.ports[p.val].queue.length < 64) :
    completionOf k (sendBuilt c hdr payload done place io) = done := by
  rw [completionOf, (sendBuilt_waits payload done hf hc he placed waits).2]
  rfl

end

theorem SentOne.bytes {e : Entry} {bytes : List Byte} (h : SentOne k p e bytes io io') : bytesOf k io' = bytes := by
  obtain ⟨done, hb⟩ := h.buffer
  rw [bytesOf, hb]

/-- Letting the received frame go afterwards leaves the built one (R22). -/
theorem SentOne.dropped {e : Entry} {bytes : List Byte} (h : SentOne k p e bytes io io') (hx : x ≠ k) (c : Net) :
    SentOne k p e bytes io (dropReference c x io') := by
  have ports := dropReference_ports_of_no_notice c x h.quiet
  obtain ⟨done, hb⟩ := h.buffer
  refine ⟨fun q => ?_, fun q => ?_, ⟨done, ?_⟩, ?_⟩
  · exact (congrArg (fun v : Vector Port 10 => v[q.val].queue) ports).trans (h.queue q)
  · exact (congrArg (fun v : Vector Port 10 => v[q.val].sending) ports).trans (h.sending q)
  · rw [dropReference_other c h.quiet (Ne.symm hx), hb]
  · rw [dropReference_quietly c x h.quiet, dropReferenceQuietly_noticePending, h.quiet]

/-! ## Events with room (R19, R41) -/

/-- Room for a number of frames and of entries: buffers beyond the reserve, and every queue, whose transmitter is
busy. -/
structure Room (reserve n m : Nat) (io : Io) : Prop where
  distinct : io.handles.Nodup
  quiet : io.pool.noticePending = false
  free : reserve + n ≤ io.pool.free.length
  busy : ∀ p : PortNo, io.ports[p.val].sending.isSome = true
  queues : ∀ p : PortNo, io.ports[p.val].queue.length + m ≤ 64

theorem room_of_roomFor {s : State} {n m : Nat} (h : s.roomFor n m) : Room s.active.bufferReserve n m s.io := by
  obtain ⟨pool, quiet, free, ports⟩ := h
  exact ⟨pool.nodup_iff.mpr List.nodup_range', quiet, free, fun p => (ports p).1, fun p => (ports p).2⟩

theorem Room.mono {reserve n m n' m' : Nat} (h : Room reserve n m io) (hn : n' ≤ n) (hm : m' ≤ m) :
    Room reserve n' m' io :=
  ⟨h.distinct, h.quiet, by have := h.free; omega, h.busy, fun p => by have := h.queues p; omega⟩

/-- What sending leaves of the frames that stood before: no buffer is freed but one that was free, no entry leaves a
queue, and only the buffer of the received frame `x` can have its header written. -/
structure Kept (x : Handle) (io io' : Io) : Prop where
  free : ∀ k ∈ io'.pool.free, k ∈ io.pool.free
  queue : ∀ (p : PortNo) (e : Entry), e ∈ io.ports[p.val].queue → e ∈ io'.ports[p.val].queue
  buffers : ∀ (h : Handle) (b : Buffer), bufferOf h io = some b →
    ∃ b', bufferOf h io' = some b' ∧ (h ≠ x → b'.bytes = b.bytes)

theorem Kept.refl (x : Handle) (io : Io) : Kept x io io := ⟨fun _ h => h, fun _ _ h => h, fun _ b h => ⟨b, h, fun _ => rfl⟩⟩

theorem Kept.trans {io'' : Io} (h : Kept x io io') (h' : Kept x io' io'') : Kept x io io'' := by
  refine ⟨fun k hk => h.free k (h'.free k hk), fun p e he => h'.queue p e (h.queue p e he), fun k b hb => ?_⟩
  obtain ⟨b', hb', same'⟩ := h.buffers k b hb
  obtain ⟨b'', hb'', same''⟩ := h'.buffers k b' hb'
  exact ⟨b'', hb'', fun hk => (same'' hk).trans (same' hk)⟩

/-- The entries of one buffer are placed: at most `m` in a queue, `r` in all, and the buffer's bytes rewritten by `f`. -/
structure Placed (h : Handle) (f : List Byte → List Byte) (m r : Nat) (io io' : Io) : Prop where
  free : io'.pool.free = io.pool.free
  handles : io'.pool.allocated.map Buffer.handle = io.pool.allocated.map Buffer.handle
  quiet : io'.pool.noticePending = io.pool.noticePending
  busy : ∀ p : PortNo, io'.ports[p.val].sending = io.ports[p.val].sending
  longer : ∀ p : PortNo, io'.ports[p.val].queue.length ≤ io.ports[p.val].queue.length + m
  queue : ∀ (p : PortNo) (e : Entry), e ∈ io.ports[p.val].queue → e ∈ io'.ports[p.val].queue
  buffer : bufferOf h io' = (bufferOf h io).map fun b => { b with refs := b.refs + r, bytes := f b.bytes }
  others : ∀ k, k ≠ h → bufferOf k io' = bufferOf k io

theorem Placed.refl (h : Handle) (io : Io) : Placed h id 0 0 io io := by
  refine ⟨rfl, rfl, rfl, fun _ => rfl, fun _ => le_refl _, fun _ _ h => h, ?_, fun _ _ => rfl⟩
  cases bufferOf h io <;> rfl

theorem Placed.trans {h : Handle} {f g : List Byte → List Byte} {m m' r r' : Nat} {io'' : Io}
    (a : Placed h f m r io io') (b : Placed h g m' r' io' io'') : Placed h (g ∘ f) (m + m') (r + r') io io'' := by
  refine ⟨b.free.trans a.free, b.handles.trans a.handles, b.quiet.trans a.quiet, fun p => (b.busy p).trans (a.busy p),
    fun p => by have := a.longer p; have := b.longer p; omega, fun p e he => b.queue p e (a.queue p e he), ?_,
    fun k hk => (b.others k hk).trans (a.others k hk)⟩
  rw [b.buffer, a.buffer, Option.map_map]
  congr 1
  funext y
  simp [Nat.add_assoc]

theorem Placed.mono {h : Handle} {f : List Byte → List Byte} {m m' r : Nat} (a : Placed h f m r io io') (hm : m ≤ m') :
    Placed h f m' r io io' :=
  ⟨a.free, a.handles, a.quiet, a.busy, fun p => (a.longer p).trans (by omega), a.queue, a.buffer, a.others⟩

theorem Placed.room {h : Handle} {f : List Byte → List Byte} {m m' r reserve n : Nat} (a : Placed h f m r io io')
    (room : Room reserve n (m' + m) io) : Room reserve n m' io' := by
  refine ⟨?_, a.quiet.trans room.quiet, by rw [a.free]; exact room.free, fun p => by rw [a.busy]; exact room.busy p,
    fun p => by have := a.longer p; have := room.queues p; omega⟩
  unfold Io.handles
  rw [a.free, a.handles]
  exact room.distinct

/-- Placing entries of the received frame keeps the others. -/
theorem Placed.kept {f : List Byte → List Byte} {m r : Nat} (a : Placed x f m r io io') : Kept x io io' := by
  refine ⟨fun k hk => a.free ▸ hk, a.queue, fun k b hb => ?_⟩
  by_cases hk : k = x
  · subst hk
    exact ⟨_, by rw [a.buffer, hb]; rfl, fun h => absurd rfl h⟩
  · exact ⟨b, by rw [a.others k hk, hb], fun _ => rfl⟩

/-- Several entries of one buffer, counted queue by queue. -/
theorem placed_putEntries {h : Handle} {m : Nat} {l : List (PortNo × Entry)} (hl : ∀ x ∈ l, x.2.handle = h)
    (hm : ∀ p, (l.filter fun x => x.1 == p).length ≤ m) (io : Io) : Placed h id m l.length io (putEntries l io) := by
  obtain ⟨free, -, quiet, handles, -, -, -, busy⟩ := putEntries_same l io
  refine ⟨free, handles, quiet, busy, fun p => ?_, fun p e he => mem_putEntries.mpr (.inl he), ?_, fun k hk => ?_⟩
  · rw [putEntries_queue]
    have grown : ∀ (l : List (PortNo × Entry)) (q : List Entry),
        (l.foldl (fun queue x => insertEntry x.2 queue) q).length = q.length + l.length := fun l => by
      induction l with
      | nil => intro q; rfl
      | cons y l ih => intro q; rw [List.foldl_cons, ih, length_insertEntry, List.length_cons]; omega
    rw [grown]
    have := hm p
    omega
  · rw [putEntries_buffer hl, if_pos rfl]
    rfl
  · rw [putEntries_buffer hl, if_neg hk]

/-! ## One frame of an event with room -/

theorem room_builtIn {reserve n m : Nat} {rest : List Handle} (bytes : List Byte) (done : Option Completion)
    (hf : io.pool.free = k :: rest) (room : Room reserve (n + 1) m io) :
    Room reserve n m (builtIn reserve k rest bytes done io) := by
  have free := room.free
  rw [hf, List.length_cons] at free
  refine ⟨?_, room.quiet, show reserve + n ≤ rest.length by omega, room.busy, room.queues⟩
  have handles : (builtIn reserve k rest bytes done io).handles = rest ++ k :: io.pool.allocated.map Buffer.handle := by
    have kept : ∀ b : Buffer,
        (if b.handle == k then ({ b with bytes := bytes, completion := done } : Buffer) else b).handle = b.handle :=
      fun b => by split <;> rfl
    simp only [Io.handles, builtIn, modBuffer, takeBuffer, noteExcess, List.map_map]
    congr 1
    exact List.map_congr_left (l := _ :: io.pool.allocated) fun b _ => kept b
  rw [handles]
  have distinct := room.distinct
  rw [Io.handles, hf] at distinct
  exact (List.perm_middle.nodup_iff).mpr distinct

/-- A buffer that was free holds a frame, and its entries stand on their queues. -/
def Stands (free : List Handle) (l : Handle → List (PortNo × Entry)) (bytes : List Byte) (io : Io) : Prop :=
  ∃ k ∈ free, (∀ x ∈ l k, x.2 ∈ io.ports[x.1.val].queue) ∧ bytesOf k io = bytes

/-- The builder's reference is dropped after the placements: with no entry placed the buffer is free again. -/
theorem dropReference_placed {f : List Byte → List Byte} {m n m' reserve r : Nat} {b : Buffer} (c : Net)
    (placed : Placed k f m r io io') (hb : bufferOf k io = some b) (one : b.refs = 1)
    (room : Room reserve n (m' + m) io) :
    Room reserve n m' (dropReference c k io') ∧ (dropReference c k io').ports = io'.ports
      ∧ (dropReference c k io').pool.free = (if r = 0 then io.pool.free ++ [k] else io.pool.free)
      ∧ (1 ≤ r → bytesOf k (dropReference c k io') = f b.bytes)
      ∧ ∀ h, h ≠ k → bufferOf h (dropReference c k io') = bufferOf h io := by
  have room' := placed.room room
  have ports := dropReference_ports_of_no_notice c k room'.quiet
  have others : ∀ h, h ≠ k → bufferOf h (dropReference c k io') = bufferOf h io := fun h hh =>
    (dropReference_other c room'.quiet hh).trans (placed.others h hh)
  have buffer : bufferOf k io' = some { b with refs := b.refs + r, bytes := f b.bytes } := by
    rw [placed.buffer, hb]
    rfl
  have quiet : (dropReference c k io').pool.noticePending = false := by
    rw [dropReference_quietly c k room'.quiet, dropReferenceQuietly_noticePending, room'.quiet]
  have distinct : (dropReference c k io').handles.Nodup :=
    ((Moves.dropReference (P := False) (c := c) False.elim k io').pool room'.distinct).nodup_iff.mpr room'.distinct
  have busy (p : PortNo) : (dropReference c k io').ports[p.val].sending.isSome = true := by
    rw [show (dropReference c k io').ports[p.val] = io'.ports[p.val] from
      congrArg (fun v : Vector Port 10 => v[p.val]) ports]
    exact room'.busy p
  have queues (p : PortNo) : (dropReference c k io').ports[p.val].queue.length + m' ≤ 64 := by
    rw [show (dropReference c k io').ports[p.val] = io'.ports[p.val] from
      congrArg (fun v : Vector Port 10 => v[p.val]) ports]
    exact room'.queues p
  by_cases none : r = 0
  · have free : (dropReference c k io').pool.free = io.pool.free ++ [k] := by
      rw [← placed.free]
      exact (dropReference_last c buffer (by simp [one, none]) room'.quiet).2
    refine ⟨⟨distinct, quiet, ?_, busy, queues⟩, ports, by rw [free, if_pos none], fun h => by omega, others⟩
    rw [free, List.length_append]
    have := room.free
    omega
  · have drop : dropReference c k io' = modBuffer k (fun b => { b with refs := b.refs - 1 }) io' := by
      rw [dropReference_quietly c k room'.quiet]
      exact dropReferenceQuietly_many _ buffer (show 2 ≤ b.refs + r by omega)
    have free : (dropReference c k io').pool.free = io.pool.free := by
      rw [drop]
      exact placed.free
    refine ⟨⟨distinct, quiet, by rw [free]; exact room.free, busy, queues⟩, ports, by rw [free, if_neg none], fun _ => ?_,
      others⟩
    rw [drop, bytesOf, bufferOf_modBuffer _ _ (fun b => { b with refs := b.refs - 1 }) (fun _ => rfl), if_pos rfl, buffer]
    rfl

/-- How a frame's entries are to be placed: at most `m` in a queue, those of `l` among them, and, where the frame is
needed, some reference to the buffer is left, whose bytes are then `bytes`. -/
def Places (place : Handle → Io → Io) (frame : List Byte) (m : Nat) (need : Prop)
    (l : Handle → List (PortNo × Entry)) (bytes : List Byte) (engine : Engine) : Prop :=
  ∀ (k : Handle) (io : Io), (∀ p : PortNo, io.ports[p.val].sending.isSome = true ∧ io.ports[p.val].queue.length + m ≤ 64) →
    io.engine = engine →
    ∃ f r, Placed k f m r io (place k io) ∧ (∀ x ∈ l k, x.2 ∈ (place k io).ports[x.1.val].queue)
      ∧ (need → 1 ≤ r ∧ f frame = bytes)

/-- A frame of an event with room. -/
theorem sendBuilt_room {hdr : Header} {payload : List Byte} {done : Option Completion} {place : Handle → Io → Io}
    {n m m' : Nat} {need : Prop} {l : Handle → List (PortNo × Entry)} {bytes : List Byte}
    (room : Room c.active.bufferReserve (n + 1) (m' + m) io)
    (places : Places place (frameBytes hdr payload) m need l bytes io.engine) :
    Room c.active.bufferReserve n m' (sendBuilt c hdr payload done place io)
      ∧ (∀ x, Kept x io (sendBuilt c hdr payload done place io))
      ∧ (need → Stands (io.pool.free.take 1) l bytes (sendBuilt c hdr payload done place io))
      ∧ ∃ back, (sendBuilt c hdr payload done place io).pool.free = io.pool.free.tail ++ back := by
  obtain ⟨k, rest, hf⟩ : ∃ k rest, io.pool.free = k :: rest := by
    cases hf : io.pool.free with
    | nil => have := room.free; rw [hf, List.length_nil] at this; omega
    | cons k rest => exact ⟨k, rest, rfl⟩
  have hk : k ∈ io.pool.free := by rw [hf]; exact List.mem_cons_self
  have empty : bufferOf k io = none := bufferOf_of_free room.distinct hk
  have roomBuilt := room_builtIn (frameBytes hdr payload) done hf room
  have built := builtIn_buffer (io := io) (k := k) c.active.bufferReserve rest (frameBytes hdr payload) done
  rw [sendBuilt_granted payload done place hf (.inr (by have := room.free; omega))]
  generalize hio : builtIn c.active.bufferReserve k rest (frameBytes hdr payload) done io = io1 at roomBuilt built ⊢
  have ports : io1.ports = io.ports := by rw [← hio]; rfl
  have free : io1.pool.free = rest := by rw [← hio]; rfl
  obtain ⟨f, r, placed, entries, needed⟩ := places k io1
    (fun p => ⟨roomBuilt.busy p, by have := roomBuilt.queues p; omega⟩) (by rw [← hio]; rfl)
  have buffer := (built k).trans (if_pos rfl)
  obtain ⟨roomAfter, portsAfter, freeAfter, bytesAfter, others⟩ := dropReference_placed c placed buffer rfl roomBuilt
  refine ⟨roomAfter, fun x => ⟨fun h hh => ?_, fun p e he => ?_, fun h b hb => ⟨b, ?_, fun _ => rfl⟩⟩, fun need =>
    ⟨k, by rw [hf]; exact List.mem_cons_self, fun x hx => ?_, ?_⟩, ?_⟩
  · rw [freeAfter, free] at hh
    split at hh
    · obtain hh | hh := List.mem_append.mp hh
      · rw [hf]; exact List.mem_cons_of_mem _ hh
      · rw [List.mem_singleton.mp hh]; exact hk
    · rw [hf]; exact List.mem_cons_of_mem _ hh
  · rw [portsAfter]
    exact placed.queue p e (by rw [ports]; exact he)
  · have apart : h ≠ k := fun he => by rw [he, empty] at hb; cases hb
    rw [others h apart, built, if_neg apart, hb]
  · rw [portsAfter]
    exact entries x hx
  · obtain ⟨some, rewritten⟩ := needed need
    rw [bytesAfter some]
    exact rewritten
  · rw [freeAfter, free, hf, List.tail_cons]
    split
    · exact ⟨[k], rfl⟩
    · exact ⟨[], (List.append_nil rest).symm⟩

/-! ## What stands goes on standing -/

theorem frameBytes_ne_nil (hdr : Header) (payload : List Byte) : frameBytes hdr payload ≠ [] := by
  simp [frameBytes, encodeHeader]

/-- What stood in a buffer before still does, and a buffer that was free later was free before. -/
theorem Stands.kept {free : List Handle} {l : Handle → List (PortNo × Entry)} {bytes : List Byte}
    (h : Stands free l bytes io) (kept : Kept x io io') (hx : x ∉ free) (some : bytes ≠ []) : Stands free l bytes io' := by
  obtain ⟨k, hk, entries, hb⟩ := h
  refine ⟨k, hk, fun y hy => kept.queue _ _ (entries y hy), ?_⟩
  cases hbuf : bufferOf k io with
  | none => rw [bytesOf, hbuf] at hb; exact absurd hb.symm some
  | some b =>
    obtain ⟨b', hb', same⟩ := kept.buffers k b hbuf
    rw [bytesOf, hbuf] at hb
    rw [bytesOf, hb', ← hb]
    exact same fun he => hx (he ▸ hk)

theorem Stands.mono {free free' : List Handle} {l : Handle → List (PortNo × Entry)} {bytes : List Byte}
    (h : Stands free l bytes io) (sub : ∀ k ∈ free, k ∈ free') : Stands free' l bytes io := by
  obtain ⟨k, hk, h⟩ := h
  exact ⟨k, sub k hk, h⟩

/-- Letting the received frame go leaves what stands in other buffers (R22). -/
theorem Stands.dropped {free : List Handle} {l : Handle → List (PortNo × Entry)} {bytes : List Byte}
    (h : Stands free l bytes io) (c : Net) (quiet : io.pool.noticePending = false) (hx : x ∉ free) :
    Stands free l bytes (dropReference c x io) := by
  obtain ⟨k, hk, entries, hb⟩ := h
  have apart : k ≠ x := fun he => hx (he ▸ hk)
  refine ⟨k, hk, fun y hy => ?_, ?_⟩
  · rw [dropReference_ports_of_no_notice c x quiet]
    exact entries y hy
  · rw [bytesOf, dropReference_other c quiet apart]
    exact hb

end Sys2Proof.Machine
end

section
/-! PROOFS. Events that send several frames, state by state (R19 to R23, R35, R37, R41, R44, R114): `Issues` says what
buffers and queue room an operation uses, and which frames then stand; operations follow each other by `Issues.trans`. -/

namespace Sys2Proof.Machine

variable {c : Net} {x : Handle} {s t u : State}

/-! ## How frames are placed -/

theorem placed_count (k : Handle) (i : Nat) (io : Io) : Placed k id 0 0 io (bumpAt i io) := by
  have h := Placed.refl k io
  exact ⟨rfl, rfl, rfl, fun _ => rfl, h.longer, h.queue, h.buffer, h.others⟩

/-- One entry at a port. -/
theorem places_entry {place : Handle → Io → Io} {p : PortNo} {e : Handle → Entry} (frame : List Byte) (engine : Engine)
    (he : ∀ k, (e k).handle = k) (hp : ∀ k io, place k io = placeEntry c p (e k) io) :
    Places place frame 1 True (fun k => [(p, e k)]) frame engine := by
  intro k io room _
  have put : place k io = putEntries [(p, e k)] io := by
    rw [hp]
    exact placeEntry_room c (by have := (room p).2; omega) (room p).1
  refine ⟨id, 1, ?_, fun y hy => ?_, fun _ => ⟨le_refl 1, rfl⟩⟩
  · rw [put]
    exact placed_putEntries (l := [(p, e k)]) (by simpa using he k)
      (fun q => List.length_filter_le (fun x => x.1 == q) [(p, e k)]) io
  · rw [put]
    exact mem_putEntries.mpr (.inr hy)

/-- No entry: the frame is dropped. -/
theorem places_none {place : Handle → Io → Io} (frame : List Byte) (engine : Engine) (m : Nat) {i : Nat}
    (hp : ∀ k io, place k io = bumpAt i io) : Places place frame m False (fun _ => []) frame engine := by
  intro k io _ _
  refine ⟨id, 0, ?_, fun y hy => absurd hy List.not_mem_nil, False.elim⟩
  rw [hp]
  exact (placed_count k i io).mono (Nat.zero_le m)

theorem Places.weaken {place : Handle → Io → Io} {frame bytes : List Byte} {m : Nat} {need need' : Prop}
    {l l' : Handle → List (PortNo × Entry)} {engine : Engine} (h : Places place frame m need l bytes engine)
    (hn : need' → need) (hl : ∀ k, ∀ y ∈ l' k, y ∈ l k) : Places place frame m need' l' bytes engine := by
  intro k io room he
  obtain ⟨f, r, placed, entries, needed⟩ := h k io room he
  exact ⟨f, r, placed, fun y hy => entries y (hl k y hy), fun hneed => needed (hn hneed)⟩

/-- One entry for a site that has a route. -/
theorem places_forSite (cls : FrameClass) (site : SiteId) (frame : List Byte) (engine : Engine) :
    Places (fun h => placeForSite c cls h site) frame 1 ((c.route site).isSome = true)
      (fun k => (c.entryFor cls k site).toList) frame engine := by
  cases hr : c.route site with
  | none =>
    refine (places_none (i := DevCounter.internalDrops.number) frame engine 1 fun k io => ?_).weaken (by simp) ?_
    · simp only [placeForSite, placeForSiteWith, hr]
      rfl
    · intro k y hy
      simp [Net.entryFor, hr] at hy
  | some j =>
    refine (places_entry (c := c) (p := linkPort j)
      (e := fun k => { handle := k, cls := cls, hop := c.active.hopLimit, addressing := .destination site })
      frame engine (fun _ => rfl) fun k io => ?_).weaken (fun _ => trivial) ?_
    · simp only [placeForSite, placeForSiteWith, hr]
      rfl
    · intro k y hy
      simpa [Net.entryFor, hr] using hy

/-- One entry for each of several sites that have routes. -/
theorem places_forSites (cls : FrameClass) {sites : List SiteId} (routed : ∀ n ∈ sites, (c.route n).isSome = true)
    (frame : List Byte) (engine : Engine) :
    Places (fun h => placeForSites c cls h sites) frame sites.length (sites ≠ [])
      (fun k => sites.filterMap (c.entryFor cls k)) frame engine := by
  intro k io room _
  have put : placeForSites c cls k sites io = putEntries (sites.filterMap (c.entryFor cls k)) io :=
    placeForSitesWith_room cls routed io fun j => room (linkPort j)
  refine ⟨id, (sites.filterMap (c.entryFor cls k)).length, ?_, fun y hy => ?_, fun some => ⟨?_, rfl⟩⟩
  · show Placed k id _ _ io (placeForSites c cls k sites io)
    rw [put]
    exact placed_putEntries entryFor_handle
      (fun q => (List.length_filter_le _ _).trans (List.length_filterMap_le _ _)) io
  · show y.2 ∈ (placeForSites c cls k sites io).ports[y.1.val].queue
    rw [put]
    exact mem_putEntries.mpr (.inr hy)
  · obtain ⟨n, rest, rfl⟩ := List.exists_cons_of_ne_nil some
    obtain ⟨j, hj⟩ := Option.isSome_iff_exists.mp (routed n (by simp))
    have entry : c.entryFor cls k n
        = Option.some (linkPort j, { handle := k, cls := cls, hop := c.active.hopLimit, addressing := .destination n }) := by
      simp [Net.entryFor, hj]
    rw [List.filterMap_cons_some entry]
    simp

/-! ## What an operation sends -/

/-- A frame that stands after an operation: its header and payload, and its entries by the handle of its buffer. -/
structure Claim where
  entries : Handle → List (PortNo × Entry)
  header : Header
  payload : List Byte

/-- An operation uses at most `n` buffers and `m` places of each queue where there is room for them, and then the frames
of `claims` stand. -/
structure Issues (x : Handle) (n m : Nat) (claims : List Claim) (s t : State) : Prop where
  active : t.active = s.active
  room : ∀ n' m', Room s.active.bufferReserve (n' + n) (m' + m) s.io → x ∉ s.io.pool.free →
    Room s.active.bufferReserve n' m' t.io ∧ Kept x s.io t.io
      ∧ ∀ f ∈ claims, Stands s.io.pool.free f.entries (frameBytes f.header f.payload) t.io

namespace Issues

/-- An operation that moves nothing of what sending uses. -/
theorem quiet (active : t.active = s.active) (pool : t.io.pool = s.io.pool)
    (ports : ∀ p : PortNo, t.io.ports[p.val].queue = s.io.ports[p.val].queue
      ∧ t.io.ports[p.val].sending = s.io.ports[p.val].sending) : Issues x 0 0 [] s t := by
  refine ⟨active, fun n' m' room _ => ⟨⟨?_, ?_, ?_, fun p => ?_, fun p => ?_⟩, ⟨fun k hk => pool ▸ hk, fun p e he => ?_,
    fun h b hb => ⟨b, ?_, fun _ => rfl⟩⟩, by simp⟩⟩
  · unfold Io.handles
    rw [pool]
    exact room.distinct
  · rw [pool]; exact room.quiet
  · rw [pool]; exact room.free
  · rw [(ports p).2]; exact room.busy p
  · rw [(ports p).1]; exact room.queues p
  · rw [(ports p).1]; exact he
  · unfold bufferOf
    rw [pool]
    exact hb

theorem fields (active : t.active = s.active) (io : t.io = s.io) : Issues x 0 0 [] s t :=
  quiet active (by rw [io]) fun p => by rw [io]; exact ⟨rfl, rfl⟩

theorem refl (s : State) : Issues x 0 0 [] s s := fields rfl rfl

theorem count (d : DevCounter) (s : State) : Issues x 0 0 [] s (s.count d) := quiet rfl rfl fun _ => ⟨rfl, rfl⟩

theorem modUnit (v : UnitId) (f : Record → Record) (s : State) : Issues x 0 0 [] s (Machine.modUnit v f s) := fields rfl rfl

theorem taken (p : PortNo) (s : State) : Issues x 0 0 [] s (s.taken p) :=
  quiet rfl rfl fun q => ⟨takenAt_queue p q s.io, takenAt_sending p q s.io⟩

theorem trans {n n' m m' : Nat} {claims claims' : List Claim} (h : Issues x n m claims s t)
    (h' : Issues x n' m' claims' t u) : Issues x (n + n') (m + m') (claims ++ claims') s u := by
  refine ⟨h'.active.trans h.active, fun n0 m0 room hx => ?_⟩
  obtain ⟨room1, kept1, stand1⟩ := h.room (n0 + n') (m0 + m') (by
    rw [show n0 + n' + n = n0 + (n + n') by omega, show m0 + m' + m = m0 + (m + m') by omega]; exact room) hx
  have hx' : x ∉ t.io.pool.free := fun hk => hx (kept1.free x hk)
  obtain ⟨room2, kept2, stand2⟩ := h'.room n0 m0 (by rw [h.active]; exact room1) hx'
  rw [h.active] at room2
  refine ⟨room2, kept1.trans kept2, fun f hf => ?_⟩
  obtain hf | hf := List.mem_append.mp hf
  · exact (stand1 f hf).kept kept2 hx (frameBytes_ne_nil _ _)
  · exact (stand2 f hf).mono kept1.free

theorem mono {n n' m m' : Nat} {claims claims' : List Claim} (h : Issues x n m claims s t) (hn : n ≤ n') (hm : m ≤ m')
    (hc : ∀ f ∈ claims', f ∈ claims) : Issues x n' m' claims' s t := by
  refine ⟨h.active, fun n0 m0 room hx => ?_⟩
  obtain ⟨room1, kept, stand⟩ := h.room (n0 + (n' - n)) (m0 + (m' - m)) (by
    rw [show n0 + (n' - n) + n = n0 + n' by omega, show m0 + (m' - m) + m = m0 + m' by omega]; exact room) hx
  exact ⟨room1.mono (by omega) (by omega), kept, fun f hf => stand f (hc f hf)⟩

/-- An operation with the same frames that differs in the rest of the state. -/
theorem congr {n m : Nat} {claims : List Claim} (h : Issues x n m claims s t) (active : u.active = t.active)
    (io : u.io = t.io) : Issues x n m claims s u :=
  ⟨active.trans h.active, fun n' m' room hx => by rw [io]; exact h.room n' m' room hx⟩

/-- A frame is built and placed. -/
theorem built {hdr : Header} {payload : List Byte} {done : Option Completion} {place : Handle → Io → Io} {m : Nat}
    {need : Prop} {l : Handle → List (PortNo × Entry)} {claims : List Claim}
    (places : Places place (frameBytes hdr payload) m need l (frameBytes hdr payload) s.io.engine)
    (hc : ∀ f ∈ claims, need ∧ f = ⟨l, hdr, payload⟩) :
    Issues x 1 m claims s { s with io := sendBuilt s.net hdr payload done place s.io } := by
  refine ⟨rfl, fun n' m' room _ => ?_⟩
  obtain ⟨room', kept, stands, -⟩ := sendBuilt_room (c := s.net) (done := done) room places
  refine ⟨room', kept x, fun f hf => ?_⟩
  obtain ⟨hneed, rfl⟩ := hc f hf
  exact (stands hneed).mono fun k hk => List.mem_of_mem_take hk

end Issues

/-! ## The frames of the blocks -/

/-- A frame on a channel port (R44). -/
def Claim.onChannel (n : ChannelNo) (hdr : Header) (payload : List Byte) : Claim where
  entries := fun k => [(chanPort n, { handle := k, cls := hdr.frameClass, hop := 0, addressing := .unaddressed })]
  header := hdr
  payload := payload

/-- A frame for a site on the queue of its route link (R35). -/
def Claim.forSite (c : Net) (hdr : Header) (site : SiteId) : Claim where
  entries := fun k => (c.entryFor hdr.frameClass k site).toList
  header := { hdr with origin := BitVec.ofNat 8 c.active.ownSite, destination := BitVec.ofNat 8 site }
  payload := []

/-- A frame for several sites (R114). -/
def Claim.forSites (c : Net) (hdr : Header) (payload : List Byte) (sites : List SiteId) : Claim where
  entries := fun k => sites.filterMap (c.entryFor hdr.frameClass k)
  header := { hdr with origin := BitVec.ofNat 8 c.active.ownSite }
  payload := payload

/-- The claim of a frame for a site: none without a route. -/
def siteClaims (c : Net) (hdr : Header) (site : SiteId) : List Claim :=
  if (c.route site).isSome then [Claim.forSite c hdr site] else []

/-- The claim of a frame for several sites: none without a site. -/
def sitesClaims (c : Net) (hdr : Header) (payload : List Byte) (sites : List SiteId) : List Claim :=
  if sites = [] then [] else [Claim.forSites c hdr payload sites]

theorem Issues.toChannel (n : ChannelNo) (hdr : Header) (payload : List Byte) (done : Option Completion) (s : State) :
    Issues x 1 1 [Claim.onChannel n hdr payload] s (s.onIo fun c => sendToChannel c n hdr payload done) := by
  have places := places_entry (c := s.net) (place := fun h => deliver s.net n hdr.frameClass h) (p := chanPort n)
    (e := fun k => channelEntry hdr.frameClass k) (frameBytes hdr payload) s.io.engine (fun _ => rfl) fun k io => rfl
  refine Issues.built (done := done) places fun f hf => ?_
  rw [List.mem_singleton.mp hf]
  exact ⟨trivial, rfl⟩

/-- The header of a frame given to the Forwarding Engine for a site (R32, R35). -/
def Net.headed (c : Net) (hdr : Header) (site : SiteId) : Header :=
  { hdr with origin := BitVec.ofNat 8 c.active.ownSite, destination := BitVec.ofNat 8 site }

theorem Net.headed_frameClass (c : Net) (hdr : Header) (site : SiteId) :
    (c.headed hdr site).frameClass = hdr.frameClass := rfl

theorem Net.fromOwn_frameClass (c : Net) (hdr : Header) : (c.fromOwn hdr).frameClass = hdr.frameClass := rfl

theorem Issues.toSite (hdr : Header) (site : SiteId) (s : State) :
    Issues x 1 1 (siteClaims s.net hdr site) s (s.onIo fun c => sendToSite c hdr site) := by
  have places := places_forSite (c := s.net) (s.net.headed hdr site).frameClass site
    (frameBytes (s.net.headed hdr site) []) s.io.engine
  refine Issues.built (done := none) places fun f hf => ?_
  unfold siteClaims at hf
  split at hf
  · rw [List.mem_singleton.mp hf]
    exact ⟨‹_›, rfl⟩
  · cases hf

theorem Issues.toSites (hdr : Header) (payload : List Byte) {sites : List SiteId} (s : State)
    (routed : ∀ n ∈ sites, (s.net.route n).isSome = true) :
    Issues x 1 sites.length (sitesClaims s.net hdr payload sites) s (s.onIo fun c => sendToSites c hdr payload sites) := by
  cases sites with
  | nil => exact (Issues.refl s).mono (by simp) (by simp) (by simp [sitesClaims])
  | cons n rest =>
    have places := places_forSites (c := s.net) hdr.frameClass routed (frameBytes (s.net.fromOwn hdr) payload) s.io.engine
    refine Issues.built (done := none) places fun f hf => ?_
    rw [sitesClaims, if_neg (by simp)] at hf
    rw [List.mem_singleton.mp hf]
    exact ⟨by simp, rfl⟩

/-! ## What the statements ask for -/

/-- A claim of an event with room, when the received frame's buffer has been let go. -/
theorem Issues.stands {n m n' m' : Nat} {claims : List Claim} {f : Claim} (h : Issues x n m claims s t) (hf : f ∈ claims)
    (room : s.roomFor n' m') (hn : n ≤ n') (hm : m ≤ m') (hx : x ∉ s.io.pool.free) (c : Net) :
    Stands s.io.pool.free f.entries (frameBytes f.header f.payload) (dropReference c x t.io) := by
  obtain ⟨room', -, stands⟩ := h.room 0 0 ((room_of_roomFor room).mono (by omega) (by omega)) hx
  exact (stands f hf).dropped c room'.quiet hx

/-- The same for an event without a received frame. -/
theorem Issues.standsAlone {n m n' m' : Nat} {claims : List Claim} {f : Claim} (h : Issues 0 n m claims s t)
    (hf : f ∈ claims) (room : s.roomFor n' m') (hn : n ≤ n') (hm : m ≤ m') :
    Stands s.io.pool.free f.entries (frameBytes f.header f.payload) t.io := by
  have hx : (0 : Handle) ∉ s.io.pool.free := fun hk => by
    have := room.1.mem_iff.mp (List.mem_append_left _ hk)
    simp at this
  obtain ⟨-, -, stands⟩ := h.room 0 0 ((room_of_roomFor room).mono (by omega) (by omega)) hx
  exact stands f hf

theorem queuedOn_of_stands {n : ChannelNo} {hdr : Header} {payload : List Byte}
    (h : Stands s.io.pool.free (Claim.onChannel n hdr payload).entries (frameBytes hdr payload) t.io) :
    s.queuedOn n hdr payload t := by
  obtain ⟨k, hk, entries, bytes⟩ := h
  exact ⟨k, hk, entries _ (List.mem_singleton.mpr rfl), bytes⟩

theorem queuedFor_of_stands {hdr : Header} {site : SiteId}
    (h : (s.net.route site).isSome = true →
      Stands s.io.pool.free (Claim.forSite s.net hdr site).entries
        (frameBytes (Claim.forSite s.net hdr site).header []) t.io) :
    s.queuedFor hdr site t := by
  intro j hj
  obtain ⟨k, hk, entries, bytes⟩ := h (by rw [hj]; rfl)
  refine ⟨k, hk, entries (linkPort j, _) ?_, bytes⟩
  simp only [Claim.forSite, Net.entryFor, hj, Option.map_some, Option.toList_some, List.mem_singleton]
  rfl

theorem noticed_of_stands {c : Net} {hdr : Header} {payload : List Byte} {sites : List SiteId}
    (hc : hdr.frameClass = .priority)
    (h : sites ≠ [] → Stands s.io.pool.free (Claim.forSites c hdr payload sites).entries
      (frameBytes (Claim.forSites c hdr payload sites).header payload) t.io) :
    s.noticed c hdr payload sites t := by
  intro some
  obtain ⟨k, hk, entries, bytes⟩ := h some
  refine ⟨k, hk, bytes, fun n hn j hj => entries (linkPort j, _) ?_⟩
  refine List.mem_filterMap.mpr ⟨n, hn, ?_⟩
  simp [Net.entryFor, hj, hc]

/-! ## The received frame's buffer -/

/-- A frame of a kind stands in an ALLOCATED buffer: an absent one would read as kind 0. -/
theorem bufferOf_of_kind {h : Handle} {io : Io} {k : Kind} (hk : (parseHeader (bytesOf h io)).isKind k = true) :
    bufferOf h io ≠ none := by
  intro none
  rw [bytesOf, none] at hk
  cases k <;> exact absurd hk (by decide)

theorem not_free_of_kind {h : Handle} {k : Kind} {n m : Nat} (room : s.roomFor n m)
    (hk : (parseHeader (bytesOf h s.io)).isKind k = true) : h ∉ s.io.pool.free := fun free =>
  bufferOf_of_kind hk (bufferOf_of_free (room_of_roomFor room).distinct free)

end Sys2Proof.Machine
end

section
/-! PROOFS. What sending leaves of the counters, beside those of a dropped or displaced entry (R161): claims sent, hop
expired and no route are raised by their own rules alone, so each operation of a block raises the counters its rule names. -/

namespace Sys2Proof.Machine

variable {c : Net} {i : Nat} {s t u : State}

/-- The counters that placing an entry on a queue can raise: at a port queue drops and displaced (R42). -/
def entryCounter (i : Nat) : Prop := 18 ≤ i ∧ ((i - 18) % 14 = 10 ∨ (i - 18) % 14 = 11)

theorem not_entryCounter (d : DevCounter) : ¬entryCounter d.number := by
  cases d <;> simp [entryCounter, DevCounter.number]

/-- The counters that sending a frame can raise: those, and internal drops (R21, R35). -/
def placingCounter (i : Nat) : Prop := i = 15 ∨ entryCounter i

theorem entry_of_not_placing (h : ¬placingCounter i) : ¬entryCounter i := fun entry => h (.inr entry)

theorem not_placingCounter {d : DevCounter} (drops : d ≠ .internalDrops) : ¬placingCounter d.number := by
  cases d with
  | internalDrops => exact absurd rfl drops
  | _ => simp [placingCounter, entryCounter, DevCounter.number]

theorem not_placingCounter_noRoute (p : PortNo) : ¬placingCounter (portCounterNumber p .noRoute) := by
  simp only [placingCounter, entryCounter, portCounterNumber, PortCounter.offset]
  omega

theorem number_injective : Function.Injective DevCounter.number := by
  have left : ∀ d : DevCounter, DevCounter.ofNat d.number = d := fun d => by cases d <;> rfl
  exact Function.LeftInverse.injective left

/-- An operation on frames leaves a counter alone. -/
def KeepsCounter (i : Nat) (f : Io → Io) : Prop := ∀ io, (f io).live.getD i 0 = io.live.getD i 0

namespace KeepsCounter

theorem comp {f g : Io → Io} (hf : KeepsCounter i f) (hg : KeepsCounter i g) : KeepsCounter i fun io => f (g io) :=
  fun io => (hf _).trans (hg io)

theorem foldl {α : Type} {f : Io → α → Io} (hf : ∀ a, KeepsCounter i fun io => f io a) :
    ∀ l : List α, KeepsCounter i fun io => l.foldl f io
  | [] => fun _ => rfl
  | a :: l => fun io => (foldl hf l (f io a)).trans (hf a io)

theorem bumpAt {j : Nat} (h : i ≠ j) : KeepsCounter i (Machine.bumpAt j) := bumpAt_other h

theorem dropReferenceQuietly (reserve : Nat) (h : Handle) : KeepsCounter i (Machine.dropReferenceQuietly reserve h) :=
  fun io => by rw [dropReferenceQuietly_live]

theorem startTransmission (p : PortNo) : KeepsCounter i (Machine.startTransmission p) := fun io => by
  unfold Machine.startTransmission
  split <;> rfl

section

variable (he : ¬entryCounter i)
include he

theorem queueDrops (p : PortNo) : KeepsCounter i (countPort p .queueDrops) :=
  bumpAt fun same => he (by unfold entryCounter; rw [same]; simp only [portCounterNumber, PortCounter.offset]; omega)

theorem displaced (p : PortNo) : KeepsCounter i (countPort p .displaced) :=
  bumpAt fun same => he (by unfold entryCounter; rw [same]; simp only [portCounterNumber, PortCounter.offset]; omega)

theorem placeEntryWith {drop : Handle → Io → Io} (hd : ∀ h, KeepsCounter i (drop h)) (p : PortNo) (e : Entry) :
    KeepsCounter i (Machine.placeEntryWith drop p e) := by
  intro io
  unfold Machine.placeEntryWith placeWithRoom
  simp only
  split
  · split
    · exact startTransmission p _
    · rfl
  · cases e.cls with
    | routine => exact queueDrops he p io
    | priority =>
      cases removeNewestRoutine io.ports[p.val].queue with
      | none => exact queueDrops he p io
      | some x => exact (hd x.1.handle _).trans (displaced he p io)

/-- Entries for sites that have a route. -/
theorem placeRouted {drop : Handle → Io → Io} (hd : ∀ h, KeepsCounter i (drop h)) (c : Net) (cls : FrameClass) (h : Handle)
    {sites : List SiteId} (routed : ∀ n ∈ sites, (c.route n).isSome = true) :
    KeepsCounter i (Machine.placeForSitesWith drop c cls h sites) := by
  induction sites with
  | nil => exact fun _ => rfl
  | cons n rest ih =>
    intro io
    obtain ⟨l, hl⟩ := Option.isSome_iff_exists.mp (routed n (by simp))
    have first : KeepsCounter i (Machine.placeForSiteWith drop c cls h n) := by
      intro io
      unfold Machine.placeForSiteWith
      rw [hl]
      exact placeEntryWith he hd _ _ io
    exact (ih (fun m hm => routed m (by simp [hm])) _).trans (first io)

theorem sendPoolExhausted (c : Net) : KeepsCounter i (Machine.sendPoolExhausted c) := by
  intro io
  unfold Machine.sendPoolExhausted
  cases io.pool.free with
  | nil => rfl
  | cons h rest =>
    exact (dropReferenceQuietly _ h _).trans
      (placeRouted he (dropReferenceQuietly _) c .priority h (managementSites_routed c) _)

theorem dropReference (c : Net) (h : Handle) : KeepsCounter i (Machine.dropReference c h) := by
  intro io
  unfold Machine.dropReference
  simp only
  split
  · exact (sendPoolExhausted he c _).trans (dropReferenceQuietly _ h io)
  · exact dropReferenceQuietly _ h io

theorem placeEntry (c : Net) (p : PortNo) (e : Entry) : KeepsCounter i (Machine.placeEntry c p e) :=
  placeEntryWith he (dropReference he c) p e

end

section

variable (hi : ¬placingCounter i)
include hi

theorem internalDrops : KeepsCounter i (countDev .internalDrops) := bumpAt fun he => hi (.inl he)

theorem placeForSiteWith {drop : Handle → Io → Io} (hd : ∀ h, KeepsCounter i (drop h)) (c : Net) (cls : FrameClass)
    (h : Handle) (site : SiteId) : KeepsCounter i (Machine.placeForSiteWith drop c cls h site) := by
  intro io
  unfold Machine.placeForSiteWith
  cases c.route site with
  | none => exact internalDrops hi io
  | some l => exact placeEntryWith (entry_of_not_placing hi) hd _ _ io

theorem placeForSitesWith {drop : Handle → Io → Io} (hd : ∀ h, KeepsCounter i (drop h)) (c : Net) (cls : FrameClass)
    (h : Handle) (sites : List SiteId) : KeepsCounter i (Machine.placeForSitesWith drop c cls h sites) :=
  foldl (fun n => placeForSiteWith hi hd c cls h n) sites

theorem placeForSite (c : Net) (cls : FrameClass) (h : Handle) (site : SiteId) :
    KeepsCounter i (Machine.placeForSite c cls h site) := placeForSiteWith hi (dropReference (entry_of_not_placing hi) c) c cls h site

theorem placeForSites (c : Net) (cls : FrameClass) (h : Handle) (sites : List SiteId) :
    KeepsCounter i (Machine.placeForSites c cls h sites) := placeForSitesWith hi (dropReference (entry_of_not_placing hi) c) c cls h sites

theorem buildFrame (c : Net) (hdr : Header) (payload : List Byte) (done : Option Completion) :
    KeepsCounter i fun io => (Machine.buildFrame c hdr payload done io).2 := by
  intro io
  have asked : (allocate c.active.bufferReserve hdr.frameClass io).2.live = io.live := by
    unfold allocate noteEmpty
    simp only
    split
    · split <;> rfl
    · split <;> rfl
  show (Machine.buildFrame c hdr payload done io).2.live.getD i 0 = io.live.getD i 0
  unfold Machine.buildFrame
  rcases ha : allocate c.active.bufferReserve hdr.frameClass io with ⟨_ | _ | _, io'⟩
  all_goals
    rw [ha] at asked
    simp only at asked
  · exact congrArg (·.getD i 0) asked
  · exact (internalDrops hi io').trans (congrArg (·.getD i 0) asked)
  · exact (internalDrops hi io').trans (congrArg (·.getD i 0) asked)

theorem sendBuilt {place : Handle → Io → Io} (hp : ∀ h, KeepsCounter i (place h)) (c : Net) (hdr : Header)
    (payload : List Byte) (done : Option Completion) : KeepsCounter i (Machine.sendBuilt c hdr payload done place) := by
  intro io
  have built := buildFrame hi c hdr payload done io
  simp only at built
  unfold Machine.sendBuilt
  rcases hb : Machine.buildFrame c hdr payload done io with ⟨_ | h, io'⟩
  all_goals
    rw [hb] at built
    simp only at built
  · exact built
  · exact (dropReference (entry_of_not_placing hi) c h _).trans ((hp h io').trans built)

theorem sendToSite (c : Net) (hdr : Header) (site : SiteId) : KeepsCounter i (Machine.sendToSite c hdr site) :=
  sendBuilt hi (fun h => placeForSite hi c _ h site) c _ _ _

theorem sendToSites (c : Net) (hdr : Header) (payload : List Byte) (sites : List SiteId) :
    KeepsCounter i (Machine.sendToSites c hdr payload sites) := by
  intro io
  unfold Machine.sendToSites
  split
  · rfl
  · exact sendBuilt hi (fun h => placeForSites hi c _ h sites) c _ _ _ io

theorem sendToChannel (c : Net) (n : ChannelNo) (hdr : Header) (payload : List Byte) (done : Option Completion) :
    KeepsCounter i (Machine.sendToChannel c n hdr payload done) :=
  sendBuilt hi (fun _ => placeEntry (entry_of_not_placing hi) c _ _) c _ _ _

theorem placeReply (c : Net) (arrival : LinkNo) (h : Handle) (site : SiteId) :
    KeepsCounter i (Machine.placeReply c arrival h site) := by
  intro io
  unfold Machine.placeReply
  split
  · exact internalDrops hi io
  · exact placeEntry (entry_of_not_placing hi) c _ _ io

end

end KeepsCounter

/-! ## The counters an operation raises -/

/-- Of the device counters but internal drops an operation raises those of `l`, each as often as it stands there. -/
structure Raises (l : List DevCounter) (s t : State) : Prop where
  length : t.io.live.length = s.io.live.length
  counts : s.io.live.length = 158 → ∀ d, d ≠ .internalDrops →
    t.devCounter d = (fun n => saturate (n + 1))^[l.count d] (s.devCounter d)

namespace Raises

theorem same (h : t.io.live = s.io.live) : Raises [] s t :=
  ⟨by rw [h], fun _ d _ => by simp only [State.devCounter, State.counter, h]; rfl⟩

theorem trans {l l' : List DevCounter} (h : Raises l s t) (h' : Raises l' t u) : Raises (l ++ l') s u := by
  refine ⟨h'.length.trans h.length, fun len d hd => ?_⟩
  rw [h'.counts (h.length.trans len) d hd, h.counts len d hd, List.count_append, Nat.add_comm,
    Function.iterate_add_apply]

/-- The counters start as they do in a state with the same ones. -/
theorem ofLive {l : List DevCounter} (h : Raises l t u) (live : t.io.live = s.io.live) : Raises l s u :=
  trans (l := []) (same live) h

theorem count (d : DevCounter) (s : State) : Raises [d] s (s.count d) := by
  refine ⟨(bumpAt_grow _ _).1, fun len e he => ?_⟩
  have bound : d.number < s.io.live.length := by rw [len]; cases d <;> decide
  by_cases same : e = d
  · subst same
    simp only [List.count_singleton_self, Function.iterate_one]
    exact bumpAt_self bound
  · rw [List.count_singleton, if_neg (by simpa using Ne.symm same)]
    exact bumpAt_other (fun he => same (number_injective he)) s.io

theorem onIo {f : Net → Io → Io} (keeps : ∀ i, ¬placingCounter i → KeepsCounter i (f s.net))
    (length : (f s.net s.io).live.length = s.io.live.length) : Raises [] s (s.onIo f) :=
  ⟨length, fun _ _ hd => keeps _ (not_placingCounter hd) s.io⟩

theorem dropped (h : Handle) (s : State) : Raises [] s (s.onIo fun c => dropReference c h) :=
  onIo (fun _ hi => .dropReference (entry_of_not_placing hi) _ h) (Moves.dropReference (P := False) False.elim h s.io).counters.1

theorem toSite (hdr : Header) (site : SiteId) (s : State) : Raises [] s (s.onIo fun c => sendToSite c hdr site) :=
  onIo (fun _ hi => .sendToSite hi _ _ _) (Moves.sendToSite (P := False) False.elim _ _ _).counters.1

theorem toSites (hdr : Header) (payload : List Byte) (sites : Net → List SiteId) (s : State) :
    Raises [] s (s.onIo fun c => sendToSites c hdr payload (sites c)) :=
  onIo (fun _ hi => .sendToSites hi _ _ _ _) (Moves.sendToSites (P := False) False.elim _ _ _ _).counters.1

theorem toChannel (n : ChannelNo) (hdr : Header) (payload : List Byte) (done : Option Completion) (s : State) :
    Raises [] s (s.onIo fun c => sendToChannel c n hdr payload done) :=
  onIo (fun _ hi => .sendToChannel hi _ _ _ _ _) (Moves.sendToChannel (P := False) False.elim _ _ _ _ _).counters.1

theorem sendMembership (subcode : Byte) (g : TalkgroupId) (s : State) : Raises [] s (Machine.sendMembership subcode g s) :=
  (toSites (membershipHeader subcode g (advanceSequence s)) [] Net.routedSites (advanceSequence s)).ofLive rfl

theorem memberEntry (g : TalkgroupId) (s : State) : Raises [] s (Machine.memberEntry g s) := by
  unfold Machine.memberEntry
  split
  · exact same rfl
  · simp only
    split
    · exact (sendMembership _ _ _).ofLive rfl
    · exact same rfl

theorem memberExit (g : TalkgroupId) (s : State) : Raises [] s (Machine.memberExit g s) := by
  unfold Machine.memberExit
  split
  · exact same rfl
  · simp only
    split
    · exact (sendMembership _ _ _).ofLive rfl
    · exact same rfl

theorem exitReport (r : Record) (s : State) : Raises [] s (Machine.exitReport r s) := by
  unfold Machine.exitReport
  split
  · exact memberExit _ s
  · exact same rfl

theorem sendCancel (u : UnitId) (id : Nat) (reason : Byte) (site : SiteId) (s : State) :
    Raises [] s (Machine.sendCancel u id reason site s) := toSite _ site s

theorem sendAccept (n : ChannelNo) (u : UnitId) (g : TalkgroupId) (ch : ChannelNo) (s : State) :
    Raises [] s (Machine.sendAccept n u g ch s) := toChannel n _ _ _ s

theorem deleteRecord {u : UnitId} {r : Record} (hr : s.record u = some r) :
    Raises [.recordsDeleted] s (Machine.deleteRecord u s) := by
  unfold Machine.deleteRecord
  rw [hr]
  have removed : Raises [.recordsDeleted] (Machine.exitReport r s)
      ((removeRecord u (Machine.exitReport r s)).count .recordsDeleted) := (count .recordsDeleted _).ofLive rfl
  exact Raises.trans (l := []) (exitReport r s) removed

theorem taken (p : PortNo) (s : State) : Raises [] s (s.taken p) := same rfl

theorem raised {l : List DevCounter} (h : Raises l s t) (law : s.counterLaw) {d : DevCounter} (hd : d ≠ .internalDrops)
    (once : l.count d = 1) : s.raised d t := by
  rw [State.raised, h.counts law.1.1 d hd, once]
  rfl

theorem kept {l : List DevCounter} (h : Raises l s t) (law : s.counterLaw) {d : DevCounter} (hd : d ≠ .internalDrops)
    (never : l.count d = 0) : t.devCounter d = s.devCounter d := by
  rw [h.counts law.1.1 d hd, never]
  rfl

end Raises

end Sys2Proof.Machine
end

section
/-! PROOFS. Frames taken at a port and single frames sent, state by state (R11, R12, R21, R22, R35, R44): what an event
leaves of its port's handed frames, and where the one frame it builds then stands. -/

namespace Sys2Proof.Machine

variable {c : Net} {k x : Handle} {p : PortNo} {s t m : State} {io io' : Io}

/-! ## One frame sent in an event -/

theorem SentOne.ofTaken {q : PortNo} {e : Entry} {bytes : List Byte} (h : SentOne k p e bytes (takenAt q io) io') :
    SentOne k p e bytes io io' := by
  refine ⟨fun r => (h.queue r).trans ?_, fun r => (h.sending r).trans (takenAt_sending q r io), h.buffer, h.quiet⟩
  rw [takenAt_queue]

theorem SentOne.counted {e : Entry} {bytes : List Byte} (h : SentOne k p e bytes io io') (i : Nat) :
    SentOne k p e bytes io (bumpAt i io') := ⟨h.queue, h.sending, h.buffer, h.quiet⟩

theorem SentOne.ofCounted {e : Entry} {bytes : List Byte} {i : Nat} (h : SentOne k p e bytes (bumpAt i io) io') :
    SentOne k p e bytes io io' := ⟨h.queue, h.sending, h.buffer, h.quiet⟩

/-- The entry of a frame built for a site (R35). -/
def Net.siteEntry (c : Net) (cls : FrameClass) (k : Handle) (site : SiteId) : Entry :=
  { handle := k, cls := cls, hop := c.active.hopLimit, addressing := .destination site }

/-- The frames after a frame for a site was sent on those of a state: where it can be built and routed and there is room,
it stands on its link's queue. -/
def State.sentFor (s : State) (hdr : Header) (site : SiteId) (io : Io) : Prop :=
  ∀ k rest j, s.io.pool.free = k :: rest → s.io.pool.noticePending = false →
    (hdr.frameClass = .priority ∨ s.active.bufferReserve < s.io.pool.free.length) → s.net.route site = some j →
    s.waitsAt (linkPort j) →
    SentOne k (linkPort j) (s.net.siteEntry hdr.frameClass k site) (frameBytes (s.net.headed hdr site) []) s.io io

/-- The same for a frame on a channel port. -/
def State.sentOn (s : State) (n : ChannelNo) (hdr : Header) (payload : List Byte) (io : Io) : Prop :=
  ∀ k rest, s.io.pool.free = k :: rest → s.io.pool.noticePending = false →
    (hdr.frameClass = .priority ∨ s.active.bufferReserve < s.io.pool.free.length) → s.waitsAt (chanPort n) →
    SentOne k (chanPort n) (channelEntry hdr.frameClass k) (frameBytes hdr payload) s.io io

theorem sentFor_sendToSite (hdr : Header) (site : SiteId) (s : State) :
    s.sentFor hdr site (sendToSite s.net hdr site s.io) := by
  intro k rest j hf hn hc hr hw
  refine sendBuilt_one (hdr := s.net.headed hdr site) [] none hf hc hn rfl (fun io => ?_) hw
  show placeForSite s.net hdr.frameClass k site io = _
  simp only [placeForSite, placeForSiteWith, hr]
  rfl

theorem sentOn_sendToChannel (n : ChannelNo) (hdr : Header) (payload : List Byte) (done : Option Completion) (s : State) :
    s.sentOn n hdr payload (sendToChannel s.net n hdr payload done s.io) := by
  intro k rest hf hn hc hw
  exact sendBuilt_one payload done hf hc hn rfl (fun _ => rfl) hw

theorem waitsAt_taken (q : PortNo) (h : s.waitsAt p) : (s.taken q).waitsAt p := by
  have queue : (s.taken q).queueOf p = s.queueOf p := takenAt_queue q p s.io
  have sending : (s.taken q).io.ports[p.val].sending = s.io.ports[p.val].sending := takenAt_sending q p s.io
  unfold State.waitsAt
  rw [queue, sending]
  exact h

theorem State.sentFor.ofTaken {hdr : Header} {site : SiteId} (h : (s.taken p).sentFor hdr site io) :
    s.sentFor hdr site io := fun k rest j hf hn hc hr hw =>
  (h k rest j hf hn hc hr (waitsAt_taken p hw)).ofTaken

theorem State.sentOn.ofTaken {n : ChannelNo} {hdr : Header} {payload : List Byte}
    (h : (s.taken p).sentOn n hdr payload io) : s.sentOn n hdr payload io := fun k rest hf hn hc hw =>
  (h k rest hf hn hc (waitsAt_taken p hw)).ofTaken

theorem State.sentFor.counted {hdr : Header} {site : SiteId} (h : s.sentFor hdr site io) (i : Nat) :
    s.sentFor hdr site (bumpAt i io) := fun k rest j hf hn hc hr hw => (h k rest j hf hn hc hr hw).counted i

theorem State.sentFor.built {hdr : Header} {site : SiteId} (h : s.sentFor hdr site t.io) : s.builtForSite hdr site t :=
  fun k rest j hf _ hn hc hr hw =>
    have sent := h k rest j hf hn hc hr hw
    ⟨(sent.queue _).trans (if_pos rfl), sent.bytes⟩

theorem State.sentOn.built {n : ChannelNo} {hdr : Header} (h : s.sentOn n hdr [] t.io) : s.builtOnChannel n hdr t :=
  fun k rest hf _ hn hc hw =>
    have sent := h k rest hf hn hc hw
    ⟨(sent.queue _).trans (if_pos rfl), sent.bytes⟩

/-- The received frame's buffer is let go when the event ends (R22). -/
theorem State.sentFor.builtDropped {hdr : Header} {site : SiteId} (h : s.sentFor hdr site io) (c : Net)
    (hx : bufferOf x s.io ≠ none) (ht : t.io = dropReference c x io) : s.builtForSite hdr site t := by
  intro k rest j hf hb hn hc hr hw
  have sent := (h k rest j hf hn hc hr hw).dropped (x := x) (fun same => hx (same ▸ hb)) c
  rw [← ht] at sent
  exact ⟨(sent.queue _).trans (if_pos rfl), sent.bytes⟩

theorem State.sentOn.builtDropped {n : ChannelNo} {hdr : Header} (h : s.sentOn n hdr [] io) (c : Net)
    (hx : bufferOf x s.io ≠ none) (ht : t.io = dropReference c x io) : s.builtOnChannel n hdr t := by
  intro k rest hf hb hn hc hw
  have sent := (h k rest hf hn hc hw).dropped (x := x) (fun same => hx (same ▸ hb)) c
  rw [← ht] at sent
  exact ⟨(sent.queue _).trans (if_pos rfl), sent.bytes⟩

/-! ## Frames taken at a port -/

/-- Whatever leaves the handed frames and the receptions as the taking of a frame did, and the release of its buffer, take
that frame alone. -/
theorem tookHanded_of_ports (h : Handle)
    (ports : ∀ q : PortNo, m.io.ports[q.val].handed = (takenAt p s.io).ports[q.val].handed
      ∧ m.io.ports[q.val].reception = (takenAt p s.io).ports[q.val].reception) :
    s.tookHanded p (m.onIo fun c => dropReference c h) := by
  have dropped := (Moves.dropReference (P := False) (c := m.net) False.elim h m.io).ports
  refine ⟨fun q => ?_, fun q => ?_⟩
  · refine ((dropped q).2.1.trans (ports q).1).trans ?_
    rw [takenAt_port]
    by_cases same : p = q
    · rw [if_pos same, if_pos same.symm]
      rfl
    · rw [if_neg same, if_neg (Ne.symm same)]
      rfl
  · refine ((dropped q).1.trans (ports q).2).trans ?_
    rw [takenAt_port]
    split <;> rfl

/-- Traffic after the taking of a frame leaves the other frames. -/
theorem tookHanded_of_acts (acts : Acts (s.taken p) m) (h : Handle) :
    s.tookHanded p (m.onIo fun c => dropReference c h) :=
  tookHanded_of_ports h fun q => ⟨(acts.ports q).2.1, (acts.ports q).1⟩

theorem sameIntake_of_acts (acts : Acts s t) : s.sameIntake t := fun q => ⟨(acts.ports q).2.1, (acts.ports q).1⟩

/-- An event that sends nothing of its own leaves the queues, when the release of its buffer sends nothing. -/
theorem sameSending_dropped (h : Handle) (ports : m.io.ports = (takenAt p s.io).ports)
    (quiet : m.io.pool.noticePending = false) : s.sameSending (m.onIo fun c => dropReference c h) := by
  intro q
  have dropped := dropReference_ports_of_no_notice m.net h quiet
  simp only [State.queueOf, State.onIo, dropped, ports, takenAt_queue, takenAt_sending, and_self]

/-- A frame at a port's head that its owner handles is handled on the state without it. -/
theorem takeHanded_of_head {y : Handed} {isMine : Handed → Header → State → Bool}
    (run : Handle → Header → List Byte → State → State) (hx : headHanded p s = some y)
    (mine : isMine y (handedHeader y s) s = true) :
    takeHanded p isMine run s
      = (run y.handle (handedHeader y s) (handedPayload y s) (s.taken p)).onIo fun c => dropReference c y.handle := by
  simp only [takeHanded, hx, mine, if_true]
  rfl

theorem takeForOwn_of_head {l : LinkNo} {y : Handed} {kind : Kind} (run : Handle → Header → List Byte → State → State)
    (hx : s.holdsForOwn l y kind) :
    takeForOwn l kind run s
      = (run y.handle (handedHeader y s) (handedPayload y s) (s.taken (linkPort l))).onIo
          fun c => dropReference c y.handle := by
  obtain ⟨⟨head, isKind⟩, agent, own⟩ := hx
  exact takeHanded_of_head run head (by simp [ownKind, agent, isKind, own])

/-! ## Records -/

theorem record_of_units {u : UnitId} (h : t.units = s.units) : t.record u = s.record u := by
  unfold State.record
  rw [h]

/-- The records of a state in which one unit's record was changed. -/
theorem modUnit_record_self {u : UnitId} {r : Record} {f : Record → Record} (hr : s.record u = some r)
    (keep : ∀ r, (f r).unit = r.unit) : (modUnit u f s).record u = some (f r) := by
  rw [record_modUnit s u u f keep, if_pos rfl, hr]
  rfl

theorem modUnit_record_other {u v : UnitId} {f : Record → Record} (hv : v ≠ u) (keep : ∀ r, (f r).unit = r.unit) :
    (modUnit u f s).record v = s.record v := by
  rw [record_modUnit s u v f keep, if_neg hv]

theorem Record.enter_changed {r : Record} {ph : Phase} (now : BitVec 48) (hph : r.phase.number ≠ ph.number) :
    r.enter now ph = { r with phase := ph, entryTime := now } := by
  simp only [Record.enter, beq_iff_eq, hph, if_false]

end Sys2Proof.Machine

open Sys2Proof Sys2Proof.Machine

/-- Settles O35: in these states a record has no member report, so its deletion is its removal and one count. -/
theorem expiredRecordsAreDeleted : Obligations.ExpiredRecordsAreDeleted := by
  intro u r s hr hs gone
  have removed (absent : r.phase.isMember = false) : gone (deleteRecord u s) := by
    rw [deleteRecord_of_not_member hr absent]
    refine ⟨?_, fun v hv => ?_, raised_count _ hs, rfl, fun _ => ⟨rfl, rfl⟩, fun _ => ⟨rfl, rfl⟩, rfl⟩
    · rw [count_record, removeRecord_record, if_pos rfl]
    · rw [count_record, removeRecord_record, if_neg hv]
  refine ⟨fun ch d hp he => ⟨deleteRecord u s, congrArg Host.Outcome.next ?_, removed (by rw [hp]; rfl)⟩,
    fun ho hp he => ⟨deleteRecord u s, congrArg Host.Outcome.next ?_, removed (by rw [hp]; rfl)⟩,
    fun ho hp he => ⟨deleteRecord u s, congrArg Host.Outcome.next ?_, removed (by rw [hp]; rfl)⟩⟩
  · simp only [lostExpiry, hr, hp, he, if_true]
  · simp only [arrivalEnds, hr, hp, he, if_true]
  · simp only [forwardHoldEnds, hr, hp, he, if_true]

/-- Settles O44: an attempt that has waited too long fails, and the departure tells its partner. -/
theorem handoverTimersExpire : Obligations.HandoverTimersExpire := by
  intro u r s hr hs returned
  refine ⟨fun ch a ho hp he => ?_, fun ch ho sent hp he => ?_, fun d hd he => ?_⟩
  · have due : s.elapsed ho.deadline = true := by simpa [State.elapsed] using he
    refine ⟨attemptFailed u (enterPhase u (.served ch a none) s), congrArg Host.Outcome.next ?_, rfl,
      fun _ => ⟨rfl, rfl⟩, fun v hv => attemptFailed_record_other hv _ s,
      attemptFailed_record_self hr (by simp [hp, Phase.number]), raised_count .roamsFailed hs, fun _ => ⟨rfl, rfl⟩⟩
    simp only [replyWaitEnds, hr, hp, due, if_true]
    rfl
  · have due : s.elapsed ho.deadline = true := by simpa [State.elapsed] using he
    let served : Phase := .served ch (freshActivity s) (some { site := ho.partner, id := ho.id })
    have moves : r.phase.number ≠ served.number := by simp [hp, Phase.number, served]
    have told := (sentFor_sendToSite { handoverHeader .hoCancel u ho.id with subcode := 1#8 } ho.partner s).counted
      DevCounter.roamsFailed.number
    refine ⟨attemptFailed u (sendCancel u ho.id 1#8 ho.partner (enterPhase u served s)), congrArg Host.Outcome.next ?_,
      rfl, sameIntake_of_acts (((Acts.enterPhase u served s).trans (.sendCancel _ _ _ _ _)).trans (.failed _ _)),
      fun v hv => ?_, ?_, ?_, told.built⟩
    · simp only [departureEnds, hr, hp, due, if_true]
      rfl
    · exact attemptFailed_record_other hv served s
    · have raises : Raises [.roamsFailed] s (attemptFailed u (sendCancel u ho.id 1#8 ho.partner (enterPhase u served s))) :=
        Raises.trans (l := []) ((Raises.sendCancel u ho.id 1#8 ho.partner (enterPhase u served s)).ofLive rfl)
          ((Raises.count .roamsFailed (startRoamHold u _)).ofLive rfl)
      exact raises.raised hs (by decide) rfl
    · exact attemptFailed_record_self hr moves
  · have due : s.due r.roamHold = true := by simpa [hd, State.due, State.elapsed] using he
    refine ⟨modUnit u (fun r => { r with roamHold := none }) s, congrArg Host.Outcome.next ?_,
      modUnit_record_self hr fun _ => rfl, fun v hv => modUnit_record_other hv fun _ => rfl, rfl⟩
    simp only [roamHoldEnds, hr, due, if_true]
end

section
/-! PROOFS. Single-destination frames (R33, R34, R36) and UNIT MESSAGEs for the own site (R67, R68): one placement on the
received frame's buffer, one built answer, or one count. -/

namespace Sys2Proof.Machine

variable {c : Net} {k x : Handle} {p : PortNo} {s t m : State} {io io' : Io} {l : LinkNo}

/-- A frame of an addressing stands in an ALLOCATED buffer. -/
theorem bufferOf_of_addressed {a : KindAddressing} (h : addressedAs a (parseHeader (bytesOf x io)) = true) :
    bufferOf x io ≠ none := by
  intro none
  rw [bytesOf, none] at h
  cases a <;> exact absurd h (by decide)

theorem not_placingCounter_port (p : PortNo) {d : PortCounter} (queue : d ≠ .queueDrops) (displaced : d ≠ .displaced) :
    ¬placingCounter (portCounterNumber p d) := by
  cases d with
  | queueDrops => exact absurd rfl queue
  | displaced => exact absurd rfl displaced
  | _ =>
    simp only [placingCounter, entryCounter, portCounterNumber, PortCounter.offset]
    omega

/-- A port's counter that an event raises on the frame it has taken, and that sending and releasing then keep. -/
theorem raisedAt_of_keeps {q : PortNo} {d : PortCounter} (hs : s.counterLaw) (queue : d ≠ .queueDrops)
    (displaced : d ≠ .displaced) {f : Io → Io} (keeps : KeepsCounter (portCounterNumber q d) f)
    (ht : t.io = dropReference c x (f (countPort q d (takenAt p s.io)))) : s.raisedAt q d t := by
  have dropped := KeepsCounter.dropReference (entry_of_not_placing (not_placingCounter_port q queue displaced)) c x
    (f (countPort q d (takenAt p s.io)))
  refine countPort_raisedAt (t := t) d hs ?_
  show t.io.live.getD _ 0 = _
  rw [ht]
  exact dropped.trans (keeps _)

theorem sameSending_io (h : Handle) (ht : t.io = dropReference c h io) (ports : io.ports = (takenAt p s.io).ports)
    (quiet : io.pool.noticePending = false) : s.sameSending t := by
  intro q
  have dropped := dropReference_ports_of_no_notice c h quiet
  simp only [State.queueOf, ht, dropped, ports, takenAt_queue, takenAt_sending, and_self]

/-- One placement on the received frame's buffer, before that buffer is let go. -/
theorem queueOf_placed {q : PortNo} {e : Entry} (quiet : io.pool.noticePending = false)
    (ports : ∀ r : PortNo, io.ports[r.val].queue = s.queueOf r ∧ io.ports[r.val].sending = s.io.ports[r.val].sending)
    (waits : s.waitsAt q) (ht : t.io = dropReference c x (placeEntry c q e io)) (r : PortNo) :
    t.queueOf r = if r = q then insertEntry e (s.queueOf r) else s.queueOf r := by
  have put : placeEntry c q e io = putEntry q e io :=
    placeEntry_room c (by rw [(ports q).1]; exact waits.2) (by rw [(ports q).2]; exact waits.1)
  have kept : (putEntry q e io).pool.noticePending = false := quiet
  show t.io.ports[r.val].queue = _
  rw [ht, put, dropReference_ports_of_no_notice c x kept, putEntry_queue, (ports r).1]

theorem takenAt_ports (p : PortNo) (s : State) (r : PortNo) :
    (takenAt p s.io).ports[r.val].queue = s.queueOf r
      ∧ (takenAt p s.io).ports[r.val].sending = s.io.ports[r.val].sending :=
  ⟨takenAt_queue p r s.io, takenAt_sending p r s.io⟩

/-! ## The three ends of a single-destination frame (R33, R34) -/

theorem forwardSingle_expired {hdr : Header} {site : SiteId} (h : hdr.hop.toNat ≤ 1) :
    forwardSingle c l x hdr site io = countPort (linkPort l) .hopExpired io := if_pos h

theorem forwardSingle_routed {hdr : Header} {site : SiteId} {n : LinkNo} (h : 2 ≤ hdr.hop.toNat)
    (hr : c.route site = some n) :
    forwardSingle c l x hdr site io
      = placeEntry c (linkPort n)
          { handle := x, cls := hdr.frameClass, hop := hdr.hop.toNat - 1, addressing := .destination site } io := by
  simp only [forwardSingle, show ¬hdr.hop.toNat ≤ 1 by omega, if_false, hr]

theorem forwardSingle_lost {hdr : Header} {site : SiteId} (h : 2 ≤ hdr.hop.toNat) (hr : c.route site = none) :
    forwardSingle c l x hdr site io
      = if hdr.isKind .unitMessage then sendUnreachable c 4#8 false hdr (countPort (linkPort l) .noRoute io)
        else countPort (linkPort l) .noRoute io := by
  simp only [forwardSingle, show ¬hdr.hop.toNat ≤ 1 by omega, if_false, hr]

/-- What forwarding a frame toward a site does when it cannot go on (R33, R34). -/
theorem forwardSingle_counted {hdr : Header} {site : SiteId} (hs : s.counterLaw) (quiet : s.io.pool.noticePending = false)
    (hx : bufferOf x s.io ≠ none)
    (ht : t.io = dropReference s.net x (forwardSingle s.net l x hdr site (takenAt (linkPort l) s.io))) :
    (hdr.hop.toNat ≤ 1 → s.raisedAt (linkPort l) .hopExpired t ∧ s.sameSending t)
      ∧ (2 ≤ hdr.hop.toNat → s.net.route site = none →
          s.raisedAt (linkPort l) .noRoute t ∧ (hdr.isKind .unitMessage = false → s.sameSending t)
            ∧ (hdr.isKind .unitMessage = true →
              s.builtForSite { Header.blank .unitUnreachable with unit := hdr.unit, subcode := 4 } hdr.origin.toNat t)) := by
  refine ⟨fun hop => ?_, fun hop route => ?_⟩
  · rw [forwardSingle_expired hop] at ht
    exact ⟨raisedAt_of_keeps hs (by decide) (by decide) (f := id) (fun _ => rfl) ht,
      sameSending_io x ht rfl quiet⟩
  · rw [forwardSingle_lost hop route] at ht
    cases message : hdr.isKind .unitMessage with
    | false =>
      rw [message] at ht
      exact ⟨raisedAt_of_keeps hs (by decide) (by decide) (f := id) (fun _ => rfl) ht,
        fun _ => sameSending_io x ht rfl quiet, fun h => absurd h (by decide)⟩
    | true =>
      rw [message] at ht
      refine ⟨raisedAt_of_keeps hs (by decide) (by decide) (f := sendUnreachable s.net 4#8 false hdr)
        (KeepsCounter.sendToSite (not_placingCounter_noRoute _) _ _ _) ht, fun h => absurd h (by decide), fun _ => ?_⟩
      have told := sentFor_sendToSite { Header.blank .unitUnreachable with unit := hdr.unit, subcode := 4#8 }
        hdr.origin.toNat
        { s.taken (linkPort l) with io := countPort (linkPort l) .noRoute (takenAt (linkPort l) s.io) }
      refine State.sentFor.builtDropped (State.sentFor.ofTaken (p := linkPort l) ?_) s.net hx ht
      exact fun k rest j hf hn hc hr hw => (told k rest j hf hn hc hr hw).ofCounted

/-! ## A UNIT MESSAGE by its unit's record (R67) -/

/-- The frames after a UNIT MESSAGE for the own site. -/
theorem unitMessage_io {y : Handed} (hx : s.holdsForOwn l y .unitMessage) :
    takeForOwn l .unitMessage (fun h hdr _ => takeUnitMessage l h hdr) s
      = (takeUnitMessage l y.handle (handedHeader y s) (s.taken (linkPort l))).onIo
          fun c => dropReference c y.handle := takeForOwn_of_head _ hx

theorem flag_eq (r : Option Record) : (r.map Record.emergency).getD false = r.any Record.emergency := by
  cases r <;> rfl

/-- The records by which a message is redirected (R67). -/
theorem messageAction_redirected {r : Option Record} {ho : Handover}
    (h : (∃ ch, r.map Record.phase = some (.departing ch ho true)) ∨ r.map Record.phase = some (.forward ho)) :
    messageAction r = .redirected ho.partner := by
  cases r with
  | none => simp at h
  | some r => rcases h with ⟨ch, h⟩ | h <;> simp [messageAction, Option.some.inj h]

theorem messageAction_delivered {r : Option Record} {ch : ChannelNo}
    (h : (∃ a b, r.map Record.phase = some (.served ch a b)) ∨ (∃ a ho, r.map Record.phase = some (.proposing ch a ho))
      ∨ (∃ ho, r.map Record.phase = some (.departing ch ho false))) : messageAction r = .delivered ch := by
  cases r with
  | none => simp at h
  | some r => rcases h with ⟨a, b, h⟩ | ⟨a, ho, h⟩ | ⟨ho, h⟩ <;> simp [messageAction, Option.some.inj h]

theorem messageAction_answered {r : Option Record} {cause : Byte}
    (h : (r = none ∧ cause = 1#8) ∨ (∃ ch d, r.map Record.phase = some (.lost ch d) ∧ cause = 2#8)
      ∨ (∃ ho, r.map Record.phase = some (.arriving ho) ∧ cause = 3#8)) : messageAction r = .answered cause := by
  cases r with
  | none =>
    rcases h with ⟨-, rfl⟩ | ⟨_, _, h, -⟩ | ⟨_, h, -⟩
    · rfl
    · cases h
    · cases h
  | some r =>
    rcases h with ⟨h, -⟩ | ⟨ch, d, h, rfl⟩ | ⟨ho, h, rfl⟩
    · cases h
    · simp [messageAction, Option.some.inj h]
    · simp [messageAction, Option.some.inj h]

section

variable {hdr : Header}

theorem takeUnitMessage_delivered {ch : ChannelNo} (h : messageAction (s.record hdr.unit.toNat) = .delivered ch) :
    takeUnitMessage l x hdr s
      = s.onIo fun c io =>
          deliver c ch (Kind.frameClass .unitMessage (hdr.emergency || (s.record hdr.unit.toNat).any Record.emergency)) x
            (if (s.record hdr.unit.toNat).any Record.emergency then
              modHeader x (fun y => { y with emergency := true }) io
            else io) := by
  simp only [takeUnitMessage, h, flag_eq]

theorem takeUnitMessage_redirected {site : SiteId} (h : messageAction (s.record hdr.unit.toNat) = .redirected site) :
    takeUnitMessage l x hdr s = s.onIo fun c => forwardSingle c l x hdr site := by
  simp only [takeUnitMessage, h]

theorem takeUnitMessage_answered {cause : Byte} (h : messageAction (s.record hdr.unit.toNat) = .answered cause) :
    takeUnitMessage l x hdr s
      = s.onIo fun c => sendUnreachable c cause ((s.record hdr.unit.toNat).any Record.emergency) hdr := by
  simp only [takeUnitMessage, h, flag_eq]

end

end Sys2Proof.Machine

open Sys2Proof Sys2Proof.Machine

/-- Settles O28: by the hop count and the route. -/
theorem singleDestinationForwarded : Obligations.SingleDestinationForwarded := by
  intro l x s hs quiet head hdr agent single away
  have mine : isForAnother x (handedHeader x s) s = true := by
    simp only [isForAnother, agent, Bool.not_false, Bool.true_and, Bool.and_eq_true, bne_iff_ne]
    exact ⟨single, away⟩
  have hx : bufferOf x.handle s.io ≠ none := bufferOf_of_addressed single
  refine ⟨_, congrArg Host.Outcome.next (takeHanded_of_head _ head mine), tookHanded_of_acts
    (.onIo _ _ fun _ hc => .forwardSingle hc l x.handle hdr hdr.destination.toNat _) x.handle, rfl, ?_⟩
  refine (and_assoc.mp ⟨forwardSingle_counted hs quiet hx rfl, fun n hop route waits p => ?_⟩)
  exact queueOf_placed (io := takenAt (linkPort l) s.io) quiet (takenAt_ports (linkPort l) s) waits
    (congrArg (dropReference s.net x.handle) (forwardSingle_routed hop route)) p

/-- Settles O29: by the action that the record's state gives. -/
theorem unitMessageByRecord : Obligations.UnitMessageByRecord := by
  intro l x s holds quiet hdr r flag
  have hx : bufferOf x.handle s.io ≠ none := bufferOf_of_kind holds.1.2
  refine ⟨_, congrArg Host.Outcome.next (unitMessage_io holds), tookHanded_of_acts (.takeUnitMessage _ _ _ _) x.handle,
    ?_, fun ch h waits => ?_, fun ho n h hop route waits => ?_, fun ho h hs => ?_,
    fun cause k rest n h free class' route waits apart => ?_⟩
  · unfold takeUnitMessage
    simp only
    split <;> rfl
  · rw [takeUnitMessage_delivered (hdr := handedHeader x s) (s := s.taken (linkPort l))
      (messageAction_delivered h)]
    refine (queueOf_placed (s := s) (c := s.net)
      (io := if flag then modHeader x.handle (fun y => { y with emergency := true }) (takenAt (linkPort l) s.io)
        else takenAt (linkPort l) s.io) ?_ ?_ waits rfl (chanPort ch)).trans (if_pos rfl)
    · split <;> exact quiet
    · intro q
      split <;> exact takenAt_ports (linkPort l) s q
  · rw [takeUnitMessage_redirected (hdr := handedHeader x s) (s := s.taken (linkPort l))
      (messageAction_redirected h)]
    exact (queueOf_placed (io := takenAt (linkPort l) s.io) quiet (takenAt_ports (linkPort l) s) waits
      (congrArg (dropReference s.net x.handle) (forwardSingle_routed hop route)) _).trans (if_pos rfl)
  · rw [takeUnitMessage_redirected (hdr := handedHeader x s) (s := s.taken (linkPort l))
      (messageAction_redirected h)]
    refine (forwardSingle_counted (l := l) (hdr := hdr) (site := ho.partner) hs quiet hx ?_).imp id
      fun lost hop route => ⟨(lost hop route).1, (lost hop route).2.2 holds.1.2⟩
    rfl
  · rw [takeUnitMessage_answered (hdr := handedHeader x s) (s := s.taken (linkPort l))
      (messageAction_answered h)]
    have told := (sentFor_sendToSite
      { Header.blank .unitUnreachable with emergency := flag, unit := hdr.unit, subcode := cause } hdr.origin.toNat
      (s.taken (linkPort l))).ofTaken k rest n free quiet (.inr class') route waits
    have dropped := told.dropped apart s.net
    exact ⟨(dropped.queue _).trans (if_pos rfl), dropped.bytes⟩
end

section
/-! PROOFS. The unit notice by its record (R53, R65), and a POLL REPLY (R61): what the marker writes in a record, which
record the notice leaves, and what it does to the activity of a record that has any. -/

namespace Sys2Proof.Machine

variable {s t m : State} {u : UnitId} {r : Record} {n : ChannelNo} {k : Kind}

/-! ## Phases whose activity changes -/

theorem Phase.number_mapActivity (f : Activity → Activity) (ph : Phase) : (ph.mapActivity f).number = ph.number := by
  cases ph <;> rfl

theorem Phase.channel_mapActivity (f : Activity → Activity) (ph : Phase) : (ph.mapActivity f).channel? = ph.channel? := by
  cases ph <;> rfl

theorem Phase.handover_mapActivity (f : Activity → Activity) (ph : Phase) :
    (ph.mapActivity f).handover? = ph.handover? := by
  cases ph <;> rfl

theorem Phase.activity_mapActivity (f : Activity → Activity) (ph : Phase) :
    (ph.mapActivity f).activity? = ph.activity?.map f := by
  cases ph <;> rfl

theorem Phase.mapActivity_none {ph : Phase} (h : ph.activity? = none) (f : Activity → Activity) : ph.mapActivity f = ph := by
  cases ph with
  | served | proposing => cases h
  | departing | arriving | forward | lost => rfl

theorem Phase.mapActivity_id (ph : Phase) : (ph.mapActivity fun a => a) = ph := by
  cases ph <;> rfl

theorem Phase.mapActivity_mapActivity (f g : Activity → Activity) (ph : Phase) :
    (ph.mapActivity f).mapActivity g = ph.mapActivity (g ∘ f) := by
  cases ph <;> rfl

/-! ## The marker of a frame (R65) -/

/-- What a frame's marker makes of an activity: out of DORMANT, with the poll timer started again unless a poll is
outstanding. -/
def State.wake (s : State) (a : Activity) : Activity :=
  if a.cls = .dormant then
    if a.outstanding.isNone then restartPoll s { a with cls := .quiet } else { a with cls := .quiet }
  else a

/-- What a frame's marker makes of a record. -/
def Record.marked (s : State) (marker : Bool) (r : Record) : Record :=
  { r with
    emergency := r.emergency || marker
    phase := r.phase.mapActivity fun a => if !r.emergency && marker then s.wake a else a }

/-- The records after a frame's marker was read. -/
def State.marked (s : State) (u : UnitId) (marker : Bool) : State := if marker then modUnit u (setEmergency s) s else s

theorem marked_true (s : State) (r : Record) : setEmergency s r = r.marked s true := by
  obtain ⟨slot, unit, phase, talkgroup, emergency, talking, limited, serving, candidates, hold, entry, last⟩ := r
  cases emergency with
  | true =>
    simp only [Record.marked, Bool.not_true, Bool.false_and, Bool.false_eq_true, if_false, Phase.mapActivity_id]
    rfl
  | false => rfl

theorem marked_false (s : State) (r : Record) : r.marked s false = r := by
  simp only [Record.marked, Bool.or_false, Bool.and_false, Bool.false_eq_true, if_false, Phase.mapActivity_id]

/-- A record without activity takes the flag alone. -/
theorem Record.marked_inactive (h : r.phase.activity? = none) (s : State) (marker : Bool) :
    r.marked s marker = { r with emergency := r.emergency || marker } := by
  simp only [Record.marked, Phase.mapActivity_none h]

theorem marked_record (hr : s.record u = some r) (marker : Bool) :
    (s.marked u marker).record u = some (r.marked s marker) := by
  cases marker with
  | false => rw [marked_false]; exact hr
  | true => rw [← marked_true]; exact modUnit_record_self hr fun r => by rw [marked_true]; rfl

theorem marked_record_other {v : UnitId} (hv : v ≠ u) (marker : Bool) : (s.marked u marker).record v = s.record v := by
  cases marker with
  | false => rfl
  | true => exact modUnit_record_other hv fun r => by rw [marked_true]; rfl

theorem marked_frame (s : State) (u : UnitId) (marker : Bool) :
    s.marked u marker = { s with units := (s.marked u marker).units } := by
  cases marker <;> rfl

theorem Acts.marked (s : State) (u : UnitId) (marker : Bool) : Acts s (s.marked u marker) := by
  cases marker with
  | false => exact .refl s
  | true => exact .setEmergency u s

/-! ## The notice -/

theorem unitNotice_none (hr : s.record u = none) (n : ChannelNo) (k : Kind) (marker : Bool) :
    unitNotice n u k marker s = s := by
  simp only [unitNotice, hr]

theorem unitNotice_some (hr : s.record u = some r) (n : ChannelNo) (k : Kind) (marker : Bool) :
    unitNotice n u k marker s = noticeByState n k r (s.marked u marker) := by
  simp only [unitNotice, hr]
  rfl

/-- A record that is away, or whose radio has not been sent away, is left with its marker (R53). -/
theorem noticeByState_still
    (h : ∃ ho, r.phase = .arriving ho ∨ r.phase = .forward ho ∨ ∃ ch, r.phase = .departing ch ho false) :
    noticeByState n k r s = s := by
  obtain ⟨ho, hp | hp | ⟨ch, hp⟩⟩ := h <;> simp [noticeByState, hp]

theorem activity_still
    (h : ∃ ho, r.phase = .arriving ho ∨ r.phase = .forward ho ∨ ∃ ch, r.phase = .departing ch ho false) :
    r.phase.activity? = none := by
  obtain ⟨ho, hp | hp | ⟨ch, hp⟩⟩ := h
  all_goals
    rw [hp]
    rfl

/-- A POLL REPLY leaves the activity of a record to its owner (R53). -/
theorem noticeByState_pollReply {a : Activity} (h : r.phase.activity? = some a) : noticeByState n .pollReply r s = s := by
  unfold noticeByState
  cases hp : r.phase with
  | served | proposing => rfl
  | departing | arriving | forward | lost => simp [hp, Phase.activity?] at h

/-- A frame of a member at home makes its activity ACTIVE (R58). -/
theorem noticeByState_touch {a : Activity} (h : r.phase.activity? = some a) (hk : k ≠ .pollReply) :
    noticeByState n k r s = modUnit r.unit (fun r => { r with phase := r.phase.mapActivity (touchActivity s) }) s := by
  unfold noticeByState
  cases hp : r.phase with
  | served | proposing => simp only [hk, if_false]
  | departing | arriving | forward | lost => simp [hp, Phase.activity?] at h

theorem touchActivity_eq (s : State) : touchActivity s = s.activeAgain := by
  funext a
  unfold touchActivity State.activeAgain
  split <;> rfl

/-! ## A POLL REPLY (R61) -/

/-- A channel frame of a unit: the notice, then its owner's action, then the release (R11, R22, R53). -/
theorem pollReply_next {x : Handed} (hx : s.holds (chanPort n) x .pollReply) :
    exec (.pollReply n) s
      = .next ((pollReplyByState (handedHeader x s).unit.toNat
          ((unitNotice n (handedHeader x s).unit.toNat .pollReply (handedHeader x s).emergency s).taken (chanPort n))).onIo
            fun c => dropReference c x.handle) :=
  congrArg Host.Outcome.next (takeFromChannel_of_head (fun _ hdr _ => pollReplyByState hdr.unit.toNat) hx.1 hx.2)

theorem pollReplyByState_some (hr : s.record u = some r) :
    pollReplyByState u s = modUnit u (fun r => { r with phase := r.phase.mapActivity (answerPoll s) }) s := by
  simp only [pollReplyByState, hr]

/-- A POLL REPLY's effect on an activity, with its marker's before it (R61, R65). -/
theorem answerPoll_marked (s : State) (a : Activity) (marked : Bool) :
    let woken : Bool := marked && a.cls == .dormant
    let cls := if woken then ActivityClass.quiet else a.cls
    answerPoll s (if marked then s.wake a else a)
      = { cls := cls
          timer := a.timer
          poll := if a.outstanding.isSome || woken then some (s.after (pollInterval s.active cls * 1000)) else a.poll
          outstanding := none
          misses := 0 } := by
  obtain ⟨cls, timer, poll, outstanding, misses⟩ := a
  cases marked with
  | false => cases outstanding <;> rfl
  | true => cases cls <;> cases outstanding <;> rfl

/-- An event that sends nothing, moves the records of one unit at most and raises no counter (R22). -/
theorem settles_quietly {p : PortNo} (h : Handle) (frame : m = { s with io := takenAt p s.io, units := m.units }) :
    s.tookHanded p (m.onIo fun c => dropReference c h)
      ∧ (m.onIo fun c => dropReference c h) = { s with io := (m.onIo fun c => dropReference c h).io, units := m.units }
      ∧ (s.io.pool.noticePending = false → s.sameSending (m.onIo fun c => dropReference c h))
      ∧ ∀ d : DevCounter, d ≠ .internalDrops → (m.onIo fun c => dropReference c h).devCounter d = s.devCounter d := by
  have hio : m.io = takenAt p s.io := by rw [frame]
  refine ⟨?_, ?_, fun quiet => sameSending_dropped h (by rw [hio]) (by rw [hio]; exact quiet), fun d hd => ?_⟩
  · exact tookHanded_of_ports h fun q => by rw [hio]; exact ⟨rfl, rfl⟩
  · rw [frame]
    rfl
  · refine (KeepsCounter.dropReference (not_entryCounter d) m.net h m.io).trans ?_
    rw [hio]
    rfl

/-- The state from which a frame was taken after its marker was read. -/
theorem marked_taken (marker : Bool) (p : PortNo) :
    (s.marked u marker).taken p = { s with io := takenAt p s.io, units := (s.marked u marker).units } := by
  rw [marked_frame s u marker]
  rfl

theorem pollReply_unknown {x : Handed} (holds : s.holds (chanPort n) x .pollReply) (hs : s.counterLaw)
    (hr : s.record (handedHeader x s).unit.toNat = none) :
    ∃ t, exec (.pollReply n) s = .next t ∧ s.tookHanded (chanPort n) t ∧ s.sameButIo t ∧ s.raised .unknownUnitFrames t
      ∧ (s.io.pool.noticePending = false → s.sameSending t) := by
  have settled := settlesFor_of_records (u := 0) (p := chanPort n) (m := (s.taken (chanPort n)).count .unknownUnitFrames)
    x.handle hs (not_sendCounter (by decide) (by decide)) rfl fun _ _ => rfl
  have unknown : (s.taken (chanPort n)).record (handedHeader x s).unit.toNat = none := hr
  refine ⟨_, pollReply_next holds, ?_⟩
  rw [unitNotice_none hr, pollReplyByState, unknown]
  exact ⟨settled.taken, rfl, settled.raised, settled.quiet⟩

/-- What a POLL REPLY of a unit with a record leaves, when the notice is its marker alone. -/
theorem pollReply_known {x : Handed} (holds : s.holds (chanPort n) x .pollReply)
    (hr : s.record (handedHeader x s).unit.toNat = some r)
    (still : ∀ s, noticeByState n .pollReply r s = s) :
    ∃ t, exec (.pollReply n) s = .next t ∧ s.tookHanded (chanPort n) t ∧ t = { s with io := t.io, units := t.units }
      ∧ s.sameRecordsBut (handedHeader x s).unit.toNat t
      ∧ t.record (handedHeader x s).unit.toNat
        = some
            { r.marked s (handedHeader x s).emergency with
              phase := (r.marked s (handedHeader x s).emergency).phase.mapActivity (answerPoll s) }
      ∧ (∀ d : DevCounter, d ≠ .internalDrops → t.devCounter d = s.devCounter d)
      ∧ (s.io.pool.noticePending = false → s.sameSending t) := by
  have record := marked_record hr (handedHeader x s).emergency
  have frame := marked_taken (s := s) (u := (handedHeader x s).unit.toNat) (handedHeader x s).emergency (chanPort n)
  refine ⟨_, pollReply_next holds, ?_⟩
  rw [unitNotice_some hr, still, pollReplyByState_some (s := State.taken _ _) record, frame]
  obtain ⟨taken, same, quiet, kept⟩ := settles_quietly (p := chanPort n) (s := s)
    (m := modUnit (handedHeader x s).unit.toNat (fun r => { r with phase := r.phase.mapActivity (answerPoll s) })
      { s with io := takenAt (chanPort n) s.io, units := (s.marked (handedHeader x s).unit.toNat _).units }) x.handle rfl
  refine ⟨taken, same, fun v hv => ?_, ?_, kept, quiet⟩
  · exact (record_of_units rfl).trans
      ((modUnit_record_other (s := s.marked _ _) (f := fun r => { r with phase := r.phase.mapActivity (answerPoll s) }) hv
        fun _ => rfl).trans (marked_record_other hv _))
  · exact modUnit_record_self (s := s.marked _ _) record fun _ => rfl

end Sys2Proof.Machine

open Sys2Proof Sys2Proof.Machine

/-- Settles O33: the notice sets the flag and leaves the rest, and the poll's wait ends. -/
theorem pollReplyEndsPoll : Obligations.PollReplyEndsPoll := by
  constructor
  · intro n x s holds hs hdr u
    refine ⟨pollReply_unknown holds hs, fun r hr still => ?_⟩
    obtain ⟨t, next, taken, frame, others, record, kept, quiet⟩ :=
      pollReply_known holds hr fun s => noticeByState_still still
    refine ⟨t, next, taken, frame, others, ?_, kept _ (by decide), quiet⟩
    rw [record, Record.marked_inactive (activity_still still)]
    simp only [Phase.mapActivity_none (activity_still still)]
    rfl
  · intro n x r a s holds hdr hr ha flag woken cls
    obtain ⟨t, next, taken, frame, others, record, kept, quiet⟩ :=
      pollReply_known holds hr fun s => noticeByState_pollReply ha
    let r' : Record :=
      { r.marked s hdr.emergency with phase := (r.marked s hdr.emergency).phase.mapActivity (answerPoll s) }
    let a' : Activity := answerPoll s (if !r.emergency && hdr.emergency then s.wake a else a)
    have answered : a' = _ := answerPoll_marked s a (!r.emergency && hdr.emergency)
    have activity : r'.phase.activity? = some a' := by
      simp only [r', a', Record.marked, Phase.activity_mapActivity, ha, Option.map_some]
    refine ⟨t, r', a', next, taken, by rw [frame]; rfl, others, by rw [frame], record, rfl, ?_, ?_, ?_, activity,
      (congrArg Activity.cls answered :), (congrArg Activity.misses answered :), (congrArg Activity.outstanding answered :),
      (congrArg Activity.timer answered :), (congrArg Activity.poll answered :)⟩
    · exact (Phase.number_mapActivity _ _).trans (Phase.number_mapActivity _ _)
    · exact (Phase.channel_mapActivity _ _).trans (Phase.channel_mapActivity _ _)
    · exact (Phase.handover_mapActivity _ _).trans (Phase.handover_mapActivity _ _)
end

section
/-! PROOFS. Member reports and notices as sending (R113, R114, R164), and presence tracking (R58 to R63): what an entry or
exit report leaves, which frames it uses, and what each presence timer does to its record. -/

namespace Sys2Proof.Machine

variable {c : Net} {x : Handle} {s t v m : State} {u : UnitId} {r : Record} {g : TalkgroupId} {e : TalkgroupEntry}
  {n : ChannelNo} {io : Io}

/-! ## What unit traffic leaves as it was -/

theorem State.sameButUnits.trans (h : s.sameButUnits t) (h' : t.sameButUnits v) : s.sameButUnits v := by
  unfold State.sameButUnits at *
  rw [h', h]

theorem State.sameRecordsBut.trans (h : s.sameRecordsBut u t) (h' : t.sameRecordsBut u v) : s.sameRecordsBut u v :=
  fun w hw => (h' w hw).trans (h w hw)

/-! ## Member reports (R113) -/

theorem modTalkgroup_eq (g : TalkgroupId) (f : TalkgroupEntry → TalkgroupEntry) (l : List TalkgroupEntry) :
    modTalkgroup g f l = l.map fun k => if k.id = g then f k else k := by
  simp [modTalkgroup]

theorem modTalkgroup_of_none (h : findTalkgroup g s.talkgroups = none) (f : TalkgroupEntry → TalkgroupEntry) :
    modTalkgroup g f s.talkgroups = s.talkgroups := by
  have absent (k : TalkgroupEntry) (hk : k ∈ s.talkgroups) : (k.id == g) = false := by
    simpa using List.find?_eq_none.mp h k hk
  exact (List.map_congr_left fun k hk => by rw [absent k hk]; rfl).trans (List.map_id _)

theorem memberEntry_frame (g : TalkgroupId) (s : State) :
    memberEntry g s
      = { s with
          io := (memberEntry g s).io
          talkgroups := s.talkgroups.map fun k => if k.id = g then { k with members := k.members + 1 } else k
          ownSequence := (memberEntry g s).ownSequence } := by
  rw [← modTalkgroup_eq g fun k => { k with members := k.members + 1 }]
  unfold memberEntry
  split
  · rename_i none
    rw [modTalkgroup_of_none none]
  · simp only
    split <;> rfl

theorem memberExit_frame (g : TalkgroupId) (s : State) :
    memberExit g s
      = { s with
          io := (memberExit g s).io
          talkgroups := s.talkgroups.map fun k => if k.id = g then { k with members := k.members - 1 } else k
          ownSequence := (memberExit g s).ownSequence } := by
  rw [← modTalkgroup_eq g fun k => { k with members := k.members - 1 }]
  unfold memberExit
  split
  · rename_i none
    rw [modTalkgroup_of_none none]
  · simp only
    split <;> rfl

theorem memberEntry_sequence (found : findTalkgroup g s.talkgroups = some e) :
    (memberEntry g s).ownSequence = if e.members = 0 then s.ownSequence + 1 else s.ownSequence := by
  unfold memberEntry
  rw [found]
  simp only
  split <;> rfl

theorem memberExit_sequence (found : findTalkgroup g s.talkgroups = some e) :
    (memberExit g s).ownSequence = if e.members = 1 then s.ownSequence + 1 else s.ownSequence := by
  unfold memberExit
  rw [found]
  simp only
  split <;> rfl

/-- An entry report of a talkgroup that has members already sends nothing. -/
theorem memberEntry_io (h : ∀ e, findTalkgroup g s.talkgroups = some e → e.members ≠ 0) : (memberEntry g s).io = s.io := by
  unfold memberEntry
  split
  · rfl
  · rename_i e found
    simp only [if_neg (h e found)]

/-- An exit report that leaves members sends nothing. -/
theorem memberExit_io (h : ∀ e, findTalkgroup g s.talkgroups = some e → e.members ≠ 1) : (memberExit g s).io = s.io := by
  unfold memberExit
  split
  · rfl
  · rename_i e found
    simp only [if_neg (h e found)]

theorem memberEntry_sameButUnits (g : TalkgroupId) (s : State) : s.sameButUnits (memberEntry g s) := by
  unfold State.sameButUnits
  rw [memberEntry_frame]

theorem memberExit_sameButUnits (g : TalkgroupId) (s : State) : s.sameButUnits (memberExit g s) := by
  unfold State.sameButUnits
  rw [memberExit_frame]

theorem exitReport_sameButUnits (r : Record) (s : State) : s.sameButUnits (exitReport r s) := by
  unfold exitReport
  split
  · exact memberExit_sameButUnits _ s
  · rfl

theorem exitReport_member (h : r.phase.isMember = true) : exitReport r s = memberExit r.talkgroup s := if_pos h

theorem exitReport_away (h : r.phase.isMember = false) : exitReport r s = s := by simp [exitReport, h]

/-! ## What the reports send -/

theorem length_routedSites (s : State) : s.net.routedSites.length ≤ s.sites.length :=
  (List.length_filter_le _ _).trans (by rw [List.length_map]; rfl)

theorem length_managementSites (s : State) : s.net.managementSites.length ≤ s.sites.length :=
  (List.length_filter_le _ _).trans (by rw [List.length_map]; exact List.length_filter_le _ _)

namespace Issues

/-- The frames are as in a state with the same ones. -/
theorem start {n m : Nat} {claims : List Claim} (h : Issues x n m claims t v) (active : t.active = s.active)
    (io : t.io = s.io) : Issues x n m claims s v :=
  ((fields active io).trans h).mono (by omega) (by omega) fun f hf => hf

/-- An operation that sends nothing uses no more than any number of frames and entries. -/
theorem nothing {n m : Nat} (active : t.active = s.active) (io : t.io = s.io) : Issues x n m [] s t :=
  (fields active io).mono (by omega) (by omega) fun f hf => hf

theorem forget {n m : Nat} {claims : List Claim} (h : Issues x n m claims s t) : Issues x n m [] s t :=
  h.mono (le_refl n) (le_refl m) (by simp)

theorem sendMembership (subcode : Byte) (g : TalkgroupId) (s : State) :
    Issues x 1 s.sites.length (sitesClaims s.net (membershipHeader subcode g (advanceSequence s)) [] s.net.routedSites) s
      (Machine.sendMembership subcode g s) :=
  ((toSites (membershipHeader subcode g (advanceSequence s)) [] (advanceSequence s) (routedSites_routed s.net)).mono
    (le_refl 1) (length_routedSites s) fun _ hf => hf).start rfl rfl

/-- The frames of an entry report (R114). -/
theorem memberEntry (found : findTalkgroup g s.talkgroups = some e) :
    Issues x 1 s.sites.length
      (if e.members = 0 then sitesClaims s.net (membershipHeader 1#8 g (advanceSequence s)) [] s.net.routedSites else [])
      s (Machine.memberEntry g s) := by
  unfold Machine.memberEntry
  rw [found]
  simp only
  split
  · have sent := sendMembership (x := x) 1#8 g
      { s with talkgroups := modTalkgroup g (fun e => { e with members := e.members + 1 }) s.talkgroups }
    exact sent.start rfl rfl
  · exact nothing rfl rfl

/-- The frames of an exit report (R114). -/
theorem memberExit (found : findTalkgroup g s.talkgroups = some e) :
    Issues x 1 s.sites.length
      (if e.members = 1 then sitesClaims s.net (membershipHeader 2#8 g (advanceSequence s)) [] s.net.routedSites else [])
      s (Machine.memberExit g s) := by
  unfold Machine.memberExit
  rw [found]
  simp only
  split
  · have sent := sendMembership (x := x) 2#8 g
      { s with talkgroups := modTalkgroup g (fun e => { e with members := e.members - 1 }) s.talkgroups }
    exact sent.start rfl rfl
  · exact nothing rfl rfl

/-- Whatever it is of, a report uses one buffer and one place of a queue for each site. -/
theorem reportEntry (g : TalkgroupId) (s : State) : Issues x 1 s.sites.length [] s (Machine.memberEntry g s) := by
  cases found : findTalkgroup g s.talkgroups with
  | none =>
    unfold Machine.memberEntry
    rw [found]
    exact nothing rfl rfl
  | some e => exact (memberEntry found).forget

theorem reportExit (g : TalkgroupId) (s : State) : Issues x 1 s.sites.length [] s (Machine.memberExit g s) := by
  cases found : findTalkgroup g s.talkgroups with
  | none =>
    unfold Machine.memberExit
    rw [found]
    exact nothing rfl rfl
  | some e => exact (memberExit found).forget

theorem exitReport (r : Record) (s : State) : Issues x 1 s.sites.length [] s (Machine.exitReport r s) := by
  unfold Machine.exitReport
  split
  · exact reportExit _ s
  · exact nothing rfl rfl

end Issues

/-! ## A frame that is refused its buffer (R19, R21) -/

theorem buildFrame_refused {hdr : Header} (payload : List Byte) (done : Option Completion)
    (hc : hdr.frameClass = .routine) (low : io.pool.free.length ≤ c.active.bufferReserve) :
    ∃ io', buildFrame c hdr payload done io = (none, countDev .internalDrops io') ∧ io'.ports = io.ports
      ∧ io'.live = io.live := by
  cases hf : io.pool.free with
  | nil =>
    refine ⟨{ io with pool := { io.pool with exhaustion := false
                                             noticePending := io.pool.noticePending || io.pool.exhaustion } }, ?_, rfl, rfl⟩
    simp only [buildFrame, allocate_empty c.active.bufferReserve hdr.frameClass hf]
  | cons k rest =>
    refine ⟨io, ?_, rfl, rfl⟩
    simp only [buildFrame, hc, allocate_reserve hf low]

/-! ## Presence timers (R58 to R63) -/

theorem activityExpiry_due {a : Activity} (hr : s.record u = some r) (ha : r.phase.activity? = some a)
    (due : s.due a.timer = true) :
    activityExpiry u s = modUnit u (fun r => { r with phase := r.phase.mapActivity (expireActivity s r) }) s := by
  simp only [activityExpiry, hr, ha, due, if_true]

theorem pollExpiry_due {a : Activity} {ch : ChannelNo} (hr : s.record u = some r) (ha : r.phase.activity? = some a)
    (hch : r.phase.channel? = some ch) (due : s.due a.poll = true) (hc : a.cls ≠ .active) (none : a.outstanding = none) :
    pollExpiry u s = sendPoll ch r s := by
  have polled : (a.cls != .active) = true := by simpa using hc
  simp only [pollExpiry, hr, ha, hch, due, polled, none, Option.isNone_none, Bool.and_self, if_true]

/-- A POLL is sent: the frame stands on the channel, and the wait runs (R60). -/
theorem sendPoll_granted {k : Handle} {rest : List Handle} (ch : ChannelNo) (hf : s.io.pool.free = k :: rest)
    (high : s.active.bufferReserve < s.io.pool.free.length) :
    sendPoll ch r s
      = modUnit r.unit
          (fun r =>
            { r with
              phase :=
                r.phase.mapActivity fun a =>
                  { a with poll := none, outstanding := some (s.after (s.active.pollReplyWait * 1000)) } })
          (s.onIo fun c => sendToChannel c ch (pollHeader r) [] none) := by
  have built : buildFrame s.net (pollHeader r) [] none s.io
      = (some k, builtIn s.active.bufferReserve k rest (frameBytes (pollHeader r) []) none s.io) := by
    simp only [buildFrame, allocate_granted (reserve := s.net.active.bufferReserve) hf (.inr high)]
    rfl
  simp only [sendPoll, built, sendToChannel, sendBuilt, State.onIo]
  rfl

/-- A POLL that is refused its buffer starts the poll timer again (R60). -/
theorem sendPoll_refused (ch : ChannelNo) (low : s.io.pool.free.length ≤ s.active.bufferReserve) :
    ∃ io, sendPoll ch r s
        = modUnit r.unit (fun r => { r with phase := r.phase.mapActivity (restartPoll s) })
            { s with io := countDev .internalDrops io }
      ∧ io.ports = s.io.ports ∧ io.live = s.io.live := by
  obtain ⟨io, built, ports, live⟩ := buildFrame_refused (c := s.net) (hdr := pollHeader r) [] none rfl low
  exact ⟨io, by simp only [sendPoll, built], ports, live⟩

theorem pollWaitExpiry_due {a : Activity} {ch : ChannelNo} (hr : s.record u = some r) (ha : r.phase.activity? = some a)
    (hch : r.phase.channel? = some ch) (due : s.due a.outstanding = true) :
    pollWaitExpiry u s = missPoll ch r a s := by
  simp only [pollWaitExpiry, hr, ha, hch, due, if_true]

theorem missPoll_limit {a : Activity} (ch : ChannelNo) (limit : s.active.pollMissLimit ≤ a.misses + 1) :
    missPoll ch r a s = goLost r ch s := if_pos limit

theorem missPoll_again {a : Activity} (ch : ChannelNo) (below : a.misses + 1 < s.active.pollMissLimit) :
    missPoll ch r a s
      = modUnit r.unit
          (fun r =>
            { r with
              phase :=
                r.phase.mapActivity fun a => restartPoll s { a with outstanding := none, misses := a.misses + 1 } })
          s := if_neg (by omega)

theorem isMember_of_activity {ph : Phase} {a : Activity} (h : ph.activity? = some a) :
    ph.isMember = true ∧ ph.number ≤ 1 := by
  cases ph with
  | served | proposing => simp [Phase.isMember, Phase.number]
  | departing | arriving | forward | lost => simp [Phase.activity?] at h

/-! ## Going LOST (R63) -/

/-- The header of EMERGENCY UNIT LOST (R7, R63). -/
def lostHeader (r : Record) : Header :=
  { Header.blank .mgmtNotice with
    unit := BitVec.ofNat 24 r.unit
    talkgroup := BitVec.ofNat 16 r.talkgroup
    subcode := 2 }

/-- The state in which a record that goes LOST has been written, before any notice is sent. -/
def lostWritten (r : Record) (ch : ChannelNo) (s : State) : State :=
  (enterPhase r.unit (.lost ch (s.after (s.active.lostHold * 1000))) (memberExit r.talkgroup s)).count .unitsLost

theorem goLost_eq (hm : r.phase.isMember = true) (ch : ChannelNo) :
    goLost r ch s
      = if r.emergency then
          (lostWritten r ch s).onIo fun c => sendToSites c (lostHeader r) [] c.managementSites
        else lostWritten r ch s := by
  have deadline : (memberExit r.talkgroup s).after ((memberExit r.talkgroup s).active.lostHold * 1000)
      = s.after (s.active.lostHold * 1000) := by
    rw [memberExit_frame]
    rfl
  simp only [goLost, exitReport_member hm, deadline]
  rfl

end Sys2Proof.Machine

open Sys2Proof Sys2Proof.Machine

end

section
/-! PROOFS. The presence timers expire (R58 to R60, R62, R63). -/

namespace Sys2Proof.Machine

variable {s t : State} {u : UnitId} {r : Record} {a : Activity} {ch : ChannelNo}

/-- A record in which only the phase has changed, and there only the activity. -/
structure ActivityMoves (r r' : Record) (a' : Activity) : Prop where
  frame : r' = { r with phase := r'.phase }
  number : r'.phase.number = r.phase.number
  channel : r'.phase.channel? = r.phase.channel?
  handover : r'.phase.handover? = r.phase.handover?
  activity : r'.phase.activity? = some a'

theorem activityMoves (ha : r.phase.activity? = some a) (f : Activity → Activity) :
    ActivityMoves r { r with phase := r.phase.mapActivity f } (f a) :=
  ⟨rfl, Phase.number_mapActivity f _, Phase.channel_mapActivity f _, Phase.handover_mapActivity f _,
    by rw [Phase.activity_mapActivity, ha, Option.map_some]⟩

/-- The activity timer moves neither the misses nor the wait of a poll. -/
theorem expireActivity_kept (s : State) (r : Record) (a : Activity) :
    (expireActivity s r a).misses = a.misses ∧ (expireActivity s r a).outstanding = a.outstanding := by
  unfold expireActivity restartPoll
  cases a.cls with
  | active | dormant => exact ⟨rfl, rfl⟩
  | quiet =>
    simp only
    split
    · exact ⟨rfl, rfl⟩
    · split <;> exact ⟨rfl, rfl⟩

theorem expireActivity_active (h : a.cls = .active) :
    expireActivity s r a
      = { a with
          cls := .quiet
          timer := some (s.after (s.active.quietDownshift * 1000))
          poll := some (s.after (s.active.quietPoll * 1000)) } := by
  simp only [expireActivity, h]

theorem expireActivity_quiet (h : a.cls = .quiet) :
    expireActivity s r a
      = if r.emergency then { a with timer := none }
        else
          { a with
            cls := .dormant
            timer := none
            poll := if a.outstanding.isNone then some (s.after (s.active.dormantPoll * 1000)) else a.poll } := by
  simp only [expireActivity, h]
  cases a.outstanding <;> rfl

/-- The wait of a poll has ended, and the record goes LOST (R62, R63). -/
theorem goLost_leaves (hr : s.record u = some r) (hm : r.phase.isMember = true) (hn : r.phase.number ≤ 1)
    (hs : s.counterLaw) :
    (goLost r ch s).record u
        = some { r with phase := .lost ch (s.after (s.active.lostHold * 1000)), entryTime := s.timeBase }
      ∧ s.sameRecordsBut u (goLost r ch s) ∧ s.sameButUnits (goLost r ch s) ∧ s.raised .unitsLost (goLost r ch s)
      ∧ (goLost r ch s).talkgroups
        = s.talkgroups.map (fun k => if k.id = r.talkgroup then { k with members := k.members - 1 } else k) := by
  obtain rfl : r.unit = u := unit_of_record s hr
  have units : (goLost r ch s).units = (lostWritten r ch s).units := by
    rw [goLost_eq hm]
    split <;> rfl
  have exited : (memberExit r.talkgroup s).units = s.units := by rw [memberExit_frame]
  have time : (memberExit r.talkgroup s).timeBase = s.timeBase := by rw [memberExit_frame]
  have moves : r.phase.number ≠ (Phase.lost ch (s.after (s.active.lostHold * 1000))).number := by
    show r.phase.number ≠ 5
    omega
  refine ⟨?_, fun v hv => ?_, ?_, ?_, ?_⟩
  · rw [record_of_units units, lostWritten, count_record, enterPhase_record, if_pos rfl, time,
      record_of_units exited, hr, Option.map_some, Record.enter_changed _ moves]
  · rw [record_of_units units, lostWritten, count_record, enterPhase_record, if_neg hv,
      record_of_units exited]
  · refine (memberExit_sameButUnits r.talkgroup s).trans ?_
    rw [goLost_eq hm]
    split <;> rfl
  · have written : Raises [.unitsLost] s (lostWritten r ch s) :=
      Raises.trans (l := []) (.memberExit r.talkgroup s) ((Raises.count .unitsLost (enterPhase r.unit _ _)).ofLive rfl)
    rw [goLost_eq hm]
    split
    · exact (written.trans (.toSites (lostHeader r) [] Net.managementSites _)).raised hs (by decide) rfl
    · exact written.raised hs (by decide) rfl
  · have talkgroups : (goLost r ch s).talkgroups = (memberExit r.talkgroup s).talkgroups := by
      rw [goLost_eq hm]
      split <;> rfl
    rw [talkgroups, memberExit_frame]

/-- A record in emergency that goes LOST is told to the management sites (R63, R164). -/
theorem goLost_noticed (hm : r.phase.isMember = true) (he : r.emergency = true) (room : s.roomFor 2 (2 * s.sites.length)) :
    s.noticed s.net (lostHeader r) [] s.net.managementSites (goLost r ch s) := by
  have net : (lostWritten r ch s).net = s.net := by
    unfold lostWritten
    rw [memberExit_frame]
    rfl
  have written : Issues 0 1 s.sites.length [] s (lostWritten r ch s) :=
    (Issues.reportExit r.talkgroup s).trans
      ((Issues.count .unitsLost (enterPhase r.unit _ (memberExit r.talkgroup s))).start rfl rfl)
  have told : Issues 0 1 s.sites.length (sitesClaims s.net (lostHeader r) [] s.net.managementSites) (lostWritten r ch s)
      (goLost r ch s) := by
    rw [goLost_eq hm, if_pos he]
    have sites : (lostWritten r ch s).net.managementSites.length ≤ s.sites.length := by
      rw [net]
      exact length_managementSites s
    have sent := Issues.toSites (x := 0) (lostHeader r) [] (lostWritten r ch s)
      (managementSites_routed (lostWritten r ch s).net)
    rw [← net]
    exact sent.mono (le_refl 1) sites fun _ hf => hf
  refine noticed_of_stands rfl fun some => ?_
  refine (written.trans told).standsAlone (f := Claim.forSites s.net (lostHeader r) [] s.net.managementSites) ?_ room
    (by omega) (by omega)
  rw [sitesClaims, if_neg some]
  exact List.mem_append_right _ (List.mem_singleton.mpr rfl)

/-- Without emergency, of a talkgroup with members left, nothing is sent (R113). -/
theorem goLost_silent (hm : r.phase.isMember = true) (he : r.emergency = false)
    (more : ∀ g, findTalkgroup r.talkgroup s.talkgroups = some g → g.members ≠ 1) : s.sameSending (goLost r ch s) := by
  have io : (goLost r ch s).io = countDev .unitsLost s.io := by
    rw [goLost_eq hm, if_neg (by simp [he]), ← memberExit_io more]
    rfl
  intro p
  unfold State.queueOf
  rw [io]
  exact ⟨rfl, rfl⟩

end Sys2Proof.Machine

open Sys2Proof Sys2Proof.Machine

/-- Settles O34: each timer changes the activity of its record alone, or makes it LOST. -/
theorem presenceTimersExpire : Obligations.PresenceTimersExpire := by
  refine ⟨fun u r a s hr ha due => ?_, fun u r a ch s hr ha hch due hc none hs quiet => ?_,
    fun u r a ch s hr ha hch due hs => ?_⟩
  · have moves := activityMoves ha (expireActivity s r)
    refine ⟨_, _, _, congrArg Host.Outcome.next (activityExpiry_due hr ha due), modUnit_record_self hr fun _ => rfl,
      fun v hv => modUnit_record_other hv fun _ => rfl, rfl, moves.frame, moves.number, moves.channel, moves.handover,
      moves.activity, (expireActivity_kept s r a).1, (expireActivity_kept s r a).2, fun hc => ?_, fun hc he => ?_,
      fun hc he => ?_⟩
    · rw [expireActivity_active hc]
      exact ⟨rfl, rfl, rfl⟩
    · rw [expireActivity_quiet hc, if_pos he]
      exact ⟨hc, rfl, rfl⟩
    · rw [expireActivity_quiet hc, if_neg (by simp [he])]
      exact ⟨rfl, rfl, rfl⟩
  · have intake : s.sameIntake (sendPoll ch r s) := sameIntake_of_acts (.sendPoll ch r s)
    obtain rfl : r.unit = u := unit_of_record s hr
    have next := pollExpiry_due hr ha hch due hc none
    refine (lt_or_ge s.active.bufferReserve s.io.pool.free.length).elim (fun high => ?_) fun low => ?_
    · obtain ⟨k, rest, hf⟩ : ∃ k rest, s.io.pool.free = k :: rest := List.exists_cons_of_length_pos (by omega)
      have moves := activityMoves ha fun a =>
        { a with poll := Option.none, outstanding := some (s.after (s.active.pollReplyWait * 1000)) }
      rw [sendPoll_granted (r := r) ch hf high] at next intake
      refine ⟨_, _, _, congrArg Host.Outcome.next next, modUnit_record_self (s := s.onIo _) hr fun _ => rfl,
        fun v hv => modUnit_record_other (s := s.onIo _) hv fun _ => rfl, rfl, intake, moves.frame, moves.number,
        moves.channel.trans hch, moves.activity, rfl, rfl, rfl, fun low => absurd low (by omega),
        fun k' rest' hf' _ => ⟨rfl, rfl, fun waits => ?_⟩⟩
      have sent := sentOn_sendToChannel ch (pollHeader r) [] Option.none s k' rest' hf' quiet (.inr high) waits
      exact ⟨(sent.queue _).trans (if_pos rfl), sent.bytes⟩
    · obtain ⟨io, eq, ports, live⟩ := sendPoll_refused (r := r) ch low
      have moves := activityMoves ha (restartPoll s)
      rw [eq] at next intake
      refine ⟨_, _, _, congrArg Host.Outcome.next next,
        modUnit_record_self (s := { s with io := countDev .internalDrops io }) hr fun _ => rfl,
        fun v hv => modUnit_record_other (s := { s with io := countDev .internalDrops io }) hv fun _ => rfl, rfl, intake,
        moves.frame, moves.number, moves.channel.trans hch, moves.activity, rfl, rfl, rfl,
        fun _ => ⟨none, rfl, ?_, fun p => ?_⟩, fun k rest hf high => absurd high (by omega)⟩
      · have bound : DevCounter.internalDrops.number < io.live.length := by rw [live, hs.1.1]; decide
        refine (bumpAt_self (io := io) bound).trans ?_
        rw [live]
        rfl
      · exact ⟨congrArg (fun v : Vector Port 10 => v[p.val].queue) ports,
          congrArg (fun v : Vector Port 10 => v[p.val].sending) ports⟩
  · obtain ⟨hm, hn⟩ := isMember_of_activity ha
    obtain rfl : r.unit = u := unit_of_record s hr
    refine (lt_or_ge (a.misses + 1) s.active.pollMissLimit).elim (fun below => ?_) fun limit => ?_
    · have moves := activityMoves ha fun a => restartPoll s { a with outstanding := none, misses := a.misses + 1 }
      refine ⟨_, _, congrArg Host.Outcome.next
          ((pollWaitExpiry_due hr ha hch due).trans (missPoll_again ch below)),
        modUnit_record_self hr fun _ => rfl, fun v hv => modUnit_record_other hv fun _ => rfl, rfl, fun _ => ⟨rfl, rfl⟩, fun _ => ?_,
        fun limit => absurd limit (by omega)⟩
      exact ⟨rfl, moves.frame, moves.number, moves.activity⟩
    · obtain ⟨record, others, frame, raised, talkgroups⟩ := goLost_leaves (ch := ch) hr hm hn hs
      exact ⟨_, _, congrArg Host.Outcome.next ((pollWaitExpiry_due hr ha hch due).trans (missPoll_limit ch limit)), record,
        others, frame, sameIntake_of_acts (.goLost r ch s), fun below => absurd limit (by omega),
        fun _ => ⟨raised, rfl, talkgroups, fun he room => goLost_noticed hm he room,
          fun he more => goLost_silent hm he more⟩⟩
end

section
/-! PROOFS. Slots of the Unit Table (R50, R51): the lowest free slot, the record reclaimed when none is, and the table after
a new record has joined it. -/

namespace Sys2Proof.Machine

variable {s t : State} {r x : Record} {slot : Nat}

/-! ## The free slot -/

theorem freeSlot_iff (s : State) (n : Nat) :
    freeSlot s = some n ↔ n < 256 ∧ (∀ r ∈ s.units, r.slot ≠ n) ∧ ∀ m, m < n → ∃ r ∈ s.units, r.slot = m := by
  simp only [freeSlot, List.find?_range_eq_some, List.mem_range, Bool.not_eq_true', List.any_eq_false, beq_iff_eq,
    Bool.not_not, List.any_eq_true, Config.unitSlots]
  exact ⟨fun ⟨free, bound, lower⟩ => ⟨bound, free, lower⟩, fun ⟨bound, free, lower⟩ => ⟨free, bound, lower⟩⟩

/-! ## The record that is reclaimed -/

/-- A record is not reclaimed after another. -/
def reclaimedFirst (r x : Record) : Prop :=
  r.entryTime.toNat < x.entryTime.toNat ∨ (r.entryTime.toNat = x.entryTime.toNat ∧ r.slot ≤ x.slot)

theorem reclaimedFirst_refl (r : Record) : reclaimedFirst r r := .inr ⟨rfl, le_refl _⟩

theorem reclaimedFirst.trans {a b c : Record} (h : reclaimedFirst a b) (h' : reclaimedFirst b c) : reclaimedFirst a c := by
  unfold reclaimedFirst at *
  omega

/-- Of two records one is reclaimed before the other or it is not reclaimed after it. -/
theorem reclaimBefore_iff (a b : Record) : reclaimBefore a b = true ↔ ¬reclaimedFirst b a := by
  have times : a.entryTime = b.entryTime ↔ a.entryTime.toNat = b.entryTime.toNat := BitVec.toNat_inj.symm
  simp only [reclaimBefore, reclaimedFirst, Bool.or_eq_true, Bool.and_eq_true, decide_eq_true_eq, beq_iff_eq, times]
  omega

theorem reclaimedFirst_of_before {a b : Record} (h : reclaimBefore a b = true) : reclaimedFirst a b := by
  rw [reclaimBefore_iff] at h
  unfold reclaimedFirst at *
  omega

/-- The first of the candidates is reclaimed after none of them. -/
theorem foldl_reclaimFirst (l : List Record) (b : Record) :
    ∃ x, l.foldl reclaimFirst (some b) = some x ∧ reclaimedFirst x b ∧ ∀ y ∈ l, reclaimedFirst x y := by
  induction l generalizing b with
  | nil => exact ⟨b, rfl, reclaimedFirst_refl b, by simp⟩
  | cons y l ih =>
    rw [List.foldl_cons, reclaimFirst]
    by_cases before : reclaimBefore y b = true
    · rw [if_pos before]
      obtain ⟨x, found, first, rest⟩ := ih y
      refine ⟨x, found, first.trans (reclaimedFirst_of_before before), fun z hz => ?_⟩
      rcases List.mem_cons.mp hz with rfl | hz
      · exact first
      · exact rest z hz
    · rw [if_neg before]
      obtain ⟨x, found, first, rest⟩ := ih b
      refine ⟨x, found, first, fun z hz => ?_⟩
      rcases List.mem_cons.mp hz with rfl | hz
      · exact first.trans (not_not.mp fun late => before ((reclaimBefore_iff z b).mpr late))
      · exact rest z hz

theorem reclaimable_iff (ph : Phase) : ph.reclaimable = true ↔ ph.number = 4 ∨ ph.number = 5 := by
  cases ph <;> simp [Phase.reclaimable, Phase.number]

theorem reclaimCandidate_none (s : State) :
    reclaimCandidate s = none ↔ ∀ r ∈ s.units, r.phase.number ≠ 4 ∧ r.phase.number ≠ 5 := by
  have without : (∀ r ∈ s.units, r.phase.number ≠ 4 ∧ r.phase.number ≠ 5)
      ↔ (s.units.filter fun r => r.phase.reclaimable) = [] := by
    rw [List.filter_eq_nil_iff]
    refine forall₂_congr fun r _ => ?_
    rw [reclaimable_iff, not_or]
  rw [without, reclaimCandidate]
  cases s.units.filter fun r => r.phase.reclaimable with
  | nil => exact ⟨fun _ => rfl, fun _ => rfl⟩
  | cons y l =>
    obtain ⟨x, found, -⟩ := foldl_reclaimFirst l y
    rw [List.foldl_cons, show reclaimFirst none y = some y from rfl, found]
    simp

theorem reclaimCandidate_first (h : reclaimCandidate s = some r) :
    ∀ x ∈ s.units, x.phase.number = 4 ∨ x.phase.number = 5 → reclaimedFirst r x := by
  intro x hx hp
  have mem : x ∈ s.units.filter fun r => r.phase.reclaimable :=
    List.mem_filter.mpr ⟨hx, (reclaimable_iff _).mpr hp⟩
  unfold reclaimCandidate at h
  cases hl : s.units.filter fun r => r.phase.reclaimable with
  | nil => rw [hl] at mem; cases mem
  | cons y l =>
    obtain ⟨z, found, first, rest⟩ := foldl_reclaimFirst l y
    rw [hl, List.foldl_cons, show reclaimFirst none y = some y from rfl, found] at h
    obtain rfl := Option.some.inj h
    rw [hl] at mem
    rcases List.mem_cons.mp mem with rfl | mem
    · exact first
    · exact rest x mem

/-! ## Taking a slot -/

/-- The state from which a slot was taken. -/
def State.slotTaken (s : State) : State :=
  match freeSlot s, reclaimCandidate s with
  | none, some r => (removeRecord r.unit s).count .recordsReclaimed
  | _, _ => s

/-- A slot can be had. -/
def State.hasSlot (s : State) (slot : Nat) : Prop :=
  freeSlot s = some slot ∨ (freeSlot s = none ∧ (reclaimCandidate s).map Record.slot = some slot)

theorem takeSlot_some (h : s.hasSlot slot) : takeSlot s = some (slot, s.slotTaken) := by
  rcases h with free | ⟨free, reclaimed⟩
  · simp only [takeSlot, State.slotTaken, free]
  · obtain ⟨r, found, rfl⟩ := Option.map_eq_some_iff.mp reclaimed
    simp only [takeSlot, State.slotTaken, free, found]

theorem takeSlot_none (free : freeSlot s = none) (reclaim : reclaimCandidate s = none) : takeSlot s = none := by
  simp only [takeSlot, free, reclaim]

theorem slotTaken_free (h : freeSlot s = some slot) : s.slotTaken = s := by simp only [State.slotTaken, h]

theorem slotTaken_reclaimed (free : freeSlot s = none) (h : reclaimCandidate s = some r) :
    s.slotTaken = (removeRecord r.unit s).count .recordsReclaimed := by simp only [State.slotTaken, free, h]

theorem slotTaken_frame (s : State) :
    s.slotTaken = { s with io := s.slotTaken.io, units := s.slotTaken.units } := by
  unfold State.slotTaken
  split <;> rfl

theorem slotTaken_frames (s : State) : s.slotTaken.io.pool = s.io.pool ∧ s.slotTaken.io.ports = s.io.ports := by
  unfold State.slotTaken
  split <;> exact ⟨rfl, rfl⟩

theorem slotTaken_record_none {u : UnitId} (h : s.record u = none) : s.slotTaken.record u = none := by
  unfold State.slotTaken
  split
  · rw [count_record, removeRecord_record, h]
    split <;> rfl
  · exact h

/-- The counters that taking a slot raises (R51). -/
def State.slotCounters (s : State) : List DevCounter := if (freeSlot s).isNone then [.recordsReclaimed] else []

theorem Raises.slotTaken (h : s.hasSlot slot) : Raises s.slotCounters s s.slotTaken := by
  rcases h with free | ⟨free, reclaimed⟩
  · rw [slotTaken_free free, State.slotCounters, free]
    exact .same rfl
  · obtain ⟨r, found, -⟩ := Option.map_eq_some_iff.mp reclaimed
    rw [slotTaken_reclaimed free found, State.slotCounters, free]
    exact (Raises.count .recordsReclaimed (removeRecord r.unit s)).ofLive rfl

/-! ## The new record (R51, R54) -/

theorem record_iff (law : s.unitLaw) {u : UnitId} : s.record u = some x ↔ x ∈ s.units ∧ x.unit = u :=
  ⟨fun h => ⟨mem_of_record s h, unit_of_record s h⟩, fun ⟨mem, unit⟩ => unit ▸ Tallied.record_of_mem law mem⟩

/-- The table after a new record has joined it in a slot that was taken. -/
theorem record_inserted (law : s.unitLaw) (h : s.hasSlot slot) (here : r.slot = slot) (unknown : s.record r.unit = none)
    (roam : r.roamOk) (v : UnitId) :
    (insertRecord r s.slotTaken).record v = if v = r.unit then some r else s.slotTaken.record v := by
  have slotted := takeSlot_some h
  have inserted := (Acts.takeSlot slotted r here unknown roam).units law
  have fresh := (Tallied.takeSlot_spec law slotted).2.2
  have before : s.slotTaken.unitLaw := by
    rcases h with free | ⟨free, reclaimed⟩
    · rwa [slotTaken_free free]
    · obtain ⟨x, found, -⟩ := Option.map_eq_some_iff.mp reclaimed
      rw [slotTaken_reclaimed free found]
      exact ((Acts.remove s x.unit).trans (.count _ _)).units law
  have members (y : Record) : y ∈ (insertRecord r s.slotTaken).units ↔ y = r ∨ y ∈ s.slotTaken.units := by
    rw [insertRecord_units, (Acts.perm_insertKeyed Record.slot r fun x hx => here ▸ fresh x hx).mem_iff, List.mem_cons]
  by_cases hv : v = r.unit
  · rw [if_pos hv, record_iff inserted, members]
    exact ⟨.inl rfl, hv.symm⟩
  · rw [if_neg hv]
    refine Option.ext fun y => ?_
    rw [record_iff inserted, record_iff before, members]
    refine ⟨fun ⟨mem, unit⟩ => ⟨mem.resolve_left fun same => hv (unit.symm.trans (congrArg Record.unit same)), unit⟩,
      fun ⟨mem, unit⟩ => ⟨.inr mem, unit⟩⟩

end Sys2Proof.Machine
end

section
/-! PROOFS. A REGISTER of a unit without a record (R51, R54): created in the slot it takes, or refused. -/

namespace Sys2Proof.Machine

variable {c : Net} {x : Handle} {s t v m : State} {u : UnitId} {r : Record} {n : ChannelNo} {io : Io} {slot : Nat}
  {e : TalkgroupEntry} {g : Registration}

/-! ## The frames of the Unit Table Controller -/

/-- The header of a REGISTER ACCEPT (R54). -/
def acceptHeader (u : UnitId) (g : TalkgroupId) (ch : ChannelNo) : Header :=
  { Header.blank .registerAccept with
    unit := BitVec.ofNat 24 u
    talkgroup := BitVec.ofNat 16 g
    channel := BitVec.ofNat 8 ch.val }

/-- The header of a REGISTER REFUSE (R54). -/
def refuseHeader (u : UnitId) (cause : Byte) : Header :=
  { Header.blank .registerRefuse with unit := BitVec.ofNat 24 u, subcode := cause }

/-- The header of a HO CLAIM (R107). -/
def claimHeader (u : UnitId) (emergency : Bool) : Header := { handoverHeader .hoClaim u 0 with emergency := emergency }

theorem Places.counted {place : Handle → Io → Io} {frame bytes : List Byte} {m i : Nat} {need : Prop}
    {l : Handle → List (PortNo × Entry)} {engine : Engine} (h : Places place frame m need l bytes engine) :
    Places (fun h io => place h (bumpAt i io)) frame m need l bytes engine := by
  intro k io room he
  obtain ⟨f, r, placed, entries, needed⟩ := h k (bumpAt i io) room he
  exact ⟨f, r, ⟨placed.free, placed.handles, placed.quiet, placed.busy, placed.longer, placed.queue, placed.buffer,
    placed.others⟩, entries, needed⟩

namespace Issues

theorem sendAccept (n : ChannelNo) (u : UnitId) (g : TalkgroupId) (ch : ChannelNo) (s : State) :
    Issues x 1 1 [Claim.onChannel n (acceptHeader u g ch) []] s (Machine.sendAccept n u g ch s) :=
  toChannel n (acceptHeader u g ch) [] none s

theorem sendRefuse (n : ChannelNo) (u : UnitId) (cause : Byte) (s : State) :
    Issues x 1 1 [Claim.onChannel n (refuseHeader u cause) []] s (Machine.sendRefuse n u cause s) :=
  toChannel n (refuseHeader u cause) [] none s

theorem sendClaim (u : UnitId) (emergency : Bool) (site : SiteId) (s : State) :
    Issues x 1 1 (siteClaims s.net (claimHeader u emergency) site) s (Machine.sendClaim u emergency site s) := by
  have places := (places_forSite (c := s.net) (claimHeader u emergency).frameClass site
    (frameBytes (s.net.headed (claimHeader u emergency) site) []) s.io.engine).counted (i := DevCounter.claimsSent.number)
  refine Issues.built (done := none) places fun f hf => ?_
  unfold siteClaims at hf
  split at hf
  · rw [List.mem_singleton.mp hf]
    exact ⟨‹_›, rfl⟩
  · cases hf

/-- The frames of an entry report, of a state that sends as another does. -/
theorem memberEntryOf {g : TalkgroupId} (net : t.net = s.net) (sequence : t.ownSequence = s.ownSequence)
    (found : findTalkgroup g t.talkgroups = some e) :
    Issues x 1 s.sites.length
      (if e.members = 0 then sitesClaims s.net (membershipHeader 1#8 g (advanceSequence s)) [] s.net.routedSites else [])
      t (Machine.memberEntry g t) := by
  have sites : t.sites = s.sites := congrArg Net.sites net
  have header : membershipHeader 1#8 g (advanceSequence t) = membershipHeader 1#8 g (advanceSequence s) := by
    simp only [membershipHeader, advanceSequence, sequence]
  have issued := memberEntry (x := x) found
  rwa [net, header, sites] at issued

/-- Where there is room for more frames, a buffer is free. -/
theorem free_left {n m n' m' : Nat} {claims : List Claim} (h : Issues x n m claims s t) (room : s.roomFor n' m')
    (hn : n + 1 ≤ n') (hm : m ≤ m') (hx : x ∉ s.io.pool.free) : ∃ k rest, t.io.pool.free = k :: rest := by
  obtain ⟨left, -⟩ := h.room 1 0 ((room_of_roomFor room).mono (by omega) (by omega)) hx
  exact List.exists_cons_of_length_pos (by have := left.free; omega)

end Issues

/-- A claim that is built is counted (R107). -/
theorem Raises.sendClaim {k : Handle} {rest : List Handle} (hf : s.io.pool.free = k :: rest) (u : UnitId) (emergency : Bool)
    (site : SiteId) : Raises [.claimsSent] s (Machine.sendClaim u emergency site s) := by
  have sent : (Machine.sendClaim u emergency site s).io
      = dropReference s.net k (placeForSite s.net (claimHeader u emergency).frameClass k site
          (countDev .claimsSent (builtIn s.active.bufferReserve k rest
            (frameBytes (s.net.headed (claimHeader u emergency) site) []) none s.io))) :=
    sendBuilt_granted (c := s.net) (hdr := s.net.headed (claimHeader u emergency) site) [] none
      (fun h io => placeForSite s.net (claimHeader u emergency).frameClass h site (countDev .claimsSent io)) hf (.inl rfl)
  let bytes : List Byte := frameBytes (s.net.headed (claimHeader u emergency) site) []
  let built : State := { s with io := builtIn s.active.bufferReserve k rest bytes none s.io }
  let placed : State := (built.count .claimsSent).onIo fun c => placeForSite c (claimHeader u emergency).frameClass k site
  have counted : Raises [.claimsSent] s (built.count .claimsSent) := (Raises.count .claimsSent built).ofLive rfl
  have placing : Raises [] (built.count .claimsSent) placed :=
    .onIo (fun _ hi => .placeForSite hi _ _ _ _) (Moves.placeForSite (P := False) False.elim _ _ _ _).counters.1
  have dropped := (counted.trans placing).trans (.dropped k placed)
  exact ⟨by rw [sent]; exact dropped.length, fun len d hd => by
    simp only [State.devCounter, State.counter, sent]
    exact dropped.counts len d hd⟩

/-! ## A record is created (R54) -/

/-- The record that a REGISTER creates. -/
theorem newRecord_slotTaken (ch : ChannelNo) : newRecord g slot ch s.slotTaken = newRecord g slot ch s := by
  unfold newRecord freshActivity
  rw [slotTaken_frame]
  rfl

theorem registerNew_unknown (h : findTalkgroup g.talkgroup s.talkgroups = none) :
    registerNew n g s = sendRefuse n g.unit 1#8 s := by
  simp only [registerNew, h]

theorem registerNew_full (h : findTalkgroup g.talkgroup s.talkgroups = some e) (free : freeSlot s = none)
    (reclaim : reclaimCandidate s = none) : registerNew n g s = sendRefuse n g.unit 2#8 s := by
  simp only [registerNew, h, takeSlot_none free reclaim]

/-- The state in which a REGISTER's new record has been counted on its talkgroup. -/
def recordCreated (g : Registration) (slot : Nat) (e : TalkgroupEntry) (s : State) : State :=
  (memberEntry g.talkgroup (insertRecord (newRecord g slot e.channel s) s.slotTaken)).count .recordsCreated

theorem registerNew_created (h : findTalkgroup g.talkgroup s.talkgroups = some e) (hs : s.hasSlot slot) :
    registerNew n g s
      = claimLastSite g (g.marker && !g.clears)
          (sendAccept n g.unit g.talkgroup e.channel (recordCreated g slot e s)) := by
  simp only [registerNew, h, takeSlot_some hs, newRecord_slotTaken]
  rfl

theorem recordCreated_frame (g : Registration) (slot : Nat) (e : TalkgroupEntry) (s : State) :
    recordCreated g slot e s
      = { s with
          io := (recordCreated g slot e s).io
          units := insertKeyed Record.slot (newRecord g slot e.channel s) s.slotTaken.units
          talkgroups := s.talkgroups.map fun k => if k.id = g.talkgroup then { k with members := k.members + 1 } else k
          ownSequence := (recordCreated g slot e s).ownSequence } := by
  unfold recordCreated
  rw [memberEntry_frame, slotTaken_frame]
  rfl

theorem recordCreated_net : (recordCreated g slot e s).net = s.net := by
  rw [recordCreated_frame]
  rfl

/-- What a REGISTER sends for the record it has created. -/
theorem Issues.recordCreated (h : findTalkgroup g.talkgroup s.talkgroups = some e) :
    Issues x 1 s.sites.length
      (if e.members = 0 then
        sitesClaims s.net (membershipHeader 1#8 g.talkgroup (advanceSequence s)) [] s.net.routedSites
      else []) s (Machine.recordCreated g slot e s) := by
  have started : (insertRecord (newRecord g slot e.channel s) s.slotTaken).io.pool = s.io.pool
      ∧ (insertRecord (newRecord g slot e.channel s) s.slotTaken).io.ports = s.io.ports := slotTaken_frames s
  have inserted : Issues x 0 0 [] s (insertRecord (newRecord g slot e.channel s) s.slotTaken) :=
    .quiet (by rw [insertRecord_active, slotTaken_frame]) started.1 fun p => by rw [started.2]; exact ⟨rfl, rfl⟩
  have talkgroups : (insertRecord (newRecord g slot e.channel s) s.slotTaken).talkgroups = s.talkgroups := by
    rw [insertRecord_talkgroups, slotTaken_frame]
  have net : (insertRecord (newRecord g slot e.channel s) s.slotTaken).net = s.net := by
    show s.slotTaken.net = s.net
    rw [slotTaken_frame]
    rfl
  have sequence : (insertRecord (newRecord g slot e.channel s) s.slotTaken).ownSequence = s.ownSequence := by
    rw [insertRecord_ownSequence, slotTaken_frame]
  have counted := Issues.memberEntryOf (x := x) net sequence (by rw [talkgroups]; exact h)
  exact ((inserted.trans counted).trans (.count .recordsCreated _)).mono (by omega) (by omega) fun f hf => by
    simpa using hf

end Sys2Proof.Machine
end

section
/-! PROOFS. A REGISTER of a unit without a record, whole (R11, R22, R51, R54, R107). -/

namespace Sys2Proof.Machine

variable {x : Handle} {s t : State} {u : UnitId} {n : ChannelNo} {slot : Nat} {e : TalkgroupEntry} {g : Registration}
  {p : PortNo}

/-- A REGISTER from a channel port: the notice, the registration, the release (R11, R22, R53). -/
theorem register_next {y : Handed} (hy : s.holds (chanPort n) y .register) :
    exec (.register n) s
      = .next ((registerByState n (registrationOf (handedHeader y s) (handedPayload y s))
          ((unitNotice n (handedHeader y s).unit.toNat .register (handedHeader y s).emergency s).taken (chanPort n))).onIo
            fun c => dropReference c y.handle) :=
  congrArg Host.Outcome.next
    (takeFromChannel_of_head (fun _ hdr payload => registerByState n (registrationOf hdr payload)) hy.1 hy.2)

theorem registerByState_new (h : s.record g.unit = none) : registerByState n g s = registerNew n g s := by
  simp only [registerByState, h]

theorem claimLastSite_elsewhere (h : g.lastSite ≠ 0) (away : g.lastSite ≠ s.own) (emergency : Bool) :
    claimLastSite g emergency s = sendClaim g.unit emergency g.lastSite s := by
  simp [claimLastSite, h, away]

theorem claimLastSite_here (h : g.lastSite = 0 ∨ g.lastSite = s.own) (emergency : Bool) :
    claimLastSite g emergency s = s := by
  rcases h with h | h <;> simp [claimLastSite, h]

theorem claimLastSite_sameButIo (g : Registration) (emergency : Bool) (s : State) :
    s.sameButIo (claimLastSite g emergency s) := by
  unfold claimLastSite
  split <;> rfl

theorem registerNew_sameButUnits (n : ChannelNo) (g : Registration) (s : State) : s.sameButUnits (registerNew n g s) := by
  cases found : findTalkgroup g.talkgroup s.talkgroups with
  | none =>
    rw [registerNew_unknown found]
    rfl
  | some e =>
    cases slotted : takeSlot s with
    | none => simp only [registerNew, found, slotted]; rfl
    | some y =>
      obtain ⟨slot, s'⟩ := y
      have had : s.hasSlot slot := by
        rcases Tallied.takeSlot_eq slotted with ⟨free, -⟩ | ⟨free, r, candidate, rfl, -⟩
        · exact .inl free
        · exact .inr ⟨free, by rw [candidate]; rfl⟩
      have created : s.sameButUnits (recordCreated g slot e s) := by
        unfold State.sameButUnits
        rw [recordCreated_frame]
      rw [registerNew_created found had]
      refine created.trans ?_
      have claimed := claimLastSite_sameButIo g (g.marker && !g.clears)
        (sendAccept n g.unit g.talkgroup e.channel (recordCreated g slot e s))
      unfold State.sameButUnits
      rw [claimed]
      rfl

/-! ## The counters (R51, R54, R107) -/

/-- An empty pool builds no frame (R19, R21). -/
theorem sendBuilt_empty {c : Net} {io : Io} {hdr : Header} {payload : List Byte} {done : Option Completion}
    {place : Handle → Io → Io} (hf : io.pool.free = []) :
    ∃ io', sendBuilt c hdr payload done place io = countDev .internalDrops io' ∧ io'.live = io.live := by
  refine ⟨{ io with pool := { io.pool with exhaustion := false
                                           noticePending := io.pool.noticePending || io.pool.exhaustion } }, ?_, rfl⟩
  simp only [sendBuilt, buildFrame, allocate_empty c.active.bufferReserve hdr.frameClass hf]

/-- A claim raises claims sent or, refused its buffer, nothing but internal drops. -/
theorem Raises.anyClaim (u : UnitId) (emergency : Bool) (site : SiteId) (s : State) :
    ∃ l, l ⊆ [DevCounter.claimsSent] ∧ Raises l s (Machine.sendClaim u emergency site s) := by
  cases hf : s.io.pool.free with
  | cons k rest => exact ⟨_, List.Subset.refl _, .sendClaim hf u emergency site⟩
  | nil =>
    obtain ⟨io, sent, live⟩ := sendBuilt_empty (c := s.net) (hdr := s.net.headed (claimHeader u emergency) site)
      (payload := []) (done := none)
      (place := fun h io => placeForSite s.net (claimHeader u emergency).frameClass h site (countDev .claimsSent io)) hf
    have io : (Machine.sendClaim u emergency site s).io = countDev .internalDrops io := sent
    refine ⟨[], by simp, ?_, fun _ d hd => ?_⟩
    · rw [io, ← live]
      exact (bumpAt_grow _ _).1
    · simp only [State.devCounter, State.counter, io, ← live]
      exact bumpAt_other (fun same => hd (number_injective same)) _

theorem Raises.claimLastSite (g : Registration) (emergency : Bool) (s : State) :
    ∃ l, l ⊆ [DevCounter.claimsSent] ∧ Raises l s (Machine.claimLastSite g emergency s) := by
  unfold Machine.claimLastSite
  split
  · exact ⟨[], by simp, .same rfl⟩
  · exact anyClaim _ _ _ s

theorem Raises.recordCreated (hs : s.hasSlot slot) :
    Raises (s.slotCounters ++ [.recordsCreated]) s (Machine.recordCreated g slot e s) := by
  have inserted : Raises s.slotCounters s (insertRecord (newRecord g slot e.channel s) s.slotTaken) :=
    ⟨(Raises.slotTaken hs).length, (Raises.slotTaken hs).counts⟩
  have counted := inserted.trans (Raises.memberEntry g.talkgroup _)
  rw [List.append_nil] at counted
  exact counted.trans (.count .recordsCreated _)

/-! ## The record and its frames -/

theorem newRecord_roamOk (ch : ChannelNo) : (newRecord g slot ch s).roamOk := Acts.roamOk_clear _ rfl rfl

theorem recordCreated_record (law : s.unitLaw) (hs : s.hasSlot slot) (unknown : s.record g.unit = none) (v : UnitId) :
    (recordCreated g slot e s).record v
      = if v = g.unit then some (newRecord g slot e.channel s) else s.slotTaken.record v := by
  have units : (recordCreated g slot e s).units = (insertRecord (newRecord g slot e.channel s) s.slotTaken).units := by
    rw [recordCreated_frame, insertRecord_units]
  rw [record_of_units units]
  exact record_inserted law hs rfl unknown (newRecord_roamOk _) v

/-- The frames of a REGISTER that has created a record, but for the claim: the JOIN and the ACCEPT (R54, R114). -/
theorem Issues.created (h : findTalkgroup g.talkgroup s.talkgroups = some e) :
    Issues x 2 (s.sites.length + 1)
      ((if e.members = 0 then
          sitesClaims s.net (membershipHeader 1#8 g.talkgroup (advanceSequence s)) [] s.net.routedSites
        else []) ++ [Claim.onChannel n (acceptHeader g.unit g.talkgroup e.channel) []])
      s (Machine.sendAccept n g.unit g.talkgroup e.channel (Machine.recordCreated g slot e s)) :=
  (Issues.recordCreated h).trans (.sendAccept n g.unit g.talkgroup e.channel _)

/-- With its claim to a last site elsewhere (R107). -/
theorem Issues.createdClaimed (h : findTalkgroup g.talkgroup s.talkgroups = some e) (emergency : Bool) (site : SiteId) :
    Issues x 3 (s.sites.length + 2)
      (((if e.members = 0 then
          sitesClaims s.net (membershipHeader 1#8 g.talkgroup (advanceSequence s)) [] s.net.routedSites
        else []) ++ [Claim.onChannel n (acceptHeader g.unit g.talkgroup e.channel) []])
        ++ siteClaims s.net (claimHeader g.unit emergency) site)
      s (Machine.sendClaim g.unit emergency site
        (Machine.sendAccept n g.unit g.talkgroup e.channel (Machine.recordCreated g slot e s))) := by
  have net : (Machine.sendAccept n g.unit g.talkgroup e.channel (Machine.recordCreated g slot e s)).net = s.net :=
    recordCreated_net
  have claimed := Issues.sendClaim (x := x) g.unit emergency site
    (Machine.sendAccept n g.unit g.talkgroup e.channel (Machine.recordCreated g slot e s))
  rw [net] at claimed
  exact (Issues.created h).trans claimed

/-! ## The three ends -/

/-- A REGISTER of a unit without a record, as its command runs it. -/
theorem register_new {y : Handed} (hy : s.holds (chanPort n) y .register)
    (unknown : s.record (handedHeader y s).unit.toNat = none) :
    exec (.register n) s
      = .next ((registerNew n (registrationOf (handedHeader y s) (handedPayload y s)) (s.taken (chanPort n))).onIo
          fun c => dropReference c y.handle) := by
  rw [register_next hy, unitNotice_none unknown]
  exact congrArg (fun m : State => Host.Outcome.next (m.onIo fun c => dropReference c y.handle))
    (registerByState_new (s := s.taken (chanPort n)) unknown)

/-- A refused REGISTER changes frames alone. -/
theorem refused_leaves {cause : Byte} {m : State} (hx : bufferOf x s.io ≠ none)
    (refused : m = sendRefuse n u cause (s.taken p)) :
    s.sameButIo (m.onIo fun c => dropReference c x)
      ∧ s.builtOnChannel n (refuseHeader u cause) (m.onIo fun c => dropReference c x) := by
  subst refused
  exact ⟨rfl, (sentOn_sendToChannel n (refuseHeader u cause) [] none (s.taken p)).ofTaken.builtDropped s.net hx rfl⟩

/-- The state that a REGISTER which creates a record leaves, its own frame's buffer aside. -/
def registered (n : ChannelNo) (g : Registration) (slot : Nat) (e : TalkgroupEntry) (s : State) : State :=
  claimLastSite g (g.marker && !g.clears) (sendAccept n g.unit g.talkgroup e.channel (recordCreated g slot e s))

theorem registered_frame (n : ChannelNo) (g : Registration) (slot : Nat) (e : TalkgroupEntry) (s : State) :
    registered n g slot e s = { recordCreated g slot e s with io := (registered n g slot e s).io } :=
  claimLastSite_sameButIo g _ (sendAccept n g.unit g.talkgroup e.channel (recordCreated g slot e s))

/-- The counters of a created record, but for its claim. -/
theorem Raises.registered (hs : s.hasSlot slot) :
    ∃ l, l ⊆ [DevCounter.claimsSent] ∧ Raises (s.slotCounters ++ [.recordsCreated] ++ l) s (Machine.registered n g slot e s) := by
  have accepted := (Raises.recordCreated (g := g) (e := e) hs).trans
    (Raises.sendAccept n g.unit g.talkgroup e.channel (Machine.recordCreated g slot e s))
  rw [List.append_nil] at accepted
  obtain ⟨l, claims, claimed⟩ := Raises.claimLastSite g (g.marker && !g.clears)
    (Machine.sendAccept n g.unit g.talkgroup e.channel (Machine.recordCreated g slot e s))
  exact ⟨l, claims, accepted.trans claimed⟩

theorem count_of_claims {l : List DevCounter} (h : l ⊆ [DevCounter.claimsSent]) {d : DevCounter} (hd : d ≠ .claimsSent) :
    l.count d = 0 := List.count_eq_zero.mpr fun mem => hd (List.mem_singleton.mp (h mem))

theorem registered_raised (hs : s.hasSlot slot) (law : s.counterLaw) (h : Handle) :
    s.raised .recordsCreated ((registered n g slot e (s.taken p)).onIo fun c => dropReference c h)
      ∧ (freeSlot s = none →
        s.raised .recordsReclaimed ((registered n g slot e (s.taken p)).onIo fun c => dropReference c h)) := by
  obtain ⟨l, claims, raises⟩ := Raises.registered (n := n) (g := g) (e := e) (s := s.taken p) hs
  have whole := (raises.trans (.dropped h _)).ofLive (s := s) rfl
  have slots : (s.taken p).slotCounters = s.slotCounters := rfl
  rw [slots] at whole
  refine ⟨whole.raised law (by decide) ?_, fun none => whole.raised law (by decide) ?_⟩
  · rw [List.append_nil, List.count_append, List.count_append, count_of_claims claims (by decide), State.slotCounters]
    split <;> rfl
  · rw [List.append_nil, List.count_append, List.count_append, count_of_claims claims (by decide), State.slotCounters,
      none]
    rfl

theorem registered_record (law : s.unitLaw) (hs : s.hasSlot slot) (unknown : s.record g.unit = none) (v : UnitId) :
    (registered n g slot e s).record v
      = if v = g.unit then some (newRecord g slot e.channel s) else s.slotTaken.record v := by
  rw [← recordCreated_record law hs unknown v, registered_frame]
  rfl

theorem registered_talkgroups :
    (registered n g slot e s).talkgroups
      = s.talkgroups.map fun k => if k.id = g.talkgroup then { k with members := k.members + 1 } else k := by
  rw [registered_frame]
  exact congrArg State.talkgroups (recordCreated_frame g slot e s)

theorem registered_sequence (found : findTalkgroup g.talkgroup s.talkgroups = some e) :
    (registered n g slot e s).ownSequence = if e.members = 0 then s.ownSequence + 1 else s.ownSequence := by
  have sequence : (insertRecord (newRecord g slot e.channel s) s.slotTaken).ownSequence = s.ownSequence := by
    rw [insertRecord_ownSequence, slotTaken_frame]
  have known : findTalkgroup g.talkgroup (insertRecord (newRecord g slot e.channel s) s.slotTaken).talkgroups = some e := by
    rw [insertRecord_talkgroups, slotTaken_frame]
    exact found
  rw [registered_frame]
  refine (memberEntry_sequence known).trans ?_
  rw [sequence]

/-- The frames of a REGISTER that creates a record, where there is room for them (R54, R107, R114). -/
theorem registered_sends (found : findTalkgroup g.talkgroup s.talkgroups = some e) (law : s.counterLaw)
    (room : s.roomFor 4 (s.sites.length + 4)) (hx : x ∉ s.io.pool.free) :
    let t := (registered n g slot e (s.taken p)).onIo fun c => dropReference c x
    s.queuedOn n (acceptHeader g.unit g.talkgroup e.channel) [] t
      ∧ (e.members = 0 →
        s.noticed s.net (membershipHeader 1#8 g.talkgroup (advanceSequence s)) [] s.net.routedSites t)
      ∧ (g.lastSite ≠ 0 → g.lastSite ≠ s.own → s.hasSlot slot → s.raised .claimsSent t
        ∧ s.queuedFor (claimHeader g.unit (g.marker && !g.clears)) g.lastSite t)
      ∧ (g.lastSite = 0 ∨ g.lastSite = s.own → s.hasSlot slot → t.devCounter .claimsSent = s.devCounter .claimsSent) := by
  intro t
  have away (h : g.lastSite ≠ 0) (h' : g.lastSite ≠ s.own) : registered n g slot e (s.taken p)
      = sendClaim g.unit (g.marker && !g.clears) g.lastSite
          (sendAccept n g.unit g.talkgroup e.channel (recordCreated g slot e (s.taken p))) := by
    refine claimLastSite_elsewhere h (fun same => h' (same.trans ?_)) _
    show (recordCreated g slot e (s.taken p)).active.ownSite = _
    rw [recordCreated_frame]
    rfl
  have here (h : g.lastSite = 0 ∨ g.lastSite = s.own) : registered n g slot e (s.taken p)
      = sendAccept n g.unit g.talkgroup e.channel (recordCreated g slot e (s.taken p)) := by
    refine claimLastSite_here (h.imp id fun same => same.trans ?_) _
    show _ = (recordCreated g slot e (s.taken p)).active.ownSite
    rw [recordCreated_frame]
    rfl
  have whole : Issues x 3 (s.sites.length + 2)
      ((if e.members = 0 then
          sitesClaims s.net (membershipHeader 1#8 g.talkgroup (advanceSequence s)) [] s.net.routedSites
        else []) ++ [Claim.onChannel n (acceptHeader g.unit g.talkgroup e.channel) []]
        ++ (if g.lastSite ≠ 0 ∧ g.lastSite ≠ s.own then
            siteClaims s.net (claimHeader g.unit (g.marker && !g.clears)) g.lastSite else []))
      s (registered n g slot e (s.taken p)) := by
    have begun := Issues.taken (x := x) p s
    by_cases h : g.lastSite ≠ 0 ∧ g.lastSite ≠ s.own
    · rw [if_pos h, away h.1 h.2]
      exact (begun.trans (Issues.createdClaimed (s := s.taken p) found _ _)).mono (by omega) (le_of_eq (Nat.zero_add _))
        fun _ hf => hf
    · rw [if_neg h, here (by tauto), List.append_nil]
      exact (begun.trans (Issues.created (s := s.taken p) found)).mono (by omega)
        ((le_of_eq (Nat.zero_add _)).trans (Nat.le_succ (s.sites.length + 1))) fun _ hf => hf
  have stands {f : Claim} (hf : _) := whole.stands (f := f) hf room (by omega) (by omega) hx
    (registered n g slot e (s.taken p)).net
  refine ⟨queuedOn_of_stands (stands ?_), fun first => noticed_of_stands rfl fun some => stands ?_,
    fun h h' hs => ⟨?_, queuedFor_of_stands fun routed => stands ?_⟩, fun h hs => ?_⟩
  · exact List.mem_append_left _ (List.mem_append_right _ (List.mem_singleton.mpr rfl))
  · refine List.mem_append_left _ (List.mem_append_left _ ?_)
    rw [if_pos first, sitesClaims, if_neg some]
    exact List.mem_singleton.mpr rfl
  · obtain ⟨k, rest, hf⟩ := ((Issues.taken (x := x) p s).trans
      (Issues.created (n := n) (slot := slot) (s := s.taken p) found)).free_left room (by omega)
        ((le_of_eq (Nat.zero_add _)).trans (Nat.add_le_add_left (by omega) _)) hx
    have accepted := (Raises.recordCreated (g := g) (e := e) (s := s.taken p) hs).trans
      (Raises.sendAccept n g.unit g.talkgroup e.channel _)
    have claimed := (accepted.trans (Raises.sendClaim hf g.unit (g.marker && !g.clears) g.lastSite)).trans (.dropped x _)
    rw [← away h h'] at claimed
    refine (claimed.ofLive (s := s) rfl).raised law (by decide) ?_
    rw [List.append_nil, List.append_nil, List.count_append, List.count_append, State.slotCounters]
    split <;> rfl
  · refine List.mem_append_right _ ?_
    rw [if_pos ⟨h, h'⟩, siteClaims, if_pos routed]
    exact List.mem_singleton.mpr rfl
  · have accepted := ((Raises.recordCreated (g := g) (e := e) (s := s.taken p) hs).trans
      (Raises.sendAccept n g.unit g.talkgroup e.channel _)).trans (.dropped x _)
    rw [← here h] at accepted
    refine (accepted.ofLive (s := s) rfl).kept law (by decide) ?_
    rw [List.append_nil, List.append_nil, List.count_append, State.slotCounters]
    split <;> rfl

/-- A REGISTER in a known talkgroup for which a slot can be had (R51, R54). -/
theorem registerNew_registered (h : findTalkgroup g.talkgroup s.talkgroups = some e) (hs : s.hasSlot slot) :
    registerNew n g s = registered n g slot e s := registerNew_created h hs

end Sys2Proof.Machine

open Sys2Proof Sys2Proof.Machine

/-- Settles O30: the slot and the candidate first, and then the three ends of a REGISTER of a unit without a record. -/
theorem registerCreatesRecord : Obligations.RegisterCreatesRecord := by
  refine ⟨fun s => ⟨freeSlot_iff s, reclaimCandidate_none s, fun r _ h => ?_⟩, ?_⟩
  · obtain ⟨mem, reclaimable⟩ := Tallied.mem_of_reclaimCandidate h
    exact ⟨mem, (reclaimable_iff _).mp reclaimable, reclaimCandidate_first h⟩
  · intro n x s holds hs law hdr g unknown
    have hx : bufferOf x.handle s.io ≠ none := bufferOf_of_kind holds.2
    refine ⟨_, register_new holds unknown, tookHanded_of_acts (.registerNew n g _ unknown) x.handle,
      (registerNew_sameButUnits n g (s.taken (chanPort n))).trans rfl,
      fun absent => refused_leaves hx (registerNew_unknown absent), fun free reclaim => ?_, fun e slot found had => ?_⟩
    · cases found : findTalkgroup g.talkgroup s.talkgroups with
      | none => exact ⟨(refused_leaves hx (registerNew_unknown found)).1, fun known => absurd known (by simp)⟩
      | some e => exact (refused_leaves hx (registerNew_full found free reclaim)).imp id fun built _ => built
    · obtain ⟨created, reclaimed⟩ := registered_raised (n := n) (g := g) (e := e) (p := chanPort n) had hs x.handle
      have record := registered_record (n := n) (e := e) (s := s.taken (chanPort n)) law had unknown
      have talkgroups := registered_talkgroups (n := n) (g := g) (slot := slot) (e := e) (s := s.taken (chanPort n))
      have sequence := registered_sequence (n := n) (g := g) (slot := slot) (e := e) (s := s.taken (chanPort n)) found
      have sends (room : s.roomFor 4 (s.sites.length + 4)) := registered_sends (n := n) (p := chanPort n) (slot := slot)
        found hs room (not_free_of_kind room holds.2)
      rw [registerNew_registered (s := s.taken (chanPort n)) found had]
      generalize registered n g slot e (s.taken (chanPort n)) = m at created reclaimed record talkgroups sequence sends ⊢
      refine ⟨created, fun none => ⟨reclaimed none, fun r candidate => ?_⟩, fun free v hv => ?_,
        (record g.unit).trans (if_pos rfl), talkgroups, sequence, fun room => ?_⟩
      · obtain ⟨mem, -⟩ := Tallied.mem_of_reclaimCandidate candidate
        have apart : r.unit ≠ g.unit := fun same => by
          rw [← same, Tallied.record_of_mem law mem] at unknown
          cases unknown
        refine (record r.unit).trans ?_
        rw [if_neg apart, slotTaken_reclaimed (s := s.taken (chanPort n)) none candidate, count_record, removeRecord_record,
          if_pos rfl]
      · refine (record v).trans ?_
        rw [if_neg hv, slotTaken_free (s := s.taken (chanPort n)) free]
        rfl
      · obtain ⟨accept, join, claim, quiet⟩ := sends room
        exact ⟨accept, join, fun h h' => claim h h' had, fun h => quiet h had⟩
end

section
/-! PROOFS. A REGISTER of a unit whose record is ARRIVING or FORWARD (R102, R105): SERVED here, or refused. -/

namespace Sys2Proof.Machine

variable {x : Handle} {s t m : State} {u : UnitId} {r : Record} {n : ChannelNo} {e : TalkgroupEntry} {g : Registration}
  {p : PortNo} {ho : Handover}

/-! ## After the marker -/

theorem markedTaken_net (s : State) (u : UnitId) (marker : Bool) (p : PortNo) :
    ((s.marked u marker).taken p).net = s.net := by
  rw [marked_taken]
  rfl

theorem Issues.markedTaken (s : State) (u : UnitId) (marker : Bool) (p : PortNo) :
    Issues x 0 0 [] s ((s.marked u marker).taken p) :=
  (Issues.taken p (s.marked u marker)).start (by rw [marked_frame]) (by rw [marked_frame])

theorem tookHanded_of_marked {marker : Bool} (acts : Acts ((s.marked u marker).taken p) m) (h : Handle) :
    s.tookHanded p (m.onIo fun c => dropReference c h) := by
  have io : ((s.marked u marker).taken p).io = takenAt p s.io := by rw [marked_taken]
  refine tookHanded_of_ports h fun q => ?_
  rw [← io]
  exact ⟨(acts.ports q).2.1, (acts.ports q).1⟩

theorem registerByState_arriving (hr : s.record g.unit = some r) (h : r.phase = .arriving ho) :
    registerByState n g s = registerArriving n g r ho s := by
  simp only [registerByState, hr, h]

theorem registerByState_forward (hr : s.record g.unit = some r) (h : r.phase = .forward ho) :
    registerByState n g s = registerForward n g r ho s := by
  simp only [registerByState, hr, h]

/-- A REGISTER whose notice does nothing but set the flag, as its command runs it. -/
theorem register_still {y : Handed} (hy : s.holds (chanPort n) y .register)
    (hr : s.record (handedHeader y s).unit.toNat = some r)
    (still : ∃ ho, r.phase = .arriving ho ∨ r.phase = .forward ho ∨ ∃ ch, r.phase = .departing ch ho false) :
    exec (.register n) s
      = .next ((registerByState n (registrationOf (handedHeader y s) (handedPayload y s))
          ((s.marked (handedHeader y s).unit.toNat (handedHeader y s).emergency).taken (chanPort n))).onIo
            fun c => dropReference c y.handle) := by
  rw [register_next hy, unitNotice_some hr, noticeByState_still still]

/-! ## The record is SERVED here -/

theorem chosenTalkgroup_known (h : chosenTalkgroup g r s = some e) : findTalkgroup e.id s.talkgroups = some e := by
  unfold chosenTalkgroup at h
  rcases Option.or_eq_some_iff.mp h with first | ⟨-, second⟩
  · rw [(findTalkgroup_mem first).2]
    exact first
  · rw [(findTalkgroup_mem second).2]
    exact second

/-- The record that a REGISTER of an ARRIVING or a FORWARD record leaves, its roam hold aside. -/
def Record.homed (g : Registration) (e : TalkgroupEntry) (s : State) (r : Record) : Record :=
  { r with
    phase := .served e.channel (freshActivity s) none
    talkgroup := e.id
    emergency := r.emergency && !g.clears
    lastSite := g.lastSite
    entryTime := s.timeBase }

/-- The state in which an ARRIVING or a FORWARD record has been made SERVED and accepted. -/
def homed (n : ChannelNo) (g : Registration) (e : TalkgroupEntry) (s : State) : State :=
  sendAccept n g.unit e.id e.channel (memberEntry e.id (enterServed g e.id e.channel s))

theorem registerArriving_homed (h : chosenTalkgroup g r s = some e) :
    registerArriving n g r ho s
      = startRoamHold g.unit
          (sendHoComplete g.unit ho.id (r.emergency && !g.clears) ho.partner (homed n g e s)) := by
  simp only [registerArriving, h]
  rfl

theorem registerArriving_refused (h : chosenTalkgroup g r s = none) :
    registerArriving n g r ho s = sendRefuse n g.unit 1#8 s := by
  simp only [registerArriving, h]

theorem registerForward_homed (h : findTalkgroup g.talkgroup s.talkgroups = some e) :
    registerForward n g r ho s = sendClaim g.unit (r.emergency && !g.clears) ho.partner (homed n g e s) := by
  simp only [registerForward, h, homed, (findTalkgroup_mem h).2]

theorem registerForward_refused (h : findTalkgroup g.talkgroup s.talkgroups = none) :
    registerForward n g r ho s = sendRefuse n g.unit 1#8 s := by
  simp only [registerForward, h]

theorem homed_frame (n : ChannelNo) (g : Registration) (e : TalkgroupEntry) (s : State) :
    homed n g e s
      = { s with
          io := (homed n g e s).io
          units := (enterServed g e.id e.channel s).units
          talkgroups := s.talkgroups.map fun k => if k.id = e.id then { k with members := k.members + 1 } else k
          ownSequence := (homed n g e s).ownSequence } := by
  simp only [homed, sendAccept, State.onIo]
  rw [memberEntry_frame]
  rfl

theorem homed_net : (homed n g e s).net = s.net := by
  rw [homed_frame]
  rfl

theorem homed_record (hr : s.record g.unit = some r) (away : r.phase.number ≠ 0) :
    (homed n g e s).record g.unit = some (r.homed g e s) := by
  have entered := Record.enter_changed s.timeBase (ph := .served e.channel (freshActivity s) none) away
  rw [homed_frame]
  refine (modUnit_record_self (f := fun r =>
    g.note { (r.enter s.timeBase (.served e.channel (freshActivity s) none)) with talkgroup := e.id }) hr
      fun _ => rfl).trans ?_
  rw [entered]
  rfl

theorem homed_record_other {v : UnitId} (hv : v ≠ g.unit) : (homed n g e s).record v = s.record v := by
  rw [homed_frame]
  exact modUnit_record_other (f := fun r =>
    g.note { (r.enter s.timeBase (.served e.channel (freshActivity s) none)) with talkgroup := e.id }) hv fun _ => rfl

theorem Issues.homed (h : findTalkgroup e.id s.talkgroups = some e) :
    Issues x 2 (s.sites.length + 1) [Claim.onChannel n (acceptHeader g.unit e.id e.channel) []] s
      (Machine.homed n g e s) := by
  have reported := (Issues.memberEntry (x := x) (s := Machine.enterServed g e.id e.channel s) h).forget
  exact (reported.trans (.sendAccept n g.unit e.id e.channel _)).start rfl rfl

theorem Raises.homed (n : ChannelNo) (g : Registration) (e : TalkgroupEntry) (s : State) :
    Raises [] s (Machine.homed n g e s) := by
  have reported := Raises.memberEntry e.id (Machine.enterServed g e.id e.channel s)
  exact (reported.trans (.sendAccept n g.unit e.id e.channel _)).ofLive rfl

/-! ## Its end -/

/-- What a REGISTER that has made a record SERVED leaves, whichever message its partner is sent and whatever becomes of
its roam hold. -/
structure Homed (s : State) (p : PortNo) (g : Registration) (marker : Bool) (e : TalkgroupEntry) (r : Record) (hold : Timer)
    (t : State) : Prop where
  taken : s.tookHanded p t
  frame : s.sameButUnits t
  others : s.sameRecordsBut g.unit t
  record : t.record g.unit
    = some { (r.marked s marker).homed g e s with roamHold := hold }
  talkgroups : t.talkgroups = s.talkgroups.map fun k => if k.id = e.id then { k with members := k.members + 1 } else k

theorem homed_leaves {marker : Bool} {hold : Timer} (h : Handle)
    (acts : Acts ((s.marked g.unit marker).taken p) m)
    (frame : m = { homed n g e ((s.marked g.unit marker).taken p) with io := m.io, units := m.units })
    (others : ∀ v, v ≠ g.unit → m.record v = (homed n g e ((s.marked g.unit marker).taken p)).record v)
    (record : m.record g.unit = some { (r.marked s marker).homed g e s with roamHold := hold }) :
    Homed s p g marker e r hold (m.onIo fun c => dropReference c h) := by
  have taken := marked_taken (s := s) (u := g.unit) marker p
  have whole := homed_frame n g e ((s.marked g.unit marker).taken p)
  refine ⟨tookHanded_of_marked acts h, ?_, fun v hv => ?_, ?_, ?_⟩
  · rw [frame, whole, taken]
    rfl
  · refine (others v hv).trans ?_
    rw [homed_record_other hv]
    exact marked_record_other hv marker
  · exact record
  · rw [frame, whole, taken]
    rfl

/-- The header of a HO COMPLETE (R105). -/
def hoCompleteHeader (u : UnitId) (id : Nat) (emergency : Bool) : Header :=
  { handoverHeader .hoComplete u id with emergency := emergency }

theorem Issues.sendHoComplete (u : UnitId) (id : Nat) (emergency : Bool) (site : SiteId) (s : State) :
    Issues x 1 1 (siteClaims s.net (hoCompleteHeader u id emergency) site) s
      (Machine.sendHoComplete u id emergency site s) :=
  toSite (hoCompleteHeader u id emergency) site s

/-- The state in which a REGISTER's ARRIVING record has been handed over (R105). -/
def arrived (n : ChannelNo) (g : Registration) (e : TalkgroupEntry) (ho : Handover) (emergency : Bool) (s : State) : State :=
  startRoamHold g.unit (sendHoComplete g.unit ho.id emergency ho.partner (homed n g e s))

/-- The state in which a REGISTER's FORWARD record has been claimed back (R102). -/
def reclaimed (n : ChannelNo) (g : Registration) (e : TalkgroupEntry) (ho : Handover) (emergency : Bool) (s : State) : State :=
  sendClaim g.unit emergency ho.partner (homed n g e s)

theorem homed_marked (hr : s.record g.unit = some r) (inactive : r.phase.activity? = none) (away : r.phase.number ≠ 0)
    (marker : Bool) (p : PortNo) :
    (homed n g e ((s.marked g.unit marker).taken p)).record g.unit = some ((r.marked s marker).homed g e s) := by
  refine (homed_record (r := r.marked s marker) (s := (s.marked g.unit marker).taken p) (marked_record hr marker) ?_).trans ?_
  · rw [Record.marked_inactive inactive]
    exact away
  · rw [marked_taken]
    rfl

theorem arrived_leaves {marker emergency : Bool} (h : Handle) (hr : s.record g.unit = some r) (arriving : r.phase = .arriving ho)
    (acts : Acts ((s.marked g.unit marker).taken p) (arrived n g e ho emergency ((s.marked g.unit marker).taken p))) :
    Homed s p g marker e r (some (s.after (s.active.roamHold * 1000)))
      ((arrived n g e ho emergency ((s.marked g.unit marker).taken p)).onIo fun c => dropReference c h) := by
  have mine := homed_marked (n := n) (e := e) hr (by rw [arriving]; rfl) (by rw [arriving]; exact nofun) marker p
  refine homed_leaves (n := n) h acts rfl (fun v hv => (startRoamHold_record g.unit v _).trans (if_neg hv)) ?_
  refine (startRoamHold_record g.unit g.unit _).trans ?_
  rw [if_pos rfl]
  refine (congrArg (Option.map _) mine).trans ?_
  show some { (r.marked s marker).homed g e s with
    roamHold := some ((homed n g e ((s.marked g.unit marker).taken p)).timeBase.toNat
      + (homed n g e ((s.marked g.unit marker).taken p)).active.roamHold * 1000) } = _
  rw [homed_frame, marked_taken]
  rfl

theorem reclaimed_leaves {marker emergency : Bool} (h : Handle) (hr : s.record g.unit = some r) (forward : r.phase = .forward ho)
    (acts : Acts ((s.marked g.unit marker).taken p) (reclaimed n g e ho emergency ((s.marked g.unit marker).taken p))) :
    Homed s p g marker e r r.roamHold
      ((reclaimed n g e ho emergency ((s.marked g.unit marker).taken p)).onIo fun c => dropReference c h) := by
  have mine := homed_marked (n := n) (e := e) hr (by rw [forward]; rfl) (by rw [forward]; exact nofun) marker p
  exact homed_leaves (n := n) h acts rfl (fun _ _ => rfl) mine

/-! ## Its frames -/

theorem Issues.homedMarked (known : findTalkgroup e.id s.talkgroups = some e) (marker : Bool) (p : PortNo) :
    Issues x 2 (s.sites.length + 1) [Claim.onChannel n (acceptHeader g.unit e.id e.channel) []] s
      (Machine.homed n g e ((s.marked g.unit marker).taken p)) := by
  have sites : ((s.marked g.unit marker).taken p).sites = s.sites := by rw [marked_taken]
  have known' : findTalkgroup e.id ((s.marked g.unit marker).taken p).talkgroups = some e := by rw [marked_taken]; exact known
  have made := Issues.homed (x := x) (n := n) (g := g) known'
  rw [sites] at made
  exact ((Issues.markedTaken s g.unit marker p).trans made).mono (by omega) (le_of_eq (Nat.zero_add _)) fun _ hf => hf

theorem homedMarked_net (marker : Bool) (p : PortNo) :
    (Machine.homed n g e ((s.marked g.unit marker).taken p)).net = s.net :=
  homed_net.trans (markedTaken_net s g.unit marker p)

theorem arrived_sends {marker emergency : Bool} (known : findTalkgroup e.id s.talkgroups = some e)
    (room : s.roomFor 4 (s.sites.length + 4)) (hx : x ∉ s.io.pool.free) :
    let t := (arrived n g e ho emergency ((s.marked g.unit marker).taken p)).onIo fun c => dropReference c x
    s.queuedOn n (acceptHeader g.unit e.id e.channel) [] t
      ∧ s.queuedFor (hoCompleteHeader g.unit ho.id emergency) ho.partner t := by
  intro t
  have completed := Issues.sendHoComplete (x := x) g.unit ho.id emergency ho.partner
    (Machine.homed n g e ((s.marked g.unit marker).taken p))
  rw [homedMarked_net] at completed
  have whole : Issues x 3 (s.sites.length + 2) _ s (arrived n g e ho emergency ((s.marked g.unit marker).taken p)) :=
    ((Issues.homedMarked (n := n) (g := g) known marker p).trans completed).trans (.modUnit g.unit _ _)
  have stands {f : Claim} (hf : _) := whole.stands (f := f) hf room (by omega) (by omega) hx
    (arrived n g e ho emergency ((s.marked g.unit marker).taken p)).net
  refine ⟨queuedOn_of_stands (stands ?_), queuedFor_of_stands fun routed => stands ?_⟩
  · simp
  · simp [siteClaims, routed]

theorem reclaimed_sends {marker emergency : Bool} (known : findTalkgroup e.id s.talkgroups = some e)
    (room : s.roomFor 4 (s.sites.length + 4)) (hx : x ∉ s.io.pool.free) :
    let t := (reclaimed n g e ho emergency ((s.marked g.unit marker).taken p)).onIo fun c => dropReference c x
    s.queuedOn n (acceptHeader g.unit e.id e.channel) [] t
      ∧ s.queuedFor (claimHeader g.unit emergency) ho.partner t
      ∧ (s.counterLaw → s.raised .claimsSent t) := by
  intro t
  have claimed := Issues.sendClaim (x := x) g.unit emergency ho.partner
    (Machine.homed n g e ((s.marked g.unit marker).taken p))
  rw [homedMarked_net] at claimed
  have made := Issues.homedMarked (x := x) (n := n) (g := g) known marker p
  have whole : Issues x 3 (s.sites.length + 2) _ s (reclaimed n g e ho emergency ((s.marked g.unit marker).taken p)) :=
    made.trans claimed
  have stands {f : Claim} (hf : _) := whole.stands (f := f) hf room (by omega) (by omega) hx
    (reclaimed n g e ho emergency ((s.marked g.unit marker).taken p)).net
  refine ⟨queuedOn_of_stands (stands ?_), queuedFor_of_stands fun routed => stands ?_, fun law => ?_⟩
  · simp
  · simp [siteClaims, routed]
  · obtain ⟨k, rest, hf⟩ := made.free_left room (by omega) (by omega) hx
    have counted := ((Raises.homed n g e ((s.marked g.unit marker).taken p)).trans
      (Raises.sendClaim hf g.unit emergency ho.partner)).trans (.dropped x _)
    exact (counted.ofLive (s := s) (by rw [marked_taken]; rfl)).raised law (by decide) rfl

end Sys2Proof.Machine

open Sys2Proof Sys2Proof.Machine

/-- Settles O32: the notice sets the flag alone, and the REGISTER serves the record or is refused. -/
theorem registerEndsHandover : Obligations.RegisterEndsHandover := by
  constructor
  · intro n x r ho e s holds g hr serves
    have hx : bufferOf x.handle s.io ≠ none := bufferOf_of_kind holds.2
    have free (room : s.roomFor 4 (s.sites.length + 4)) := not_free_of_kind room holds.2
    have mine : ((s.marked g.unit g.marker).taken (chanPort n)).record g.unit = some (r.marked s g.marker) :=
      marked_record hr g.marker
    rcases serves with ⟨arriving, chosen⟩ | ⟨forward, found⟩
    · have known := chosenTalkgroup_known chosen
      have arrival := (registerByState_arriving (n := n) mine (ho := ho)
        (by rw [Record.marked_inactive (by rw [arriving]; rfl)]; exact arriving)).trans
          (registerArriving_homed (e := e) (by rw [marked_taken]; exact chosen))
      have acts := Acts.registerByState n g ((s.marked g.unit g.marker).taken (chanPort n))
      rw [arrival] at acts
      obtain ⟨taken, frame, others, record, talkgroups⟩ := arrived_leaves x.handle hr arriving acts
      refine ⟨_, (register_still holds hr ⟨ho, .inl arriving⟩).trans (congrArg (fun m : State => Host.Outcome.next
        (m.onIo fun c => dropReference c x.handle)) arrival), taken, frame, others, record.trans ?_, talkgroups,
        fun _ forward => absurd (arriving.symm.trans forward) nofun, fun room => ?_⟩
      · rw [if_pos arriving, Record.marked_inactive (by rw [arriving]; rfl)]
        rfl
      · obtain ⟨accept, complete⟩ := arrived_sends (n := n) (g := g) (ho := ho) (marker := g.marker)
          (p := chanPort n) (emergency := (r.marked s g.marker).emergency && !g.clears) known room (free room)
        exact ⟨accept, fun _ => complete, fun forward => absurd (arriving.symm.trans forward) nofun⟩
    · have known : findTalkgroup e.id s.talkgroups = some e := by rw [(findTalkgroup_mem found).2]; exact found
      have back := (registerByState_forward (n := n) mine (ho := ho)
        (by rw [Record.marked_inactive (by rw [forward]; rfl)]; exact forward)).trans
          (registerForward_homed (e := e) (by rw [marked_taken]; exact found))
      have acts := Acts.registerByState n g ((s.marked g.unit g.marker).taken (chanPort n))
      rw [back] at acts
      obtain ⟨taken, frame, others, record, talkgroups⟩ := reclaimed_leaves x.handle hr forward acts
      have sends (room : s.roomFor 4 (s.sites.length + 4)) := reclaimed_sends (n := n) (g := g) (ho := ho)
        (marker := g.marker) (p := chanPort n) (emergency := (r.marked s g.marker).emergency && !g.clears) known room (free room)
      refine ⟨_, (register_still holds hr ⟨ho, .inr (.inl forward)⟩).trans (congrArg (fun m : State => Host.Outcome.next
        (m.onIo fun c => dropReference c x.handle)) back), taken, frame, others, record.trans ?_, talkgroups,
        fun law _ room => (sends room).2.2 law, fun room => ⟨(sends room).1, fun arriving => ?_, fun _ => (sends room).2.1⟩⟩
      · rw [if_neg (by rw [forward]; exact nofun), Record.marked_inactive (by rw [forward]; rfl)]
        rfl
      · exact absurd (forward.symm.trans arriving) nofun
  · intro n x r ho s holds g hr absent refuses
    have hx : bufferOf x.handle s.io ≠ none := bufferOf_of_kind holds.2
    have still : ∃ ho, r.phase = .arriving ho ∨ r.phase = .forward ho ∨ ∃ ch, r.phase = .departing ch ho false :=
      ⟨ho, refuses.imp And.left .inl⟩
    have inactive := activity_still still
    have mine : ((s.marked g.unit g.marker).taken (chanPort n)).record g.unit = some (r.marked s g.marker) :=
      marked_record hr g.marker
    have refused : registerByState n g ((s.marked g.unit g.marker).taken (chanPort n))
        = sendRefuse n g.unit 1#8 ((s.marked g.unit g.marker).taken (chanPort n)) := by
      rcases refuses with ⟨arriving, gone⟩ | forward
      · refine (registerByState_arriving mine (ho := ho) ?_).trans (registerArriving_refused ?_)
        · rw [Record.marked_inactive inactive]
          exact arriving
        · rw [marked_taken]
          exact Option.or_eq_none_iff.mpr ⟨absent, gone⟩
      · refine (registerByState_forward mine (ho := ho) ?_).trans (registerForward_refused ?_)
        · rw [Record.marked_inactive inactive]
          exact forward
        · rw [marked_taken]
          exact absent
    have acts := Acts.registerByState n g ((s.marked g.unit g.marker).taken (chanPort n))
    rw [refused] at acts
    obtain ⟨same, built⟩ := refused_leaves (s := s.marked g.unit g.marker) (n := n) (p := chanPort n) (u := g.unit)
      (cause := 1#8) (x := x.handle) (by rw [marked_frame]; exact hx) rfl
    refine ⟨_, (register_still holds hr still).trans (congrArg (fun m : State => Host.Outcome.next
      (m.onIo fun c => dropReference c x.handle)) refused), ?_, ?_, fun v hv => ?_, ?_, ?_⟩
    · exact tookHanded_of_marked acts x.handle
    · rw [same, marked_frame]
    · exact marked_record_other hv g.marker
    · rw [← Record.marked_inactive inactive]
      exact mine
    · rw [marked_frame] at built ⊢
      exact built
end

section
/-! PROOFS. A HO ACCEPT (R92): its record departs, its attempt is called off, or it is stale. -/

namespace Sys2Proof.Machine

variable {x : Handed} {s t m : State} {r : Record} {l : LinkNo} {p : PortNo} {ho : Handover} {ch : ChannelNo} {a : Activity}
  {msg : HoMessage} {k : Handle}

/-! ## What it does to its record -/

/-- The header of a HO CANCEL (R4, R7). -/
def cancelHeader (u : UnitId) (id : Nat) (reason : Byte) : Header := { handoverHeader .hoCancel u id with subcode := reason }

/-- The header of a ROAM ORDER (R92). -/
def orderHeader (r : Record) (target : Byte) : Header :=
  { Header.blank .roamOrder with
    emergency := r.emergency
    unit := BitVec.ofNat 24 r.unit
    talkgroup := BitVec.ofNat 16 r.talkgroup
    channel := target }

/-- The state in which a unit that talks keeps its channel, its attempt called off (R92). -/
def calledOff (u : UnitId) (ch : ChannelNo) (a : Activity) (ho : Handover) (s : State) : State :=
  attemptFailed u (enterPhase u (.served ch a none) (sendCancel u ho.id 3#8 ho.partner s))

theorem calledOff_frame (u : UnitId) (ch : ChannelNo) (a : Activity) (ho : Handover) (s : State) :
    calledOff u ch a ho s = { s with io := (calledOff u ch a ho s).io, units := (calledOff u ch a ho s).units } := rfl

/-- The state in which a unit has been ordered to leave (R92). -/
def ordered (r : Record) (ch : ChannelNo) (target : Byte) (ho : Handover) (s : State) : State :=
  enterPhase r.unit (.departing ch { ho with deadline := s.after s.active.departure } false) (sendRoamOrder ch r target ho s)

theorem takeAccept_talking (hr : s.record msg.unit = some r) (hp : r.phase = .proposing ch a ho) (fits : msg.fits ho = true)
    (talks : r.talking = true) : takeAccept msg s = calledOff msg.unit ch a ho s := by
  simp only [takeAccept, hr, hp, fits, if_true, acceptProposing, talks, unit_of_record s hr, returnFromProposing]
  rfl

theorem takeAccept_ordered (hr : s.record msg.unit = some r) (hp : r.phase = .proposing ch a ho) (fits : msg.fits ho = true)
    (talks : r.talking = false) : takeAccept msg s = ordered r ch msg.channel ho s := by
  simp only [takeAccept, hr, hp, fits, if_true, acceptProposing, talks, Bool.false_eq_true, if_false]
  rfl

theorem takeAccept_departing {sent : Bool} (hr : s.record msg.unit = some r) (hp : r.phase = .departing ch ho sent)
    (fits : msg.fits ho = true) : takeAccept msg s = s.count .staleHandover := by
  simp only [takeAccept, hr, hp, fits, if_true]

theorem takeAccept_late
    (unfit : ∀ r ho, s.record msg.unit = some r → (r.phase.number = 1 ∨ r.phase.number = 2) → r.phase.handover? = some ho →
      ¬msg.fits ho = true) : takeAccept msg s = acceptLate msg s := by
  unfold takeAccept
  split
  · rfl
  · rename_i r hr
    split
    case h_1 ch a ho hp => exact if_neg (unfit r ho hr (by simp [hp, Phase.number]) (by simp [hp, Phase.handover?]))
    case h_2 ch ho sent hp => exact if_neg (unfit r ho hr (by simp [hp, Phase.number]) (by simp [hp, Phase.handover?]))
    all_goals rfl

/-! ## What it leaves -/

/-- What every HO ACCEPT leaves but for the records of its unit and frames. -/
structure Answered (s : State) (p : PortNo) (u : UnitId) (t : State) : Prop where
  taken : s.tookHanded p t
  frame : t = { s with io := t.io, units := t.units }
  others : s.sameRecordsBut u t

theorem calledOff_leaves {u : UnitId} (hr : s.record u = some r) (hp : r.phase = .proposing ch a ho) (law : s.counterLaw)
    {h : Handle} (hx : bufferOf h s.io ≠ none) :
    let t := (calledOff u ch a ho (s.taken p)).onIo fun c => dropReference c h
    Answered s p u t ∧ t.record u = some (r.returned s (.served ch a none)) ∧ s.raised .roamsFailed t
      ∧ s.builtForSite (cancelHeader u ho.id 3) ho.partner t := by
  intro t
  have acts : Acts (s.taken p) (calledOff u ch a ho (s.taken p)) :=
    ((Acts.sendCancel u ho.id 3#8 ho.partner _).trans (.enterPhase u _ _)).trans (.failed u _)
  have raises : Raises [.roamsFailed] s t := by
    have sent := (Raises.taken p s).trans (Raises.sendCancel u ho.id 3#8 ho.partner (s.taken p))
    have held : Raises [] (sendCancel u ho.id 3#8 ho.partner (s.taken p))
        (startRoamHold u (enterPhase u (.served ch a none) (sendCancel u ho.id 3#8 ho.partner (s.taken p)))) := .same rfl
    exact ((sent.trans held).trans (.count .roamsFailed _)).trans (.dropped h _)
  have told := (sentFor_sendToSite (cancelHeader u ho.id 3) ho.partner (s.taken p)).ofTaken.counted DevCounter.roamsFailed.number
  have record : t.record u = _ := attemptFailed_record_self (ph := .served ch a none)
    (s := sendCancel u ho.id 3#8 ho.partner (s.taken p)) hr (by simp [hp, Phase.number])
  have others (v : UnitId) (hv : v ≠ u) : t.record v = s.record v :=
    attemptFailed_record_other hv (.served ch a none) (sendCancel u ho.id 3#8 ho.partner (s.taken p))
  have built : s.builtForSite (cancelHeader u ho.id 3) ho.partner t := told.builtDropped t.net hx rfl
  have frame : t = { s with io := t.io, units := t.units } := by
    simp only [t]
    rw [calledOff_frame]
    rfl
  exact ⟨⟨tookHanded_of_acts acts h, frame, others⟩, record, raises.raised law (by decide) rfl, built⟩

theorem ordered_leaves {target : Byte} {u : UnitId} (hr : s.record u = some r) (hp : r.phase = .proposing ch a ho)
    {h : Handle} (hx : bufferOf h s.io ≠ none) :
    let t := (ordered r ch target ho (s.taken p)).onIo fun c => dropReference c h
    Answered s p u t
      ∧ t.record u
        = some
            { r with
              phase := .departing ch { ho with deadline := s.timeBase.toNat + s.active.departure } false
              entryTime := s.timeBase }
      ∧ ∀ k rest, s.io.pool.free = k :: rest → bufferOf k s.io = none → s.io.pool.noticePending = false →
          s.waitsAt (chanPort ch) →
          t.queueOf (chanPort ch)
              = insertEntry { handle := k, cls := .priority, hop := 0, addressing := .unaddressed } (s.queueOf (chanPort ch))
            ∧ completionOf k t.io = some (.roamOrder u ho.id)
            ∧ bytesOf k t.io = frameBytes { orderHeader r target with unit := BitVec.ofNat 24 u } [BitVec.ofNat 8 ho.partner] := by
  intro t
  obtain rfl : r.unit = u := unit_of_record s hr
  have acts : Acts (s.taken p) (ordered r ch target ho (s.taken p)) :=
    (Acts.sendRoamOrder ch r target ho _).trans (.enterPhase r.unit _ _)
  refine ⟨⟨tookHanded_of_acts acts h, rfl, fun v hv => ?_⟩, ?_, fun k rest hf hb hn waits => ?_⟩
  · exact (enterPhase_record r.unit v _ _).trans (if_neg hv)
  · refine (enterPhase_record r.unit r.unit _ _).trans ?_
    rw [if_pos rfl]
    refine (congrArg (Option.map _) (show (sendRoamOrder ch r target ho (s.taken p)).record r.unit = some r from hr)).trans ?_
    exact congrArg some (Record.enter_changed s.timeBase (by simp [hp, Phase.number]))
  · have class' : (orderHeader r target).frameClass = .priority := rfl
    have apart : k ≠ h := fun same => hx (same ▸ hb)
    have waits' := waitsAt_taken (s := s) p waits
    have sent := (sentOn_sendToChannel ch (orderHeader r target) [BitVec.ofNat 8 ho.partner] (some (.roamOrder r.unit ho.id))
      (s.taken p)) k rest hf hn (.inl rfl) waits'
    have completion := sendBuilt_completion (c := (s.taken p).net) (p := chanPort ch) (e := channelEntry .priority k)
      (place := fun h => deliver (s.taken p).net ch .priority h) [BitVec.ofNat 8 ho.partner]
      (some (Completion.roamOrder r.unit ho.id)) (hdr := orderHeader r target) (io := (s.taken p).io) hf (.inl rfl) rfl
      (fun _ => rfl) waits'
    have gone := sent.ofTaken.dropped (x := h) apart.symm t.net
    refine ⟨(gone.queue (chanPort ch)).trans (if_pos rfl), ?_, gone.bytes⟩
    refine Eq.trans ?_ completion
    exact congrArg (·.bind Buffer.completion) (dropReference_other t.net sent.quiet apart)

theorem acceptLate_leaves {u : UnitId} (law : s.counterLaw) {h : Handle} (hx : bufferOf h s.io ≠ none) :
    let t := (acceptLate msg (s.taken p)).onIo fun c => dropReference c h
    Answered s p u t ∧ t.units = s.units ∧ s.raised .staleHandover t
      ∧ s.builtForSite (cancelHeader msg.unit msg.id 2) msg.origin t := by
  intro t
  have acts : Acts (s.taken p) (acceptLate msg (s.taken p)) := (Acts.sendCancel _ _ _ _ _).trans (.count _ _)
  have raises : Raises [.staleHandover] s t :=
    (((Raises.taken p s).trans (Raises.sendCancel msg.unit msg.id 2#8 msg.origin (s.taken p))).trans
      (.count .staleHandover _)).trans (.dropped h _)
  have told := (sentFor_sendToSite (cancelHeader msg.unit msg.id 2) msg.origin (s.taken p)).ofTaken.counted
    DevCounter.staleHandover.number
  exact ⟨⟨tookHanded_of_acts acts h, rfl, fun _ _ => rfl⟩, rfl, raises.raised law (by decide) rfl,
    told.builtDropped t.net hx rfl⟩

end Sys2Proof.Machine

open Sys2Proof Sys2Proof.Machine

/-- Settles O40: by the handover of the unit's record and by whether it talks. -/
theorem hoAcceptAnswered : Obligations.HoAcceptAnswered := by
  constructor
  · intro l x s hx own law
    obtain ⟨settled, units⟩ := takeHandover_stale (f := takeAccept) hx law fun away => absurd own away
    exact ⟨_, rfl, settled.taken, settled.frame.trans (by rw [units]), settled.raised, settled.quiet⟩
  · intro l x s holds law msg cancel
    obtain ⟨own, away⟩ := holds
    have hx : bufferOf x.handle s.io ≠ none := bufferOf_of_kind own.1.2
    refine ⟨_, congrArg Host.Outcome.next (takeHandover_of_other takeAccept own away), ?_⟩
    by_cases proposing : ∃ r ch a ho, s.record msg.unit = some r ∧ r.phase = .proposing ch a ho ∧ msg.fits ho = true
    · obtain ⟨r, ch, a, ho, hr, hp, fits⟩ := proposing
      have only {r'} (hr' : s.record msg.unit = some r') : r' = r := Option.some.inj (hr'.symm.trans hr)
      have others (t : State) : (∀ r' ch' ho' sent, s.record msg.unit = some r' → r'.phase = .departing ch' ho' sent →
          msg.origin = ho'.partner → msg.id = ho'.id → t.units = s.units ∧ s.raised .staleHandover t)
          ∧ ((∀ r' ho', s.record msg.unit = some r' → (r'.phase.number = 1 ∨ r'.phase.number = 2) →
            r'.phase.handover? = some ho' → ¬(msg.origin = ho'.partner ∧ msg.id = ho'.id)) →
          t.units = s.units ∧ s.raised .staleHandover t ∧ s.builtForSite (cancel msg.id 2) msg.origin t) := by
        refine ⟨fun r' ch' ho' sent hr' hp' => ?_, fun unfit => ?_⟩
        · rw [only hr', hp] at hp'
          cases hp'
        · exact absurd ((msg.fits_iff ho).mp fits)
            (unfit r ho hr (.inl (by rw [hp]; rfl)) (by rw [hp]; rfl))
      cases talks : r.talking with
      | true =>
        rw [takeAccept_talking (s := s.taken (linkPort l)) hr hp fits talks]
        obtain ⟨⟨taken, frame, apart⟩, record, raised, built⟩ := calledOff_leaves hr hp law (p := linkPort l) hx
        refine ⟨taken, frame, apart, fun r' ch' a' ho' hr' hp' _ _ => ?_, others _⟩
        cases only hr'
        cases hp.symm.trans hp'
        exact ⟨fun _ => ⟨record, raised, built⟩, fun silent => absurd (talks.symm.trans silent) nofun⟩
      | false =>
        rw [takeAccept_ordered (s := s.taken (linkPort l)) hr hp fits talks]
        obtain ⟨⟨taken, frame, apart⟩, record, queued⟩ := ordered_leaves (target := msg.channel) hr hp
          (p := linkPort l) hx
        refine ⟨taken, frame, apart, fun r' ch' a' ho' hr' hp' _ _ => ?_, others _⟩
        cases only hr'
        cases hp.symm.trans hp'
        exact ⟨fun talking => absurd (talks.symm.trans talking) nofun, fun _ => ⟨record, queued⟩⟩
    · by_cases departing : ∃ r ch ho sent, s.record msg.unit = some r ∧ r.phase = .departing ch ho sent ∧ msg.fits ho = true
      · obtain ⟨r, ch, ho, sent, hr, hp, fits⟩ := departing
        rw [takeAccept_departing (s := s.taken (linkPort l)) hr hp fits]
        obtain ⟨taken, frame, apart, quiet, raised, -⟩ := settlesFor_stale (p := linkPort l) (u := msg.unit) x.handle law
        refine ⟨taken, frame, apart, fun r' ch' a' ho' hr' hp' => ?_, fun _ _ _ _ _ _ _ _ => ⟨rfl, raised⟩, fun unfit => ?_⟩
        · rw [← Option.some.inj (hr.symm.trans hr'), hp] at hp'
          cases hp'
        · exact absurd ((msg.fits_iff ho).mp fits)
            (unfit r ho hr (.inr (by rw [hp]; rfl)) (by rw [hp]; rfl))
      · have unfit (r : Record) (ho : Handover) (hr : s.record msg.unit = some r)
            (hn : r.phase.number = 1 ∨ r.phase.number = 2) (hho : r.phase.handover? = some ho) : ¬msg.fits ho = true := by
          intro fits
          cases hp : r.phase with
          | proposing ch a ho' =>
            obtain rfl : ho' = ho := by simpa [hp, Phase.handover?] using hho
            exact proposing ⟨r, ch, a, ho', hr, hp, fits⟩
          | departing ch ho' sent =>
            obtain rfl : ho' = ho := by simpa [hp, Phase.handover?] using hho
            exact departing ⟨r, ch, ho', sent, hr, hp, fits⟩
          | served | arriving | forward | lost => simp [hp, Phase.number] at hn
        rw [takeAccept_late (s := s.taken (linkPort l)) unfit]
        obtain ⟨⟨taken, frame, apart⟩, units, raised, built⟩ := acceptLate_leaves (msg := msg) (u := msg.unit)
          (p := linkPort l) law hx
        refine ⟨taken, frame, apart, fun r' ch' a' ho' hr' hp' partner id => ?_, fun _ _ _ _ _ _ _ _ => ⟨units, raised⟩,
          fun _ => ⟨units, raised, built⟩⟩
        exact absurd ⟨r', ch', a', ho', hr', hp', (msg.fits_iff ho').mpr ⟨partner, id⟩⟩ proposing
end

section
/-! PROOFS. A HO COMPLETE and a HO CLAIM (R66, R85, R99, R108): FORWARD, with the member report of a member. -/

namespace Sys2Proof.Machine

variable {x : Handed} {s t v : State} {r : Record} {l : LinkNo} {p : PortNo} {ho : Handover} {u : UnitId} {msg : HoMessage}
  {partner : SiteId} {id : Nat}

/-! ## Into FORWARD -/

/-- The members of the talkgroups when a record that may be a member's leaves (R113). -/
def State.leftBy (s : State) (r : Record) : List TalkgroupEntry :=
  if r.phase.isMember then
    s.talkgroups.map fun k => if k.id = r.talkgroup then { k with members := k.members - 1 } else k
  else s.talkgroups

theorem exitReport_frame (r : Record) (s : State) :
    exitReport r s
      = { s with
          io := (exitReport r s).io
          talkgroups := s.leftBy r
          ownSequence := (exitReport r s).ownSequence } := by
  unfold State.leftBy
  cases member : r.phase.isMember with
  | true =>
    rw [exitReport_member member, if_pos rfl]
    exact memberExit_frame r.talkgroup s
  | false =>
    rw [exitReport_away member]
    rfl

/-- The record of a unit that has gone to another site. -/
def Record.forwarded (s : State) (partner : SiteId) (id : Nat) (r : Record) : Record :=
  { r with
    phase :=
      .forward { partner := partner, id := id, deadline := s.timeBase.toNat + s.active.forwardHold * 1000 }
    entryTime := s.timeBase
    serving := none
    candidates := [none, none, none, none]
    roamHold := none }

/-- What is left when a record has gone FORWARD, its frame's buffer still to be let go. -/
structure Forwarded (s : State) (u : UnitId) (partner : SiteId) (id : Nat) (r : Record) (t : State) : Prop where
  frame : t = { s with io := t.io, units := t.units, talkgroups := t.talkgroups, ownSequence := t.ownSequence }
  others : s.sameRecordsBut u t
  record : t.record u = some (r.forwarded s partner id)
  talkgroups : t.talkgroups = s.leftBy r

/-- Handover traffic leaves the handover counter as it was, where it starts no handover. -/
theorem sameButUnits_of_frame
    (h : t = { s with io := t.io, units := t.units, talkgroups := t.talkgroups, ownSequence := t.ownSequence }) :
    s.sameButUnits t ∧ t.handoverCounter = s.handoverCounter := by
  unfold State.sameButUnits
  rw [h]
  exact ⟨rfl, rfl⟩

theorem setForward_leaves (hr : s.record u = some r) (away : r.phase.number ≠ 4)
    (hv : v = { exitReport r s with io := v.io }) : Forwarded s u partner id r (setForward u partner id v) := by
  have units : v.units = s.units := by rw [hv, exitReport_frame]
  have mine : v.record u = some r := (record_of_units units).trans hr
  have entered : r.enter v.timeBase
      (.forward { partner := partner, id := id, deadline := v.after (v.active.forwardHold * 1000) })
      = { r with
          phase := .forward { partner := partner, id := id, deadline := v.after (v.active.forwardHold * 1000) }
          entryTime := v.timeBase } := Record.enter_changed _ away
  refine ⟨?_, fun w hw => ?_, ?_, ?_⟩
  · unfold setForward modUnit
    rw [hv, exitReport_frame]
  · refine (modUnit_record_other (f := fun r => (r.enter v.timeBase
      (.forward { partner := partner, id := id, deadline := v.after (v.active.forwardHold * 1000) })).clearRoam) hw
      fun _ => rfl).trans ?_
    exact record_of_units units
  · refine (modUnit_record_self (f := fun r => (r.enter v.timeBase
      (.forward { partner := partner, id := id, deadline := v.after (v.active.forwardHold * 1000) })).clearRoam) mine
      fun _ => rfl).trans ?_
    rw [entered, hv, exitReport_frame]
    rfl
  · show v.talkgroups = _
    rw [hv, exitReport_frame]

theorem enterForward_leaves (hr : s.record u = some r) (away : r.phase.number ≠ 4) (partner : SiteId) (id : Nat) :
    Forwarded s u partner id r (enterForward r partner id s) := by
  obtain rfl : r.unit = u := unit_of_record s hr
  exact setForward_leaves hr away rfl

theorem claimHandover_leaves (hr : s.record u = some r) (away : r.phase.number ≠ 4) (ho : Handover) (claimant : SiteId) :
    Forwarded s u claimant ho.id r (claimHandover r ho claimant s) := by
  obtain rfl : r.unit = u := unit_of_record s hr
  exact setForward_leaves hr away rfl

/-! ## A HO COMPLETE -/

/-- A HO COMPLETE matches the handover of a record, in progress or abandoned (R99). -/
def HoMessage.completes (msg : HoMessage) (r : Record) : Prop :=
  (∃ ch ho sent, r.phase = .departing ch ho sent ∧ msg.origin = ho.partner ∧ msg.id = ho.id)
    ∨ ∃ ch a k, r.phase = .served ch a (some k) ∧ msg.origin = k.site ∧ msg.id = k.id

theorem HoMessage.fitsAbandoned_iff (msg : HoMessage) (k : Abandoned) :
    msg.fitsAbandoned k = true ↔ msg.origin = k.site ∧ msg.id = k.id := by
  simp [HoMessage.fitsAbandoned]

theorem takeComplete_completes (hr : s.record msg.unit = some r) (h : msg.completes r) :
    takeComplete msg s = (enterForward r msg.origin msg.id s).count .roamsOut := by
  rcases h with ⟨ch, ho, sent, hp, partner, id⟩ | ⟨ch, a, k, hp, site, id⟩
  · have fits : msg.fits ho = true := (msg.fits_iff ho).mpr ⟨partner, id⟩
    simp only [takeComplete, hr, hp, fits, if_true, partner, id]
  · have fits : msg.fitsAbandoned k = true := (msg.fitsAbandoned_iff k).mpr ⟨site, id⟩
    simp only [takeComplete, hr, hp, fits, if_true, site, id]

theorem takeComplete_stale (h : ∀ r, s.record msg.unit = some r → ¬msg.completes r) :
    takeComplete msg s = s.count .staleHandover := by
  unfold takeComplete
  split
  · rfl
  · rename_i r hr
    split
    case h_1 ch ho sent hp =>
      exact if_neg fun fits =>
        h r hr (.inl ⟨ch, ho, sent, hp, (msg.fits_iff ho).mp fits⟩)
    case h_2 ch a kept hp =>
      cases kept with
      | none => rfl
      | some k =>
        exact if_neg fun fits =>
          h r hr (.inr ⟨ch, a, k, hp, (msg.fitsAbandoned_iff k).mp fits⟩)
    all_goals rfl

theorem HoMessage.completes_away (h : msg.completes r) : r.phase.number ≠ 4 ∧ r.phase.isMember = true := by
  rcases h with ⟨ch, ho, sent, hp, -⟩ | ⟨ch, a, k, hp, -⟩
  all_goals
    rw [hp]
    exact ⟨nofun, rfl⟩

theorem Raises.enterForward (r : Record) (partner : SiteId) (id : Nat) (s : State) :
    Raises [] s (Machine.enterForward r partner id s) :=
  (Raises.exitReport r s).trans (.same rfl)

theorem Raises.claimHandover (r : Record) (ho : Handover) (claimant : SiteId) (s : State) :
    Raises [] s (Machine.claimHandover r ho claimant s) :=
  ((Raises.exitReport r s).trans (.sendCancel r.unit ho.id 6#8 ho.partner _)).trans (.same rfl)

/-! ## A HO CLAIM -/

theorem takeClaim_unknown (hr : s.record msg.unit = none) :
    takeClaim msg s = (s.count .claimsReceived).count .staleHandover := by
  have none : (s.count .claimsReceived).record msg.unit = none := hr
  simp only [takeClaim, none]

/-- A HO CLAIM's handling of a record that is not FORWARD. -/
theorem takeClaim_leaves (hr : s.record msg.unit = some r) (away : r.phase.number ≠ 4) :
    Forwarded s msg.unit msg.origin ((r.phase.handover?.map Handover.id).getD 0) r (takeClaim msg s)
      ∧ Raises [.claimsReceived] s (takeClaim msg s) := by
  have mine : (s.count .claimsReceived).record msg.unit = some r := hr
  have counted : Raises [.claimsReceived] s (s.count .claimsReceived) := .count _ s
  have entered (id : Nat) (h : takeClaim msg s = enterForward r msg.origin id (s.count .claimsReceived)) :
      Forwarded s msg.unit msg.origin id r (takeClaim msg s) ∧ Raises [.claimsReceived] s (takeClaim msg s) := by
    obtain ⟨frame, others, record, talkgroups⟩ := enterForward_leaves mine away msg.origin id
    rw [h]
    exact ⟨⟨frame, others, record, talkgroups⟩, counted.trans (.enterForward r msg.origin id _)⟩
  have claimed (ho : Handover) (h : takeClaim msg s = claimHandover r ho msg.origin (s.count .claimsReceived)) :
      Forwarded s msg.unit msg.origin ho.id r (takeClaim msg s) ∧ Raises [.claimsReceived] s (takeClaim msg s) := by
    obtain ⟨frame, others, record, talkgroups⟩ := claimHandover_leaves mine away ho msg.origin
    rw [h]
    exact ⟨⟨frame, others, record, talkgroups⟩, counted.trans (.claimHandover r ho msg.origin _)⟩
  cases hp : r.phase with
  | served => exact entered 0 (by simp only [takeClaim, mine, hp])
  | lost => exact entered 0 (by simp only [takeClaim, mine, hp])
  | arriving ho => exact entered ho.id (by simp only [takeClaim, mine, hp])
  | proposing ch a ho => exact claimed ho (by simp only [takeClaim, mine, hp])
  | departing ch ho sent => exact claimed ho (by simp only [takeClaim, mine, hp])
  | forward => exact absurd (by rw [hp]; rfl) away

/-- A FORWARD record takes the claimant as its partner and keeps its entry time (R48, R108). -/
theorem takeClaim_forward (hr : s.record msg.unit = some r) (hp : r.phase = .forward ho) :
    takeClaim msg s = { s with io := (takeClaim msg s).io, units := (takeClaim msg s).units }
      ∧ Raises [.claimsReceived] s (takeClaim msg s)
      ∧ s.sameRecordsBut msg.unit (takeClaim msg s)
      ∧ (takeClaim msg s).record msg.unit
        = some
            { r with
              phase :=
                .forward
                  { partner := msg.origin, id := ho.id, deadline := s.timeBase.toNat + s.active.forwardHold * 1000 } } := by
  have mine : (s.count .claimsReceived).record msg.unit = some r := hr
  have unit : r.unit = msg.unit := unit_of_record s hr
  have entered : takeClaim msg s
      = enterPhase msg.unit
          (.forward { partner := msg.origin, id := ho.id, deadline := s.timeBase.toNat + s.active.forwardHold * 1000 })
          (s.count .claimsReceived) := by
    simp only [takeClaim, mine, hp, unit]
    rfl
  rw [entered]
  refine ⟨rfl, (Raises.count .claimsReceived s).trans (.same rfl), fun v hv => ?_, ?_⟩
  · exact (enterPhase_record msg.unit v _ _).trans (if_neg hv)
  · refine (enterPhase_record msg.unit msg.unit _ _).trans ?_
    rw [if_pos rfl, mine, Option.map_some]
    simp only [Record.enter, hp, Phase.number, beq_self_eq_true, if_true]

/-- The partner of a handover in progress is told that its unit was claimed (R108). -/
theorem takeClaim_tells (hr : s.record msg.unit = some r)
    (h : (∃ ch a, r.phase = .proposing ch a ho) ∨ ∃ ch sent, r.phase = .departing ch ho sent) (y : Handle) :
    Issues y 2 (s.sites.length + 1) (siteClaims s.net (cancelHeader r.unit ho.id 6) ho.partner) s (takeClaim msg s) := by
  have mine : (s.count .claimsReceived).record msg.unit = some r := hr
  have claimed : takeClaim msg s = claimHandover r ho msg.origin (s.count .claimsReceived) := by
    rcases h with ⟨ch, a, hp⟩ | ⟨ch, sent, hp⟩
    · simp only [takeClaim, mine, hp]
    · simp only [takeClaim, mine, hp]
  have net : (exitReport r (s.count .claimsReceived)).net = s.net := by
    rw [exitReport_frame]
    rfl
  have told := Issues.toSite (x := y) (cancelHeader r.unit ho.id 6) ho.partner (exitReport r (s.count .claimsReceived))
  rw [net] at told
  have reported := (Issues.count (x := y) .claimsReceived s).trans (Issues.exitReport r (s.count .claimsReceived))
  rw [claimed]
  exact ((reported.trans told).trans (.modUnit r.unit _ _)).mono (by omega) (by simp) (by simp)

/-! ## The two commands -/

theorem setsAside_of_settles {u : UnitId} (h : SettlesFor (linkPort l) u .staleHandover s t) (units : t.units = s.units) :
    s.setsAside l t := ⟨h.taken, h.frame.trans (by rw [units]), h.raised, h.quiet⟩

theorem hoComplete_stale (hx : s.holdsForOwn l x .hoComplete) (law : s.counterLaw)
    (h : (s.hoMessage x).origin = s.own ∨ ∀ r, s.record (s.hoMessage x).unit = some r → ¬(s.hoMessage x).completes r) :
    s.setsAside l (takeHandover l .hoComplete takeComplete s)
      ∧ (takeHandover l .hoComplete takeComplete s).devCounter .roamsOut = s.devCounter .roamsOut := by
  obtain ⟨settled, units⟩ := takeHandover_stale (f := takeComplete) hx law fun away =>
    takeComplete_stale (s := s.taken (linkPort l)) (h.resolve_left away)
  exact ⟨setsAside_of_settles settled units, settled.kept .roamsOut (by decide) (not_sendCounter (by decide) (by decide))⟩

theorem hoClaim_own (hx : s.holdsForOwn l x .hoClaim) (law : s.counterLaw) (own : (s.hoMessage x).origin = s.own) :
    s.setsAside l (takeHandover l .hoClaim takeClaim s)
      ∧ (takeHandover l .hoClaim takeClaim s).devCounter .claimsReceived = s.devCounter .claimsReceived := by
  obtain ⟨settled, units⟩ := takeHandover_stale (f := takeClaim) hx law fun away => absurd own away
  exact ⟨setsAside_of_settles settled units,
    settled.kept .claimsReceived (by decide) (not_sendCounter (by decide) (by decide))⟩

theorem hoClaim_unknown (hx : s.holdsHo l x .hoClaim) (law : s.counterLaw) (hr : s.record (s.hoMessage x).unit = none) :
    s.setsAside l (takeHandover l .hoClaim takeClaim s) ∧ s.raised .claimsReceived (takeHandover l .hoClaim takeClaim s) := by
  rw [takeHandover_of_other takeClaim hx.1 hx.2, takeClaim_unknown (s := s.taken (linkPort l)) hr]
  have raises := (((Raises.taken (linkPort l) s).trans (.count .claimsReceived _)).trans (.count .staleHandover _)).trans
    (.dropped x.handle _)
  refine ⟨⟨?_, rfl, raises.raised law (by decide) rfl, fun quiet => ?_⟩, raises.raised law (by decide) rfl⟩
  · exact tookHanded_of_ports x.handle fun q => ⟨rfl, rfl⟩
  · exact sameSending_dropped (m := ((s.taken (linkPort l)).count .claimsReceived).count .staleHandover) x.handle rfl quiet

theorem Forwarded.counted (h : Forwarded s u partner id r t) (d : DevCounter) : Forwarded s u partner id r (t.count d) :=
  ⟨by rw [h.frame]; rfl, h.others, h.record, h.talkgroups⟩

/-- What a HO message that makes a record FORWARD leaves, its frame's buffer let go. -/
theorem Forwarded.dropped {m : State} (h : Forwarded (s.taken p) u partner id r m) (y : Handle) :
    (s.sameButUnits (m.onIo fun c => dropReference c y)
        ∧ (m.onIo fun c => dropReference c y).handoverCounter = s.handoverCounter) ∧ s.sameRecordsBut u (m.onIo fun c => dropReference c y)
      ∧ (m.onIo fun c => dropReference c y).record u = some (r.forwarded s partner id)
      ∧ (m.onIo fun c => dropReference c y).talkgroups = s.leftBy r := by
  refine ⟨sameButUnits_of_frame ?_, h.others, h.record, h.talkgroups⟩
  rw [h.frame]
  rfl

end Sys2Proof.Machine

open Sys2Proof Sys2Proof.Machine

/-- Settles O42: the messages that are set aside, and then the two that make a record FORWARD. -/
theorem completeAndClaimForward : Obligations.CompleteAndClaimForward := by
  constructor
  · intro l x s law msg
    refine ⟨fun hx unfit => ⟨_, rfl, hoComplete_stale hx law (unfit.imp id fun h r hr completes => ?_)⟩,
      fun hx own => ⟨_, rfl, hoClaim_own hx law own⟩, fun hx hr => ⟨_, rfl, hoClaim_unknown hx law hr⟩⟩
    obtain ⟨departing, served⟩ := h r hr
    rcases completes with ⟨ch, ho, sent, hp, fits⟩ | ⟨ch, a, k, hp, fits⟩
    · exact departing ch ho sent hp fits
    · exact served ch a k hp fits
  · intro l x r s law msg hr forward entered left
    refine ⟨fun hx completes => ?_, fun hx => ?_⟩
    · obtain ⟨away, member⟩ := HoMessage.completes_away (msg := msg) completes
      obtain ⟨⟨frame, counter⟩, others, record, talkgroups⟩ :=
        ((enterForward_leaves (s := s.taken (linkPort l)) hr away msg.origin msg.id).counted .roamsOut).dropped x.handle
      have taken := tookHanded_of_acts
        ((Acts.enterForward r msg.origin msg.id (s.taken (linkPort l))).trans (.count _ .roamsOut)) x.handle
      have raises := (((Raises.taken (linkPort l) s).trans (.enterForward r msg.origin msg.id _)).trans
        (.count .roamsOut _)).trans (.dropped x.handle _)
      have completed := congrArg (State.onIo fun c => dropReference c x.handle)
        (takeComplete_completes (s := s.taken (linkPort l)) hr completes)
      rw [State.leftBy, if_pos member] at talkgroups
      exact ⟨_, congrArg Host.Outcome.next ((takeHandover_of_other takeComplete hx.1 hx.2).trans completed), taken, frame,
        others, raises.raised law (by decide) rfl, counter, record, talkgroups⟩
    · have taken := tookHanded_of_acts (Acts.takeClaim msg (s.taken (linkPort l))) x.handle
      have hxf (room : s.roomFor 2 (s.sites.length + 1)) := not_free_of_kind room hx.1.1.2
      have tells (ho : Handover) (h : (∃ ch a, r.phase = .proposing ch a ho) ∨ ∃ ch sent, r.phase = .departing ch ho sent)
          (room : s.roomFor 2 (s.sites.length + 1)) :
          s.queuedFor (cancelHeader r.unit ho.id 6) ho.partner
            ((takeClaim msg (s.taken (linkPort l))).onIo fun c => dropReference c x.handle) :=
        queuedFor_of_stands fun routed => (((Issues.taken (linkPort l) s).trans
          (takeClaim_tells (s := s.taken (linkPort l)) (ho := ho) hr h x.handle)).mono (by omega) (le_of_eq (Nat.zero_add _))
            fun _ hf => hf).stands (List.mem_append_right _ (by simp only [siteClaims]; rw [if_pos (by exact routed)]; exact List.mem_singleton.mpr rfl)) room (le_refl 2) (le_refl _) (hxf room) _
      have unit : r.unit = msg.unit := unit_of_record s hr
      refine ⟨_, congrArg Host.Outcome.next (takeHandover_of_other takeClaim hx.1 hx.2), taken, ?_⟩
      by_cases away : r.phase.number = 4
      · obtain ⟨ho, hp⟩ : ∃ ho, r.phase = .forward ho := by
          cases hp : r.phase with
          | forward ho => exact ⟨ho, rfl⟩
          | served | proposing | departing | arriving | lost => simp [hp, Phase.number] at away
        obtain ⟨frame, raises, others, record⟩ := takeClaim_forward (s := s.taken (linkPort l)) hr hp
        have counted := ((Raises.taken (linkPort l) s).trans raises).trans (.dropped x.handle _)
        have kept : s.sameButUnits ((takeClaim msg (s.taken (linkPort l))).onIo fun c => dropReference c x.handle)
            ∧ _ := sameButUnits_of_frame (by rw [frame]; rfl)
        have talkgroups : ((takeClaim msg (s.taken (linkPort l))).onIo fun c => dropReference c x.handle).talkgroups
            = s.talkgroups := by
          rw [frame]
          rfl
        refine ⟨kept.1, others, counted.raised law (by decide) rfl, kept.2,
          fun apart => absurd away apart, fun ho h room => tells ho h room, fun ho' hp' => ?_⟩
        cases hp.symm.trans hp'
        exact ⟨record, talkgroups⟩
      · obtain ⟨forwarded, raises⟩ := takeClaim_leaves (s := s.taken (linkPort l)) hr away
        obtain ⟨⟨frame, counter⟩, others, record, talkgroups⟩ := forwarded.dropped x.handle
        have counted := ((Raises.taken (linkPort l) s).trans raises).trans (.dropped x.handle _)
        refine ⟨frame, others, counted.raised law (by decide) rfl, counter,
          fun _ => ⟨record, talkgroups⟩, fun ho h room => tells ho h room, fun ho hp => absurd (by rw [hp]; rfl) away⟩
end

section
/-! PROOFS. A HO REQUEST (R90, R103, R104): refused by its first failing check, or its unit is awaited. -/

namespace Sys2Proof.Machine

variable {x : Handed} {s t v m : State} {r : Record} {l : LinkNo} {p : PortNo} {ho : Handover} {u : UnitId}
  {msg : HoMessage} {g : TalkgroupEntry} {slot : Nat} {k : Handle} {io io' io₀ : Io}

/-! ## One frame sent from a state with the same frames -/

theorem SentOne.ofPorts {e : Entry} {bytes : List Byte} (h : SentOne k p e bytes io₀ io') (ports : io₀.ports = io.ports) :
    SentOne k p e bytes io io' := by
  refine ⟨fun q => (h.queue q).trans ?_, fun q => (h.sending q).trans ?_, h.buffer, h.quiet⟩
  all_goals rw [ports]

theorem State.sentFor.ofFrames {hdr : Header} {site : SiteId} (h : v.sentFor hdr site io) (net : v.net = s.net)
    (pool : v.io.pool = s.io.pool) (ports : v.io.ports = s.io.ports) : s.sentFor hdr site io := by
  intro k rest j hf hn hc hr hw
  have active : v.active = s.active := congrArg Net.active net
  have waits : v.waitsAt (linkPort j) := by
    unfold State.waitsAt State.queueOf
    rw [ports]
    exact hw
  have sent := h k rest j (pool ▸ hf) (pool ▸ hn) (by rw [active, pool]; exact hc) (net ▸ hr) waits
  rw [net] at sent
  exact sent.ofPorts ports

/-! ## The answers -/

/-- The header of a HO REFUSE (R4, R7). -/
def hoRefuseHeader (u : UnitId) (id : Nat) (cause : Byte) : Header := { handoverHeader .hoRefuse u id with subcode := cause }

/-- The header of a HO ACCEPT (R104). -/
def hoAcceptHeader (u : UnitId) (id : Nat) (ch : ChannelNo) : Header :=
  { handoverHeader .hoAccept u id with channel := BitVec.ofNat 8 ch.val }

theorem hoRefused_leaves {id : Nat} {cause : Byte} {site : SiteId} (hx : bufferOf k s.io ≠ none)
    (h : m = sendHoRefuse u id cause site (s.taken p)) :
    (m.onIo fun c => dropReference c k).units = s.units
      ∧ s.builtForSite (hoRefuseHeader u id cause) site (m.onIo fun c => dropReference c k) := by
  subst h
  exact ⟨rfl, (sentFor_sendToSite (hoRefuseHeader u id cause) site (s.taken p)).ofTaken.builtDropped s.net hx rfl⟩

theorem hoAccepted_builds {id : Nat} {ch : ChannelNo} {site : SiteId} (hx : bufferOf k s.io ≠ none)
    (h : m = sendHoAccept u id ch site v) (net : v.net = s.net) (pool : v.io.pool = s.io.pool)
    (ports : v.io.ports = (takenAt p s.io).ports) :
    s.builtForSite (hoAcceptHeader u id ch) site (m.onIo fun c => dropReference c k) := by
  subst h
  have sent : (s.taken p).sentFor (hoAcceptHeader u id ch) site _ :=
    (sentFor_sendToSite (hoAcceptHeader u id ch) site v).ofFrames net pool ports
  exact sent.ofTaken.builtDropped v.net hx rfl

/-! ## By its checks (R103) -/

theorem takeRequest_restart (h : s.io.restart ≠ .none) :
    takeRequest msg s = sendHoRefuse msg.unit msg.id 4#8 msg.origin s := by
  have pending : restartPending s = true := by simpa [restartPending] using h
  simp only [takeRequest, pending, if_true]

theorem takeRequest_unknown (idle : s.io.restart = .none) (h : findTalkgroup msg.talkgroup s.talkgroups = none) :
    takeRequest msg s = sendHoRefuse msg.unit msg.id 2#8 msg.origin s := by
  simp [takeRequest, restartPending, idle, h]

theorem takeRequest_known (idle : s.io.restart = .none) (h : findTalkgroup msg.talkgroup s.talkgroups = some g) :
    takeRequest msg s = requestByState msg g s := by
  simp [takeRequest, restartPending, idle, h]

theorem requestByState_member (hr : s.record msg.unit = some r) (h : r.phase.isMember = true) :
    requestByState msg g s = sendHoRefuse msg.unit msg.id 3#8 msg.origin s := by
  cases hp : r.phase with
  | served | proposing | departing => simp only [requestByState, hr, hp]
  | arriving | forward | lost => simp [hp, Phase.isMember] at h

/-- The record keeps its entry time when it was awaited from the same site already (R104). -/
def HoMessage.repeats (msg : HoMessage) (r : Record) : Bool :=
  r.phase.number == 3 && r.phase.handover?.any fun ho => ho.partner == msg.origin

theorem requestByState_awaited (hr : s.record msg.unit = some r) (h : r.phase.isMember = false)
    (same : ∀ ho, r.phase = .arriving ho → ho.partner = msg.origin) :
    requestByState msg g s = sendHoAccept msg.unit msg.id g.channel msg.origin (setArriving msg (msg.repeats r) s) := by
  cases hp : r.phase with
  | arriving ho =>
    have partner := same ho hp
    have repeats : msg.repeats r = true := by simp [HoMessage.repeats, hp, Phase.number, Phase.handover?, partner]
    simp only [requestByState, hr, hp, partner, if_true, repeats]
  | forward | lost =>
    have fresh : msg.repeats r = false := by simp [HoMessage.repeats, hp, Phase.number]
    simp only [requestByState, hr, hp, fresh]
  | served | proposing | departing => simp [hp, Phase.isMember] at h

theorem requestByState_superseded (hr : s.record msg.unit = some r) (hp : r.phase = .arriving ho)
    (other : ho.partner ≠ msg.origin) :
    requestByState msg g s
      = sendHoAccept msg.unit msg.id g.channel msg.origin
          (setArriving msg (msg.repeats r) (sendCancel msg.unit ho.id 5#8 ho.partner s)) := by
  have fresh : msg.repeats r = false := by simp [HoMessage.repeats, hp, Phase.number, Phase.handover?, other]
  simp only [requestByState, hr, hp, other, if_false, fresh]

theorem requestByState_new (hr : s.record msg.unit = none) : requestByState msg g s = requestNew msg g s := by
  simp only [requestByState, hr]

theorem requestNew_full (free : freeSlot s = none) (reclaim : reclaimCandidate s = none) :
    requestNew msg g s = sendHoRefuse msg.unit msg.id 1#8 msg.origin s := by
  simp only [requestNew, takeSlot_none free reclaim]

/-- The state in which a unit without a record is awaited. -/
def awaited (msg : HoMessage) (slot : Nat) (s : State) : State :=
  (insertRecord (arrivingRecord msg slot s) s.slotTaken).count .recordsCreated

theorem requestNew_awaited (h : s.hasSlot slot) :
    requestNew msg g s = sendHoAccept msg.unit msg.id g.channel msg.origin (awaited msg slot s) := by
  have same : arrivingRecord msg slot s.slotTaken = arrivingRecord msg slot s := by
    unfold arrivingRecord
    rw [slotTaken_frame]
    rfl
  simp only [requestNew, takeSlot_some h, same]
  rfl

/-! ## What it leaves -/

theorem takeRequest_frame (msg : HoMessage) (s : State) :
    takeRequest msg s = { s with io := (takeRequest msg s).io, units := (takeRequest msg s).units } := by
  unfold takeRequest
  split
  · rfl
  · split
    · rfl
    · rename_i g found
      unfold requestByState
      split
      · unfold requestNew
        split
        · rfl
        · rename_i slot s' slotted
          have had : s' = s.slotTaken := by
            rcases Tallied.takeSlot_eq slotted with ⟨free, rfl⟩ | ⟨free, r, candidate, rfl, rfl⟩
            · exact (slotTaken_free free).symm
            · exact (slotTaken_reclaimed free candidate).symm
          rw [had, slotTaken_frame]
          rfl
      · split
        case h_4 => split <;> rfl
        all_goals rfl

/-- The record of a unit that is awaited from another site (R104). -/
def Record.arrivingFor (msg : HoMessage) (s : State) (r : Record) : Record :=
  { r with
    phase := .arriving { partner := msg.origin, id := msg.id, deadline := s.timeBase.toNat + s.active.arrival }
    talkgroup := msg.talkgroup
    emergency := msg.marker
    serving := none
    candidates := [none, none, none, none]
    roamHold := none
    entryTime := if msg.repeats r then r.entryTime else s.timeBase }

theorem setArriving_record (hr : s.record msg.unit = some r) :
    (setArriving msg (msg.repeats r) s).record msg.unit = some (r.arrivingFor msg s) :=
  modUnit_record_self hr fun _ => rfl

theorem setArriving_record_other {w : UnitId} (hw : w ≠ msg.unit) (b : Bool) :
    (setArriving msg b s).record w = s.record w := modUnit_record_other hw fun _ => rfl

theorem awaited_record (law : s.unitLaw) (h : s.hasSlot slot) (unknown : s.record msg.unit = none) :
    (awaited msg slot s).record msg.unit = some (arrivingRecord msg slot s) := by
  refine (record_inserted law h (r := arrivingRecord msg slot s) rfl unknown (Acts.roamOk_clear _ rfl rfl) msg.unit).trans ?_
  exact if_pos rfl

theorem Raises.awaited (h : s.hasSlot slot) : Raises (s.slotCounters ++ [.recordsCreated]) s (Machine.awaited msg slot s) := by
  have inserted : Raises s.slotCounters s (insertRecord (arrivingRecord msg slot s) s.slotTaken) :=
    ⟨(Raises.slotTaken h).length, (Raises.slotTaken h).counts⟩
  exact inserted.trans (.count .recordsCreated _)

/-- Both partners of a record that is taken over are told (R103, R104). -/
theorem superseded_sends (other : m = sendHoAccept msg.unit msg.id g.channel msg.origin
      (setArriving msg false (sendCancel msg.unit ho.id 5#8 ho.partner (s.taken p))))
    (room : s.roomFor 2 2) (hk : k ∉ s.io.pool.free) :
    s.queuedFor (cancelHeader msg.unit ho.id 5) ho.partner (m.onIo fun c => dropReference c k)
      ∧ s.queuedFor (hoAcceptHeader msg.unit msg.id g.channel) msg.origin (m.onIo fun c => dropReference c k) := by
  have told := Issues.toSite (x := k) (cancelHeader msg.unit ho.id 5) ho.partner (s.taken p)
  have accepted := Issues.toSite (x := k) (hoAcceptHeader msg.unit msg.id g.channel) msg.origin
    (setArriving msg false (sendCancel msg.unit ho.id 5#8 ho.partner (s.taken p)))
  have whole := (((Issues.taken p s).trans told).trans (.modUnit msg.unit _ _)).trans accepted
  subst other
  refine ⟨queuedFor_of_stands fun routed => whole.stands ?_ room (le_refl 2) (le_refl 2) hk _,
    queuedFor_of_stands fun routed => whole.stands ?_ room (le_refl 2) (le_refl 2) hk _⟩
  · refine List.mem_append_left _ (List.mem_append_left _ (List.mem_append_right _ ?_))
    rw [siteClaims, if_pos (by exact routed)]
    exact List.mem_singleton.mpr rfl
  · refine List.mem_append_right _ ?_
    rw [siteClaims, if_pos (by exact routed)]
    exact List.mem_singleton.mpr rfl

end Sys2Proof.Machine

open Sys2Proof Sys2Proof.Machine

/-- Settles O39: check by check, and then by the record there is. -/
theorem hoRequestMakesArriving : Obligations.HoRequestMakesArriving := by
  constructor
  · intro l x s hx own law
    obtain ⟨settled, units⟩ := takeHandover_stale (f := takeRequest) hx law fun away => absurd own away
    exact ⟨_, rfl, setsAside_of_settles settled units⟩
  · intro l x s holds law unitLaw msg refusal acceptance arriving
    have hx : bufferOf x.handle s.io ≠ none := bufferOf_of_kind holds.1.1.2
    have net : ((s.taken (linkPort l)).net) = s.net := rfl
    have frame : ((takeRequest msg (s.taken (linkPort l))).onIo fun c => dropReference c x.handle)
        = { s with
            io := ((takeRequest msg (s.taken (linkPort l))).onIo fun c => dropReference c x.handle).io
            units := ((takeRequest msg (s.taken (linkPort l))).onIo fun c => dropReference c x.handle).units } := by
      rw [takeRequest_frame]
      rfl
    have refused {cause : Byte}
        (h : takeRequest msg (s.taken (linkPort l)) = sendHoRefuse msg.unit msg.id cause msg.origin (s.taken (linkPort l))) :
        ((takeRequest msg (s.taken (linkPort l))).onIo fun c => dropReference c x.handle).units = s.units
          ∧ s.builtForSite (refusal cause) msg.origin
            ((takeRequest msg (s.taken (linkPort l))).onIo fun c => dropReference c x.handle) := by
      have same : refusal cause = hoRefuseHeader msg.unit msg.id cause := rfl
      rw [same]
      exact hoRefused_leaves (u := msg.unit) (id := msg.id) (cause := cause) (site := msg.origin) (p := linkPort l) hx h
    refine ⟨_, congrArg Host.Outcome.next (takeHandover_of_other takeRequest holds.1 holds.2),
      tookHanded_of_acts (Acts.takeRequest msg (s.taken (linkPort l))) x.handle, frame,
      fun pending => refused (takeRequest_restart (s := s.taken (linkPort l)) pending),
      fun idle unknown => refused (takeRequest_unknown (s := s.taken (linkPort l)) idle unknown),
      fun g idle known => ?_⟩
    have accepts : acceptance g = hoAcceptHeader msg.unit msg.id g.channel := rfl
    have byState := takeRequest_known (s := s.taken (linkPort l)) idle known
    refine ⟨fun r hr => ⟨fun member => ?_, fun absent => ?_⟩, fun unknown => ⟨fun free reclaim => ?_, fun slot had => ?_⟩⟩
    · have member := requestByState_member (s := s.taken (linkPort l)) (g := g) hr member
      exact refused (byState.trans member)
    · obtain ⟨m, is⟩ : ∃ m, m = takeRequest msg (s.taken (linkPort l)) := ⟨_, rfl⟩
      have overtaken (ho : Handover) (hp : r.phase = .arriving ho) (other : ho.partner ≠ msg.origin) :=
        is.trans (byState.trans (requestByState_superseded (s := s.taken (linkPort l)) (g := g) hr hp other))
      have repeated (same : ∀ ho, r.phase = .arriving ho → ho.partner = msg.origin) :=
        is.trans (byState.trans (requestByState_awaited (s := s.taken (linkPort l)) (g := g) hr absent same))
      have units : m.units = (setArriving msg (msg.repeats r) s).units := by
        by_cases same : ∀ ho, r.phase = .arriving ho → ho.partner = msg.origin
        · rw [repeated same]
          rfl
        · obtain ⟨ho, hp, other⟩ : ∃ ho, r.phase = .arriving ho ∧ ho.partner ≠ msg.origin := by simpa using same
          rw [overtaken ho hp other]
          rfl
      have record (w : UnitId) : (m.onIo fun c => dropReference c x.handle).record w
          = (setArriving msg (msg.repeats r) s).record w := record_of_units units
      rw [← is]
      refine ⟨fun w hw => (record w).trans (setArriving_record_other hw _), (record msg.unit).trans (setArriving_record hr),
        fun same => ?_, fun ho hp other room => ?_⟩
      · rw [accepts]
        exact hoAccepted_builds (u := msg.unit) (id := msg.id) (ch := g.channel) (site := msg.origin) (p := linkPort l) hx
          (repeated same) rfl rfl rfl
      · have fresh : msg.repeats r = false := by simp [HoMessage.repeats, hp, Phase.number, Phase.handover?, other]
        have told := overtaken ho hp other
        rw [fresh] at told
        rw [accepts]
        exact superseded_sends told room (not_free_of_kind room holds.1.1.2)
    · have full := (requestByState_new (s := s.taken (linkPort l)) (g := g) unknown).trans
        (requestNew_full (s := s.taken (linkPort l)) free reclaim)
      exact refused (byState.trans full)
    · have awaits := byState.trans ((requestByState_new (s := s.taken (linkPort l)) unknown).trans
        (requestNew_awaited (s := s.taken (linkPort l)) (slot := slot) had))
      have slotted := slotTaken_frames (s.taken (linkPort l))
      have raises := ((Raises.awaited (msg := msg) (s := s.taken (linkPort l)) had).trans
        (.toSite (hoAcceptHeader msg.unit msg.id g.channel) msg.origin _)).trans (.dropped x.handle _)
      have record := awaited_record (msg := msg) (s := s.taken (linkPort l)) unitLaw had unknown
      have awaitedNet : (awaited msg slot (s.taken (linkPort l))).net = s.net := by
        show (s.taken (linkPort l)).slotTaken.net = _
        rw [slotTaken_frame]
        rfl
      have built := hoAccepted_builds (u := msg.unit) (id := msg.id) (ch := g.channel) (site := msg.origin)
        (p := linkPort l) hx awaits awaitedNet slotted.1 slotted.2
      rw [accepts]
      refine ⟨?_, built, ?_⟩
      · rw [awaits]
        refine (raises.ofLive (s := s) rfl).raised law (by decide) ?_
        rw [List.append_nil, List.append_nil, List.count_append, State.slotCounters]
        split <;> rfl
      · rw [awaits]
        exact record
end

section
/-! PROOFS. The unit notice of a member at home (R53, R58, R65), and the Roam Selector's slots (R76 to R79). -/

namespace Sys2Proof.Machine

variable {s t m : State} {u : UnitId} {r : Record} {n : ChannelNo} {k : Kind}

/-! ## The unit notice of a member at home -/

/-- A record whose member at home has been heard: its flag by the marker, its activity ACTIVE (R58, R65). -/
def Record.heard (s : State) (marker : Bool) (r : Record) : Record :=
  { r with emergency := r.emergency || marker, phase := r.phase.mapActivity s.activeAgain }

/-- Out of DORMANT or not, what is heard is ACTIVE (R58, R65). -/
theorem activeAgain_wake (s : State) (a : Activity) (b : Bool) : s.activeAgain (if b then s.wake a else a) = s.activeAgain a := by
  obtain ⟨cls, timer, poll, outstanding, misses⟩ := a
  cases b with
  | false => rfl
  | true =>
    cases cls with
    | active | quiet => rfl
    | dormant => cases outstanding <;> rfl

/-- What a notice of a member at home leaves. -/
theorem unitNotice_member (hr : s.record u = some r) (home : r.phase.atHome = true) (hk : k ≠ .pollReply) (n : ChannelNo)
    (marker : Bool) :
    unitNotice n u k marker s = { s with units := (unitNotice n u k marker s).units }
      ∧ s.sameRecordsBut u (unitNotice n u k marker s)
      ∧ (unitNotice n u k marker s).record u = some (r.heard s marker) := by
  rw [unitNotice_some hr]
  have frame := marked_frame s u marker
  have record := marked_record hr marker
  have unit : r.unit = u := unit_of_record s hr
  cases ha : r.phase.activity? with
  | none =>
    have still : ∃ ho, r.phase = .arriving ho ∨ r.phase = .forward ho ∨ ∃ ch, r.phase = .departing ch ho false := by
      cases hp : r.phase with
      | departing ch ho sent =>
        obtain rfl : sent = false := by simpa [hp, Phase.atHome] using home
        exact ⟨ho, .inr (.inr ⟨ch, rfl⟩)⟩
      | served | proposing => simp [hp, Phase.activity?] at ha
      | arriving | forward | lost => simp [hp, Phase.atHome] at home
    rw [noticeByState_still still]
    refine ⟨frame, fun v hv => marked_record_other hv marker, record.trans ?_⟩
    rw [Record.marked_inactive ha, Record.heard, Phase.mapActivity_none ha]
  | some a =>
    have touches : touchActivity (s.marked u marker) = s.activeAgain := by
      rw [touchActivity_eq, frame]
      rfl
    rw [noticeByState_touch ha hk, touches, unit]
    refine ⟨?_, fun v hv => ?_, ?_⟩
    · rw [frame]
      rfl
    · exact (modUnit_record_other (f := fun r => { r with phase := r.phase.mapActivity s.activeAgain }) hv
        fun _ => rfl).trans (marked_record_other hv marker)
    · refine (modUnit_record_self (f := fun r => { r with phase := r.phase.mapActivity s.activeAgain }) record
        fun _ => rfl).trans ?_
      have phase : (r.marked s marker).phase.mapActivity s.activeAgain = r.phase.mapActivity s.activeAgain := by
        refine (Phase.mapActivity_mapActivity _ _ _).trans (congrArg (r.phase.mapActivity ·) ?_)
        funext a
        exact activeAgain_wake s a _
      rw [phase]
      rfl

/-! ## The slots (R76 to R79) -/

variable {tab : List (Option NeighborEntry)} {c : Candidate} {nbs : List (SiteId × Int)} {slots : List (Option Candidate)}
  {i j : Nat} {best : Int} {site : SiteId} {level : Int}

theorem ageSlot_reported (w : Nat) (h : nbs.lookup c.site = some level) :
    ageSlot w nbs (some c) = some { c with level := filterStep w level c.level, misses := 0 } := by
  simp only [ageSlot, h]

theorem ageSlot_missed (w : Nat) (h : nbs.lookup c.site = none) :
    ageSlot w nbs (some c) = if c.misses + 1 < 3 then some { c with misses := c.misses + 1, qualify := 0 } else none := by
  simp only [ageSlot, h]
  by_cases few : c.misses + 1 < 3
  · rw [if_neg (by omega), if_pos few]
  · rw [if_pos (by omega), if_neg few]

theorem judgeReported_absent (p : Params) (serving : Int) (h : nbs.lookup c.site = none) :
    judgeReported p tab serving nbs c = c := by
  simp [judgeReported, h]

theorem judgeReported_reported (p : Params) (serving : Int) (h : nbs.lookup c.site ≠ none) :
    judgeReported p tab serving nbs c
      = { c with
          qualify :=
            if 16 * (p.hysteresis : Int) ≤ c.level + 16 * biasOf c.site tab - serving
                ∨ (serving < 16 * p.coverageFloor ∧ 0 < c.level + 16 * biasOf c.site tab - serving) then
              min 15 (c.qualify + 1)
            else 0 } := by
  have reported : (nbs.lookup c.site).isSome = true := Option.isSome_iff_ne_none.mpr h
  have qualified : qualifies p tab serving c = true
      ↔ 16 * (p.hysteresis : Int) ≤ c.level + 16 * biasOf c.site tab - serving
        ∨ (serving < 16 * p.coverageFloor ∧ 0 < c.level + 16 * biasOf c.site tab - serving) := by
    simp only [qualifies, inRescue, Bool.or_eq_true, Bool.and_eq_true, decide_eq_true_eq]
    exact Iff.rfl
  simp only [judgeReported, reported, if_true, judgeSlot, qualified]

theorem admitTo_known (h : ∃ c, some c ∈ slots ∧ c.site = site) : admitTo tab slots (site, level) = slots := by
  obtain ⟨c, mem, here⟩ := h
  have any : (slots.any fun o => o.any fun c => c.site == site) = true := by
    simp only [List.any_eq_true, Option.any_eq_true, beq_iff_eq]
    exact ⟨some c, mem, c, rfl, here⟩
  simp only [admitTo, any, if_true]

theorem any_site_of_absent (h : ∀ c, some c ∈ slots → c.site ≠ site) :
    (slots.any fun o => o.any fun c => c.site == site) = false := by
  simp only [List.any_eq_false, Option.any_eq_true, beq_iff_eq, not_exists, not_and]
  rintro o mem c rfl
  exact h c mem

theorem admitTo_empty (h : ∀ c, some c ∈ slots → c.site ≠ site) (here : slots[i]? = some none)
    (first : ∀ j, j < i → slots[j]? ≠ some none) :
    admitTo tab slots (site, level) = slots.set i (seedSlot site level) := by
  have found : slots.findIdx? Option.isNone = some i := by
    obtain ⟨bound, empty⟩ := List.getElem?_eq_some_iff.mp here
    refine List.findIdx?_eq_some_iff_getElem.mpr ⟨bound, by rw [empty]; rfl, fun j hj none => first j hj ?_⟩
    rw [List.getElem?_eq_getElem (hj.trans bound), Option.isNone_iff_eq_none.mp none]
  simp only [admitTo, any_site_of_absent h, Bool.false_eq_true, if_false, found]

/-- A slot holds the lowest score, and no slot before it does. -/
def lowestSlot (tab : List (Option NeighborEntry)) (slots : List (Option Candidate)) (i : Nat) (best : Int) : Prop :=
  (∃ c, slots[i]? = some (some c) ∧ c.score tab = best)
    ∧ ∀ j d, slots[j]? = some (some d) → best < d.score tab ∨ (best = d.score tab ∧ i ≤ j)

theorem lowestSlot_cons (o : Option Candidate) (h : lowestSlot tab slots i best)
    (head : ∀ d, o = some d → best < d.score tab) : lowestSlot tab (o :: slots) (i + 1) best := by
  obtain ⟨found, least⟩ := h
  refine ⟨found, fun j d hd => ?_⟩
  cases j with
  | zero => exact .inl (head d (Option.some.inj hd))
  | succ j => exact (least j d hd).imp id (And.imp id Nat.succ_le_succ)

theorem lowestSlot_head (h : ∀ (j : Nat) (d : Candidate), slots[j]? = some (some d) → c.score tab ≤ d.score tab) :
    lowestSlot tab (some c :: slots) 0 (c.score tab) := by
  refine ⟨⟨c, rfl, rfl⟩, fun j d hd => ?_⟩
  cases j with
  | zero =>
    obtain rfl : c = d := by simpa using hd
    exact .inr ⟨rfl, le_refl 0⟩
  | succ j => exact (h j d (by simpa using hd)).lt_or_eq.imp id fun same => ⟨same, Nat.zero_le _⟩

/-- What `lowestFrom` finds (R77). -/
theorem lowestFrom_spec (tab : List (Option NeighborEntry)) (slots : List (Option Candidate)) (start : Nat) :
    (∀ d, some d ∉ slots) ∧ lowestFrom tab start slots = none
      ∨ ∃ i best, lowestFrom tab start slots = some (start + i, best) ∧ lowestSlot tab slots i best := by
  induction slots generalizing start with
  | nil => exact .inl ⟨by simp, rfl⟩
  | cons o rest ih =>
    rcases ih (start + 1) with ⟨empty, found⟩ | ⟨i, best, found, least⟩
    · cases o with
      | none => exact .inl ⟨by simpa using empty, by simp only [lowestFrom, found]⟩
      | some c =>
        refine .inr ⟨0, c.score tab, by simp only [lowestFrom, found, Nat.add_zero], lowestSlot_head fun j d hd => ?_⟩
        exact absurd (List.mem_of_getElem? hd) (empty d)
    · have next : start + 1 + i = start + (i + 1) := by omega
      cases o with
      | none =>
        exact .inr ⟨i + 1, best, by simp only [lowestFrom, found, next], lowestSlot_cons none least (by simp)⟩
      | some c =>
        by_cases beats : c.score tab ≤ best
        · refine .inr ⟨0, c.score tab, by simp only [lowestFrom, found, beats, if_true, Nat.add_zero],
            lowestSlot_head fun j d hd => ?_⟩
          exact beats.trans ((least.2 j d hd).elim le_of_lt fun same => le_of_eq same.1)
        · refine .inr ⟨i + 1, best, by simp only [lowestFrom, found, beats, if_false, next],
            lowestSlot_cons (some c) least fun d hd => ?_⟩
          obtain rfl := Option.some.inj hd
          exact not_le.mp beats

/-- A newcomer at a full table takes the slot of the lowest score, when its own is higher (R77). -/
theorem admitTo_full (h : ∀ c, some c ∈ slots → c.site ≠ site) (full : none ∉ slots) (here : slots[i]? = some (some c))
    (lowest : ∀ j d, slots[j]? = some (some d) → c.score tab < d.score tab ∨ (c.score tab = d.score tab ∧ i ≤ j)) :
    admitTo tab slots (site, level)
      = if c.score tab < scoreOf tab site (level * 16) then slots.set i (seedSlot site level) else slots := by
  have occupied : slots.findIdx? Option.isNone = none := by
    refine List.findIdx?_eq_none_iff.mpr fun o ho => ?_
    cases o with
    | none => exact absurd ho full
    | some d => rfl
  rcases lowestFrom_spec tab slots 0 with ⟨empty, -⟩ | ⟨j, best, found, ⟨d, hd, rfl⟩, least⟩
  · exact absurd (List.mem_of_getElem? here) (empty c)
  · have same : j = i ∧ d.score tab = c.score tab := by
      have forward := lowest j d hd
      have back := least i c here
      omega
    rw [Nat.zero_add] at found
    simp only [admitTo, any_site_of_absent h, Bool.false_eq_true, if_false, occupied, found, same.1, same.2]

end Sys2Proof.Machine
end

section
/-! PROOFS. A MEASURE (R69, R73, R81, R91): what its record learns, and the handover its trigger starts. -/

namespace Sys2Proof.Machine

variable {s t m v : State} {u : UnitId} {r : Record} {n : ChannelNo} {p : PortNo} {site : SiteId} {ch : ChannelNo}
  {a : Activity} {kept : Option Abandoned} {h : Handle}

/-- A MEASURE from a channel port (R11, R22, R53). -/
theorem measure_next {x : Handed} (hx : s.holds (chanPort n) x .measure) :
    exec (.measure n) s
      = .next ((measureByState (handedHeader x s).unit.toNat (handedPayload x s)
          ((unitNotice n (handedHeader x s).unit.toNat .measure (handedHeader x s).emergency s).taken (chanPort n))).onIo
            fun c => dropReference c x.handle) :=
  congrArg Host.Outcome.next
    (takeFromChannel_of_head (fun _ hdr payload => measureByState hdr.unit.toNat payload) hx.1 hx.2)

theorem measure_unknown {x : Handed} (holds : s.holds (chanPort n) x .measure) (hs : s.counterLaw)
    (hr : s.record (handedHeader x s).unit.toNat = none) :
    ∃ t, exec (.measure n) s = .next t ∧ s.tookHanded (chanPort n) t ∧ s.sameButIo t ∧ s.raised .unknownUnitFrames t
      ∧ (s.io.pool.noticePending = false → s.sameSending t) := by
  have settled := settlesFor_of_records (u := 0) (p := chanPort n) (m := (s.taken (chanPort n)).count .unknownUnitFrames)
    x.handle hs (not_sendCounter (by decide) (by decide)) rfl fun _ _ => rfl
  have unknown : (s.taken (chanPort n)).record (handedHeader x s).unit.toNat = none := hr
  refine ⟨_, measure_next holds, ?_⟩
  rw [unitNotice_none hr, measureByState, unknown]
  exact ⟨settled.taken, rfl, settled.raised, settled.quiet⟩

/-- A MEASURE of a unit that is elsewhere does no more than its marker does (R101, R106). -/
theorem measure_away {x : Handed} (holds : s.holds (chanPort n) x .measure)
    (hr : s.record (handedHeader x s).unit.toNat = some r)
    (away : ∃ ho, r.phase = .arriving ho ∨ r.phase = .forward ho) :
    ∃ t, exec (.measure n) s = .next t ∧ s.tookHanded (chanPort n) t ∧ t = { s with io := t.io, units := t.units }
      ∧ s.sameRecordsBut (handedHeader x s).unit.toNat t
      ∧ t.record (handedHeader x s).unit.toNat = some { r with emergency := r.emergency || (handedHeader x s).emergency }
      ∧ t.devCounter .unknownUnitFrames = s.devCounter .unknownUnitFrames
      ∧ (s.io.pool.noticePending = false → s.sameSending t) := by
  have still : ∃ ho, r.phase = .arriving ho ∨ r.phase = .forward ho ∨ ∃ ch, r.phase = .departing ch ho false := by
    obtain ⟨ho, h⟩ := away
    exact ⟨ho, h.imp id .inl⟩
  have absent : r.phase.isMember = false := by
    obtain ⟨ho, h | h⟩ := away <;> rw [h] <;> rfl
  have record := marked_record hr (handedHeader x s).emergency
  rw [Record.marked_inactive (activity_still still)] at record
  have left : measureByState (handedHeader x s).unit.toNat (handedPayload x s)
      ((s.marked (handedHeader x s).unit.toNat (handedHeader x s).emergency).taken (chanPort n))
      = (s.marked (handedHeader x s).unit.toNat (handedHeader x s).emergency).taken (chanPort n) := by
    have mine : ((s.marked (handedHeader x s).unit.toNat (handedHeader x s).emergency).taken (chanPort n)).record
        (handedHeader x s).unit.toNat = _ := record
    simp only [measureByState, mine, absent, Bool.false_eq_true, if_false]
  refine ⟨_, measure_next holds, ?_⟩
  rw [unitNotice_some hr, noticeByState_still still, left, marked_taken]
  obtain ⟨taken, same, quiet, kept⟩ := settles_quietly (p := chanPort n) (s := s)
    (m := { s with io := takenAt (chanPort n) s.io, units := (s.marked (handedHeader x s).unit.toNat _).units }) x.handle rfl
  exact ⟨taken, same, fun v hv => marked_record_other hv _, record, kept _ (by decide), quiet⟩

/-! ## The trigger (R81, R91) -/

theorem triggerRoam_none (hr : s.record u = some r)
    (h : r.phase.number ≠ 0 ∨ triggerSite s.net s.neighbors r = none) : triggerRoam u s = s := by
  simp only [triggerRoam, hr]
  rcases h with away | none
  · cases hp : r.phase with
    | served => simp [hp, Phase.number] at away
    | proposing | departing | arriving | forward | lost => rfl
  · cases hp : r.phase <;> simp only [none]

theorem triggerRoam_some (hr : s.record u = some r) (hp : r.phase = .served ch a kept)
    (h : triggerSite s.net s.neighbors r = some site) : triggerRoam u s = takeTrigger r ch a site s := by
  simp only [triggerRoam, hr, hp, h]

/-- The state in which a handover has been proposed (R91). -/
def proposed (r : Record) (ch : ChannelNo) (a : Activity) (site : SiteId) (s : State) : State :=
  enterPhase r.unit
    (.proposing ch a { partner := site, id := s.handoverCounter, deadline := s.after s.active.replyWait })
    { s with
      io := sendToSite s.net (requestHeader r s.handoverCounter) site s.io
      handoverCounter := nextHandoverId s.handoverCounter }

/-- The state in which a handover could not be proposed. -/
def unproposed (r : Record) (site : SiteId) (s : State) : State :=
  (startRoamHold r.unit { s with io := sendToSite s.net (requestHeader r s.handoverCounter) site s.io }).count .roamsFailed

/-- Whether its frame is built decides whether a handover is proposed (R91). -/
theorem takeTrigger_eq (r : Record) (ch : ChannelNo) (a : Activity) (site : SiteId) (s : State) :
    takeTrigger r ch a site s
      = match buildFrame s.net (s.net.headed (requestHeader r s.handoverCounter) site) [] none s.io with
        | (none, io) => (startRoamHold r.unit { s with io := io }).count .roamsFailed
        | (some h, io) =>
          (enterPhase r.unit
            (.proposing ch a { partner := site, id := s.handoverCounter, deadline := s.after s.active.replyWait })
            { s with io := io, handoverCounter := nextHandoverId s.handoverCounter }).onIo
              fun c io => dropReference c h (placeForSite c (requestHeader r s.handoverCounter).frameClass h site io) := rfl

theorem request_sent (hdr : Header) (site : SiteId) (s : State) :
    sendToSite s.net hdr site s.io
      = match buildFrame s.net (s.net.headed hdr site) [] none s.io with
        | (some h, io) => dropReference s.net h (placeForSite s.net hdr.frameClass h site io)
        | (none, io) => io := rfl

theorem takeTrigger_granted {k : Handle} {rest : List Handle} (hf : s.io.pool.free = k :: rest) :
    takeTrigger r ch a site s = proposed r ch a site s := by
  have priority : (s.net.headed (requestHeader r s.handoverCounter) site).frameClass = .priority := rfl
  have built : buildFrame s.net (s.net.headed (requestHeader r s.handoverCounter) site) [] none s.io
      = (some k, builtIn s.net.active.bufferReserve k rest
        (frameBytes (s.net.headed (requestHeader r s.handoverCounter) site) []) none s.io) := by
    simp only [buildFrame, allocate_granted hf (.inl priority)]
    rfl
  rw [takeTrigger_eq, built, proposed, request_sent, built]
  rfl

theorem takeTrigger_refused (hf : s.io.pool.free = []) : takeTrigger r ch a site s = unproposed r site s := by
  obtain ⟨io, built⟩ : ∃ io, buildFrame s.net (s.net.headed (requestHeader r s.handoverCounter) site) [] none s.io
      = (none, io) := by
    simp only [buildFrame, allocate_empty s.net.active.bufferReserve _ hf]
    exact ⟨_, rfl⟩
  rw [takeTrigger_eq, built, unproposed, request_sent, built]

/-! ## What a MEASURE leaves of a member -/

/-- What a MEASURE leaves, its frame's buffer still to be let go. -/
structure Measured (s : State) (u : UnitId) (r' : Record) (counter : Nat) (m : State) : Prop where
  frame : m = { s with io := m.io, units := m.units, handoverCounter := counter }
  others : s.sameRecordsBut u m
  record : m.record u = some r'

theorem proposed_leaves (hr : s.record u = some r) (served : r.phase.number = 0) :
    Measured s u
      { r with
        phase :=
          .proposing ch a
            { partner := site, id := s.handoverCounter, deadline := s.timeBase.toNat + s.active.replyWait }
        entryTime := s.timeBase }
      (nextHandoverId s.handoverCounter) (proposed r ch a site s) := by
  obtain rfl : r.unit = u := unit_of_record s hr
  refine ⟨rfl, fun v hv => (enterPhase_record r.unit v _ _).trans (if_neg hv), ?_⟩
  refine (enterPhase_record r.unit r.unit _ _).trans ?_
  rw [if_pos rfl]
  refine (congrArg (Option.map _) hr).trans (congrArg some (Record.enter_changed _ ?_))
  rw [served]
  exact nofun

theorem unproposed_leaves (hr : s.record u = some r) :
    Measured s u { r with roamHold := some (s.timeBase.toNat + s.active.roamHold * 1000) } s.handoverCounter
      (unproposed r site s) := by
  obtain rfl : r.unit = u := unit_of_record s hr
  refine ⟨rfl, fun v hv => (startRoamHold_record r.unit v _).trans (if_neg hv), ?_⟩
  refine (startRoamHold_record r.unit r.unit _).trans ?_
  rw [if_pos rfl]
  exact congrArg (Option.map _) hr

theorem unproposed_raised (hf : s.io.pool.free = []) (law : s.counterLaw) :
    s.raised .roamsFailed ((unproposed r site s).onIo fun c => dropReference c h)
      ∧ s.raised .internalDrops ((unproposed r site s).onIo fun c => dropReference c h) := by
  have raises : Raises [.roamsFailed] s ((unproposed r site s).onIo fun c => dropReference c h) :=
    (((Raises.toSite (requestHeader r s.handoverCounter) site s).trans
      (Raises.same (t := startRoamHold r.unit (s.onIo fun c => sendToSite c (requestHeader r s.handoverCounter) site))
        rfl)).trans (.count .roamsFailed _)).trans (.dropped h _)
  obtain ⟨io, sent, live⟩ := sendBuilt_empty (c := s.net) (hdr := s.net.headed (requestHeader r s.handoverCounter) site)
    (payload := []) (done := none)
    (place := fun h => placeForSite s.net (requestHeader r s.handoverCounter).frameClass h site) hf
  refine ⟨raises.raised law (by decide) rfl, ?_⟩
  have bound : DevCounter.internalDrops.number < io.live.length := by rw [live, law.1.1]; decide
  have dropped := KeepsCounter.dropReference (not_entryCounter .internalDrops) (unproposed r site s).net h
    (unproposed r site s).io
  have counted : (unproposed r site s).io = countDev .roamsFailed (countDev .internalDrops io) :=
    congrArg (countDev .roamsFailed) sent
  refine dropped.trans ?_
  rw [counted]
  refine (bumpAt_other (by decide) (countDev .internalDrops io)).trans ((bumpAt_self bound).trans ?_)
  rw [live]
  rfl

theorem Phase.isMember_mapActivity (f : Activity → Activity) (ph : Phase) : (ph.mapActivity f).isMember = ph.isMember := by
  cases ph <;> rfl

/-- The record that a MEASURE has taught, before its trigger is looked at (R73). -/
def Record.taught (s : State) (marker : Bool) (payload : List Byte) (r : Record) : Record :=
  learn s.active s.neighbors payload (r.heard s marker)

/-- The state in which a MEASURE has taught its record. -/
def taught (n : ChannelNo) (s : State) (u : UnitId) (marker : Bool) (payload : List Byte) : State :=
  modUnit u (learn s.active s.neighbors payload) ((unitNotice n u .measure marker s).taken (chanPort n))

theorem taught_leaves (hr : s.record u = some r) (home : r.phase.atHome = true) (n : ChannelNo) (marker : Bool)
    (payload : List Byte) :
    taught n s u marker payload
        = { s with io := takenAt (chanPort n) s.io, units := (taught n s u marker payload).units }
      ∧ s.sameRecordsBut u (taught n s u marker payload)
      ∧ (taught n s u marker payload).record u = some (r.taught s marker payload) := by
  obtain ⟨frame, others, record⟩ := unitNotice_member hr home (k := .measure) nofun n marker
  refine ⟨?_, fun v hv => ?_, ?_⟩
  · unfold taught
    rw [frame]
    rfl
  · exact (modUnit_record_other (s := (unitNotice n u .measure marker s).taken (chanPort n))
      (f := learn s.active s.neighbors payload) hv fun _ => rfl).trans (others v hv)
  · exact modUnit_record_self (s := (unitNotice n u .measure marker s).taken (chanPort n))
      (f := learn s.active s.neighbors payload) record fun _ => rfl

theorem measureByState_taught (hr : s.record u = some r) (home : r.phase.atHome = true) (n : ChannelNo) (marker : Bool)
    (payload : List Byte) :
    measureByState u payload ((unitNotice n u .measure marker s).taken (chanPort n))
      = triggerRoam u (taught n s u marker payload) := by
  obtain ⟨frame, others, record⟩ := unitNotice_member hr home (k := .measure) nofun n marker
  have mine : ((unitNotice n u .measure marker s).taken (chanPort n)).record u = some (r.heard s marker) := record
  have member : (r.heard s marker).phase.isMember = true := by
    refine (Phase.isMember_mapActivity _ _).trans ?_
    cases hp : r.phase with
    | served | proposing | departing => rfl
    | arriving | forward | lost => simp [hp, Phase.atHome] at home
  have reads : ((unitNotice n u .measure marker s).taken (chanPort n)).active = s.active
      ∧ ((unitNotice n u .measure marker s).taken (chanPort n)).neighbors = s.neighbors := by
    rw [frame]
    exact ⟨rfl, rfl⟩
  simp only [measureByState, mine, member, if_true, reads.1, reads.2]
  rfl

/-- What a MEASURE of a member leaves, its frame's buffer let go. -/
theorem Measured.dropped {base : State} {r' : Record} {counter : Nat} (h : Measured base u r' counter m)
    (frame : base = { s with io := base.io, units := base.units }) (others : s.sameRecordsBut u base) (y : Handle) :
    let t := m.onIo fun c => dropReference c y
    s.sameButUnits t ∧ s.sameRecordsBut u t ∧ t.record u = some r' ∧ t.talkgroups = s.talkgroups
      ∧ t.handoverCounter = counter := by
  intro t
  have whole : t = { s with io := t.io, units := t.units, handoverCounter := counter } := by
    simp only [t]
    rw [h.frame, frame]
    rfl
  refine ⟨?_, others.trans h.others, h.record, ?_, ?_⟩
  · unfold State.sameButUnits
    rw [whole]
  · rw [whole]
  · rw [whole]

theorem idle_leaves {base : State} (hr : base.record u = some r) : Measured base u r base.handoverCounter base :=
  ⟨rfl, fun _ _ => rfl, hr⟩

/-- The HO REQUEST of a trigger, as it stands (R91). -/
theorem proposed_builds {base : State} {y : Handle} (hy : bufferOf y s.io ≠ none)
    (frame : base = { s with io := takenAt p s.io, units := base.units }) :
    s.builtForSite (requestHeader r s.handoverCounter) site
      ((proposed r ch a site base).onIo fun c => dropReference c y) := by
  have sent := sentFor_sendToSite (requestHeader r base.handoverCounter) site base
  have counter : base.handoverCounter = s.handoverCounter := by rw [frame]
  have sent' : (s.taken p).sentFor (requestHeader r s.handoverCounter) site
      (sendToSite base.net (requestHeader r base.handoverCounter) site base.io) := by
    rw [counter] at sent ⊢
    exact sent.ofFrames (by rw [frame]; rfl) (by rw [frame]; rfl) (by rw [frame]; rfl)
  exact sent'.ofTaken.builtDropped (proposed r ch a site base).net hy rfl

end Sys2Proof.Machine

open Sys2Proof Sys2Proof.Machine

/-- Settles O37: the frame of a unit that is not here, what the others' records learn, and the arithmetic of the slots. -/
theorem measureLearns : Obligations.MeasureLearns := by
  refine ⟨fun n x s holds hs => ⟨measure_unknown holds hs, fun r ho hr away => measure_away holds hr ⟨ho, away⟩⟩, ?_,
    fun k nbs c => ⟨rfl, fun level h => ageSlot_reported k h, ageSlot_missed k⟩,
    fun tab slots site level => ⟨admitTo_known, fun absent => ⟨fun i here first => admitTo_empty absent here first,
      fun full i c here lowest => admitTo_full absent full here lowest⟩⟩,
    fun p tab serving nbs c => ⟨judgeReported_absent p serving, judgeReported_reported p serving⟩⟩
  intro n x r s holds hdr payload hr member sent nbs level serving learned trigger
  have hx : bufferOf x.handle s.io ≠ none := bufferOf_of_kind holds.2
  have home : r.phase.atHome = true := by
    cases hp : r.phase with
    | served | proposing => rfl
    | departing ch ho order =>
      cases order with
      | true => exact absurd hp (sent ch ho)
      | false => rfl
    | arriving | forward | lost => simp [hp, Phase.isMember] at member
  have learnt : r.taught s hdr.emergency payload = { learned with phase := r.phase.mapActivity s.activeAgain } := by
    have filtered : moveFilter s.active.filterWeight (levelOf (byteAt payload 0)) (r.heard s hdr.emergency).serving
        = serving := by
      simp only [serving, Record.heard]
      cases r.serving <;> rfl
    unfold Record.taught learn
    simp only [filtered]
    rfl
  have sameTrigger : triggerSite s.net s.neighbors (r.taught s hdr.emergency payload) = trigger := by
    rw [learnt]
    rfl
  have number : (r.taught s hdr.emergency payload).phase.number = r.phase.number := by
    rw [learnt]
    exact Phase.number_mapActivity _ _
  have fields : (r.taught s hdr.emergency payload).serving = learned.serving
      ∧ (r.taught s hdr.emergency payload).candidates = learned.candidates
      ∧ (r.taught s hdr.emergency payload).emergency = learned.emergency
      ∧ (r.taught s hdr.emergency payload).talkgroup = r.talkgroup
      ∧ (r.taught s hdr.emergency payload).slot = r.slot
      ∧ (r.taught s hdr.emergency payload).unit = r.unit
      ∧ (r.taught s hdr.emergency payload).roamHold = r.roamHold := by
    rw [learnt]
    exact ⟨rfl, rfl, rfl, rfl, rfl, rfl, rfl⟩
  have phase : (r.taught s hdr.emergency payload).phase.channel? = r.phase.channel?
      ∧ (r.taught s hdr.emergency payload).phase.activity? = r.phase.activity?.map s.activeAgain := by
    rw [learnt]
    exact ⟨Phase.channel_mapActivity _ _, Phase.activity_mapActivity _ _⟩
  have servedPhase (ch : ChannelNo) (a : Activity) (kept : Option Abandoned) (hp : r.phase = .served ch a kept) :
      (r.taught s hdr.emergency payload).phase = .served ch (s.activeAgain a) kept := by
    rw [learnt, hp]
    rfl
  obtain ⟨serving', candidates, emergency, talkgroup, slot, unit, hold⟩ := fields
  obtain ⟨channel, activity⟩ := phase
  obtain ⟨frame, others, record⟩ := taught_leaves hr home n hdr.emergency payload
  have next : exec (.measure n) s = .next ((triggerRoam hdr.unit.toNat (taught n s hdr.unit.toNat hdr.emergency payload)).onIo
      fun c => dropReference c x.handle) :=
    (measure_next holds).trans (congrArg (fun m : State => Host.Outcome.next (m.onIo fun c => dropReference c x.handle))
      (measureByState_taught hr home n hdr.emergency payload))
  have acts := Acts.triggerRoam hdr.unit.toNat (taught n s hdr.unit.toNat hdr.emergency payload)
  generalize taught n s hdr.unit.toNat hdr.emergency payload = base at frame others record next acts
  generalize r.taught s hdr.emergency payload = r₂ at *
  clear learnt
  clear_value trigger learned
  have io : base.io = takenAt (chanPort n) s.io := by rw [frame]
  have taken : s.tookHanded (chanPort n)
      ((triggerRoam hdr.unit.toNat base).onIo fun c => dropReference c x.handle) := by
    refine tookHanded_of_ports x.handle fun q => ?_
    rw [← io]
    exact ⟨(acts.ports q).2.1, (acts.ports q).1⟩
  have looked : triggerSite base.net base.neighbors r₂ = trigger := by
    rw [← sameTrigger, frame]
    rfl
  have law : s.counterLaw → base.counterLaw := fun h => by rw [frame]; exact h
  have counter : base.handoverCounter = s.handoverCounter := by rw [frame]
  have time : base.timeBase = s.timeBase := by rw [frame]
  have active : base.active = s.active := by rw [frame]
  have free : base.io.pool.free = s.io.pool.free := by rw [io]; rfl
  have live (d : DevCounter) : base.devCounter d = s.devCounter d := by rw [frame]; rfl
  have frame' : base = { s with io := base.io, units := base.units } := by rw [frame]
  by_cases idle : r.phase.number ≠ 0 ∨ trigger = none
  · rw [triggerRoam_none record (by rw [number, looked]; exact idle)] at next taken
    obtain ⟨units, apart, mine, talkgroups, count⟩ := (idle_leaves record).dropped frame' others x.handle
    exact ⟨_, _, next, taken, units, apart, mine, serving', candidates, emergency, talkgroup, slot, channel, activity,
      .inl number, talkgroups, fun _ => ⟨number, hold, count.trans counter⟩,
      fun site zero some => absurd idle (by simp [zero, some])⟩
  · obtain ⟨zero, site, named⟩ : r.phase.number = 0 ∧ ∃ site, trigger = some site := by
      rw [not_or, not_not] at idle
      exact ⟨idle.1, Option.ne_none_iff_exists'.mp idle.2⟩
    obtain ⟨ch, a, kept, hp⟩ : ∃ ch a kept, r.phase = .served ch a kept := by
      cases hp : r.phase with
      | served ch a kept => exact ⟨ch, a, kept, rfl⟩
      | proposing | departing | arriving | forward | lost => simp [hp, Phase.number] at zero
    have served := servedPhase ch a kept hp
    have triggers := triggerRoam_some record served (looked.trans named)
    have only (site' : SiteId) (h : trigger = some site') : site' = site := Option.some.inj (h.symm.trans named)
    cases hf : s.io.pool.free with
    | cons k rest =>
      rw [triggers, takeTrigger_granted (free.trans hf)] at next taken
      obtain ⟨units, apart, mine, talkgroups, count⟩ := (proposed_leaves (ch := ch) (a := s.activeAgain a) (site := site)
        record (number.trans zero)).dropped frame' others x.handle
      have built := proposed_builds (r := r₂) (ch := ch) (a := s.activeAgain a) (site := site) (p := chanPort n) hx frame
      generalize ((proposed r₂ ch (s.activeAgain a) site base).onIo fun c => dropReference c x.handle) = t
        at next taken units apart mine talkgroups count built
      rw [time, active, counter] at mine
      have request : requestHeader r₂ s.handoverCounter
          = { Header.blank .hoRequest with
              emergency := learned.emergency
              unit := hdr.unit
              talkgroup := BitVec.ofNat 16 r.talkgroup
              tag := BitVec.ofNat 16 s.handoverCounter } := by
        have here : BitVec.ofNat 24 r₂.unit = hdr.unit := by
          rw [unit, unit_of_record s hr]
          exact BitVec.ofNat_toNat _ _
        rw [← here, ← emergency, ← talkgroup]
        rfl
      rw [request] at built
      refine ⟨_, _, next, taken, units, apart, mine, serving', candidates, emergency, talkgroup, slot, by rw [hp]; rfl,
        by rw [hp]; rfl, .inr ⟨zero, rfl, by rw [count, counter]; rfl⟩, talkgroups, fun absent => absurd absent idle,
        fun site' _ h => ⟨fun _ => ?_, fun none => absurd none (by simp)⟩⟩
      obtain rfl := only site' h
      exact ⟨rfl, rfl, hold, rfl, built⟩
    | nil =>
      rw [triggers, takeTrigger_refused (free.trans hf)] at next taken
      obtain ⟨units, apart, mine, talkgroups, count⟩ := (unproposed_leaves (site := site) record).dropped frame' others x.handle
      have raised (h : s.counterLaw) := unproposed_raised (r := r₂) (site := site) (h := x.handle) (free.trans hf) (law h)
      generalize ((unproposed r₂ site base).onIo fun c => dropReference c x.handle) = t
        at next taken units apart mine talkgroups count raised
      rw [time, active] at mine
      refine ⟨_, _, next, taken, units, apart, mine, serving', candidates, emergency, talkgroup, slot, channel, activity,
        .inl number, talkgroups, fun absent => absurd absent idle, fun site' _ h => ⟨fun some => absurd rfl some,
          fun _ => ⟨number.trans zero, count.trans counter, rfl, fun h => ?_⟩⟩⟩
      have both := raised h
      rwa [State.raised, State.raised, live, live] at both
end

section
/-! PROOFS. Membership (R113 to R121): the notices this site takes, its timers, and the reports it sends. -/

namespace Sys2Proof.Machine

variable {s t m : State} {l : LinkNo} {x : Handed} {n k : SiteId} {e : SiteEntry} {p : PortNo} {hdr : Header}

/-! ## The tables -/

theorem findSite_modSite (f : SiteEntry → SiteEntry) (keep : ∀ e, (f e).site = e.site) (n k : SiteId)
    (tab : List SiteEntry) :
    findSite k (modSite n f tab) = if k = n then (findSite n tab).map f else findSite k tab := by
  induction tab with
  | nil => simp [findSite, modSite]
  | cons y rest ih =>
    simp only [findSite, modSite, List.map_cons, List.find?_cons] at ih ⊢
    have site : (if (y.site == n) = true then f y else y).site = y.site := by
      split
      · exact keep y
      · rfl
    rw [site]
    by_cases here : y.site = k
    · rw [beq_iff_eq.mpr here]
      by_cases named : k = n
      · simp [named, here]
      · have other : ¬y.site = n := fun same => named (here.symm.trans same)
        simp [named, other]
    · rw [beq_eq_false_iff_ne.mpr here]
      simp only [ih]
      by_cases named : k = n
      · have other : ¬y.site = n := fun same => here (same.trans named.symm)
        simp [named, beq_eq_false_iff_ne.mpr other]
      · simp [named]

theorem site_of_findSite (h : findSite n s.sites = some e) : e.site = n := by
  simpa using List.find?_some h

/-- A site's places in the remote sets are written, the other sites' kept. -/
def writesSite (s : State) (n : SiteId) (within : TalkgroupEntry → Bool) (t : State) : Prop :=
  ∃ f : TalkgroupEntry → SiteSet, t.talkgroups = s.talkgroups.map (fun g => { g with remote := f g })
    ∧ ∀ g k, hasSite (f g) k = if k = n then within g else hasSite g.remote k

theorem hasSite_add_eq (ok : siteIdOk n = true) (set : SiteSet) (k : SiteId) :
    hasSite (addSite set n) k = if k = n then true else hasSite set k := by
  rw [Bool.eq_iff_iff, hasSite_addSite]
  by_cases same : k = n <;> simp [same, ok]

theorem hasSite_drop_eq (set : SiteSet) (n k : SiteId) :
    hasSite (dropSite set n) k = if k = n then false else hasSite set k := by
  rw [Bool.eq_iff_iff, hasSite_dropSite]
  by_cases same : k = n <;> simp [same]

/-! ## Notices that are taken (R118 to R120) -/

theorem ownNotice_next {code : Byte} (run : Handle → Header → List Byte → State → State)
    (hx : s.holdsForOwn l x .membershipNotice) (hc : (handedHeader x s).subcode = code) :
    takeHanded (linkPort l) (ownNotice code) run s
      = (run x.handle (handedHeader x s) (handedPayload x s) (s.taken (linkPort l))).onIo
          fun c => dropReference c x.handle := by
  obtain ⟨⟨head, isKind⟩, agent, own⟩ := hx
  exact takeHanded_of_head run head (by simp [ownNotice, ownKind, agent, isKind, own, hc])

theorem senderEntry_none (h : hdr.origin.toNat = s.own ∨ findSite hdr.origin.toNat s.sites = none) :
    senderEntry hdr s = none := by
  unfold senderEntry
  split
  · rfl
  · exact h.resolve_left (by assumption)

theorem senderEntry_some (away : hdr.origin.toNat ≠ s.own) (h : findSite hdr.origin.toNat s.sites = some e) :
    senderEntry hdr s = some e := by
  simp [senderEntry, away, h]

/-- A notice that is set aside is counted as stale and moves nothing else (R118, R120). -/
theorem staleNotice_leaves (law : s.counterLaw) (h : m = (s.taken p).count .staleNotices) (y : Handle) :
    s.sameButIo (m.onIo fun c => dropReference c y) ∧ s.raised .staleNotices (m.onIo fun c => dropReference c y) := by
  subst h
  exact ⟨rfl, ((((Raises.taken p s).trans (.count .staleNotices _)).trans (.dropped y _)).raised law (by decide) rfl)⟩

/-- What a FULL notice leaves of its sender's entry (R119). -/
def SiteEntry.full (s : State) (hdr : Header) (payload : List Byte) (e : SiteEntry) : SiteEntry :=
  { e with
    lastSequence := some (hdr.tag.setWidth 8)
    announcedPeriod := some (announcedPeriodOf payload)
    ageTimer := some (s.after (3 * announcedPeriodOf payload * 1000)) }

theorem takeFull_leaves {payload : List Byte} (away : hdr.origin.toNat ≠ s.own)
    (h : findSite hdr.origin.toNat s.sites = some e) (ok : siteIdOk hdr.origin.toNat = true) :
    takeFull hdr payload s = { s with sites := (takeFull hdr payload s).sites, talkgroups := (takeFull hdr payload s).talkgroups }
      ∧ (∀ k, findSite k (takeFull hdr payload s).sites
        = if k = hdr.origin.toNat then some (e.full s hdr payload) else findSite k s.sites)
      ∧ writesSite s hdr.origin.toNat (fun g => (fullTalkgroups payload).contains g.id) (takeFull hdr payload s) := by
  have site := site_of_findSite h
  simp only [takeFull, senderEntry_some away h]
  refine ⟨trivial, fun k => ?_, _, rfl, fun g k => ?_⟩
  · rw [site, findSite_modSite _ (by intro; rfl), h]
    rfl
  · rw [site]
    cases listed : (fullTalkgroups payload).contains g.id with
    | true =>
      simp only [listed, if_true]
      exact hasSite_add_eq ok _ k
    | false =>
      simp only [listed, Bool.false_eq_true, if_false]
      exact hasSite_drop_eq _ _ k

/-- What a JOIN or a LEAVE leaves of its sender's entry (R120). -/
def SiteEntry.changed (s : State) (hdr : Header) (e : SiteEntry) : SiteEntry :=
  { e with
    lastSequence := some (hdr.tag.setWidth 8)
    ageTimer := e.ageTimer.or (some (s.after (3 * e.announcedPeriod.getD s.active.refreshPeriod * 1000))) }

/-- A sequence is fresh: the first from its site, or newer than the last (R120). -/
def SiteEntry.fresh (hdr : Header) (e : SiteEntry) : Prop :=
  ∀ q, e.lastSequence = some q → 1 ≤ (hdr.tag.setWidth 8 - q).toNat ∧ (hdr.tag.setWidth 8 - q).toNat ≤ 127

theorem fresh_iff (hdr : Header) (e : SiteEntry) : e.lastSequence.all (newer (hdr.tag.setWidth 8)) = true ↔ e.fresh hdr := by
  unfold SiteEntry.fresh
  cases e.lastSequence with
  | none => simp
  | some q => simp [newer]

theorem takeChange_stale {change : SiteSet → SiteId → SiteSet} (away : hdr.origin.toNat ≠ s.own)
    (h : findSite hdr.origin.toNat s.sites = some e) (old : ¬e.fresh hdr) : takeChange change hdr s = s.count .staleNotices := by
  rw [← fresh_iff] at old
  simp only [takeChange, senderEntry_some away h, old, Bool.false_eq_true, if_false]

theorem takeChange_leaves {change : SiteSet → SiteId → SiteSet} {here : Bool} (away : hdr.origin.toNat ≠ s.own)
    (h : findSite hdr.origin.toNat s.sites = some e) (fresh : e.fresh hdr)
    (changes : ∀ set k, hasSite (change set hdr.origin.toNat) k = if k = hdr.origin.toNat then here else hasSite set k) :
    takeChange change hdr s
        = { s with sites := (takeChange change hdr s).sites, talkgroups := (takeChange change hdr s).talkgroups }
      ∧ (∀ k, findSite k (takeChange change hdr s).sites
        = if k = hdr.origin.toNat then some (e.changed s hdr) else findSite k s.sites)
      ∧ writesSite s hdr.origin.toNat
        (fun g => if g.id = hdr.talkgroup.toNat then here else hasSite g.remote hdr.origin.toNat)
        (takeChange change hdr s) := by
  have site := site_of_findSite h
  have taken := (fresh_iff hdr e).mpr fresh
  simp only [takeChange, senderEntry_some away h, taken, if_true]
  refine ⟨trivial, fun k => ?_, fun g => if g.id = hdr.talkgroup.toNat then change g.remote hdr.origin.toNat else g.remote,
    ?_, fun g k => ?_⟩
  · rw [site, findSite_modSite _ (by intro; rfl), h, Option.map_some, SiteEntry.changed]
    cases e.ageTimer <;> rfl
  · rw [site, modTalkgroup_eq]
    refine List.map_congr_left fun g _ => ?_
    by_cases named : g.id = hdr.talkgroup.toNat <;> simp only [named, if_true, if_false]
  · by_cases named : g.id = hdr.talkgroup.toNat
    · simp only [named, if_true]
      exact changes _ k
    · by_cases same : k = hdr.origin.toNat <;> simp [named, same]

/-- What a notice that is handled leaves, its frame's buffer let go. -/
theorem notice_leaves (h : m = { s.taken p with io := m.io, sites := m.sites, talkgroups := m.talkgroups })
    (ports : m.io.ports = (takenAt p s.io).ports) (y : Handle) :
    s.tookHanded p (m.onIo fun c => dropReference c y) ∧ s.sameButMembership (m.onIo fun c => dropReference c y) := by
  refine ⟨tookHanded_of_ports y fun q => ?_, ?_⟩
  · rw [ports]
    exact ⟨rfl, rfl⟩
  · unfold State.sameButMembership
    rw [h]
    rfl

theorem takeFull_frame (hdr : Header) (payload : List Byte) (s : State) :
    takeFull hdr payload s
        = { s with
            io := (takeFull hdr payload s).io
            sites := (takeFull hdr payload s).sites
            talkgroups := (takeFull hdr payload s).talkgroups }
      ∧ (takeFull hdr payload s).io.ports = s.io.ports := by
  unfold takeFull
  split <;> exact ⟨rfl, rfl⟩

theorem takeChange_frame (change : SiteSet → SiteId → SiteSet) (hdr : Header) (s : State) :
    takeChange change hdr s
        = { s with
            io := (takeChange change hdr s).io
            sites := (takeChange change hdr s).sites
            talkgroups := (takeChange change hdr s).talkgroups }
      ∧ (takeChange change hdr s).io.ports = s.io.ports := by
  unfold takeChange
  split
  · exact ⟨rfl, rfl⟩
  · split <;> exact ⟨rfl, rfl⟩

theorem takeFull_unknown {payload : List Byte} (h : hdr.origin.toNat = s.own ∨ findSite hdr.origin.toNat s.sites = none) :
    takeFull hdr payload s = s.count .staleNotices := by
  simp only [takeFull, senderEntry_none h]

theorem takeChange_unknown {change : SiteSet → SiteId → SiteSet}
    (h : hdr.origin.toNat = s.own ∨ findSite hdr.origin.toNat s.sites = none) :
    takeChange change hdr s = s.count .staleNotices := by
  simp only [takeChange, senderEntry_none h]

/-- A JOIN or a LEAVE, whichever it is (R118, R120). -/
theorem change_ends {change : SiteSet → SiteId → SiteSet} {here : Bool} (law : s.counterLaw) (y : Handle)
    (changes : siteIdOk hdr.origin.toNat = true → ∀ set k,
      hasSite (change set hdr.origin.toNat) k = if k = hdr.origin.toNat then here else hasSite set k) :
    let t := (takeChange change hdr (s.taken p)).onIo fun c => dropReference c y
    (s.tookHanded p t ∧ s.sameButMembership t)
      ∧ (hdr.origin.toNat = s.own ∨ findSite hdr.origin.toNat s.sites = none → s.sameButIo t ∧ s.raised .staleNotices t)
      ∧ ∀ e, hdr.origin.toNat ≠ s.own → findSite hdr.origin.toNat s.sites = some e → siteIdOk hdr.origin.toNat = true →
        (¬e.fresh hdr → s.sameButIo t ∧ s.raised .staleNotices t)
          ∧ (e.fresh hdr →
            (∀ k, findSite k t.sites = if k = hdr.origin.toNat then some (e.changed s hdr) else findSite k s.sites)
              ∧ writesSite s hdr.origin.toNat
                (fun g => if g.id = hdr.talkgroup.toNat then here else hasSite g.remote hdr.origin.toNat) t) := by
  intro t
  obtain ⟨frame, ports⟩ := takeChange_frame change hdr (s.taken p)
  refine ⟨notice_leaves frame ports y, fun h => staleNotice_leaves law (takeChange_unknown (s := s.taken p) h) y,
    fun e away found ok => ⟨fun old => staleNotice_leaves law (takeChange_stale (s := s.taken p) away found old) y,
      fun fresh => ?_⟩⟩
  obtain ⟨-, sites, writes⟩ := takeChange_leaves (s := s.taken p) away found fresh (changes ok)
  exact ⟨sites, writes⟩

/-! ## The timers (R115, R121) -/

theorem expireAge_due {d : Nat} (h : findSite n s.sites = some e) (he : e.ageTimer = some d) (due : d ≤ s.timeBase.toNat) :
    expireAge n s
      = { s with
          talkgroups := s.talkgroups.map fun g => { g with remote := dropSite g.remote n }
          sites := modSite n (fun x => { x with lastSequence := none, ageTimer := none }) s.sites } := by
  have elapsed : s.due e.ageTimer = true := by simpa [he, State.due, State.elapsed] using due
  simp only [expireAge, h, elapsed, if_true]
  rfl

theorem expireRefresh_due {d : Nat} (h : s.refreshTimer = some d) (due : d ≤ s.timeBase.toNat) :
    expireRefresh s = startRefresh (fullRound s) := by
  have elapsed : s.due s.refreshTimer = true := by simpa [h, State.due, State.elapsed] using due
  simp only [expireRefresh, elapsed, if_true]

/-- The header of a FULL notice (R116). -/
def fullHeader (s : State) : Header :=
  { Header.blank .membershipNotice with subcode := 3, tag := (s.ownSequence + 1).setWidth 16 }

theorem fullRound_eq (s : State) :
    fullRound s
      = { s with
          io := sendToSites s.net (fullHeader s) (fullPayload s) s.net.routedSites s.io
          ownSequence := s.ownSequence + 1 } := rfl

theorem Issues.fullRound {y : Handle} (s : State) :
    Issues y 1 s.sites.length (sitesClaims s.net (fullHeader s) (fullPayload s) s.net.routedSites) s
      (Machine.fullRound s) :=
  ((toSites (fullHeader s) (fullPayload s) (advanceSequence s) (routedSites_routed s.net)).mono
    (le_refl 1) (length_routedSites s) fun _ hf => hf).start rfl rfl

/-- A notice for one site alone, whether or not another is pending (R114, R116). -/
theorem sendToSites_single {c : Net} {io : Io} {j : LinkNo} {h : Handle} {rest : List Handle} (payload : List Byte)
    (priority : hdr.frameClass = .priority) (route : c.route n = some j) (hf : io.pool.free = h :: rest)
    (waits : io.ports[(linkPort j).val].sending.isSome = true ∧ io.ports[(linkPort j).val].queue.length < 64) :
    (sendToSites c hdr payload [n] io).ports[(linkPort j).val].queue
        = insertEntry { handle := h, cls := .priority, hop := c.active.hopLimit, addressing := .destination n }
            io.ports[(linkPort j).val].queue
      ∧ bytesOf h (sendToSites c hdr payload [n] io) = frameBytes (c.fromOwn hdr) payload := by
  obtain ⟨sent, buffer⟩ := sendBuilt_waits (c := c) (hdr := c.fromOwn hdr) (p := linkPort j)
    (e := { handle := h, cls := .priority, hop := c.active.hopLimit, addressing := .destination n })
    (place := fun h => placeForSites c hdr.frameClass h [n]) payload none hf (.inl priority) rfl
    (fun io => by
      show placeForSite c hdr.frameClass h n io = _
      simp only [placeForSite, placeForSiteWith, route, priority]
      rfl) waits
  have whole : sendToSites c hdr payload [n] io
      = sendBuilt c (c.fromOwn hdr) payload none (fun h => placeForSites c hdr.frameClass h [n]) io := rfl
  rw [whole]
  refine ⟨?_, by rw [bytesOf, buffer]⟩
  rw [sent]
  exact (putEntry_queue (linkPort j)).trans (if_pos rfl)

/-! ## The reports (R113, R114) -/

/-- What an entry or an exit report leaves. -/
structure Reported (s : State) (g : TalkgroupId) (change : Nat → Nat) (first : Bool) (subcode : Byte) (t : State) : Prop where
  frame : t = { s with io := t.io, talkgroups := t.talkgroups, ownSequence := t.ownSequence }
  talkgroups : t.talkgroups = s.talkgroups.map fun k => if k.id = g then { k with members := change k.members } else k
  sequence : t.ownSequence = if first then s.ownSequence + 1 else s.ownSequence
  quiet : first = false ∨ s.net.routedSites = [] → t.io = s.io
  noticed : first = true → s.roomFor 1 s.sites.length →
    s.noticed s.net (membershipHeader subcode g (advanceSequence s)) [] s.net.routedSites t

theorem sendMembership_silent (h : s.net.routedSites = []) (subcode : Byte) (g : TalkgroupId) :
    (sendMembership subcode g s).io = s.io := by
  show sendToSites s.net _ [] s.net.routedSites s.io = _
  rw [h]
  rfl

theorem noticed_of_claims {hdr : Header} {payload : List Byte} {claims : List Claim} (priority : hdr.frameClass = .priority)
    (issued : Issues 0 1 s.sites.length claims s t)
    (mem : s.net.routedSites ≠ [] → Claim.forSites s.net hdr payload s.net.routedSites ∈ claims)
    (room : s.roomFor 1 s.sites.length) : s.noticed s.net hdr payload s.net.routedSites t :=
  noticed_of_stands priority fun some => issued.standsAlone (mem some) room (le_refl 1) (le_refl _)

theorem memberEntry_reported {g : TalkgroupId} {e : TalkgroupEntry} (found : findTalkgroup g s.talkgroups = some e) :
    Reported s g (· + 1) (decide (e.members = 0)) 1 (memberEntry g s) := by
  refine ⟨?_, ?_, ?_, fun quiet => ?_, fun first room => noticed_of_claims rfl (Issues.memberEntry found) (fun some => ?_) room⟩
  · rw [memberEntry_frame]
  · rw [memberEntry_frame]
  · simpa using memberEntry_sequence found
  · rcases quiet with more | silent
    · refine memberEntry_io fun e' found' => ?_
      obtain rfl := Option.some.inj (found.symm.trans found')
      simpa using more
    · simp only [memberEntry, found]
      split
      · exact sendMembership_silent silent _ _
      · rfl
  · rw [if_pos (by simpa using first), sitesClaims, if_neg some]
    exact List.mem_singleton.mpr rfl

theorem memberExit_reported {g : TalkgroupId} {e : TalkgroupEntry} (found : findTalkgroup g s.talkgroups = some e) :
    Reported s g (· - 1) (decide (e.members = 1)) 2 (memberExit g s) := by
  refine ⟨?_, ?_, ?_, fun quiet => ?_, fun first room => noticed_of_claims rfl (Issues.memberExit found) (fun some => ?_) room⟩
  · rw [memberExit_frame]
  · rw [memberExit_frame]
  · simpa using memberExit_sequence found
  · rcases quiet with more | silent
    · refine memberExit_io fun e' found' => ?_
      obtain rfl := Option.some.inj (found.symm.trans found')
      simpa using more
    · simp only [memberExit, found]
      split
      · exact sendMembership_silent silent _ _
      · rfl
  · rw [if_pos (by simpa using first), sitesClaims, if_neg some]
    exact List.mem_singleton.mpr rfl

end Sys2Proof.Machine

open Sys2Proof Sys2Proof.Machine

/-- Settles O45: the three notices, the two timers, and the two reports. -/
theorem membershipFollowsNotices : Obligations.MembershipFollowsNotices := by
  refine ⟨?_, fun s => ⟨fun n e d found hd due => ?_, fun d hd due => ?_⟩, fun g e s found => ⟨?_, ?_⟩⟩
  · intro l x kind s holds code law hdr payload n seq period
    have split : kind = 0 ∨ kind = 1 ∨ kind = 2 := by omega
    rcases split with rfl | rfl | rfl
    · have code' : hdr.subcode = 1#8 := BitVec.eq_of_toNat_eq code
      obtain ⟨⟨taken, same⟩, unknown, known⟩ := change_ends (s := s) (p := linkPort l) (hdr := hdr) (change := addSite)
        (here := true) law x.handle fun ok set k => hasSite_add_eq ok set k
      refine ⟨_, congrArg Host.Outcome.next (ownNotice_next (fun _ hdr _ => takeChange addSite hdr) holds code'),
        taken, same, unknown, fun e away found ok => ?_⟩
      obtain ⟨stale, fresh⟩ := known e away found ok
      refine ⟨fun _ => stale, fun h => ?_⟩
      obtain ⟨sites, f, talkgroups, writes⟩ := fresh (h.resolve_left (by decide))
      exact ⟨fun k hk => (sites k).trans (if_neg hk), (sites n).trans (if_pos rfl), f, talkgroups, writes⟩
    · have code' : hdr.subcode = 2#8 := BitVec.eq_of_toNat_eq code
      obtain ⟨⟨taken, same⟩, unknown, known⟩ := change_ends (s := s) (p := linkPort l) (hdr := hdr) (change := dropSite)
        (here := false) law x.handle fun _ set k => hasSite_drop_eq set n k
      refine ⟨_, congrArg Host.Outcome.next (ownNotice_next (fun _ hdr _ => takeChange dropSite hdr) holds code'),
        taken, same, unknown, fun e away found ok => ?_⟩
      obtain ⟨stale, fresh⟩ := known e away found ok
      refine ⟨fun _ => stale, fun h => ?_⟩
      obtain ⟨sites, f, talkgroups, writes⟩ := fresh (h.resolve_left (by decide))
      exact ⟨fun k hk => (sites k).trans (if_neg hk), (sites n).trans (if_pos rfl), f, talkgroups, writes⟩
    · have code' : hdr.subcode = 3#8 := BitVec.eq_of_toNat_eq code
      obtain ⟨frame, ports⟩ := takeFull_frame hdr payload (s.taken (linkPort l))
      obtain ⟨taken, same⟩ := notice_leaves frame ports x.handle
      refine ⟨_, congrArg Host.Outcome.next (ownNotice_next (fun _ hdr payload => takeFull hdr payload) holds code'),
        taken, same, fun h => staleNotice_leaves law (takeFull_unknown (s := s.taken (linkPort l)) h) x.handle,
        fun e away found ok => ⟨fun h => absurd rfl h, fun _ => ?_⟩⟩
      obtain ⟨-, sites, f, talkgroups, writes⟩ := takeFull_leaves (s := s.taken (linkPort l)) (payload := payload) away found ok
      exact ⟨fun k hk => (sites k).trans (if_neg hk), (sites n).trans (if_pos rfl), f, talkgroups, writes⟩
  · refine ⟨_, congrArg Host.Outcome.next (expireAge_due found hd due), rfl, fun k hk => ?_, ?_,
      fun g => dropSite g.remote n, rfl, fun g k => ?_⟩
    · exact (findSite_modSite (fun x => { x with lastSequence := none, ageTimer := none }) (fun _ => rfl) n k s.sites).trans
        (if_neg hk)
    · refine (findSite_modSite (fun x => { x with lastSequence := none, ageTimer := none }) (fun _ => rfl) n n s.sites).trans
        ((if_pos rfl).trans ?_)
      rw [found]
      rfl
    · rw [hasSite_drop_eq]
      by_cases same : k = n <;> simp [same]
  · refine ⟨_, congrArg Host.Outcome.next (expireRefresh_due hd due), rfl, fun q => ?_, rfl, rfl, fun silent => ?_,
      fun room => ?_, fun n j k rest only route hf _ waits => ?_⟩
    · exact sameIntake_of_acts (Acts.fullRound s) q
    · show sendToSites s.net (fullHeader s) (fullPayload s) s.net.routedSites s.io = _
      rw [silent]
      rfl
    · refine noticed_of_claims (t := startRefresh (fullRound s)) (hdr := fullHeader s) (payload := fullPayload s) rfl
        ((Issues.fullRound s).congr rfl rfl) (fun some => ?_) room
      rw [sitesClaims, if_neg some]
      exact List.mem_singleton.mpr rfl
    · have sent := sendToSites_single (hdr := fullHeader s) (fullPayload s) rfl route hf waits
      rw [← only] at sent
      exact sent
  · obtain ⟨frame, talkgroups, sequence, quiet, noticed⟩ := memberEntry_reported found
    exact ⟨frame, talkgroups, by simpa using sequence, fun h => quiet (h.imp (by simp) id), fun h => noticed (by simp [h])⟩
  · obtain ⟨frame, talkgroups, sequence, quiet, noticed⟩ := memberExit_reported found
    exact ⟨frame, talkgroups, by simpa using sequence, fun h => quiet (h.imp (by simp) id), fun h => noticed (by simp [h])⟩
end

section
/-! PROOFS. Replies (R37, R155): where a reply can be built and queued it stands, whole, at the port it leaves by, and it
changes nothing but frames. -/

namespace Sys2Proof.Machine

variable {s t : State} {q : Request} {rest : List Request} {io : Io} {k : Handle} {p : PortNo} {e : Entry}

/-! ## An entry placed with room, the transmitter busy or not (R13, R41, R45) -/

/-- A buffer stands at a port: an entry of its queue names it, or it is being sent there. -/
def standsAt (p : PortNo) (k : Handle) (bytes : List Byte) (io : Io) : Prop :=
  (∃ e ∈ io.ports[p.val].queue, e.handle = k)
    ∨ ∃ x, io.ports[p.val].sending = some x ∧ x.entry.handle = k ∧ x.frame = wireFrame bytes x.entry

theorem standsAt_of_ports {bytes : List Byte} {io' : Io} (ports : io'.ports = io.ports) :
    standsAt p k bytes io' ↔ standsAt p k bytes io := by
  unfold standsAt
  rw [ports]

/-- With room, an entry joins the queue, and is sent at once when it is alone at an IDLE port. -/
theorem placeEntry_withRoom (c : Net) (room : io.ports[p.val].queue.length < 64) :
    placeEntry c p e io = putEntry p e io
      ∨ (io.ports[p.val].queue = [] ∧ io.ports[p.val].sending = none
        ∧ placeEntry c p e io = startTransmission p (putEntry p e io)) := by
  cases queue : io.ports[p.val].queue with
  | cons x l =>
    refine .inl ?_
    have hl : (x :: l).length < 64 := queue ▸ room
    simp only [placeEntry, placeEntryWith, queue, Config.queueCapacity, if_pos hl, placeWithRoom, putEntry,
      List.isEmpty_cons, Bool.false_and, Bool.false_eq_true, if_false]
  | nil =>
    cases sending : io.ports[p.val].sending with
    | none => exact .inr ⟨rfl, rfl, placeEntry_idle c queue sending⟩
    | some y => exact .inl (placeEntry_room c room (by rw [sending]; rfl))

theorem mem_insertEntry_self (e : Entry) (l : List Entry) : e ∈ insertEntry e l := by
  unfold insertEntry
  split <;> simp

/-- A buffer that stands at a port, with everything beside the pool and the ports as it was. -/
structure StandsIn (p : PortNo) (b : Buffer) (io io' : Io) : Prop where
  stands : standsAt p b.handle b.bytes io'
  buffer : bufferOf b.handle io' = some b
  live : io'.live = io.live
  restart : io'.restart = io.restart
  notice : io'.pool.noticePending = io.pool.noticePending

/-- An entry placed with room stands at its port and has taken its reference. -/
theorem placeEntry_standsIn (c : Net) {b : Buffer} (room : io.ports[p.val].queue.length < 64)
    (hb : bufferOf b.handle io = some b) (same : b.handle = e.handle) :
    StandsIn p { b with refs := b.refs + 1 } io (placeEntry c p e io) := by
  have buffer : bufferOf b.handle (putEntry p e io) = some { b with refs := b.refs + 1 } := by
    rw [putEntry_buffer, if_pos same, hb]
    rfl
  rcases placeEntry_withRoom (e := e) c room with put | ⟨empty, idle, put⟩
  · rw [put]
    refine ⟨.inl ⟨e, ?_, same.symm⟩, buffer, rfl, rfl, rfl⟩
    rw [putEntry_queue, if_pos rfl]
    exact mem_insertEntry_self e _
  · rw [put]
    obtain ⟨pool, live, restart⟩ := startTransmission_rest (p := p) (putEntry p e io)
    refine ⟨.inr ⟨{ entry := e, frame := wireFrame b.bytes e }, ?_, same.symm, rfl⟩, ?_, live, restart, by rw [pool]; rfl⟩
    · have queue : (putEntry p e io).ports[p.val].queue = [e] := by
        rw [putEntry_queue, if_pos rfl, empty]
        unfold insertEntry
        split <;> rfl
      have bytes : bytesOf e.handle (putEntry p e io) = b.bytes := by rw [bytesOf, ← same, buffer]
      simp only [startTransmission, queue, bytes, port_modPort, if_true]
    · unfold bufferOf at buffer ⊢
      rw [pool]
      exact buffer

/-! ## A reply -/

/-- A reply in its buffer is placed at its port and let go (R37). -/
theorem placeReply_standsIn {bytes : List Byte} {done : Option Completion} (can : s.canReply q k) {io : Io}
    (ports : io.ports = s.io.ports)
    (hb : bufferOf k io = some { handle := k, refs := 1, bytes := bytes, completion := done }) :
    StandsIn (s.replyPort q) { handle := k, refs := 1, bytes := bytes, completion := done } io
      (dropReference s.net k (placeReply s.net q.link k q.origin io)) := by
  obtain ⟨-, room, away⟩ := can
  have room' : io.ports[(s.replyPort q).val].queue.length < 64 := by rw [ports]; exact room
  obtain ⟨stands, buffer, live, restart, notice⟩ := placeEntry_standsIn s.net room' (b := ⟨k, 1, bytes, done⟩)
    (e := { handle := k, cls := .priority, hop := s.net.active.hopLimit, addressing := .destination q.origin }) hb rfl
  have placed : placeReply s.net q.link k q.origin io
      = placeEntry s.net (s.replyPort q)
          { handle := k, cls := .priority, hop := s.net.active.hopLimit, addressing := .destination q.origin } io := by
    unfold placeReply
    rw [if_neg (by exact away)]
    rfl
  rw [placed, dropReference_many s.net buffer (le_refl 2)]
  refine ⟨stands, ?_, live, restart, notice⟩
  rw [bufferOf_modBuffer _ _ (fun b => { b with refs := b.refs - 1 }) (fun _ => rfl), if_pos rfl, buffer]
  rfl

/-- A reply that can be built and queued stands at its port. -/
theorem sendReply_standsIn (r : Reply) (done : Option Completion) (can : s.canReply q k) :
    StandsIn (s.replyPort q)
      { handle := k, refs := 1, bytes := frameBytes (replyHeader q s) r.payload, completion := done } s.io
      (sendReply q r done s).io := by
  obtain ⟨rest, free⟩ := can.1
  have built := builtIn_buffer (io := s.io) (k := k) s.net.active.bufferReserve rest
    (frameBytes (replyHeader q s) r.payload) done k
  have sent : (sendReply q r done s).io = _ :=
    sendBuilt_granted (hdr := replyHeader q s) r.payload done (fun h => placeReply s.net q.link h q.origin) free (.inl rfl)
  rw [sent]
  have placed := placeReply_standsIn can (io := builtIn s.net.active.bufferReserve k rest _ done s.io) rfl
    (built.trans (if_pos rfl))
  exact ⟨placed.stands, placed.buffer, placed.live, placed.restart, placed.notice⟩

/-- What stands at a port is carried there. -/
theorem StandsIn.carries {b : Buffer} (h : StandsIn p b io t.io) : t.carries p b.handle b.bytes :=
  ⟨by rw [bytesOf, h.buffer], h.stands⟩

/-- A reply changes frames alone. -/
theorem sendReply_frame (q : Request) (r : Reply) (done : Option Completion) (s : State) :
    sendReply q r done s = { s with io := (sendReply q r done s).io } := rfl

theorem sendReply_sameIntake (q : Request) (r : Reply) (done : Option Completion) (s : State) :
    s.sameIntake (sendReply q r done s) := sameIntake_of_acts (.sendReply q r done s)

/-! ## Restarts -/

theorem answerRestart_none (hr : io.restart = .none) : (answerRestart io).restart = .none := by
  simp [answerRestart, hr]

theorem answerUnsent_none (d : Option Completion) (hr : io.restart = .none) : (answerUnsent d io).restart = .none := by
  unfold answerUnsent
  split
  · exact hr
  · exact answerRestart_none hr
  · exact hr

/-- Handling frames makes no restart pending (R25, R163). -/
theorem restart_of_moves {P : Prop} {a b : Io} (moves : Moves P a b) (hr : a.restart = .none) : b.restart = .none := by
  induction moves with
  | refl => exact hr
  | trans _ _ ih ih' => exact ih' (ih hr)
  | bump | write | take | flags | insert | displace | flush | engine => exact hr
  | release reserve b io _ => exact answerUnsent_none b.completion hr
  | start p io =>
    rw [(startTransmission_rest (p := p) io).2.2]
    exact hr
  | answer io => exact answerRestart_none hr

theorem sendReply_restart (q : Request) (r : Reply) (done : Option Completion) (hr : s.io.restart = .none) :
    (sendReply q r done s).io.restart = .none :=
  restart_of_moves (P := False)
    (.sendBuilt False.elim _ _ _ _ (fun _ _ => .placeReply False.elim _ _ _ _) _) hr

/-! ## Requests carried out whole -/

/-- A request that has been answered: its reply is carried where it can be queued, and nothing else has happened since
the state its effects left. -/
structure Replies (q : Request) (rest : List Request) (bytes : List Byte) (m t : State) : Prop where
  frame : t = { m with io := t.io, requests := rest }
  intake : m.sameIntake t
  reply : ∀ k, m.canReply q k → t.carries (m.replyPort q) k (frameBytes (replyHeader q m) bytes)
  live : ∀ k, m.canReply q k → t.io.live = m.io.live
  restart : m.io.restart = .none → t.io.restart = .none

theorem replies_sendReply (q : Request) (rest : List Request) (r : Reply) (m : State) :
    Replies q rest r.payload m { sendReply q r none m with requests := rest } :=
  ⟨rfl, sendReply_sameIntake q r none m, fun _ can => (sendReply_standsIn r none can).carries,
    fun _ can => (sendReply_standsIn r none can).live, sendReply_restart q r none⟩

/-- A served request of a fixed size (R155). -/
theorem serveHead_sized {code : Byte} {isCode : Byte → Bool} (n : Nat) (f : Request → State → Reply × State)
    (h : s.serves q rest code) (hc : isCode code = true) :
    ∃ m r, serveHead isCode (answer (sized n f)) s = { sendReply q r none m with requests := rest }
      ∧ (q.fields.length = n → (r, m) = f q s) ∧ (q.fields.length ≠ n → r = Reply.badValue ∧ m = s) := by
  refine ⟨(sized n f q s).2, (sized n f q s).1, serveHead_of_serves _ h hc, fun len => ?_, fun len => ?_⟩
  · rw [sized, if_pos len]
  · rw [sized, if_neg len]
    exact ⟨rfl, rfl⟩

/-- A served request of another size is answered BAD VALUE. -/
theorem serveHead_missized {code : Byte} {isCode : Byte → Bool} {n : Nat} (f : Request → State → Reply × State)
    (h : s.serves q rest code) (hc : isCode code = true) (len : q.fields.length ≠ n) :
    Replies q rest [4, 0, 0, 0] s (serveHead isCode (answer (sized n f)) s) := by
  obtain ⟨m, r, served, -, bad⟩ := serveHead_sized n f h hc
  obtain ⟨rfl, rfl⟩ := bad len
  rw [served]
  exact replies_sendReply q rest Reply.badValue m

/-- A served request that reads. -/
theorem serveHead_reads {code : Byte} {isCode : Byte → Bool} (n : Nat) (f : Request → State → Reply)
    (h : s.serves q rest code) (hc : isCode code = true) :
    Replies q rest (if q.fields.length = n then f q s else Reply.badValue).payload s
      (serveHead isCode (answer (sized n fun q s => (f q s, s))) s) := by
  obtain ⟨m, r, served, good, bad⟩ := serveHead_sized n (fun q s => (f q s, s)) h hc
  rw [served]
  by_cases len : q.fields.length = n
  · obtain ⟨rfl, rfl⟩ := Prod.mk.inj (good len)
    rw [if_pos len]
    exact replies_sendReply q rest _ m
  · obtain ⟨rfl, rfl⟩ := bad len
    rw [if_neg len]
    exact replies_sendReply q rest _ m

/-! ## COLLECT COUNTERS (R162) -/

theorem getD_zipWith {f : Nat → Nat → Nat} {a b : List Nat} {i : Nat} (ha : i < a.length) (hb : i < b.length) :
    (List.zipWith f a b).getD i 0 = f (a.getD i 0) (b.getD i 0) := by
  simp [List.getD_eq_getElem?_getD, ha, hb]

theorem collect_snapshot (hs : s.counterLaw) {i : Nat} (hi : i < 158) :
    (collect s).snapshot.getD i 0
      = min 65535 ((if s.snapshotRead then 0 else s.snapshot.getD i 0) + s.counter i) := by
  obtain ⟨⟨live, -⟩, ⟨old, -⟩, -⟩ := hs
  have zero : zeroCounters.length = 158 := rfl
  have none : zeroCounters.getD i 0 = 0 := by
    rw [List.getD_eq_getElem?_getD, zeroCounters, List.getElem?_replicate, if_pos (by exact hi)]
    rfl
  have sum (a : List Nat) (ha : a.length = 158) :
      (List.zipWith (fun a b => saturate (a + b)) a s.io.live).getD i 0 = min 65535 (a.getD i 0 + s.counter i) :=
    (getD_zipWith (by omega) (by omega)).trans (Nat.min_comm _ _)
  cases read : s.snapshotRead with
  | true =>
    have collected : (collect s).snapshot = List.zipWith (fun a b => saturate (a + b)) zeroCounters s.io.live := by
      simp only [collect, read, if_true]
    rw [collected, sum _ zero, none]
    rfl
  | false =>
    have collected : (collect s).snapshot = List.zipWith (fun a b => saturate (a + b)) s.snapshot s.io.live := by
      simp only [collect, read, Bool.false_eq_true, if_false]
    rw [collected, sum _ old]
    rfl

/-! ## READ COUNTERS (R162) -/

/-- The reply carries up to 114 counters, and counter 157 is among them from start 44 on. -/
theorem readCountersRequest_of_start {b : Byte} (hs : s.counterLaw) (one : q.fields = [b]) (small : b.toNat ≤ 157) :
    readCountersRequest q s
      = (Reply.doneLeaving (44 - b.toNat)
            (beBytes 2 s.mergeCount ++ ((s.snapshot.drop b.toNat).take 114).flatMap (beBytes 2)),
          { s with snapshotRead := s.snapshotRead || decide (44 ≤ b.toNat ∧ b.toNat ≤ 157) }) := by
  obtain ⟨-, ⟨old, -⟩, -⟩ := hs
  have start : (byteAt q.fields 0).toNat = b.toNat := by rw [one]; rfl
  have length : (s.snapshot.drop b.toNat).length = 158 - b.toNat := by rw [List.length_drop, old]
  have left : 158 - b.toNat - 114 = 44 - b.toNat := by omega
  have known : b.toNat < Config.counterCount := show b.toNat < 158 by omega
  simp only [readCountersRequest, start, known, if_true, length, left]
  by_cases last : 44 ≤ b.toNat
  · have few : 158 - b.toNat ≤ 114 := by omega
    simp only [few, last, small, and_self, decide_true, Bool.or_true, if_true]
  · have many : ¬158 - b.toNat ≤ 114 := by omega
    simp only [many, last, false_and, decide_false, Bool.or_false, if_false]

theorem readCountersRequest_of_beyond {b : Byte} (one : q.fields = [b]) (large : ¬b.toNat ≤ 157) :
    readCountersRequest q s = (Reply.badValue, s) := by
  have start : (byteAt q.fields 0).toNat = b.toNat := by rw [one]; rfl
  have unknown : ¬b.toNat < Config.counterCount := show ¬b.toNat < 158 by omega
  simp only [readCountersRequest, start, unknown, if_false]

end Sys2Proof.Machine

open Sys2Proof Sys2Proof.Machine

/-- Settles O59: both requests are answered whole; the snapshot is summed counter by counter. -/
theorem snapshotCollectsAndReads : Obligations.SnapshotCollectsAndReads := by
  intro q rest s law
  refine ⟨fun serves none => ?_, fun b serves one => ?_⟩
  · obtain ⟨m, r, served, good, -⟩ := serveHead_sized 0 (fun _ s => (Reply.done [], collect s)) serves
      (isCode := fun c => c == 13) rfl
    obtain ⟨rfl, rfl⟩ := Prod.mk.inj (good (by rw [none]; rfl))
    have done := replies_sendReply q rest (Reply.done []) (collect s)
    refine ⟨_, congrArg Host.Outcome.next served, done.intake, rfl, ?_, fun i hi => collect_snapshot law hi,
      fun k can => ⟨fun i => ?_, done.reply k can⟩⟩
    · show (if s.snapshotRead then 0 else saturate (s.mergeCount + 1)) = _
      split
      · rfl
      · exact Nat.min_comm _ _
    · show ((sendReply q (Reply.done []) .none (collect s)).io.live).getD i 0 = 0
      rw [show (sendReply q (Reply.done []) .none (collect s)).io.live = (collect s).io.live from done.live k can]
      show zeroCounters.getD i 0 = 0
      rw [List.getD_eq_getElem?_getD, zeroCounters, List.getElem?_replicate]
      split <;> rfl
  · obtain ⟨m, r, served, good, -⟩ := serveHead_sized 1 readCountersRequest serves (isCode := fun c => c == 14) rfl
    have read := good (by rw [one]; rfl)
    by_cases small : b.toNat ≤ 157
    · rw [readCountersRequest_of_start law one small] at read
      obtain ⟨rfl, rfl⟩ := Prod.mk.inj read
      have done := replies_sendReply q rest
        (Reply.doneLeaving (44 - b.toNat)
          (beBytes 2 s.mergeCount ++ ((s.snapshot.drop b.toNat).take 114).flatMap (beBytes 2)))
        { s with snapshotRead := s.snapshotRead || decide (44 ≤ b.toNat ∧ b.toNat ≤ 157) }
      refine ⟨_, congrArg Host.Outcome.next served, done.intake, rfl, fun k can => ?_⟩
      rw [if_pos small]
      exact done.reply k can
    · rw [readCountersRequest_of_beyond one small] at read
      obtain ⟨rfl, rfl⟩ := Prod.mk.inj read
      have done := replies_sendReply q rest Reply.badValue m
      refine ⟨_, congrArg Host.Outcome.next served, done.intake, ?_, fun k can => ?_⟩
      · simp only [small, and_false, decide_false, Bool.or_false]
        exact done.frame
      · rw [if_neg small]
        exact done.reply k can
end

section
/-! PROOFS. The reading requests (R155, R158, R160): the data of each, laid out field by field. -/

namespace Sys2Proof.Machine

variable {s : State} {q : Request} {rest : List Request}

/-! ## What each reading gives -/

theorem done_payload (data : List Byte) : (Reply.done data).payload = [0, 0, 0, 0] ++ data := by
  simp [Reply.payload, Reply.done, beBytes]

theorem identifyData_eq (s : State) :
    identifyData s
      = [0x45, 0x44, 0x36, 0x31, 0x30, 3, 1, 0, 64, 8, 32, 2, 0, 6, 4, BitVec.ofNat 8 s.own,
          if s.partState = .running then 1 else 0] ++ beBytes 2 s.restartCount := by
  unfold identifyData
  cases s.partState <;> rfl

/-- The four links, in ascending number. -/
theorem links_toList (s : State) : s.links.toList = [s.link 0, s.link 1, s.link 2, s.link 3] := by
  refine List.ext_getElem (by simp) fun i hi _ => ?_
  have : i < 4 := by simpa using hi
  match i, this with
  | 0, _ | 1, _ | 2, _ | 3, _ => simp [State.link]

theorem readParams_eq (len : q.fields.length = 1) :
    readParams q s
      = if q.fields = [0] then Reply.done (s.active.values.flatMap signedBytes)
        else if q.fields = [1] then Reply.done (s.staged.values.flatMap signedBytes)
        else Reply.badValue := by
  obtain ⟨b, one⟩ := List.length_eq_one_iff.mp len
  have first : byteAt q.fields 0 = b := by rw [one]; rfl
  simp only [readParams, first]
  simp only [one, List.cons.injEq, and_true]

/-- A record's summary (R155). -/
theorem unitSummary_eq (r : Record) :
    unitSummary r
      = [BitVec.ofNat 8 r.slot] ++ beBytes 3 r.unit ++ [BitVec.ofNat 8 r.phase.number] ++ beBytes 2 r.talkgroup
        ++ [channelByte r.phase.channel?, flagByte r.emergency] := by
  simp [unitSummary]

/-- A request that reads is answered with what it reads. -/
theorem reading {c : Instr} {code : Byte} {isCode : Byte → Bool} {n : Nat} {f : Request → State → Reply} {reply : Reply}
    (serves : s.serves q rest code) (hc : isCode code = true)
    (runs : exec c s = .next (serveHead isCode (answer (sized n fun q s => (f q s, s))) s))
    (gives : q.fields.length = n → f q s = reply) :
    ∃ t, exec c s = .next t ∧ t = { s with io := t.io, requests := rest } ∧ s.sameIntake t
      ∧ ∀ k, s.canReply q k →
          t.carries (s.replyPort q) k
            (frameBytes (replyHeader q s) (if q.fields.length = n then reply else Reply.badValue).payload) := by
  have done := serveHead_reads n f serves hc
  refine ⟨_, runs, done.frame, done.intake, fun k can => ?_⟩
  have same : (if q.fields.length = n then f q s else Reply.badValue)
      = if q.fields.length = n then reply else Reply.badValue := ite_congr rfl gives fun _ => rfl
  rw [← same]
  exact done.reply k can

/-- A request of another size is answered BAD VALUE. -/
theorem missized {c : Instr} {code : Byte} {isCode : Byte → Bool} {n : Nat} {f : Request → State → Reply × State}
    (serves : s.serves q rest code) (hc : isCode code = true)
    (runs : exec c s = .next (serveHead isCode (answer (sized n f)) s)) (len : q.fields.length ≠ n) :
    ∃ t, exec c s = .next t ∧ t = { s with io := t.io, requests := rest } ∧ t.io.restart = s.io.restart
      ∧ s.sameIntake t
      ∧ ∀ k, s.canReply q k → t.carries (s.replyPort q) k (frameBytes (replyHeader q s) [4, 0, 0, 0]) := by
  have done := serveHead_missized f serves hc len
  exact ⟨_, runs, done.frame, (done.restart serves.2.2).trans serves.2.2.symm, done.intake, done.reply⟩

end Sys2Proof.Machine

open Sys2Proof Sys2Proof.Machine

/-- Settles O54: each reading request is answered whole, and its data are the fields in the statement's order. -/
theorem readRequestsAnswered : Obligations.ReadRequestsAnswered := by
  intro q rest s byte flag start count channelOf summary candidate whole linkOf callOf channel talkgroup reads
  refine ⟨fun c code size reply mem serves => ?_, fun remaining data => ⟨done_payload data, rfl⟩, rfl, rfl,
    fun c code size mem serves len => ?_, fun unknown serves => ?_⟩
  · simp only [reads, List.mem_cons, List.not_mem_nil, or_false, Prod.mk.injEq] at mem
    rcases mem with ⟨rfl, rfl, rfl, rfl⟩ | ⟨rfl, rfl, rfl, rfl⟩ | ⟨rfl, rfl, rfl, rfl⟩ | ⟨rfl, rfl, rfl, rfl⟩
      | ⟨rfl, rfl, rfl, rfl⟩ | ⟨rfl, rfl, rfl, rfl⟩ | ⟨rfl, rfl, rfl, rfl⟩
    · exact reading serves (isCode := fun c => c == 1) rfl rfl fun _ => congrArg Reply.done (identifyData_eq s)
    · exact reading serves (isCode := fun c => c == 7) rfl rfl readParams_eq
    · refine reading serves (isCode := fun c => c == 8) rfl rfl fun _ => ?_
      have same : unitSummary = summary := funext unitSummary_eq
      simp only [readUnitsReply, same, Bool.and_eq_true, decide_eq_true_eq]
      rfl
    · refine reading serves (isCode := fun c => c == 9) rfl rfl fun _ => ?_
      have activity (a : Option Activity) :
          activityByte a = match a.map Activity.cls with
            | none => 255
            | some .active => 0
            | some .quiet => 1
            | some .dormant => 2 := by
        rcases a with _ | ⟨cls, _⟩
        · rfl
        · cases cls <;> rfl
      have slot : candidateBytes = candidate := funext fun o => by cases o <;> rfl
      have same : unitData = whole := funext fun r => by
        simp only [unitData, activity, slot, whole, channelOf]
        cases r.phase <;> rfl
      unfold readUnitReply
      rw [same]
      show (match s.record (fieldAt q.fields 0 3) with
        | none => _
        | some r => _) = _
      cases s.record (fieldAt q.fields 0 3) <;> rfl
    · refine reading serves (isCode := fun c => c == 10) rfl rfl fun _ => congrArg Reply.done ?_
      have same : linkData = linkOf := funext fun x => by
        simp only [linkData, linkOf]
        cases x.state <;> rfl
      rw [same]
      show s.links.toList.flatMap linkOf = ([s.link 0, s.link 1, s.link 2, s.link 3]).flatMap linkOf
      rw [links_toList]
    · refine reading serves (isCode := fun c => c == 11) rfl rfl fun _ => ?_
      have same : channelData = channel := funext fun x => by
        simp only [channelData, channel]
        cases x.phase <;>
          simp [ChannelPhase.number, ChannelPhase.call?, currentData, callData, callOf, beBytes, flag, byte, flagByte]
      unfold readChannelsReply
      rw [same]
    · refine reading serves (isCode := fun c => c == 12) rfl rfl fun _ => ?_
      have same : talkgroupData = talkgroup := funext fun g => by
        simp only [talkgroupData, talkgroup]
        cases g.cls <;> rfl
      unfold readTalkgroupsReply
      rw [same]
  · simp only [List.mem_cons, List.not_mem_nil, or_false, Prod.mk.injEq] at mem
    rcases mem with ⟨rfl, rfl, rfl⟩ | ⟨rfl, rfl, rfl⟩ | ⟨rfl, rfl, rfl⟩
    · exact missized serves (isCode := fun c => c == 13) rfl rfl len
    · exact missized serves (isCode := fun c => c == 14) rfl rfl len
    · have run : restartRequest q s = sendReply q Reply.badValue none s := by rw [restartRequest, if_neg len]
      have served := (serveHead_of_serves (isCode := fun c => c == 17) restartRequest serves rfl).trans
        (congrArg (fun m : State => { m with requests := rest }) run)
      have done := replies_sendReply q rest Reply.badValue s
      exact ⟨_, congrArg Host.Outcome.next served, done.frame, (done.restart serves.2.2).trans serves.2.2.symm,
        done.intake, done.reply⟩
  · have code : (!knownCode q.code) = true := by
      have outside : q.code.toNat = 0 ∨ 17 < q.code.toNat := unknown.imp_left fun zero => by rw [zero]; rfl
      simp only [knownCode, Bool.not_eq_true', Bool.and_eq_false_iff, decide_eq_false_iff_not]
      omega
    have done := replies_sendReply q rest Reply.refused s
    exact ⟨_, congrArg Host.Outcome.next (serveHead_of_serves _ serves code), done.frame, done.intake, done.reply⟩
end

section
/-! PROOFS. Taking requests and RESTART (R154, R155, R163). -/

namespace Sys2Proof.Machine

variable {s t : State} {q : Request} {rest : List Request} {io io' : Io} {k : Handle} {p : PortNo}

/-! ## The received request's buffer let go -/

theorem StandsIn.dropped {b : Buffer} (h : StandsIn p b io io') {x : Handle} (hx : b.handle ≠ x)
    (quiet : io.pool.noticePending = false) (c : Net) : standsAt p b.handle b.bytes (dropReference c x io')
      ∧ bufferOf b.handle (dropReference c x io') = some b := by
  have quiet' := h.notice.trans quiet
  exact ⟨(standsAt_of_ports (dropReference_ports_of_no_notice c x quiet')).mpr h.stands,
    (dropReference_other c quiet' hx).trans h.buffer⟩

theorem bytesOf_of_buffer {b : Buffer} (hb : bufferOf k io = some b) : bytesOf k io = b.bytes := by rw [bytesOf, hb]

theorem canReply_taken (can : s.canReply q k) : (s.taken p).canReply q k := by
  obtain ⟨free, room, away⟩ := can
  refine ⟨free, ?_, away⟩
  have queue : (s.taken p).queueOf (s.replyPort q) = s.queueOf (s.replyPort q) := takenAt_queue ..
  show ((s.taken p).queueOf (s.replyPort q)).length < 64
  rw [queue]
  exact room

/-! ## Taking a request (R154) -/

theorem accessGranted_iff (q : Request) (s : State) :
    accessGranted q s = true
      ↔ s.partState = .unconfigured ∨ ∃ e, findSite q.origin s.sites = some e ∧ e.management = true := by
  simp only [accessGranted, Bool.or_eq_true, Option.any_eq_true]
  cases s.partState <;> simp

theorem takeMgmtRequest_denied (denied : ¬accessGranted q s = true) :
    takeMgmtRequest q s = s.count .deniedRequests := by
  simp [takeMgmtRequest, denied]

theorem takeMgmtRequest_queued (granted : accessGranted q s = true) (idle : s.io.restart = .none)
    (room : s.requests.length < 4) : takeMgmtRequest q s = { s with requests := s.requests ++ [q] } := by
  have few : ¬4 ≤ s.requests.length := by omega
  simp [takeMgmtRequest, granted, restartPending, idle, Config.requestCapacity, few]

theorem takeMgmtRequest_busy (granted : accessGranted q s = true)
    (busy : s.io.restart ≠ .none ∨ 4 ≤ s.requests.length) : takeMgmtRequest q s = sendReply q Reply.busy none s := by
  have pending : s.io.restart ≠ .none → restartPending s = true := fun h => by
    unfold restartPending
    cases hr : s.io.restart <;> simp_all
  have refused : (restartPending s || decide (Config.requestCapacity ≤ s.requests.length)) = true := by
    rcases busy with h | h
    · rw [pending h]; rfl
    · simp [Config.requestCapacity, h]
  simp [takeMgmtRequest, granted, refused]

/-! ## RESTART (R163) -/

theorem restartRequest_frame (q : Request) (s : State) :
    restartRequest q s = { s with io := (restartRequest q s).io } := by
  unfold restartRequest
  split
  · split <;> rfl
  · rfl

theorem restartRequest_sameIntake (q : Request) (s : State) : s.sameIntake (restartRequest q s) := by
  have asked (P : Prop) := Moves.buildFrame (P := P) (c := s.net) (replyHeader q s) (Reply.done []).payload
    (some .restartReply) s.io
  unfold restartRequest
  split
  · split
    · rename_i h io built
      have built' := (asked False).ports
      rw [built] at built'
      have sent := ((Moves.placeReply (P := False) (c := s.net) False.elim q.link h q.origin
        { io with restart := .awaitingReply }).trans (.dropReference (c := s.net) False.elim h _)).ports
      exact fun p => ⟨(sent p).2.1.trans (built' p).2.1, (sent p).1.trans (built' p).1⟩
    · rename_i io built
      have built' := (asked False).ports
      rw [built] at built'
      exact fun p => ⟨(built' p).2.1, (built' p).1⟩
  · exact sendReply_sameIntake q Reply.badValue none s

/-- Refused a buffer, a restart takes place at once. -/
theorem restartRequest_refused (none : q.fields = []) (empty : s.io.pool.free = []) :
    (restartRequest q s).io.restart = .due := by
  have refused : (buildFrame s.net (replyHeader q s) (Reply.done []).payload (some .restartReply) s.io).1 = Option.none := by
    unfold buildFrame
    rw [allocate_empty _ _ empty]
  unfold restartRequest
  rw [if_pos (by rw [none]; rfl)]
  split
  · rename_i h io built
    rw [built] at refused
    cases refused
  · rfl

/-- With a buffer for its reply, a restart waits for the reply's answer. -/
theorem restartRequest_standsIn (none : q.fields = []) (can : s.canReply q k) :
    (restartRequest q s).io.restart = .awaitingReply
      ∧ ∃ io, StandsIn (s.replyPort q)
        { handle := k, refs := 1, bytes := frameBytes (replyHeader q s) [0, 0, 0, 0], completion := some .restartReply }
        io (restartRequest q s).io := by
  obtain ⟨rest, free⟩ := can.1
  have built := builtIn_buffer (io := s.io) (k := k) s.net.active.bufferReserve rest
    (frameBytes (replyHeader q s) (Reply.done []).payload) (some .restartReply) k
  have granted : buildFrame s.net (replyHeader q s) (Reply.done []).payload (some .restartReply) s.io
      = (some k, builtIn s.net.active.bufferReserve k rest
          (frameBytes (replyHeader q s) (Reply.done []).payload) (some .restartReply) s.io) := by
    unfold buildFrame
    rw [allocate_granted (cls := (replyHeader q s).frameClass) free (.inl rfl)]
    rfl
  have run : (restartRequest q s).io = dropReference s.net k (placeReply s.net q.link k q.origin
      { builtIn s.net.active.bufferReserve k rest (frameBytes (replyHeader q s) (Reply.done []).payload)
          (some .restartReply) s.io with restart := .awaitingReply }) := by
    unfold restartRequest
    rw [if_pos (by rw [none]; rfl), granted]
    rfl
  rw [run]
  have placed := placeReply_standsIn can
    (io := { builtIn s.net.active.bufferReserve k rest (frameBytes (replyHeader q s) (Reply.done []).payload)
          (some .restartReply) s.io with restart := .awaitingReply }) rfl (built.trans (if_pos rfl))
  exact ⟨placed.restart, _, placed⟩

end Sys2Proof.Machine

open Sys2Proof Sys2Proof.Machine

/-- Settles O53: a request is denied, answered BUSY or queued by the checks of R154; RESTART's reply is built ahead of its
placement, so that its completion request stands in the reply's buffer. -/
theorem requestsQueuedAndRestart : Obligations.RequestsQueuedAndRestart := by
  refine ⟨fun q s => ?_, fun l x s holds law => ?_, fun q rest s serves none => ?_⟩
  · intro h
    refine ⟨rfl, rfl, fun running => ?_, fun unconfigured low high => ?_, fun unconfigured outside => ?_⟩
    · show BitVec.ofNat 8 (replyOrigin q s) = _
      rw [replyOrigin, running]
    · show BitVec.ofNat 8 (replyOrigin q s) = _
      simp only [replyOrigin, unconfigured, siteIdOk_iff.mpr ⟨low, high⟩, if_true]
    · show BitVec.ofNat 8 (replyOrigin q s) = _
      have bad : ¬siteIdOk q.destination = true := fun ok => by
        obtain ⟨low, high⟩ := siteIdOk_iff.mp ok
        rcases outside with zero | beyond
        · exact absurd (zero ▸ low) (by decide)
        · exact absurd high (not_le.mpr beyond)
      simp only [replyOrigin, unconfigured, bad]
      rfl
  · intro hdr payload mine q granted
    obtain ⟨head, kind⟩ := holds
    have agent : isForAgent x (handedHeader x s) s = true := by
      simpa [isForAgent, kind] using mine
    have hx : bufferOf x.handle s.io ≠ Option.none := bufferOf_of_kind kind
    have taken : _ = (takeMgmtRequest q (s.taken (linkPort l))).onIo fun c => dropReference c x.handle :=
      takeHanded_of_head (fun _ hdr payload => takeMgmtRequest (requestOf l hdr payload)) head agent
    have access : accessGranted q (s.taken (linkPort l)) = true ↔ granted := accessGranted_iff q _
    refine ⟨_, congrArg Host.Outcome.next taken, ?_⟩
    by_cases allowed : granted
    · by_cases busy : s.io.restart ≠ .none ∨ 4 ≤ s.requests.length
      · rw [takeMgmtRequest_busy (s := s.taken (linkPort l)) (access.mpr allowed) busy]
        refine ⟨tookHanded_of_acts (.sendReply q Reply.busy none _) x.handle, rfl, fun denied => absurd allowed denied,
          fun _ idle room => ?_, fun _ _ => ⟨rfl, fun k can free quiet => ?_⟩⟩
        · rcases busy with pending | full
          · exact absurd idle pending
          · omega
        · have apart : k ≠ x.handle := fun same => hx (same ▸ free)
          obtain ⟨stands, buffer⟩ := (sendReply_standsIn Reply.busy none (canReply_taken (p := linkPort l) can)).dropped apart
            quiet (sendReply q Reply.busy none (s.taken (linkPort l))).net
          exact ⟨bytesOf_of_buffer buffer, stands⟩
      · obtain ⟨idle, room⟩ := not_or.mp busy
        rw [takeMgmtRequest_queued (s := s.taken (linkPort l)) (access.mpr allowed) (not_not.mp idle) (not_le.mp room)]
        exact ⟨tookHanded_of_ports x.handle fun _ => ⟨rfl, rfl⟩, rfl, fun denied => absurd allowed denied,
          fun _ _ _ => rfl, fun _ full => absurd full busy⟩
    · rw [takeMgmtRequest_denied (s := s.taken (linkPort l)) (mt access.mp allowed)]
      have raises : Raises [.deniedRequests] s
          (((s.taken (linkPort l)).count .deniedRequests).onIo fun c => dropReference c x.handle) :=
        ((Raises.taken (linkPort l) s).trans (.count .deniedRequests _)).trans (.dropped x.handle _)
      exact ⟨tookHanded_of_acts (.count _ _) x.handle, rfl, fun _ => ⟨rfl, raises.raised law (by decide) rfl⟩,
        fun yes => absurd yes allowed, fun yes => absurd yes allowed⟩
  · have served := serveHead_of_serves (isCode := fun c => c == 17) restartRequest serves rfl
    refine ⟨_, congrArg Host.Outcome.next served, ?_, restartRequest_sameIntake q s,
      fun empty => restartRequest_refused none empty, fun k can => ?_⟩
    · rw [restartRequest_frame]
    · obtain ⟨awaiting, io, stands⟩ := restartRequest_standsIn none can
      exact ⟨awaiting, by rw [completionOf]; exact congrArg (·.bind Buffer.completion) stands.buffer, stands.carries (t := { restartRequest q s with requests := rest })⟩
end

section
/-! PROOFS. CLEAR UNIT and CLEAR EMERGENCY (R65, R109, R160): replies behind the other frames of a request, and what the two
leave of the record. -/

namespace Sys2Proof.Machine

variable {s t m : State} {q : Request} {rest : List Request} {io io' : Io} {k x : Handle} {p : PortNo} {r : Record}
  {u : UnitId} {ho : Handover}

/-! ## A reply among other frames -/

/-- The claim of a reply: none when it is addressed to the own site (R35, R37). -/
def replyClaims (q : Request) (payload : List Byte) (s : State) : List Claim :=
  if q.origin = s.own then []
  else
    [{ entries := fun k =>
        [(s.replyPort q,
          { handle := k, cls := .priority, hop := s.active.hopLimit, addressing := .destination q.origin })]
       header := replyHeader q s
       payload := payload }]

theorem Issues.sendReply (q : Request) (r : Reply) (s : State) :
    Issues x 1 1 (replyClaims q r.payload s) s (Machine.sendReply q r none s) := by
  unfold replyClaims
  by_cases own : q.origin = s.own
  · rw [if_pos own]
    have places := places_none (i := DevCounter.internalDrops.number)
      (place := fun h => placeReply s.net q.link h q.origin) (frameBytes (replyHeader q s) r.payload) s.io.engine 1
      fun k io => by
        unfold placeReply
        rw [if_pos (by exact own)]
        rfl
    exact Issues.built (done := none) places fun f hf => by cases hf
  · rw [if_neg own]
    have places := places_entry (c := s.net) (p := s.replyPort q)
      (place := fun h => placeReply s.net q.link h q.origin)
      (e := fun k => { handle := k, cls := .priority, hop := s.active.hopLimit, addressing := .destination q.origin })
      (frameBytes (replyHeader q s) r.payload) s.io.engine (fun _ => rfl) fun k io => by
        unfold placeReply
        rw [if_neg (by exact own)]
        rfl
    refine Issues.built (done := none) places fun f hf => ?_
    rw [List.mem_singleton.mp hf]
    exact ⟨trivial, rfl⟩

theorem Raises.sendReply (q : Request) (r : Reply) (s : State) : Raises [] s (Machine.sendReply q r none s) :=
  .onIo (f := fun c => sendBuilt c (replyHeader q s) r.payload none fun h => placeReply c q.link h q.origin)
    (fun _ hi => .sendBuilt hi (fun h => .placeReply hi _ _ h _) _ _ _ _)
    (Moves.sendBuilt (P := False) False.elim _ _ _ _ (fun _ _ => .placeReply False.elim _ _ _ _) _).counters.1

/-- A reply has been built and queued for a request that the state after an event answers. -/
theorem replied_of_stands {payload : List Byte} (same : m.replyPort q = t.replyPort q) (active : m.active = t.active)
    (header : replyHeader q m = replyHeader q t)
    (h : ∀ f ∈ replyClaims q payload m, Stands s.io.pool.free f.entries (frameBytes f.header f.payload) t.io) :
    s.replied q payload t := by
  intro away
  have claim : replyClaims q payload m = [_] := if_neg (by
    show q.origin ≠ m.active.ownSite
    rw [active]
    exact away)
  obtain ⟨k, hk, entries, bytes⟩ := h _ (by rw [claim]; exact List.mem_singleton.mpr rfl)
  refine ⟨k, hk, ?_, by rw [← header]; exact bytes⟩
  have entry := entries _ (List.mem_singleton.mpr rfl)
  rw [same, active] at entry
  exact entry

/-- A reply touches no other port and no other buffer, where its port is sending and has room. -/
theorem sendReply_apart (r : Reply) (quiet : s.io.pool.noticePending = false) (waits : s.waitsAt (s.replyPort q))
    (apart : p ≠ s.replyPort q) (hk : k ∉ s.io.pool.free) :
    (sendReply q r none s).queueOf p = s.queueOf p ∧ bufferOf k (sendReply q r none s).io = bufferOf k s.io := by
  cases hf : s.io.pool.free with
  | nil =>
    constructor <;>
    · simp only [State.queueOf, sendReply, State.onIo, sendBuilt, buildFrame, allocate_empty s.net.active.bufferReserve _ hf]
      rfl
  | cons y rest =>
    have other : k ≠ y := fun same => hk (by rw [hf, same]; exact List.mem_cons_self)
    have kept := builtIn_buffer (io := s.io) (k := y) s.net.active.bufferReserve rest
      (frameBytes (replyHeader q s) r.payload) none k
    rw [if_neg other] at kept
    by_cases own : q.origin = s.own
    · have sent : (sendReply q r none s).io = _ :=
        (sendBuilt_granted (hdr := replyHeader q s) r.payload none (fun h => placeReply s.net q.link h q.origin) hf
          (.inl rfl)).trans (congrArg (dropReference s.net y) (if_pos (by exact own)))
      have ports := dropReference_ports_of_no_notice s.net y (io := countDev .internalDrops
        (builtIn s.net.active.bufferReserve y rest (frameBytes (replyHeader q s) r.payload) none s.io)) quiet
      rw [State.queueOf, sent, ports, dropReference_other s.net (by exact quiet) other]
      exact ⟨rfl, kept⟩
    · have sent : (sendReply q r none s).io = _ :=
        (sendBuilt_waits (hdr := replyHeader q s) r.payload none (c := s.net) (p := s.replyPort q)
          (place := fun h => placeReply s.net q.link h q.origin)
          (e := { handle := y, cls := .priority, hop := s.net.active.hopLimit, addressing := .destination q.origin })
          hf (.inl rfl) rfl (fun io => if_neg (by exact own)) waits).1
      rw [State.queueOf, sent]
      refine ⟨(putEntry_queue p).trans (if_neg apart), ?_⟩
      rw [bufferOf_modBuffer _ _ (fun b => { b with refs := b.refs - 1 }) (fun _ => rfl), if_neg other, putEntry_buffer,
        if_neg other, kept]

/-! ## CLEAR EMERGENCY (R59, R65) -/

theorem clearFlag_unit (s : State) (r : Record) : (clearFlag s r).unit = r.unit := by
  unfold clearFlag
  split <;> rfl

theorem clearFlag_eq (s : State) (r : Record) :
    clearFlag s r = { r with emergency := false, phase := (clearFlag s r).phase } := by
  unfold clearFlag
  cases h : r.emergency with
  | true => rfl
  | false =>
    simp only [Bool.false_eq_true, if_false]
    rw [← h]

theorem clearFlag_still (s : State) (r : Record) (h : r.emergency = false ∨ r.phase.activity? = none) :
    (clearFlag s r).phase = r.phase := by
  unfold clearFlag
  rcases h with quiet | none
  · simp only [quiet, Bool.false_eq_true, if_false]
  · simp only [Phase.mapActivity_none none]
    split <;> rfl

/-- A QUIET record whose activity timer is stopped has it started with the quiet downshift (R59). -/
theorem clearFlag_downshifts (s : State) (r : Record) (a : Activity) (h : r.emergency = true)
    (ha : r.phase.activity? = some a) :
    (clearFlag s r).phase.number = r.phase.number ∧ (clearFlag s r).phase.channel? = r.phase.channel?
      ∧ (clearFlag s r).phase.handover? = r.phase.handover?
      ∧ (clearFlag s r).phase.activity?
        = some
            { a with
              timer :=
                if a.cls = .quiet ∧ a.timer = none then
                  some (s.timeBase.toNat + s.active.quietDownshift * 1000)
                else a.timer } := by
  have cleared : (clearFlag s r).phase = r.phase.mapActivity fun a =>
      if a.cls = .quiet && a.timer.isNone then
        { a with timer := some (s.after (s.active.quietDownshift * 1000)) }
      else a := by
    simp only [clearFlag, h, if_true]
  rw [cleared]
  refine ⟨Phase.number_mapActivity _ _, Phase.channel_mapActivity _ _, Phase.handover_mapActivity _ _, ?_⟩
  rw [Phase.activity_mapActivity, ha]
  simp only [Option.map_some, Bool.and_eq_true, decide_eq_true_eq, Option.isNone_iff_eq_none]
  split <;> rfl

/-! ## CLEAR UNIT (R109) -/

/-- The partner of a handover in progress is told that its unit has been cleared. -/
def tellCleared (r : Record) (s : State) : State :=
  match r.phase with
  | .proposing _ _ ho => sendCancel r.unit ho.id 7#8 ho.partner s
  | .departing _ ho _ => sendCancel r.unit ho.id 7#8 ho.partner s
  | .arriving ho => sendCancel r.unit ho.id 7#8 ho.partner s
  | .served _ _ _ => s
  | .forward _ => s
  | .lost _ _ => s

/-- A record with a handover whose partner has to be told. -/
def Phase.partnered (ph : Phase) (ho : Handover) : Prop :=
  (∃ ch a, ph = .proposing ch a ho) ∨ (∃ ch sent, ph = .departing ch ho sent) ∨ ph = .arriving ho

theorem tellCleared_partnered (h : r.phase.partnered ho) :
    tellCleared r s = sendCancel r.unit ho.id 7#8 ho.partner s := by
  unfold tellCleared
  rcases h with ⟨ch, a, hp⟩ | ⟨ch, sent, hp⟩ | hp <;> rw [hp]

theorem tellCleared_frame (r : Record) (s : State) : tellCleared r s = { s with io := (tellCleared r s).io } := by
  unfold tellCleared
  split <;> rfl

theorem clearRecord_eq (r : Record) (s : State) : clearRecord r s = deleteRecord r.unit (tellCleared r s) := by
  unfold clearRecord tellCleared
  cases r.phase <;> rfl

theorem tellCleared_record (r : Record) (s : State) (v : UnitId) : (tellCleared r s).record v = s.record v :=
  record_of_units (by rw [tellCleared_frame])

/-- What a deleted record leaves (R66). -/
theorem deleteRecord_frame (hr : s.record u = some r) :
    deleteRecord u s
      = { s with
          io := (deleteRecord u s).io
          units := s.units.filter fun r => r.unit != u
          talkgroups := s.leftBy r
          ownSequence := (exitReport r s).ownSequence } := by
  unfold deleteRecord
  rw [hr]
  simp only
  rw [exitReport_frame]
  rfl

theorem clearRecord_frame (hr : s.record u = some r) :
    clearRecord r s
      = { s with
          io := (clearRecord r s).io
          units := s.units.filter fun r => r.unit != u
          talkgroups := s.leftBy r
          ownSequence := (exitReport r (tellCleared r s)).ownSequence } := by
  obtain rfl : r.unit = u := unit_of_record s hr
  rw [clearRecord_eq, deleteRecord_frame ((tellCleared_record r s _).trans hr), tellCleared_frame]
  rfl

theorem record_of_removed (hu : t.units = s.units.filter fun r => r.unit != u) :
    t.record u = none ∧ s.sameRecordsBut u t := by
  have removed (v : UnitId) : t.record v = (removeRecord u s).record v := record_of_units hu
  refine ⟨?_, fun v hv => ?_⟩
  · rw [removed, removeRecord_record, if_pos rfl]
  · rw [removed, removeRecord_record, if_neg hv]

theorem Raises.clearRecord (hr : s.record u = some r) : Raises [.recordsDeleted] s (Machine.clearRecord r s) := by
  obtain rfl : r.unit = u := unit_of_record s hr
  have told : Raises [] s (tellCleared r s) := by
    unfold tellCleared
    cases r.phase with
    | proposing _ _ ho | departing _ ho _ | arriving ho => exact Raises.sendCancel _ _ _ _ s
    | served | forward | lost => exact Raises.same rfl
  rw [clearRecord_eq]
  exact told.trans (.deleteRecord ((tellCleared_record r s _).trans hr))

namespace Issues

theorem deleteRecord (hr : s.record u = some r) : Issues x 1 s.sites.length [] s (Machine.deleteRecord u s) := by
  have gone : Machine.deleteRecord u s = (removeRecord u (Machine.exitReport r s)).count .recordsDeleted := by
    unfold Machine.deleteRecord
    rw [hr]
  rw [gone]
  have removed : Issues x 0 0 [] (Machine.exitReport r s)
      ((removeRecord u (Machine.exitReport r s)).count .recordsDeleted) := (count .recordsDeleted _).start rfl rfl
  exact (exitReport r s).trans removed

theorem tellCleared (r : Record) (s : State) : Issues x 1 1 [] s (Machine.tellCleared r s) := by
  unfold Machine.tellCleared
  cases r.phase with
  | proposing _ _ ho | departing _ ho _ | arriving ho => exact (toSite _ _ s).forget
  | served | forward | lost => exact nothing rfl rfl

theorem tellCleared_partnered (h : r.phase.partnered ho) :
    Issues x 1 1 (siteClaims s.net (cancelHeader r.unit ho.id 7) ho.partner) s (Machine.tellCleared r s) := by
  rw [Machine.tellCleared_partnered h]
  exact toSite (cancelHeader r.unit ho.id 7) ho.partner s

theorem clearRecord (hr : s.record u = some r) {claims : List Claim}
    (told : Issues x 1 1 claims s (Machine.tellCleared r s)) :
    Issues x 2 (s.sites.length + 1) claims s (Machine.clearRecord r s) := by
  obtain rfl : r.unit = u := unit_of_record s hr
  rw [clearRecord_eq]
  have sites : (Machine.tellCleared r s).sites = s.sites := by rw [tellCleared_frame]
  have deleted : Issues x 1 (Machine.tellCleared r s).sites.length [] _ _ :=
    deleteRecord ((tellCleared_record r s _).trans hr)
  rw [sites] at deleted
  exact (told.trans deleted).mono (by omega) (by omega) fun f hf => List.mem_append_left _ hf

end Issues

/-- What CLEAR UNIT leaves when its record is gone and the reply is built. -/
theorem cleared_frame {m : State} (r : Reply)
    (h : m = { s with io := m.io, units := m.units, talkgroups := m.talkgroups, ownSequence := m.ownSequence }) :
    ({ sendReply q r none m with requests := rest } : State)
      = { s with
          io := (sendReply q r none m).io
          requests := rest
          units := m.units
          talkgroups := m.talkgroups
          ownSequence := m.ownSequence } := by
  rw [h]
  rfl

theorem clearRecord_same (hr : s.record u = some r) :
    (clearRecord r s).net = s.net ∧ (clearRecord r s).partState = s.partState := by
  rw [clearRecord_frame hr]
  exact ⟨rfl, rfl⟩

/-- CLEAR UNIT of a unit with a record (R109). -/
theorem clearUnit_leaves (hr : s.record u = some r) (law : s.counterLaw) :
    let t : State := { sendReply q (Reply.done []) none (clearRecord r s) with requests := rest }
    s.raised .recordsDeleted t
      ∧ (s.roomFor 3 (s.sites.length + 2) → s.replied q [0, 0, 0, 0] t)
      ∧ (∀ ho, r.phase.partnered ho → s.roomFor 3 (s.sites.length + 2) →
        s.queuedFor (cancelHeader u ho.id 7) ho.partner t) := by
  intro t
  have raises : Raises [.recordsDeleted] s t :=
    ((Raises.clearRecord hr).trans (.sendReply q (Reply.done []) _)).trans (.same rfl)
  have issues (claims : List Claim) (told : Issues 0 1 1 claims s (tellCleared r s)) :
      Issues 0 3 (s.sites.length + 2) (claims ++ replyClaims q [0, 0, 0, 0] (clearRecord r s)) s t :=
    ((Issues.clearRecord hr told).trans (.sendReply q (Reply.done []) _)).congr rfl rfl
  refine ⟨raises.raised law (by decide) rfl, fun room => ?_, fun ho partnered room => ?_⟩
  · exact replied_of_stands (m := clearRecord r s) (t := t) rfl rfl rfl fun f hf =>
      (issues [] (.tellCleared r s)).standsAlone (List.mem_append_right _ hf) room (le_refl 3) (le_refl _)
  · obtain rfl : r.unit = u := unit_of_record s hr
    refine queuedFor_of_stands fun routed => (issues _ (.tellCleared_partnered partnered)).standsAlone (f := Claim.forSite _ _ _)
      (List.mem_append_left _ ?_) room (le_refl 3) (le_refl _)
    unfold siteClaims
    rw [if_pos (by exact routed)]
    exact List.mem_singleton.mpr rfl

/-- CLEAR UNIT of a LOST record sends nothing of its own. -/
theorem clearRecord_alone (hr : s.record u = some r) (away : r.phase.isMember = false) (alone : r.phase.handover? = none) :
    clearRecord r s = (removeRecord u s).count .recordsDeleted := by
  obtain rfl : r.unit = u := unit_of_record s hr
  have told : tellCleared r s = s := by
    unfold tellCleared
    cases hp : r.phase with
    | served | forward | lost => rfl
    | proposing | departing | arriving => simp [hp, Phase.handover?] at alone
  rw [clearRecord_eq, told, deleteRecord, hr]
  simp only
  rw [exitReport_away away]

/-- CLEAR UNIT of an ARRIVING record tells its partner also where only the reply's own port is known to have room. -/
theorem clearUnit_arriving (hr : s.record u = some r) (hp : r.phase = .arriving ho) {j : LinkNo}
    (route : s.net.route ho.partner = some j) (apart : s.replyPort q ≠ linkPort j) (pool : s.poolLaw)
    (waits : s.waitsAt (s.replyPort q)) :
    s.builtForSite (cancelHeader u ho.id 7) ho.partner
      { sendReply q (Reply.done []) none (clearRecord r s) with requests := rest } := by
  obtain rfl : r.unit = u := unit_of_record s hr
  have frames : (clearRecord r s).io
      = bumpAt DevCounter.recordsDeleted.number (sendToSite s.net (cancelHeader r.unit ho.id 7) ho.partner s.io) := by
    have gone : clearRecord r s = (removeRecord r.unit (tellCleared r s)).count .recordsDeleted := by
      rw [clearRecord_eq, deleteRecord, (tellCleared_record r s _).trans hr]
      simp only
      rw [exitReport_away (by rw [hp]; rfl)]
    rw [gone, tellCleared_partnered (.inr (.inr hp))]
    rfl
  have sent := (sentFor_sendToSite (cancelHeader r.unit ho.id 7) ho.partner s).counted DevCounter.recordsDeleted.number
  rw [← frames] at sent
  intro k rest' j' hf free hn hc hj' hw
  obtain rfl : j' = j := Option.some.inj (hj'.symm.trans route)
  have one := sent k rest' j' hf hn hc hj' hw
  have net := (clearRecord_same hr).1
  have port : (clearRecord r s).replyPort q = s.replyPort q := by
    unfold State.replyPort
    rw [net]
  have nodup : (clearRecord r s).io.handles.Nodup := by
    rw [frames]
    have distinct : s.io.handles.Nodup := pool.nodup_iff.mpr List.nodup_range'
    exact ((Moves.sendToSite (P := False) False.elim _ _ _).pool distinct).nodup_iff.mpr distinct
  have held : k ∉ (clearRecord r s).io.pool.free := fun h => by
    obtain ⟨done, buffer⟩ := one.buffer
    rw [bufferOf_of_free nodup h] at buffer
    cases buffer
  obtain ⟨queue, buffer⟩ := sendReply_apart (q := q) (p := linkPort j') (Reply.done []) one.quiet
    (by
      rw [port]
      refine ⟨?_, ?_⟩
      · rw [one.sending]
        exact waits.1
      · show (clearRecord r s).io.ports[(s.replyPort q).val].queue.length < _
        rw [one.queue, if_neg apart]
        exact waits.2)
    (by rw [port]; exact apart.symm) held
  refine ⟨queue.trans ((one.queue _).trans (if_pos rfl)), ?_⟩
  obtain ⟨done, kept⟩ := one.buffer
  exact bytesOf_of_buffer (buffer.trans kept)

end Sys2Proof.Machine

open Sys2Proof Sys2Proof.Machine

/-- Settles O60: CLEAR UNIT by the state of the record, with its frames one behind the other; CLEAR EMERGENCY by the
record's class and timer. -/
theorem clearsActOnRecords : Obligations.ClearsActOnRecords := by
  refine ⟨fun q rest s c code mem serves len => ?_, fun q rest s len law => ?_⟩
  · simp only [List.mem_cons, List.not_mem_nil, or_false, Prod.mk.injEq] at mem
    have missized' {isCode : Byte → Bool} {f : Request → State → Reply × State} (hc : isCode code = true)
        (runs : exec c s = .next (serveHead isCode (answer (sized 3 f)) s)) :
        ∃ t, exec c s = .next t ∧ t = { s with io := t.io, requests := rest } ∧ s.sameIntake t
          ∧ ∀ k, s.canReply q k → t.carries (s.replyPort q) k (frameBytes (replyHeader q s) [4, 0, 0, 0]) := by
      obtain ⟨t, runs, frame, -, intake, carried⟩ := missized serves hc runs len
      exact ⟨t, runs, frame, intake, carried⟩
    rcases mem with ⟨rfl, rfl⟩ | ⟨rfl, rfl⟩
    · exact missized' (isCode := fun c => c == 15) rfl rfl
    · exact missized' (isCode := fun c => c == 16) rfl rfl
  · intro u
    refine ⟨fun serves => ?_, fun serves => ?_⟩
    · obtain ⟨m, reply, served, good, -⟩ := serveHead_sized 3 clearUnitRequest serves (isCode := fun c => c == 15) rfl
      have run := good len
      have done := replies_sendReply q rest reply m
      unfold clearUnitRequest at run
      refine ⟨_, congrArg Host.Outcome.next served, ?_⟩
      cases hr : s.record u with
      | none =>
        rw [show s.record q.unit = none from hr] at run
        obtain ⟨rfl, rfl⟩ := Prod.mk.inj run
        exact ⟨done.intake, rfl, fun _ _ => rfl, hr, fun _ => ⟨rfl, rfl, done.reply⟩, fun r some => by cases some⟩
      | some r =>
        rw [show s.record q.unit = some r from hr] at run
        obtain ⟨rfl, rfl⟩ := Prod.mk.inj run
        have intake := sameIntake_of_acts ((Acts.clearRecord r s).trans (.sendReply q (Reply.done []) none _))
        obtain ⟨gone, others⟩ := record_of_removed (s := s) (t := clearRecord r s) (u := u) (by rw [clearRecord_frame hr])
        have groups : (clearRecord r s).talkgroups = s.leftBy r := by rw [clearRecord_frame hr]
        obtain ⟨raised, replied, told⟩ := clearUnit_leaves (q := q) (rest := rest) hr law
        refine ⟨intake, cleared_frame _ ?_, others, gone, fun absent => (by cases absent), fun r' found => ?_⟩
        · rw [clearRecord_frame hr]
        · obtain rfl : r = r' := Option.some.inj found
          refine ⟨raised, fun member => groups.trans (if_pos member), fun away => ⟨groups.trans (by simp [State.leftBy, away]), ?_⟩,
            fun away alone k can => ?_, replied, fun ho => told ho, fun ho j hp route apart pool waits => ?_⟩
          · show (clearRecord r s).ownSequence = _
            rw [clearRecord_frame hr, exitReport_away away, tellCleared_frame]
          · have still := done.reply k
            rw [clearRecord_alone hr away alone] at still ⊢
            exact still can
          · exact clearUnit_arriving hr hp route apart pool waits
    · obtain ⟨m, reply, served, good, -⟩ := serveHead_sized 3 clearEmergencyRequest serves (isCode := fun c => c == 16) rfl
      have run := good len
      have done := replies_sendReply q rest reply m
      unfold clearEmergencyRequest at run
      refine ⟨_, congrArg Host.Outcome.next served, ?_⟩
      cases hr : s.record u with
      | none =>
        rw [show s.record q.unit = none from hr] at run
        obtain ⟨rfl, rfl⟩ := Prod.mk.inj run
        exact ⟨done.intake, rfl, fun _ _ => rfl, fun _ => rfl, fun r found => (by cases found), done.reply⟩
      | some r =>
        rw [show s.record q.unit = some r from hr] at run
        obtain ⟨rfl, rfl⟩ := Prod.mk.inj run
        have mine : (modUnit u (clearFlag s) s).record u = some (clearFlag s r) :=
          modUnit_record_self (f := clearFlag s) hr (clearFlag_unit s)
        refine ⟨done.intake, rfl, fun v hv => modUnit_record_other (f := clearFlag s) hv (clearFlag_unit s),
          fun absent => (by cases absent), fun r' found => ?_, done.reply⟩
        obtain rfl : r = r' := Option.some.inj found
        exact ⟨(clearFlag s r).phase, mine.trans (congrArg some (clearFlag_eq s r)), clearFlag_still s r, clearFlag_downshifts s r⟩
end

section
/-! PROOFS. WRITE PARAMETERS (R155, R157, R158): pair by pair into the staged set, each as the nearest value of its range. -/

namespace Sys2Proof.Machine

variable {s t : State} {q : Request} {rest : List Request} {k : Handle}

/-! ## A listed request that has ended -/

theorem finishHead_frame (q : Request) (rest : List Request) (r : Reply) (s : State) :
    finishHead q rest r s
      = { s with io := (finishHead q rest r s).io, requests := rest, progress := Progress.start } := rfl

theorem finishHead_carries (r : Reply) (can : s.canReply q k) :
    (finishHead q rest r s).carries (s.replyPort q) k (frameBytes (replyHeader q s) r.payload) :=
  (sendReply_standsIn r none can).carries (t := finishHead q rest r s)

theorem finishHead_sameIntake (q : Request) (rest : List Request) (r : Reply) (s : State) :
    s.sameIntake (finishHead q rest r s) := sendReply_sameIntake q r none s

/-! ## Pairs -/

theorem byteAt_take_drop {l : List Byte} {i n j : Nat} (hj : j < n) : byteAt ((l.drop i).take n) j = byteAt l (i + j) := by
  simp [byteAt, List.getD_eq_getElem?_getD, hj]

theorem fieldAt_take_drop {l : List Byte} {i n off len : Nat} (h : off + len ≤ n) :
    fieldAt ((l.drop i).take n) off len = fieldAt l (i + off) len := by
  unfold fieldAt
  rw [List.drop_take, List.drop_drop, List.take_take, Nat.min_eq_left (by omega)]

/-- The number of the `i`-th pair of a list. -/
def pairNumber (q : Request) (i : Nat) : Nat := (byteAt q.fields (1 + 3 * i)).toNat

/-- The value of the `i`-th pair of a list. -/
def pairValue (q : Request) (i : Nat) : Int := signed16 (fieldAt q.fields (2 + 3 * i) 2)

/-- The `i`-th pair names a parameter. -/
def pairGood (q : Request) (i : Nat) : Prop := 1 ≤ pairNumber q i ∧ pairNumber q i ≤ 29

/-- One more value clamped with the `i`-th pair, or none. -/
def pairChanged (q : Request) (i : Nat) : Nat := if clampParam (pairNumber q i) (pairValue q i) = pairValue q i then 0 else 1

/-- A parameter set with the `i`-th pair written into it. -/
def pairWritten (q : Request) (i : Nat) (p : Params) : Params :=
  Params.write (pairNumber q i) (clampParam (pairNumber q i) (pairValue q i)) p

/-- The next pair of a list that has one left. -/
theorem writeParams_next (left : s.progress.taken < (byteAt q.fields 0).toNat) (good : pairGood q s.progress.taken) :
    writeParams q s
      = if s.progress.taken + 1 < (byteAt q.fields 0).toNat then
          (none,
            { s with
              staged := pairWritten q s.progress.taken s.staged
              progress :=
                { taken := s.progress.taken + 1, clamped := s.progress.clamped + pairChanged q s.progress.taken } })
        else
          (some (writeReply (byteAt q.fields 0).toNat (s.progress.taken + 1)
            (s.progress.clamped + pairChanged q s.progress.taken)),
            { s with staged := pairWritten q s.progress.taken s.staged }) := by
  have number : (byteAt ((q.fields.drop (1 + 3 * s.progress.taken)).take 3) 0).toNat = pairNumber q s.progress.taken := by
    rw [byteAt_take_drop (by omega)]
    rfl
  have value : signed16 (fieldAt ((q.fields.drop (1 + 3 * s.progress.taken)).take 3) 1 2) = pairValue q s.progress.taken := by
    rw [fieldAt_take_drop (by omega), show 1 + 3 * s.progress.taken + 1 = 2 + 3 * s.progress.taken by omega]
    rfl
  have clamped : (if clampParam (pairNumber q s.progress.taken) (pairValue q s.progress.taken)
      = pairValue q s.progress.taken then s.progress.clamped else s.progress.clamped + 1)
      = s.progress.clamped + pairChanged q s.progress.taken := by
    unfold pairChanged
    split <;> rfl
  have written := writeParams_of_good (s := s) (getElem?_entriesOf 3 left) (by rw [number]; exact good)
  simp only [number, value, clamped] at written
  exact written

theorem writeParams_stops (left : s.progress.taken < (byteAt q.fields 0).toNat) (bad : ¬pairGood q s.progress.taken) :
    writeParams q s
      = (some (writeReply (byteAt q.fields 0).toNat s.progress.taken s.progress.clamped), s) := by
  refine writeParams_of_bad (getElem?_entriesOf 3 left) ?_
  rw [byteAt_take_drop (by omega)]
  exact bad

/-! ## The command -/

section

variable (serves : s.serves q rest 5)
include serves

theorem write_missized (len : q.fields.length ≠ 1 + 3 * (byteAt q.fields 0).toNat) :
    exec .writeParameters s = .next (finishHead q rest Reply.badValue s) :=
  congrArg Host.Outcome.next (serveListed_of_length 3 writeParams serves rfl len)

variable (len : q.fields.length = 1 + 3 * (byteAt q.fields 0).toNat)
include len

theorem write_ended (h : (byteAt q.fields 0).toNat ≤ s.progress.taken) :
    exec .writeParameters s
      = .next (finishHead q rest (writeReply (byteAt q.fields 0).toNat s.progress.taken s.progress.clamped) s) :=
  congrArg Host.Outcome.next (serveListed_of_some 3 serves rfl len (writeParams_of_end h))

theorem write_goesOn (more : s.progress.taken + 1 < (byteAt q.fields 0).toNat) (good : pairGood q s.progress.taken) :
    exec .writeParameters s
      = .next { s with
          staged := pairWritten q s.progress.taken s.staged
          progress :=
            { taken := s.progress.taken + 1, clamped := s.progress.clamped + pairChanged q s.progress.taken } } :=
  congrArg Host.Outcome.next
    (serveListed_of_none 3 serves rfl len ((writeParams_next (by omega) good).trans (if_pos more)))

theorem write_last (last : s.progress.taken + 1 = (byteAt q.fields 0).toNat) (good : pairGood q s.progress.taken) :
    exec .writeParameters s
      = .next (finishHead q rest
          (writeReply (byteAt q.fields 0).toNat (byteAt q.fields 0).toNat
            (s.progress.clamped + pairChanged q s.progress.taken))
          { s with staged := pairWritten q s.progress.taken s.staged }) := by
  have written := (writeParams_next (by omega) good).trans (if_neg (by omega))
  rw [last] at written
  exact congrArg Host.Outcome.next (serveListed_of_some 3 serves rfl len written)

theorem write_stops (left : s.progress.taken < (byteAt q.fields 0).toNat) (bad : ¬pairGood q s.progress.taken) :
    exec .writeParameters s
      = .next (finishHead q rest (writeReply (byteAt q.fields 0).toNat s.progress.taken s.progress.clamped) s) :=
  congrArg Host.Outcome.next (serveListed_of_some 3 serves rfl len (writeParams_stops left bad))

end

/-! ## The replies (R158) -/

theorem writeReply_done (count clamped : Nat) :
    (writeReply count count clamped).payload = [0, 0, 0, 0, BitVec.ofNat 8 count, BitVec.ofNat 8 clamped] := by
  simp only [writeReply, if_true]
  exact done_payload _

theorem writeReply_stopped {count written : Nat} (h : written < count) (clamped : Nat) :
    (writeReply count written clamped).payload
      = 4 :: (beBytes 2 (count - written)
        ++ [BitVec.ofNat 8 written, BitVec.ofNat 8 written, BitVec.ofNat 8 clamped]) := by
  simp only [writeReply, if_neg (Nat.ne_of_lt h)]
  rfl

/-! ## Several pairs -/

/-- The state when the first `k` pairs of a list have been written. -/
def writtenFirst (q : Request) (s : State) (k : Nat) : State :=
  { s with
    staged := (List.range k).foldl (fun p i => pairWritten q i p) s.staged
    progress := { taken := k, clamped := (List.range k).foldl (fun m i => m + pairChanged q i) 0 } }

theorem writtenFirst_zero (start : s.progress = Progress.start) : writtenFirst q s 0 = s := by
  have same : ({ taken := 0, clamped := 0 } : Progress) = s.progress := start.symm
  simp only [writtenFirst, List.range_zero, List.foldl_nil, same]

theorem writtenFirst_succ (k : Nat) :
    writtenFirst q s (k + 1)
      = { writtenFirst q s k with
          staged := pairWritten q k (writtenFirst q s k).staged
          progress :=
            { taken := k + 1, clamped := (writtenFirst q s k).progress.clamped + pairChanged q k } } := by
  simp only [writtenFirst, List.range_succ, List.foldl_append, List.foldl_cons, List.foldl_nil]

/-! ## Ranges (R157, R158) -/

theorem paramRanges_ordered : ∀ n : Fin 30, (paramRanges.getD (n.val - 1) (0, 0)).1 ≤ (paramRanges.getD (n.val - 1) (0, 0)).2 := by
  decide

theorem clampParam_range {n : Nat} (hn : n ≤ 29) (not : n ≠ 25) (v : Int) :
    let range := paramRanges.getD (n - 1) (0, 0)
    range.1 ≤ clampParam n v ∧ clampParam n v ≤ range.2
      ∧ (range.1 ≤ v → v ≤ range.2 → clampParam n v = v)
      ∧ (v < range.1 → clampParam n v = range.1) ∧ (range.2 < v → clampParam n v = range.2) := by
  intro range
  have ordered : range.1 ≤ range.2 := paramRanges_ordered ⟨n, by omega⟩
  have clamp : clampParam n v = max range.1 (min range.2 v) := if_neg not
  rw [clamp]
  omega

theorem nearestThreshold_values (v : Int) : nearestThreshold v = 1 ∨ nearestThreshold v = 4 ∨ nearestThreshold v = 8 := by
  unfold nearestThreshold
  split_ifs <;> simp

theorem nearestThreshold_nearest (v w : Int) (hw : w = 1 ∨ w = 4 ∨ w = 8) :
    (nearestThreshold v - v).natAbs ≤ (w - v).natAbs := by
  unfold nearestThreshold
  split_ifs <;> omega

theorem values_write (p : Params) (n : Nat) (v : Int) (low : 1 ≤ n) (high : n ≤ 29) (natural : 0 ≤ v ∨ n = 11) :
    (Params.write n v p).values = p.values.set (n - 1) v := by
  by_cases signed : n = 11
  · subst signed
    rfl
  · have cast : (v.toNat : Int) = v := Int.toNat_of_nonneg (natural.resolve_right signed)
    interval_cases n <;> simp [Params.write, Params.values, cast] at signed ⊢

end Sys2Proof.Machine

open Sys2Proof Sys2Proof.Machine

/-- Settles O55: by whether the list has its length, has a pair left, and names a parameter with it. -/
theorem writeMovesStagedSet : Obligations.WriteMovesStagedSet := by
  refine ⟨fun q rest s serves => ?_, fun n v low high not => clampParam_range high not v, nearestThreshold_values,
    nearestThreshold_nearest, rfl, fun p n v low high natural => values_write p n v low high natural⟩
  intro count begun number value good changed written ends
  have ended (r : Reply) (staged : Params) (payload : List Byte) (same : r.payload = payload) :
      ends staged payload (finishHead q rest r { s with staged := staged }) := by
    refine ⟨rfl, fun k can => ?_⟩
    rw [← same]
    exact finishHead_carries (s := { s with staged := staged }) r can
  have unwritten (zero : count = 0) (start : s.progress = Progress.start) :
      (writeReply count s.progress.taken s.progress.clamped).payload = [0, 0, 0, 0, 0, 0] := by
    rw [zero, start]
    exact writeReply_done 0 0
  refine ⟨?_, fun len start k hk all => ⟨writtenFirst q s, writtenFirst_zero start, fun i hi => ?_, rfl⟩⟩
  · by_cases len : q.fields.length = 1 + 3 * count
    · by_cases left : begun < count
      · by_cases ok : good begun
        · by_cases more : begun + 1 < count
          · exact ⟨_, write_goesOn serves len more ok, fun _ => ⟨rfl, rfl⟩, fun wrong => absurd len wrong,
              fun _ => ⟨fun zero => by omega, fun _ _ => rfl, fun last => by omega, fun _ bad => absurd ok bad⟩⟩
          · exact ⟨_, write_last serves len (by omega) ok, finishHead_sameIntake _ _ _ _, fun wrong => absurd len wrong,
              fun _ => ⟨fun zero => by omega, fun more' => absurd more' more,
                fun _ _ => ended _ _ _ (writeReply_done count _), fun _ bad => absurd ok bad⟩⟩
        · exact ⟨_, write_stops serves len left ok, finishHead_sameIntake _ _ _ _, fun wrong => absurd len wrong,
            fun _ => ⟨fun zero => by omega, fun _ yes => absurd yes ok, fun _ yes => absurd yes ok,
              fun _ _ => ended _ _ _ (writeReply_stopped left _)⟩⟩
      · exact ⟨_, write_ended serves len (by omega), finishHead_sameIntake _ _ _ _, fun wrong => absurd len wrong,
          fun _ => ⟨fun zero start => ended _ s.staged _ (unwritten zero start), fun more => by omega, fun last => by omega,
            fun more => absurd more left⟩⟩
    · exact ⟨_, write_missized serves len, finishHead_sameIntake _ _ _ _, fun _ => ended _ _ _ rfl,
        fun right => absurd right len⟩
  · rw [writtenFirst_succ]
    exact write_goesOn (s := writtenFirst q s i) serves len (show i + 1 < count by omega) (all i hi)
end

section
/-! PROOFS. The loads as lookups (R29, R31, R71, R72, R112, R117, R156): what an entry that is taken leaves in its table, and
what a removed one takes with it. -/

namespace Sys2Proof.Machine

variable {s t : State}

/-! ## Tables in key order -/

/-- An entry that joins a table is the one found under its key. -/
theorem find_insertKeyed_self {α : Type} (key : α → Nat) (x : α) : ∀ l : List α,
    (insertKeyed key x l).find? (fun e => key e == key x) = some x
  | [] => List.find?_cons_of_pos (by simp)
  | y :: ys => by
    unfold insertKeyed
    split
    · exact List.find?_cons_of_pos (by simp)
    · split
      · exact List.find?_cons_of_pos (by simp)
      · rename_i other
        rw [List.find?_cons_of_neg (by simpa using Ne.symm other)]
        exact find_insertKeyed_self key x ys

/-- The other entries of the table are found as before. -/
theorem find_insertKeyed_other {α : Type} (key : α → Nat) (x : α) {k : Nat} (h : k ≠ key x) : ∀ l : List α,
    (insertKeyed key x l).find? (fun e => key e == k) = l.find? fun e => key e == k
  | [] => List.find?_cons_of_neg (by simpa using Ne.symm h)
  | y :: ys => by
    have skip (l : List α) : (x :: l).find? (fun e => key e == k) = l.find? fun e => key e == k :=
      List.find?_cons_of_neg (by simpa using Ne.symm h)
    unfold insertKeyed
    split
    · exact skip (y :: ys)
    · split
      · rename_i same
        rw [skip, List.find?_cons_of_neg (by simpa [← same] using Ne.symm h)]
      · rw [List.find?_cons, List.find?_cons, find_insertKeyed_other key x h ys]

theorem find_insertKeyed {α : Type} (key : α → Nat) (x : α) (k : Nat) (l : List α) :
    (insertKeyed key x l).find? (fun e => key e == k) = if k = key x then some x else l.find? fun e => key e == k := by
  by_cases h : k = key x
  · rw [if_pos h, h]
    exact find_insertKeyed_self key x l
  · rw [if_neg h]
    exact find_insertKeyed_other key x h l

/-- An entry that is removed is gone; the others are found as before. -/
theorem find_filter_key {α : Type} (key : α → Nat) (n k : Nat) (l : List α) :
    (l.filter fun e => key e != n).find? (fun e => key e == k) = if k = n then none else l.find? fun e => key e == k := by
  rw [List.find?_filter]
  by_cases h : k = n
  · simp [h]
  · rw [if_neg h]
    congr 1
    funext e
    by_cases hk : key e = k
    · simp [hk, h]
    · simp [hk]

theorem findSite_insert (x : SiteEntry) (k : SiteId) (l : List SiteEntry) :
    findSite k (insertKeyed SiteEntry.site x l) = if k = x.site then some x else findSite k l :=
  find_insertKeyed SiteEntry.site x k l

theorem findTalkgroup_insert (x : TalkgroupEntry) (k : TalkgroupId) (l : List TalkgroupEntry) :
    findTalkgroup k (insertKeyed TalkgroupEntry.id x l) = if k = x.id then some x else findTalkgroup k l :=
  find_insertKeyed TalkgroupEntry.id x k l

theorem linkOfByte_iff (b : Byte) (l : LinkNo) : linkOfByte b = some l ↔ b.toNat = l.val := by
  unfold linkOfByte
  split
  · simp [Fin.ext_iff]
  · simp only [reduceCtorEq, false_iff]
    have := l.isLt
    omega

/-! ## Sites (R29, R31, R117) -/

/-- The entry that a LOAD SITES entry writes: a kept entry keeps its dynamic part. -/
def loadedSite (n : SiteId) (primary alternate : Option LinkNo) (management : Bool) (s : State) : SiteEntry :=
  match findSite n s.sites with
  | some x => { x with primary := primary, alternate := alternate, management := management }
  | none =>
    { site := n
      primary := primary
      alternate := alternate
      management := management
      lastSequence := none
      ageTimer := none
      announcedPeriod := none }

theorem loadedSite_site (n : SiteId) (primary alternate : Option LinkNo) (management : Bool) (s : State) :
    (loadedSite n primary alternate management s).site = n := by
  unfold loadedSite
  split
  · rename_i x found
    simpa [findSite] using List.find?_some found
  · rfl

theorem putSite_eq (n : SiteId) (primary alternate : Option LinkNo) (management : Bool) (s : State) :
    putSite n primary alternate management s
      = { s with sites := insertKeyed SiteEntry.site (loadedSite n primary alternate management s) s.sites } := rfl

theorem putSite_find (n : SiteId) (primary alternate : Option LinkNo) (management : Bool) (k : SiteId) (s : State) :
    findSite k (putSite n primary alternate management s).sites
      = if k = n then some (loadedSite n primary alternate management s) else findSite k s.sites := by
  rw [putSite_eq, findSite_insert, loadedSite_site]

theorem removeSite_find (n k : SiteId) (s : State) :
    findSite k (removeSite n s).sites = if k = n then none else findSite k s.sites := by
  unfold removeSite
  split
  · rename_i gone
    by_cases h : k = n
    · rw [if_pos h, h, gone]
    · rw [if_neg h]
  · exact find_filter_key SiteEntry.site n k s.sites

theorem hasSite_dropped (set : SiteSet) (n : SiteId) : hasSite (dropSite set n) n = false := by
  rw [Bool.eq_false_iff]
  intro yes
  exact ((hasSite_dropSite set n n).mp yes).2 rfl

theorem removeSite_sets {n : SiteId} {x : SiteEntry} (found : findSite n s.sites = some x) :
    ∀ y ∈ (removeSite n s).talkgroups, hasSite y.remote n = false := by
  intro y hy
  simp only [removeSite, found, dropFromSets, List.mem_map] at hy
  obtain ⟨g, -, rfl⟩ := hy
  exact hasSite_dropped g.remote n

/-! ## Neighbours (R71, R72) -/

theorem findNeighbor_cons (k : SiteId) (o : Option NeighborEntry) (l : List (Option NeighborEntry)) :
    findNeighbor k (o :: l) = (o.filter fun x => x.site == k).or (findNeighbor k l) := by
  unfold findNeighbor
  rw [List.findSome?_cons]
  cases o.filter fun x => x.site == k <;> rfl

theorem filter_neighbor_other {x : NeighborEntry} {k : SiteId} (h : x.site ≠ k) :
    ((some x).filter fun x => x.site == k) = none := by
  simp [Option.filter, h]

/-- The entry of another site or none at a position is not found under a site. -/
theorem removed_neighbor (n k : SiteId) (o : Option NeighborEntry) :
    ((o.filter fun x => x.site != n).filter fun x => x.site == k)
      = if k = n then none else o.filter fun x => x.site == k := by
  cases o with
  | none => simp
  | some x =>
    by_cases hx : x.site = n
    · by_cases h : k = n
      · simp [Option.filter, hx, h]
      · simp [Option.filter, hx, h, Ne.symm h]
    · by_cases h : k = n
      · simp [Option.filter, hx, h]
      · simp [Option.filter, hx, h]

theorem removeNeighbor_find (n k : SiteId) (s : State) :
    findNeighbor k (removeNeighbor n s).neighbors = if k = n then none else findNeighbor k s.neighbors := by
  show findNeighbor k (s.neighbors.map fun o => o.filter fun x => x.site != n) = _
  induction s.neighbors with
  | nil => simp [findNeighbor]
  | cons o l ih =>
    rw [List.map_cons, findNeighbor_cons, findNeighbor_cons, removed_neighbor, ih]
    split <;> rfl

/-- A neighbour entry written where its site's entry or none stood is found, and the others as before. -/
theorem findNeighbor_set (x : NeighborEntry) (k : SiteId) : ∀ (l : List (Option NeighborEntry)) (i : Nat),
    (∀ j, j < i → ∀ y, l[j]? = some (some y) → y.site ≠ x.site) →
    (∃ o, l[i]? = some o ∧ ∀ y, o = some y → y.site = x.site) →
    findNeighbor k (l.set i (some x)) = if k = x.site then some x else findNeighbor k l
  | [], i, _, here => by simp at here
  | o :: l, 0, _, here => by
    obtain ⟨o', first, mine⟩ := here
    obtain rfl : o = o' := by simpa using first
    rw [List.set_cons_zero, findNeighbor_cons, findNeighbor_cons]
    by_cases h : k = x.site
    · simp [h, Option.filter]
    · have gone : (o.filter fun y => y.site == k) = none := by
        cases o with
        | none => rfl
        | some y => exact filter_neighbor_other (mine y rfl ▸ Ne.symm h)
      rw [if_neg h, gone, filter_neighbor_other (Ne.symm h)]
  | o :: l, i + 1, before, here => by
    have ih := findNeighbor_set x k l i (fun j hj y hy => before (j + 1) (by omega) y (by simpa using hy))
      (by simpa using here)
    rw [List.set_cons_succ, findNeighbor_cons, findNeighbor_cons, ih]
    by_cases h : k = x.site
    · have gone : (o.filter fun y => y.site == k) = none := by
        cases o with
        | none => rfl
        | some y => exact filter_neighbor_other (h ▸ before 0 (by omega) y rfl)
      rw [gone, if_pos h, if_pos h]
      rfl
    · rw [if_neg h, if_neg h]

theorem removeNeighbor_slots {n : SiteId} (found : (findNeighbor n s.neighbors).isSome = true) :
    ∀ r ∈ (removeNeighbor n s).units, ∀ x, some x ∈ r.candidates → x.site ≠ n := by
  intro r hr x hx
  simp only [removeNeighbor, found, if_true, List.mem_map] at hr
  obtain ⟨r', -, rfl⟩ := hr
  simp only [freeSlotsOf, List.mem_map] at hx
  obtain ⟨o, -, kept⟩ := hx
  have := (Option.filter_eq_some_iff.mp kept).2
  simpa using this

theorem findNeighbor_isSome_iff (n : SiteId) (l : List (Option NeighborEntry)) :
    (findNeighbor n l).isSome = true ↔ ∃ y, some y ∈ l ∧ y.site = n := by
  rw [findNeighbor, List.findSome?_isSome_iff]
  constructor
  · rintro ⟨o, ho, kept⟩
    obtain ⟨y, hy⟩ := Option.isSome_iff_exists.mp kept
    obtain ⟨rfl, same⟩ := Option.filter_eq_some_iff.mp hy
    exact ⟨y, ho, by simpa using same⟩
  · rintro ⟨y, hy, rfl⟩
    exact ⟨some y, hy, by simp [Option.filter]⟩

/-- The position that a predicate finds holds what it asks for, and none before it does. -/
theorem findIdx_position {α : Type} {p : α → Bool} {l : List α} (h : ∃ a ∈ l, p a = true) :
    (∃ a, l[l.findIdx p]? = some a ∧ p a = true) ∧ ∀ j, j < l.findIdx p → ∀ a, l[j]? = some a → p a = false := by
  have inside : l.findIdx p < l.length := List.findIdx_lt_length.mpr h
  refine ⟨⟨l[l.findIdx p], List.getElem?_eq_getElem inside, List.findIdx_getElem⟩, fun j hj a ha => ?_⟩
  obtain ⟨_, rfl⟩ := List.getElem?_eq_some_iff.mp ha
  simpa using List.not_of_lt_findIdx hj

theorem putNeighbor_find (x : NeighborEntry) (k : SiteId)
    (room : (findNeighbor x.site s.neighbors).isSome = true ∨ none ∈ s.neighbors) :
    findNeighbor k (putNeighbor x s).neighbors = if k = x.site then some x else findNeighbor k s.neighbors := by
  cases found : findNeighbor x.site s.neighbors with
  | some y =>
    obtain ⟨z, hz, same⟩ := (findNeighbor_isSome_iff x.site s.neighbors).mp (by rw [found]; rfl)
    obtain ⟨⟨o, at', mine⟩, before⟩ := findIdx_position (p := fun o : Option NeighborEntry => o.any fun e => e.site == x.site)
      ⟨some z, hz, by simpa using same⟩
    have put : (putNeighbor x s).neighbors = s.neighbors.set (neighborIndex x.site s.neighbors) (some x) := by
      simp only [putNeighbor, found]
    rw [put]
    refine findNeighbor_set x k s.neighbors _ (fun j hj y hy => ?_) ⟨o, at', fun y hy => ?_⟩
    · simpa using before j hj (some y) hy
    · subst hy
      simpa using mine
  | none =>
    have absent (y : NeighborEntry) (hy : some y ∈ s.neighbors) : y.site ≠ x.site := fun same => by
      have := (findNeighbor_isSome_iff x.site s.neighbors).mpr ⟨y, hy, same⟩
      rw [found] at this
      cases this
    have empty : none ∈ s.neighbors := room.resolve_left (by rw [found]; nofun)
    obtain ⟨⟨o, at', mine⟩, -⟩ := findIdx_position (p := Option.isNone) ⟨none, empty, rfl⟩
    have put : (putNeighbor x s).neighbors = s.neighbors.set (s.neighbors.findIdx Option.isNone) (some x) := by
      simp only [putNeighbor, found]
    rw [put]
    refine findNeighbor_set x k s.neighbors _ (fun j _ y hy => absent y (List.mem_of_getElem? hy)) ⟨o, at', fun y hy => ?_⟩
    subst hy
    cases mine

/-! ## Talkgroups (R112) -/

/-- The entry that a LOAD TALKGROUPS entry writes: a kept entry keeps its members and its set. -/
def loadedTalkgroup (e : List Byte) (s : State) : TalkgroupEntry :=
  { id := fieldAt e 0 2
    channel := channelOfByte (byteAt e 2)
    cls := if byteAt e 3 = 1 then .priority else .routine
    talkLimit := fieldAt e 4 2
    hangTime := (byteAt e 6).toNat
    members := ((findTalkgroup (fieldAt e 0 2) s.talkgroups).map TalkgroupEntry.members).getD 0
    remote := ((findTalkgroup (fieldAt e 0 2) s.talkgroups).map TalkgroupEntry.remote).getD 0 }

theorem takeTalkgroup_loads {e : List Byte} (h : byteAt e 7 ≠ 1) :
    takeTalkgroup e s
      = { s with talkgroups := insertKeyed TalkgroupEntry.id (loadedTalkgroup e s) s.talkgroups } := if_neg h

theorem takeTalkgroup_removes {e : List Byte} (h : byteAt e 7 = 1) :
    takeTalkgroup e s = { s with talkgroups := s.talkgroups.filter fun g => g.id != fieldAt e 0 2 } := if_pos h

theorem takeTalkgroup_frame (e : List Byte) (s : State) :
    takeTalkgroup e s = { s with talkgroups := (takeTalkgroup e s).talkgroups } := by
  unfold takeTalkgroup
  split <;> rfl

theorem takeTalkgroup_find (e : List Byte) (k : TalkgroupId) (s : State) :
    findTalkgroup k (takeTalkgroup e s).talkgroups
      = if k = fieldAt e 0 2 then (if byteAt e 7 = 1 then none else some (loadedTalkgroup e s))
        else findTalkgroup k s.talkgroups := by
  by_cases h : byteAt e 7 = 1
  · rw [takeTalkgroup_removes h, if_pos h]
    exact find_filter_key TalkgroupEntry.id _ k s.talkgroups
  · rw [takeTalkgroup_loads h, if_neg h]
    exact findTalkgroup_insert (loadedTalkgroup e s) k s.talkgroups

theorem fieldAt_two (a b : Byte) (l : List Byte) : fieldAt (a :: b :: l) 0 2 = a.toNat * 256 + b.toNat := by
  simp [fieldAt, beNat]

end Sys2Proof.Machine

open Sys2Proof Sys2Proof.Machine

/-- Settles O58: table by table, by whether the entry is removed or loaded. -/
theorem loadedEntriesAreSeen : Obligations.LoadedEntriesAreSeen := by
  intro s a b c d e f g h
  refine ⟨?_, ?_, ?_⟩
  · intro n t
    by_cases removed : e = 1
    · have run : t = removeSite n s := if_pos removed
      rw [run]
      refine ⟨fun k hk => (removeSite_find n k s).trans (if_neg hk), fun _ =>
        ⟨(removeSite_find n n s).trans (if_pos rfl), fun x found => removeSite_sets found⟩, fun zero => ?_⟩
      rw [removed] at zero
      exact absurd zero (by decide)
    · have run : t = putSite n (linkOfByte b) (linkOfByte c) (d == 1) s := if_neg removed
      rw [run]
      refine ⟨fun k hk => (putSite_find n _ _ _ k s).trans (if_neg hk), fun one => absurd one removed, fun _ =>
        ⟨rfl, _, (putSite_find n _ _ _ n s).trans (if_pos rfl), ?_⟩⟩
      unfold loadedSite
      cases found : findSite n s.sites with
      | none => exact ⟨linkOfByte_iff b, linkOfByte_iff c, rfl, fun _ found => (by cases found), fun _ => ⟨rfl, rfl, rfl⟩⟩
      | some y =>
        refine ⟨linkOfByte_iff b, linkOfByte_iff c, rfl, fun y' some => ?_, fun none => by cases none⟩
        obtain rfl : y = y' := Option.some.inj some
        exact ⟨rfl, rfl, rfl⟩
  · intro n t
    have id : fieldAt [a, b, c, d, e, f, g, h] 0 2 = n := fieldAt_two a b _
    have find (k : TalkgroupId) := takeTalkgroup_find [a, b, c, d, e, f, g, h] k s
    rw [id] at find
    refine ⟨takeTalkgroup_frame _ s, fun k hk => (find k).trans (if_neg hk), fun one => ?_, fun zero chan =>
      ⟨loadedTalkgroup [a, b, c, d, e, f, g, h] s, ?_, ?_⟩⟩
    · rw [find, if_pos rfl]
      exact if_pos one
    · rw [find, if_pos rfl]
      refine if_neg ?_
      show h ≠ 1
      rw [zero]
      decide
    · refine ⟨?_, rfl, ?_, rfl, ?_, ?_⟩
      · show c.toNat % 6 = c.toNat
        omega
      · show fieldAt [a, b, c, d, e, f, g, h] 4 2 = _
        simp [fieldAt, beNat]
      · simp only [loadedTalkgroup, id]
      · simp only [loadedTalkgroup, id]
  · intro n t
    refine ⟨fun removed => ?_, fun zero room => ?_⟩
    · have run : t = removeNeighbor n s := if_pos removed
      rw [run]
      exact ⟨(removeNeighbor_find n n s).trans (if_pos rfl), fun k hk => (removeNeighbor_find n k s).trans (if_neg hk),
        removeNeighbor_slots⟩
    · have run : t = putNeighbor { site := n, bias := b.toInt, enabled := c == 1 } s := by
        refine if_neg ?_
        show d ≠ 1
        rw [zero]
        decide
      rw [run]
      exact ⟨fun k hk => (putNeighbor_find _ k room).trans (if_neg hk), (putNeighbor_find _ n room).trans (if_pos rfl), rfl⟩
end

section
/-! PROOFS. The loads (R155, R156): entry by entry up to the first that fails a check, and which entries pass. -/

namespace Sys2Proof.Machine

variable {s t : State} {q : Request} {rest : List Request} {k : Handle}

/-! ## A load as a command -/

/-- The `i`-th entry of a load. -/
def loadEntry (size : Nat) (q : Request) (i : Nat) : List Byte := (q.fields.drop (1 + size * i)).take size

/-- The state when the first `k` entries of a load have been taken. -/
def takenFirst (size : Nat) (take : List Byte → State → State) (q : Request) (s : State) (k : Nat) : State :=
  (List.range k).foldl (fun s i => take (loadEntry size q i) s) s

/-- What the three loads have in common: their command, and that taking an entry moves tables alone, whatever the
progress. -/
structure Loading (size : Nat) (code : Byte) (c : Instr) (check : List Byte → State → Option Byte)
    (take : List Byte → State → State) : Prop where
  runs : ∀ s, exec c s = .next (serveListed (fun b => b == code) size (load size check take) s)
  io : ∀ e s, (take e s).io = s.io
  requests : ∀ e s, (take e s).requests = s.requests
  check_progress : ∀ e s p, check e { s with progress := p } = check e s
  take_progress : ∀ e s p, take e { s with progress := p } = { take e s with progress := p }

section

variable {size : Nat} {code : Byte} {c : Instr} {check : List Byte → State → Option Byte}
  {take : List Byte → State → State} (loading : Loading size code c check take)
include loading

theorem Loading.progress (e : List Byte) (s : State) : (take e s).progress = s.progress := by
  have same := loading.take_progress e s s.progress
  exact (congrArg State.progress same :)

/-- The entries that have been taken moved tables alone. -/
theorem Loading.takenFirst (q : Request) (s : State) : ∀ k,
    (takenFirst size take q s k).io = s.io ∧ (takenFirst size take q s k).requests = s.requests
  | 0 => ⟨rfl, rfl⟩
  | k + 1 => by
    have ih := Loading.takenFirst q s k
    simp only [Machine.takenFirst, List.range_succ, List.foldl_append, List.foldl_cons, List.foldl_nil] at ih ⊢
    exact ⟨(loading.io _ _).trans ih.1, (loading.requests _ _).trans ih.2⟩

variable (serves : s.serves q rest code)
include serves

theorem Loading.missized (len : q.fields.length ≠ 1 + size * (byteAt q.fields 0).toNat) :
    exec c s = .next (finishHead q rest Reply.badValue s) :=
  (loading.runs s).trans (congrArg Host.Outcome.next (serveListed_of_length size _ serves (by simp) len))

variable (len : q.fields.length = 1 + size * (byteAt q.fields 0).toNat)
include len

theorem Loading.ended (h : (byteAt q.fields 0).toNat ≤ s.progress.taken) :
    exec c s = .next (finishHead q rest (loadReply (byteAt q.fields 0).toNat s.progress.taken none) s) :=
  (loading.runs s).trans (congrArg Host.Outcome.next (serveListed_of_some size serves (by simp) len (load_of_end size h)))

theorem Loading.goesOn (more : s.progress.taken + 1 < (byteAt q.fields 0).toNat)
    (ok : check (loadEntry size q s.progress.taken) s = none) :
    exec c s
      = .next { take (loadEntry size q s.progress.taken) s with
          progress := { s.progress with taken := s.progress.taken + 1 } } := by
  have taken := load_of_taken size (check := check) (take := take) (getElem?_entriesOf size (by omega)) ok more
  rw [loading.progress] at taken
  exact (loading.runs s).trans (congrArg Host.Outcome.next (serveListed_of_none size serves (by simp) len taken))

theorem Loading.last (last : s.progress.taken + 1 = (byteAt q.fields 0).toNat)
    (ok : check (loadEntry size q s.progress.taken) s = none) :
    exec c s
      = .next (finishHead q rest (loadReply (byteAt q.fields 0).toNat (byteAt q.fields 0).toNat none)
          (take (loadEntry size q s.progress.taken) s)) :=
  (loading.runs s).trans (congrArg Host.Outcome.next
    (serveListed_of_some size serves (by simp) len
      (load_of_last size (getElem?_entriesOf size (by omega)) ok last)))

theorem Loading.stops (left : s.progress.taken < (byteAt q.fields 0).toNat) {cause : Byte}
    (failed : check (loadEntry size q s.progress.taken) s = some cause) :
    exec c s
      = .next (finishHead q rest (loadReply (byteAt q.fields 0).toNat s.progress.taken (some cause)) s) :=
  (loading.runs s).trans (congrArg Host.Outcome.next
    (serveListed_of_some size serves (by simp) len (load_of_failed size (getElem?_entriesOf size left) failed)))

end

theorem sameIntake_of_io {m : State} (io : m.io = s.io) (h : m.sameIntake t) : s.sameIntake t := fun p => by
  have same := h p
  unfold State.handedAt receptionOf at same ⊢
  rw [io] at same
  exact same

theorem loading_sites : Loading 5 2 .loadSites checkSite takeSite := by
  refine ⟨fun _ => rfl, fun e s => ?_, fun e s => ?_, fun _ _ _ => rfl, fun e s p => ?_⟩
  all_goals
    unfold takeSite removeSite
    split
    · simp only
      split <;> rfl
    · rfl

theorem loading_talkgroups : Loading 8 3 .loadTalkgroups checkTalkgroup takeTalkgroup := by
  refine ⟨fun _ => rfl, fun e s => ?_, fun e s => ?_, fun _ _ _ => rfl, fun e s p => ?_⟩
  · rw [takeTalkgroup_frame]
  · rw [takeTalkgroup_frame]
  · unfold takeTalkgroup
    split <;> rfl

theorem loading_neighbors : Loading 4 4 .loadNeighbors checkNeighbor takeNeighbor := by
  refine ⟨fun _ => rfl, fun e s => ?_, fun e s => ?_, fun _ _ _ => rfl, fun e s p => ?_⟩
  all_goals
    unfold takeNeighbor
    split <;> rfl

/-! ## The replies (R156) -/

theorem loadReply_done (count : Nat) : (loadReply count count none).payload = [0, 0, 0, 0, BitVec.ofNat 8 count, 0] :=
  done_payload _

theorem loadReply_stopped (count taken : Nat) (cause : Byte) :
    (loadReply count taken (some cause)).payload
      = (if taken = 0 then cause else 7) :: (beBytes 2 (count - taken)
        ++ [BitVec.ofNat 8 taken, BitVec.ofNat 8 taken, cause]) := rfl

/-! ## The checks -/

theorem flagOk_iff (b : Byte) : flagOk b = true ↔ b = 0 ∨ b = 1 := by simp [flagOk]

theorem linkOk_iff (b : Byte) : linkOk b = true ↔ b.toNat ≤ 3 ∨ b = 255 := by simp [linkOk]

/-- A field that is a marker, beside fields that are read where it is clear alone. -/
theorem marked_iff (b : Byte) {ok : Bool} {good : Prop} (h : ok = true ↔ good) :
    (flagOk b && (b == 1 || ok)) = true ↔ b = 1 ∨ (b = 0 ∧ good) := by
  simp only [Bool.and_eq_true, flagOk_iff, Bool.or_eq_true, beq_iff_eq, h]
  constructor
  · rintro ⟨zero | one, one' | yes⟩
    · exact .inl one'
    · exact .inr ⟨zero, yes⟩
    · exact .inl one
    · exact .inl one
  · rintro (one | ⟨zero, yes⟩)
    · exact ⟨.inr one, .inl one⟩
    · exact ⟨.inl zero, .inr yes⟩

/-! ### Sites -/

theorem checkSite_iff (s : State) (a b c d e : Byte) :
    let ok :=
      1 ≤ a.toNat ∧ a.toNat ≤ 32
        ∧ (e = 1 ∨ (e = 0 ∧ (b.toNat ≤ 3 ∨ b = 255) ∧ (c.toNat ≤ 3 ∨ c = 255) ∧ (d = 0 ∨ d = 1)))
    (ok → checkSite [a, b, c, d, e] s = none) ∧ (¬ok → checkSite [a, b, c, d, e] s = some 4) := by
  intro ok
  have fields : (linkOk b && linkOk c && flagOk d) = true ↔ (b.toNat ≤ 3 ∨ b = 255) ∧ (c.toNat ≤ 3 ∨ c = 255) ∧ (d = 0 ∨ d = 1) := by
    simp only [Bool.and_eq_true, linkOk_iff, flagOk_iff, and_assoc]
  have passes : (siteIdOk a.toNat && flagOk e && (e == 1 || (linkOk b && linkOk c && flagOk d))) = true ↔ ok := by
    rw [Bool.and_assoc, Bool.and_eq_true, siteIdOk_iff, marked_iff e fields, and_assoc]
  exact ⟨fun yes => if_pos (passes.mpr yes), fun no => if_neg (mt passes.mp no)⟩

/-! ### Talkgroups -/

theorem fieldAt_four (a b c d e f : Byte) (l : List Byte) :
    fieldAt (a :: b :: c :: d :: e :: f :: l) 4 2 = e.toNat * 256 + f.toNat := by
  simp [fieldAt, beNat]

theorem talkgroupFieldsOk_iff (a b c d e f g h : Byte) :
    talkgroupFieldsOk [a, b, c, d, e, f, g, h] = true
      ↔ 1 ≤ a.toNat * 256 + b.toNat ∧ a.toNat * 256 + b.toNat ≤ 65534
        ∧ (h = 1 ∨ (h = 0 ∧ c.toNat ≤ 5 ∧ (d = 0 ∨ d = 1) ∧ 10 ≤ e.toNat * 256 + f.toNat
          ∧ e.toNat * 256 + f.toNat ≤ 300 ∧ g.toNat ≤ 100)) := by
  have fields : (decide (c.toNat ≤ 5) && flagOk d && decide (10 ≤ e.toNat * 256 + f.toNat)
      && decide (e.toNat * 256 + f.toNat ≤ 300) && decide (g.toNat ≤ 100)) = true
      ↔ c.toNat ≤ 5 ∧ (d = 0 ∨ d = 1) ∧ 10 ≤ e.toNat * 256 + f.toNat ∧ e.toNat * 256 + f.toNat ≤ 300 ∧ g.toNat ≤ 100 := by
    simp only [Bool.and_eq_true, decide_eq_true_eq, flagOk_iff, and_assoc]
  have whole : talkgroupFieldsOk [a, b, c, d, e, f, g, h]
      = (decide (1 ≤ a.toNat * 256 + b.toNat) && decide (a.toNat * 256 + b.toNat ≤ 65534) && (flagOk h
        && (h == 1 || (decide (c.toNat ≤ 5) && flagOk d && decide (10 ≤ e.toNat * 256 + f.toNat)
          && decide (e.toNat * 256 + f.toNat ≤ 300) && decide (g.toNat ≤ 100))))) := by
    simp only [talkgroupFieldsOk, fieldAt_two, fieldAt_four]
    rw [Bool.and_assoc]
    rfl
  rw [whole, Bool.and_eq_true, Bool.and_eq_true, marked_iff h fields, decide_eq_true_eq, decide_eq_true_eq, and_assoc]

theorem mem_channels {x : Channel} : x ∈ s.channels.toList ↔ ∃ n : ChannelNo, s.channel n = x := by
  constructor
  · intro hx
    obtain ⟨i, hi, rfl⟩ := List.getElem_of_mem hx
    exact ⟨⟨i, by simpa using hi⟩, by simp [State.channel]⟩
  · rintro ⟨n, rfl⟩
    simp [State.channel]

theorem talkgroupInUse_iff (y : TalkgroupEntry) (s : State) :
    talkgroupInUse y s = true
      ↔ 0 < y.members
        ∨ ∃ n, (∃ call, (s.channel n).phase.call? = some call ∧ call.talkgroup = y.id)
          ∨ ∃ w ∈ (s.channel n).waits, w.call.talkgroup = y.id := by
  simp only [talkgroupInUse, Bool.or_eq_true, decide_eq_true_eq, List.any_eq_true, mem_channels, Option.any_eq_true,
    beq_iff_eq, exists_exists_eq_and]

theorem checkTalkgroup_bad {e : List Byte} (bad : ¬talkgroupFieldsOk e = true) : checkTalkgroup e s = some 4 := by
  simp [checkTalkgroup, bad]

theorem checkTalkgroup_new {e : List Byte} (ok : talkgroupFieldsOk e = true)
    (new : findTalkgroup (fieldAt e 0 2) s.talkgroups = none) :
    checkTalkgroup e s = if byteAt e 7 ≠ 1 ∧ 64 ≤ s.talkgroups.length then some 5 else none := by
  simp only [checkTalkgroup, ok, new, Config.talkgroupCapacity, Bool.not_true, Bool.false_eq_true, if_false,
    Bool.and_eq_true, bne_iff_ne]
  exact if_congr (and_congr_right' decide_eq_true_iff) rfl rfl

theorem checkTalkgroup_old {e : List Byte} {y : TalkgroupEntry} (ok : talkgroupFieldsOk e = true)
    (old : findTalkgroup (fieldAt e 0 2) s.talkgroups = some y) :
    checkTalkgroup e s
      = if talkgroupInUse y s = true ∧ (byteAt e 7 = 1 ∨ (byteAt e 2).toNat ≠ y.channel.val) then some 6 else none := by
  simp [checkTalkgroup, ok, old]

/-! ### Neighbours -/

/-- What the fields of a LOAD NEIGHBORS entry have to be (R71). -/
def neighborFieldsGood (s : State) (a b c d : Byte) : Prop :=
  1 ≤ a.toNat ∧ a.toNat ≤ 32 ∧ a.toNat ≠ s.own
    ∧ (d = 1 ∨ (d = 0 ∧ -20 ≤ b.toInt ∧ b.toInt ≤ 20 ∧ (c = 0 ∨ c = 1)))

theorem neighborFields_iff (s : State) (a b c d : Byte) :
    (siteIdOk a.toNat && a.toNat != s.own && flagOk d
        && (d == 1 || (decide (-20 ≤ b.toInt) && decide (b.toInt ≤ 20) && flagOk c))) = true
      ↔ neighborFieldsGood s a b c d := by
  have fields : (decide (-20 ≤ b.toInt) && decide (b.toInt ≤ 20) && flagOk c) = true
      ↔ -20 ≤ b.toInt ∧ b.toInt ≤ 20 ∧ (c = 0 ∨ c = 1) := by
    simp only [Bool.and_eq_true, decide_eq_true_eq, flagOk_iff, and_assoc]
  rw [Bool.and_assoc, Bool.and_eq_true, marked_iff d fields, Bool.and_eq_true, siteIdOk_iff, bne_iff_ne, and_assoc,
    and_assoc]
  rfl

theorem checkNeighbor_bad {a b c d : Byte} (bad : ¬neighborFieldsGood s a b c d) :
    checkNeighbor [a, b, c, d] s = some 4 := by
  refine if_pos ?_
  rw [Bool.not_eq_true', Bool.eq_false_iff]
  exact mt (neighborFields_iff s a b c d).mp bad

theorem checkNeighbor_good {a b c d : Byte} (good : neighborFieldsGood s a b c d) :
    checkNeighbor [a, b, c, d] s
      = if d ≠ 1 ∧ findNeighbor a.toNat s.neighbors = none ∧ s.neighbors.all Option.isSome = true then some 5 else none := by
  have passes := (neighborFields_iff s a b c d).mpr good
  refine (if_neg ?_).trans ?_
  · rw [Bool.not_eq_true', Bool.not_eq_false]
    exact passes
  · show (if (d != 1 && (findNeighbor a.toNat s.neighbors).isNone && s.neighbors.all Option.isSome) = true then _ else _) = _
    simp only [Bool.and_eq_true, bne_iff_ne, Option.isNone_iff_eq_none, and_assoc]

/-- A table of eight positions is full when it has eight entries. -/
theorem neighbors_full_iff (law : s.neighborLaw) :
    s.neighbors.all Option.isSome = true ↔ (s.neighbors.filterMap id).length = 8 := by
  obtain ⟨length, -⟩ := law
  rw [← length, List.all_eq_true, List.length_filterMap_eq_countP, List.countP_eq_length]
  exact Iff.rfl

/-- The state when the first `k` entries of a load have been taken, the load still at the head with its progress. -/
def loadedFirst (size : Nat) (take : List Byte → State → State) (q : Request) (s : State) (k : Nat) : State :=
  { takenFirst size take q s k with progress := { s.progress with taken := k } }

theorem takenFirst_succ (size : Nat) (take : List Byte → State → State) (q : Request) (s : State) (k : Nat) :
    takenFirst size take q s (k + 1) = take (loadEntry size q k) (takenFirst size take q s k) := by
  simp only [takenFirst, List.range_succ, List.foldl_append, List.foldl_cons, List.foldl_nil]

/-- A good entry of a load is taken on the state that the earlier ones have left. -/
theorem Loading.step {size : Nat} {code : Byte} {c : Instr} {check : List Byte → State → Option Byte}
    {take : List Byte → State → State} (loading : Loading size code c check take) (serves : s.serves q rest code)
    (len : q.fields.length = 1 + size * (byteAt q.fields 0).toNat) {i : Nat} (more : i + 1 < (byteAt q.fields 0).toNat)
    (ok : check (loadEntry size q i) (Machine.takenFirst size take q s i) = none) :
    exec c (loadedFirst size take q s i) = .next (loadedFirst size take q s (i + 1)) := by
  obtain ⟨io, requests⟩ := loading.takenFirst q s i
  obtain ⟨head, kind, idle⟩ := serves
  have still : (loadedFirst size take q s i).serves q rest code :=
    ⟨requests.trans head, kind, (congrArg Io.restart io).trans idle⟩
  refine (loading.goesOn still len more ((loading.check_progress _ _ _).trans ok)).trans (congrArg Host.Outcome.next ?_)
  unfold loadedFirst
  rw [loading.take_progress, takenFirst_succ]

end Sys2Proof.Machine

open Sys2Proof Sys2Proof.Machine

/-- Settles O57: the three loads share their command's cases; the checks are taken field by field. -/
theorem loadsStopAtFirstFailure : Obligations.LoadsStopAtFirstFailure := by
  refine ⟨fun q rest s => ?_, fun s a b c d e f g h => ?_⟩
  · intro count begun loads
    have all {size : Nat} {code : Byte} {c : Instr} {check : List Byte → State → Option Byte}
        {take : List Byte → State → State} (loading : Loading size code c check take) (serves : s.serves q rest code) :
        loads size c check take := by
      unfold loads
      intro entry after ends
      have ended (m : State) (r : Reply) (payload : List Byte) (same : r.payload = payload) :
          ends m payload (finishHead q rest r m) := by
        refine ⟨rfl, fun k can => ?_⟩
        rw [← same]
        exact finishHead_carries r can
      refine ⟨?_, fun len start k hk passed => ?_⟩
      · by_cases len : q.fields.length = 1 + size * count
        · have intake (e : List Byte) (r : Reply) : s.sameIntake (finishHead q rest r (take e s)) :=
            sameIntake_of_io (loading.io e s) (finishHead_sameIntake q rest r (take e s))
          by_cases left : begun < count
          · cases passes : check (entry begun) s with
            | some cause =>
              refine ⟨_, loading.stops serves len left passes, finishHead_sameIntake _ _ _ _, fun wrong => absurd len wrong,
                fun _ => ⟨fun zero => by omega, fun _ none => (by cases none), fun _ none => (by cases none),
                  fun cause' _ same => ?_⟩⟩
              obtain rfl : cause = cause' := Option.some.inj same
              exact ended _ _ _ (loadReply_stopped count begun cause)
            | none =>
              by_cases more : begun + 1 < count
              · refine ⟨_, loading.goesOn serves len more passes, fun p => ?_, fun wrong => absurd len wrong,
                  fun _ => ⟨fun zero => by omega, fun _ _ => rfl, fun last => by omega,
                    fun cause _ none => by cases none⟩⟩
                show (take (entry begun) s).io.ports[p.val].handed = _ ∧ (take (entry begun) s).io.ports[p.val].reception = _
                rw [loading.io]
                exact ⟨rfl, rfl⟩
              · exact ⟨_, loading.last serves len (by omega) passes, intake _ _, fun wrong => absurd len wrong,
                  fun _ => ⟨fun zero => by omega, fun more' => absurd more' more,
                    fun _ _ => ended _ _ _ (loadReply_done count), fun cause _ none => by cases none⟩⟩
          · refine ⟨_, loading.ended serves len (by omega), finishHead_sameIntake _ _ _ _, fun wrong => absurd len wrong,
              fun _ => ⟨fun zero start => ended _ _ _ ?_, fun more => by omega, fun last => by omega,
                fun cause more => absurd more left⟩⟩
            show (loadReply count begun none).payload = _
            rw [zero, start]
            exact loadReply_done 0
        · exact ⟨_, loading.missized serves len, finishHead_sameIntake _ _ _ _, fun _ => ended _ _ _ rfl,
            fun right => absurd right len⟩
      · refine ⟨loadedFirst size take q s, ?_, fun i hi => loading.step serves len (show i + 1 < count by omega)
          (passed i hi), rfl⟩
        have same : ({ s.progress with taken := 0 } : Progress) = s.progress := by
          rw [← start]
        show ({ s with progress := { s.progress with taken := 0 } } : State) = s
        rw [same]
    exact ⟨all loading_sites, all loading_talkgroups, all loading_neighbors⟩
  · intro oneBit
    refine ⟨checkSite_iff s a b c d e, ?_, ?_⟩
    · intro id limit ok inUse check
      have fields := talkgroupFieldsOk_iff a b c d e f g h
      have key : fieldAt [a, b, c, d, e, f, g, h] 0 2 = id := fieldAt_two a b _
      refine ⟨fun bad => checkTalkgroup_bad (mt fields.mp bad), fun good new => ?_, fun y good old => ?_⟩
      · refine (checkTalkgroup_new (fields.mpr good) (by rw [key]; exact new)).trans ?_
        refine if_congr (and_congr_left' ⟨fun clear => ?_, fun zero => ?_⟩) rfl rfl
        · exact good.2.2.elim (fun one => absurd one clear) And.left
        · show h ≠ 1
          rw [zero]
          decide
      · have found := checkTalkgroup_old (fields.mpr good) (by rw [key]; exact old)
        have named : y.id = id := by simpa [findTalkgroup] using List.find?_some old
        have used : talkgroupInUse y s = true ↔ inUse y := by
          rw [talkgroupInUse_iff, named]
        refine ⟨fun busy moved => found.trans (if_pos ⟨used.mpr busy, moved⟩), fun free => found.trans (if_neg ?_)⟩
        exact fun ⟨busy, moved⟩ => free ⟨used.mp busy, moved⟩
    · intro n ok check
      refine ⟨checkNeighbor_bad, fun good old => ?_, fun good law zero new => ?_⟩
      · refine (checkNeighbor_good good).trans (if_neg fun ⟨clear, absent, _⟩ => ?_)
        rcases old with one | found
        · exact clear one
        · rw [show findNeighbor n s.neighbors = none from absent] at found
          cases found
      · refine (checkNeighbor_good good).trans (if_congr ?_ rfl rfl)
        rw [neighbors_full_iff law]
        exact ⟨fun full => full.2.2, fun full => ⟨by rw [zero]; decide, new, full⟩⟩
end

section
/-! PROOFS. A restart that takes place (R163): the links are seeded over empty queues, so that each first PROBE takes the
next buffer and is sent at once. -/

namespace Sys2Proof.Machine

variable {s t u : State} {io : Io} {l : LinkNo} {c : Net}

/-! ## What the supervisors move beside the own sequence -/

/-- Nothing but frames and links has moved. -/
def State.sameButWires (s t : State) : Prop := t = { s with io := t.io, links := t.links }

namespace State.sameButWires

theorem refl (s : State) : s.sameButWires s := rfl

theorem trans (h : s.sameButWires t) (h' : t.sameButWires u) : s.sameButWires u := by
  unfold State.sameButWires at *
  rw [h', h]

theorem onIo (f : Net → Io → Io) (s : State) : s.sameButWires (s.onIo f) := rfl

theorem modLink (l : LinkNo) (f : Link → Link) (s : State) : s.sameButWires (Machine.modLink l f s) := rfl

theorem setLinkState (l : LinkNo) (new : LinkState) (s : State) : s.sameButWires (Machine.setLinkState l new s) := by
  unfold Machine.setLinkState
  simp only
  split <;> rfl

theorem linkLost (l : LinkNo) (reported : LinkState) (s : State) : s.sameButWires (Machine.linkLost l reported s) :=
  ((modLink l (fun x => { x with goods := 0 }) s).trans (setLinkState l .down _)).trans rfl

theorem seedLink (s : State) (l : LinkNo) : s.sameButWires (Machine.seedLink s l) := by
  have set := setLinkState l (if s.active.farSite l = 0 then .disabled else .down) s
  unfold Machine.seedLink
  simp only
  generalize Machine.setLinkState l (if s.active.farSite l = 0 then .disabled else .down) s = m at set ⊢
  split
  · exact set.trans rfl
  · exact set.trans rfl

theorem reconsiderLink (s : State) (l : LinkNo) : s.sameButWires (Machine.reconsiderLink s l) := by
  unfold Machine.reconsiderLink
  simp only
  split
  · refine trans (t := _) ?_ (seedLink _ l)
    split
    · exact linkLost l _ s
    · exact refl s
  · split
    · exact linkLost l .down s
    · exact refl s

theorem foldl {f : State → LinkNo → State} (hf : ∀ (s : State) l, s.sameButWires (f s l)) (ls : List LinkNo) (s : State) :
    s.sameButWires (ls.foldl f s) := by
  induction ls generalizing s with
  | nil => exact refl s
  | cons l ls ih => exact (hf s l).trans (ih (f s l))

theorem seedAll (s : State) : s.sameButWires (Machine.seedAll s) := foldl seedLink allLinks s

end State.sameButWires

/-! ## Links set over empty queues -/

theorem flushQueue_empty (h : io.ports[(linkPort l).val].queue = []) : flushQueue c l io = io := by
  have same : modPort (linkPort l) (fun x => { x with queue := [] }) io = io := by
    have still : ({ io.ports[(linkPort l).val] with queue := [] } : Port) = io.ports[(linkPort l).val] := by rw [← h]
    unfold modPort
    simp only at still ⊢
    rw [still, Vector.set_getElem_self]
  unfold flushQueue
  simp only [h, List.filter_nil, List.length_nil, List.foldl_nil]
  exact same

theorem rerouteWork_empty (h : io.engine.work = []) : rerouteWork c l io = io := by
  have still : ({ io.engine with work := [] } : Engine) = io.engine := by rw [← h]
  unfold rerouteWork
  simp only [h, List.foldl_nil, List.map_nil, List.filter_nil, still]

theorem onIo_still {f : Net → Io → Io} (h : f s.net s.io = s.io) : s.onIo f = s := by
  unfold State.onIo
  rw [h]

/-- Over an empty queue, and with no frame left to place, a link is set without more. -/
theorem setLinkState_quiet (new : LinkState) (queue : s.io.ports[(linkPort l).val].queue = [])
    (work : s.io.engine.work = []) : setLinkState l new s = modLink l (fun x => { x with state := new }) s := by
  unfold setLinkState
  simp only
  split
  · have flushed : (modLink l (fun x => { x with state := new }) s).onIo (fun c => flushQueue c l)
        = modLink l (fun x => { x with state := new }) s := onIo_still (flushQueue_empty queue)
    rw [flushed]
    exact onIo_still (rerouteWork_empty work)
  · rfl

/-- The header of a link's first PROBE (R145). -/
def seedProbe (own : SiteId) (l : LinkNo) : Header :=
  { Header.blank .probe with origin := BitVec.ofNat 8 own, tag := BitVec.ofNat 16 (own * 257 + l.val + 1) }

/-- The entry of a PROBE (R145). -/
def probeEntry (p : Params) (k : Handle) : Entry :=
  { handle := k, cls := .priority, hop := p.hopLimit, addressing := .unaddressed }

/-- Whether a link that is seeded probes at once (R144). -/
def State.probesAtSeeding (s : State) (l : LinkNo) : Bool :=
  decide (s.active.farSite l ≠ 0) && decide (s.partState = .running)

/-- Over an empty queue, a link that is seeded sends its first PROBE if it probes, and nothing else. -/
theorem seedLink_io (queue : s.io.ports[(linkPort l).val].queue = []) (work : s.io.engine.work = []) :
    ∃ c : Net, c.active = s.active ∧ (seedLink s l).io
      = if s.probesAtSeeding l then sendLinkLocal c l { Header.blank .probe with tag := seedToken s.own l } s.io
        else s.io := by
  unfold seedLink
  simp only
  rw [setLinkState_quiet _ queue work]
  have probes : (decide (s.active.farSite l ≠ 0) && decide (s.partState = .running)) = s.probesAtSeeding l := rfl
  refine ⟨(modLink l (seededLink s.own (s.active.farSite l) l)
    (modLink l (fun x => { x with state := if s.active.farSite l = 0 then .disabled else .down }) s)).net, rfl, ?_⟩
  cases h : s.probesAtSeeding l with
  | true =>
    rw [if_pos rfl, if_pos (by exact probes.trans h)]
    have token : ((modLink l (seededLink s.own (s.active.farSite l) l)
      (modLink l (fun x => { x with state := if s.active.farSite l = 0 then .disabled else .down }) s)).link l).token
        = seedToken s.own l := by
      rw [link_modLink, if_pos rfl]
      rfl
    rw [← token]
    rfl
  | false =>
    rw [if_neg Bool.false_ne_true, if_neg (by rw [← Bool.not_eq_true] at h; exact h)]
    rfl

/-! ## A PROBE sent at once -/

/-- A PROBE that is built for an IDLE link with an empty queue is being sent, and its buffer holds one reference. -/
theorem sendLinkLocal_idle {k : Handle} {rest : List Handle} (hdr : Header) (hc : hdr.frameClass = .priority)
    (hf : io.pool.free = k :: rest) (empty : io.ports[(linkPort l).val].queue = [])
    (idle : io.ports[(linkPort l).val].sending = none) :
    (sendLinkLocal c l hdr io).pool.free = rest
      ∧ (sendLinkLocal c l hdr io).pool.noticePending = io.pool.noticePending
      ∧ (io.pool.exhaustion = true → (sendLinkLocal c l hdr io).pool.exhaustion = true)
      ∧ (sendLinkLocal c l hdr io).live = io.live ∧ (sendLinkLocal c l hdr io).restart = io.restart
      ∧ (sendLinkLocal c l hdr io).engine = io.engine
      ∧ (∀ h, bufferOf h (sendLinkLocal c l hdr io)
        = if h = k then
            some { handle := k, refs := 1, bytes := frameBytes (c.fromOwn hdr) [], completion := none }
          else bufferOf h io)
      ∧ ∀ p : PortNo, (sendLinkLocal c l hdr io).ports[p.val]
        = if p = linkPort l then
            { io.ports[p.val] with
              sending :=
                some
                  { entry := probeEntry c.active k
                    frame := wireFrame (frameBytes (c.fromOwn hdr) []) (probeEntry c.active k) } }
          else io.ports[p.val] := by
  set built := builtIn c.active.bufferReserve k rest (frameBytes (c.fromOwn hdr) []) none io with hbuilt
  have buffers := builtIn_buffer (io := io) (k := k) c.active.bufferReserve rest (frameBytes (c.fromOwn hdr) []) none
  rw [← hbuilt] at buffers
  set put := putEntry (linkPort l) (probeEntry c.active k) built with hput
  have put_buffer (h : Handle) : bufferOf h put
      = if h = k then
          some { handle := k, refs := 2, bytes := frameBytes (c.fromOwn hdr) [], completion := none }
        else bufferOf h io := by
    rw [hput, putEntry_buffer, buffers]
    by_cases same : h = k
    · rw [if_pos same, if_pos same, if_pos (by exact same)]
      rfl
    · rw [if_neg same, if_neg same, if_neg (by exact same)]
  have put_bytes : bytesOf k put = frameBytes (c.fromOwn hdr) [] := by rw [bytesOf, put_buffer, if_pos rfl]
  obtain ⟨pool, live, restart⟩ := startTransmission_rest (p := linkPort l) put
  have started (h : Handle) : bufferOf h (startTransmission (linkPort l) put) = bufferOf h put := by
    unfold bufferOf
    rw [pool]
  have sent : sendLinkLocal c l hdr io
      = modBuffer k (fun b => { b with refs := b.refs - 1 }) (startTransmission (linkPort l) put) := by
    refine (sendBuilt_granted (hdr := c.fromOwn hdr) [] none
      (fun h => placeEntry c (linkPort l) (probeEntry c.active h)) hf (.inl hc)).trans ?_
    rw [← hbuilt, placeEntry_idle c (show built.ports[(linkPort l).val].queue = [] from empty) idle, ← hput]
    exact dropReference_many c ((started k).trans ((put_buffer k).trans (if_pos rfl))) (le_refl 2)
  have queue : put.ports[(linkPort l).val].queue = [probeEntry c.active k] := by
    rw [hput, putEntry_queue, if_pos rfl, show built.ports[(linkPort l).val].queue = [] from empty]
    rfl
  have run : startTransmission (linkPort l) put = modPort (linkPort l)
      (fun x => { x with
        queue := []
        sending := some
          { entry := probeEntry c.active k
            frame := wireFrame (frameBytes (c.fromOwn hdr) []) (probeEntry c.active k) } }) put := by
    have bytes : bytesOf (probeEntry c.active k).handle put = frameBytes (c.fromOwn hdr) [] := put_bytes
    simp only [startTransmission, queue, bytes]
  rw [sent]
  refine ⟨?_, ?_, fun flag => ?_, live, restart, ?_, fun h => ?_, fun p => ?_⟩
  · show (startTransmission (linkPort l) put).pool.free = rest
    rw [pool]
    rfl
  · show (startTransmission (linkPort l) put).pool.noticePending = _
    rw [pool]
    rfl
  · show (startTransmission (linkPort l) put).pool.exhaustion = _
    rw [pool]
    show (io.pool.exhaustion || _) = true
    rw [flag, Bool.true_or]
  · rw [run]
    rfl
  · rw [bufferOf_modBuffer _ _ (fun b => { b with refs := b.refs - 1 }) (fun _ => rfl), started, put_buffer]
    by_cases same : h = k
    · rw [if_pos same, if_pos same, if_pos same]
      rfl
    · rw [if_neg same, if_neg same, if_neg same]
  · rw [run]
    show (modPort (linkPort l) (fun x => { x with
      queue := []
      sending := some
        { entry := probeEntry c.active k
          frame := wireFrame (frameBytes (c.fromOwn hdr) []) (probeEntry c.active k) } }) put).ports[p.val] = _
    rw [port_modPort]
    by_cases same : p = linkPort l
    · subst same
      rw [if_pos rfl, if_pos rfl, hput, putEntry_ports, if_pos rfl]
      show Port.mk _ _ [] _ _ = Port.mk _ _ io.ports[(linkPort l).val].queue _ _
      rw [empty]
      rfl
    · rw [if_neg same, if_neg same, hput, putEntry_ports, if_neg same]
      rfl

/-! ## Seeding after a restart -/

/-- The buffer a handle has when the links of `P` have been seeded to probe, one after the other. -/
def probeBuffer (s : State) (P : List LinkNo) (h : Nat) : Option Buffer :=
  if h = 0 then none
  else
    P[h - 1]?.map fun l =>
      { handle := h, refs := 1, bytes := frameBytes (seedProbe s.own l) [], completion := none }

/-- After a restart the links of `P` have been seeded to probe, one after the other. -/
structure Probing (s : State) (P : List LinkNo) (io : Io) : Prop where
  free : io.pool.free = (List.range' 1 512).drop P.length
  exhaustion : io.pool.exhaustion = true
  notice : io.pool.noticePending = false
  live : io.live = s.io.live
  restart : io.restart = .none
  engine : io.engine = { s.io.engine with work := [] }
  buffers : ∀ h, bufferOf h io = probeBuffer s P h
  ports : ∀ p : PortNo, io.ports[p.val]
    = { restartPort s.io.ports[p.val] with sending := io.ports[p.val].sending }
  idle : ∀ p : PortNo, (∀ l ∈ P, p ≠ linkPort l) → io.ports[p.val].sending = none
  probes : ∀ (i : Nat) l, P[i]? = some l →
    io.ports[(linkPort l).val].sending
      = some
          { entry := probeEntry s.active (i + 1)
            frame := wireFrame (frameBytes (seedProbe s.own l) []) (probeEntry s.active (i + 1)) }

theorem probing_restart (s : State) : Probing s [] (restartIo s.io) := by
  have port (p : PortNo) : (restartIo s.io).ports[p.val] = restartPort s.io.ports[p.val] := Vector.getElem_map ..
  refine ⟨rfl, rfl, rfl, rfl, rfl, rfl, fun h => ?_, fun p => ?_, fun p _ => ?_, fun i l h => by simp at h⟩
  · unfold probeBuffer
    split <;> rfl
  · rw [port]
  · rw [port]
    rfl

theorem probeBuffer_append (s : State) (P : List LinkNo) (l : LinkNo) (h : Nat) :
    probeBuffer s (P ++ [l]) h
      = if h = P.length + 1 then
          some
            { handle := P.length + 1, refs := 1, bytes := frameBytes (seedProbe s.own l) [], completion := none }
        else probeBuffer s P h := by
  unfold probeBuffer
  by_cases new : h = P.length + 1
  · subst new
    simp
  · rw [if_neg new]
    split
    · rfl
    · have other : (P ++ [l])[h - 1]? = P[h - 1]? := by
        by_cases old : h - 1 < P.length
        · exact List.getElem?_append_left old
        · have beyond : (P ++ [l]).length ≤ h - 1 := by
            rw [List.length_append, List.length_singleton]
            omega
          rw [List.getElem?_eq_none beyond, List.getElem?_eq_none (by omega)]
      rw [other]

theorem probeBuffer_none (s : State) (P : List LinkNo) (h : Nat) : probeBuffer s P h = none ↔ h = 0 ∨ P.length < h := by
  unfold probeBuffer
  by_cases zero : h = 0
  · simp [zero]
  · rw [if_neg zero, Option.map_eq_none_iff, List.getElem?_eq_none_iff]
    omega

theorem linkPort_injective {l k : LinkNo} (h : linkPort l = linkPort k) : l = k := by
  have same := congrArg Fin.val h
  exact Fin.ext (Nat.add_right_cancel same)

theorem Probing.probe {P : List LinkNo} {io : Io} (h : Probing s P io) (fresh : l ∉ P) (few : P.length < 512)
    (active : c.active = s.active) :
    Probing s (P ++ [l]) (sendLinkLocal c l { Header.blank .probe with tag := seedToken s.own l } io) := by
  have headed : c.fromOwn { Header.blank .probe with tag := seedToken s.own l } = seedProbe s.own l := by
    unfold Net.fromOwn
    rw [active]
    rfl
  have head : io.pool.free = (P.length + 1) :: (List.range' 1 512).drop (P.length + 1) := by
    rw [h.free, List.drop_eq_getElem_cons (by simpa using few), List.getElem_range']
    simp [Nat.add_comm]
  have empty : io.ports[(linkPort l).val].queue = [] := by rw [h.ports]; rfl
  have quiet : io.ports[(linkPort l).val].sending = none :=
    h.idle _ fun k hk same => fresh (linkPort_injective same ▸ hk)
  obtain ⟨free, notice, exhaustion, live, restart, engine, buffers, ports⟩ :=
    sendLinkLocal_idle (c := c) { Header.blank .probe with tag := seedToken s.own l } rfl head empty quiet
  rw [headed, active] at ports
  rw [headed] at buffers
  refine ⟨?_, exhaustion h.exhaustion, notice.trans h.notice, live.trans h.live, restart.trans h.restart,
    engine.trans h.engine, fun x => ?_, fun p => ?_, fun p away => ?_, fun i k hk => ?_⟩
  · rw [free, List.length_append]
    rfl
  · rw [buffers, h.buffers, probeBuffer_append]
  · rw [ports]
    split
    · rw [h.ports]
    · exact h.ports p
  · rw [ports, if_neg (away l (by simp))]
    exact h.idle p fun k hk => away k (by simp [hk])
  · by_cases old : i < P.length
    · rw [List.getElem?_append_left old] at hk
      have apart : linkPort k ≠ linkPort l := fun same => fresh (linkPort_injective same ▸ List.mem_of_getElem? hk)
      rw [ports, if_neg apart]
      exact h.probes i k hk
    · have last : i = P.length ∧ k = l := by
        have later : P.length ≤ i := Nat.le_of_not_lt old
        rw [List.getElem?_append_right later, List.getElem?_singleton] at hk
        by_cases zero : i - P.length = 0
        · rw [if_pos zero] at hk
          exact ⟨by omega, (Option.some.inj hk).symm⟩
        · rw [if_neg zero] at hk
          cases hk
      obtain ⟨rfl, rfl⟩ := last
      rw [ports, if_pos rfl]

theorem Probing.queue {P : List LinkNo} {io : Io} (h : Probing s P io) (p : PortNo) : io.ports[p.val].queue = [] := by
  rw [h.ports]
  rfl

/-- The links are seeded in turn: those that probe take the next handles. -/
theorem Probing.seed {m : State} {ls P : List LinkNo} (h : Probing s P m.io) (distinct : (P ++ ls).Nodup)
    (inputs : s.sameInputs m) (few : P.length + ls.length < 512) :
    Probing s (P ++ ls.filter s.probesAtSeeding) (ls.foldl seedLink m).io := by
  induction ls generalizing m P with
  | nil => simpa using h
  | cons l ls ih =>
    obtain ⟨active, part, time⟩ := inputs
    have same : m.probesAtSeeding l = s.probesAtSeeding l := by
      unfold State.probesAtSeeding
      rw [active, part]
    have own : m.own = s.own := congrArg Params.ownSite active
    obtain ⟨c, hc, io⟩ := seedLink_io (s := m) (l := l) (h.queue _) (by rw [h.engine])
    have next : s.sameInputs (seedLink m l) := by
      rw [State.sameButWires.seedLink m l]
      exact ⟨active, part, time⟩
    rw [same, own] at io
    rw [List.filter_cons, List.foldl_cons]
    cases probes : s.probesAtSeeding l with
    | true =>
      rw [probes, if_pos rfl] at io
      have fresh : l ∉ P := fun hl => (List.nodup_append.mp distinct).2.2 l hl l (by simp) rfl
      have probed := h.probe fresh (by simp at few; omega) (hc.trans active)
      rw [← io] at probed
      have := ih probed (by simpa using distinct) next (by simp at few ⊢; omega)
      simpa using this
    | false =>
      rw [probes, if_neg Bool.false_ne_true] at io
      rw [← io] at h
      simpa using ih h (distinct.sublist (by simp)) next (by simp at few; omega)

/-! ## Entering RUNNING anew -/

/-- With no link in UP no site has a route. -/
theorem routedSites_of_down (c : Net) (h : ∀ l : LinkNo, c.links[l.val].state ≠ .up) : c.routedSites = [] := by
  have route (n : SiteId) : c.route n = none := by
    have unusable (o : Option LinkNo) : c.usable o = none := by
      cases o with
      | none => rfl
      | some l => simp [Net.usable, Option.filter, h l]
    unfold Net.route
    split
    · rfl
    · split
      · rfl
      · rw [unusable, unusable]
        rfl
  unfold Net.routedSites
  rw [List.filter_eq_nil_iff]
  intro n _
  rw [route]
  nofun

/-- A FULL round that meets no route sends nothing (R116). -/
theorem fullRound_unrouted (h : s.net.routedSites = []) : fullRound s = advanceSequence s := by
  have none : (advanceSequence s).net.routedSites = [] := h
  have still := onIo_still (s := advanceSequence s)
    (f := fun c => sendToSites c (membershipHeader 3#8 0 (advanceSequence s)) (fullPayload (advanceSequence s)) c.routedSites)
    (by rw [none]; rfl)
  exact still

theorem seeded_state (s : State) (l : LinkNo) : (s.seeded l).state ≠ .up := by
  unfold State.seeded
  simp only
  split <;> nofun

theorem seedAll_unrouted (s : State) (links : t.links = (seedAll s).links) : t.net.routedSites = [] :=
  routedSites_of_down _ fun l => by
    have seeded := (seedAll_links s).2 l
    unfold State.link at seeded
    show t.links[l.val].state ≠ .up
    rw [links, seeded]
    exact seeded_state s l

/-- A part that enters RUNNING seeds its links, starts its refresh timer and advances its sequence. -/
theorem enterRunning_eq (s : State) : enterRunning s = advanceSequence (startRefresh (seedAll s)) :=
  fullRound_unrouted (seedAll_unrouted s rfl)

/-- The frames and links that a restart leaves. -/
theorem takeRestart_eq (s : State) :
    takeRestart s
      = { restartBlocks s with
          io := (seedAll (restartBlocks s)).io
          links := (seedAll (restartBlocks s)).links
          ownSequence := if s.partState = .running then 1#8 else 0#8
          refreshTimer := if s.partState = .running then some (s.after (s.active.refreshPeriod * 1000)) else none } := by
  have frame := State.sameButWires.seedAll (restartBlocks s)
  unfold takeRestart
  cases part : s.partState with
  | running =>
    simp only [enterRunning_eq]
    rw [frame]
    rfl
  | unconfigured => exact frame

end Sys2Proof.Machine

open Sys2Proof Sys2Proof.Machine

/-- Settles O5: every block but the links returns to its state after a restart, and the links are seeded in turn. -/
theorem restartTakesEffect : Obligations.RestartTakesEffect := by
  intro s due
  have run : exec .restartTakesPlace s = .next (takeRestart s) := by
    refine congrArg Host.Outcome.next ?_
    unfold restartIfDue
    rw [due]
  refine ⟨_, run, ?_⟩
  have probing : Probing s (allLinks.filter s.probesAtSeeding) (seedAll (restartBlocks s)).io :=
    (probing_restart s).seed (m := restartBlocks s) (P := []) (ls := allLinks) (by decide) ⟨rfl, rfl, rfl⟩ (by decide)
  have links := (seedAll_links (restartBlocks s)).2
  have list : (if s.partState = .running then [0, 1, 2, 3].filter fun l => decide (s.active.farSite l ≠ 0) else [])
      = allLinks.filter s.probesAtSeeding := by
    cases part : s.partState with
    | running =>
      have probes : s.probesAtSeeding = fun l => decide (s.active.farSite l ≠ 0) := by
        funext l
        simp [State.probesAtSeeding, part]
      rw [probes, if_pos rfl]
      rfl
    | unconfigured => simp [State.probesAtSeeding, part]
  rw [takeRestart_eq]
  generalize (seedAll (restartBlocks s)).io = io at probing ⊢
  have port (p : PortNo) := probing.ports p
  refine ⟨rfl, rfl, probing.restart, probing.engine, rfl, probing.live, rfl, rfl, rfl, rfl, rfl, rfl, rfl, rfl, rfl,
    fun p => ⟨?_, ?_⟩, fun n => ⟨probing.queue _, probing.idle _ ?_⟩, ?_, rfl, rfl, rfl, fun n => ?_, rfl, rfl, rfl, rfl,
    fun l => ?_⟩
  · show io.ports[p.val].reception = _
    rw [port]
    rfl
  · show io.ports[p.val].handed = _
    rw [port]
    rfl
  · intro l _ same
    have := congrArg Fin.val same
    exact absurd this (Nat.ne_of_lt (Nat.lt_of_lt_of_le n.isLt (Nat.le_add_left 6 l.val)))
  · intro probing' probe
    have same : probing' = allLinks.filter s.probesAtSeeding := list
    rw [same]
    refine ⟨probing.free, probing.exhaustion, probing.notice, fun h => ?_, fun p => ⟨probing.queue p, ?_⟩,
      fun l hl => probing.idle _ fun k hk port => hl (linkPort_injective port ▸ hk), fun i l hl => ⟨?_, probing.probes i l hl⟩⟩
    · exact (by rw [probing.buffers] : bufferOf h io = none ↔ probeBuffer s _ h = none).trans (probeBuffer_none s _ h)
    · show io.ports[p.val].lastEnd = _
      rw [port]
      rfl
    · show bufferOf (i + 1) io = _
      rw [probing.buffers, probeBuffer, if_neg (Nat.succ_ne_zero i), Nat.add_sub_cancel, hl]
      rfl
  · show (Vector.replicate 6 Channel.initial)[n.val] = _
    simp
  · have seeded := links l
    unfold State.link at seeded
    simp only [State.link]
    rw [seeded]
    refine ⟨rfl, rfl, rfl, rfl, rfl, rfl, rfl, rfl, ?_⟩
    simp only [State.seeded, Bool.and_eq_true, decide_eq_true_eq]
    rfl
end

section
/-! PROOFS. A link that is lost (R38, R46): its queue is flushed and stays so, since no route leads there; the frames that are
not placed whole are routed anew; and the pool keeps its room. -/

namespace Sys2Proof.Machine

variable {c : Net} {p : PortNo} {l : LinkNo} {s t : State} {io : Io}

/-! ## Operations that place nothing on a port -/

/-- An operation on frames leaves a port alone. -/
def KeepsPort (p : PortNo) (f : Io → Io) : Prop := ∀ io, (f io).ports[p.val] = io.ports[p.val]

/-- No site is routed by the port's link. -/
def Net.awayFrom (c : Net) (p : PortNo) : Prop := ∀ n j, c.route n = some j → linkPort j ≠ p

theorem awayFrom_of_down (h : c.links[l.val].state ≠ .up) : c.awayFrom (linkPort l) := by
  intro n j hj same
  obtain rfl := linkPort_injective same
  exact h (up_of_route c hj)

namespace KeepsPort

theorem foldl {α : Type} {f : Io → α → Io} (hf : ∀ a, KeepsPort p fun io => f io a) :
    ∀ l : List α, KeepsPort p fun io => l.foldl f io
  | [] => fun _ => rfl
  | a :: l => fun io => (foldl hf l (f io a)).trans (hf a io)

theorem dropReferenceQuietly (reserve : Nat) (h : Handle) : KeepsPort p (Machine.dropReferenceQuietly reserve h) :=
  fun io => by rw [dropReferenceQuietly_ports]

theorem placeEntryWith {drop : Handle → Io → Io} (hd : ∀ h, KeepsPort p (drop h)) {q : PortNo} (apart : p ≠ q)
    (e : Entry) : KeepsPort p (Machine.placeEntryWith drop q e) := by
  intro io
  have other (f : Port → Port) (io : Io) : (modPort q f io).ports[p.val] = io.ports[p.val] := by
    rw [port_modPort, if_neg apart]
  unfold Machine.placeEntryWith placeWithRoom
  dsimp only
  split
  · split
    · exact (startTransmission_other apart _).trans (other (fun x => { x with queue := insertEntry e x.queue }) io)
    · exact other (fun x => { x with queue := insertEntry e x.queue }) io
  · cases e.cls with
    | routine => rfl
    | priority =>
      dsimp only
      cases removeNewestRoutine io.ports[q.val].queue with
      | none => rfl
      | some removed =>
        obtain ⟨d, kept⟩ := removed
        exact (hd d.handle _).trans (other (fun y => { y with queue := insertEntry e kept }) _)

theorem countPortTimes (q : PortNo) (d : PortCounter) (n : Nat) : KeepsPort p (Machine.countPortTimes q d n) := by
  intro io
  rw [countPortTimes_live]

theorem countLost (lostAt : Option PortNo) (n : Nat) : KeepsPort p (Machine.countLost lostAt n) := by
  intro io
  cases lostAt with
  | some q => exact countPortTimes q .noRoute n io
  | none =>
    show (countDevTimes .internalDrops n io).ports[p.val] = _
    rw [countDevTimes_live]

section

variable (away : c.awayFrom p)
include away

theorem placeForSiteWith {drop : Handle → Io → Io} (hd : ∀ h, KeepsPort p (drop h)) (cls : FrameClass)
    (h : Handle) (site : SiteId) : KeepsPort p (Machine.placeForSiteWith drop c cls h site) := by
  intro io
  unfold Machine.placeForSiteWith
  cases route : c.route site with
  | none => rfl
  | some j => exact placeEntryWith hd (away site j route).symm _ io

theorem placeForSitesWith {drop : Handle → Io → Io} (hd : ∀ h, KeepsPort p (drop h)) (cls : FrameClass)
    (h : Handle) (sites : List SiteId) : KeepsPort p (Machine.placeForSitesWith drop c cls h sites) :=
  foldl (fun n => placeForSiteWith away hd cls h n) sites

theorem sendPoolExhausted : KeepsPort p (Machine.sendPoolExhausted c) := by
  intro io
  unfold Machine.sendPoolExhausted
  cases io.pool.free with
  | nil => rfl
  | cons h rest =>
    exact (dropReferenceQuietly _ h _).trans
      (placeForSitesWith away (dropReferenceQuietly _) .priority h c.managementSites _)

theorem dropReference (h : Handle) : KeepsPort p (Machine.dropReference c h) := by
  intro io
  unfold Machine.dropReference
  simp only
  split
  · exact (sendPoolExhausted away _).trans (dropReferenceQuietly _ h io)
  · exact dropReferenceQuietly _ h io

theorem sendBuilt {place : Handle → Io → Io} (hp : ∀ h, KeepsPort p (place h)) (hdr : Header)
    (payload : List Byte) (done : Option Completion) : KeepsPort p (Machine.sendBuilt c hdr payload done place) := by
  intro io
  have built : (buildFrame c hdr payload done io).2.ports = io.ports := by
    unfold buildFrame
    have asked : (allocate c.active.bufferReserve hdr.frameClass io).2.ports = io.ports := by
      unfold allocate noteEmpty
      simp only
      split
      · split <;> rfl
      · split <;> rfl
    rcases ha : allocate c.active.bufferReserve hdr.frameClass io with ⟨_ | _ | _, io'⟩
    all_goals
      rw [ha] at asked
      exact asked
  unfold Machine.sendBuilt
  rcases hb : buildFrame c hdr payload done io with ⟨_ | h, io'⟩
  all_goals
    rw [hb] at built
    simp only at built
  · rw [built]
  · refine (dropReference away h _).trans ((hp h io').trans ?_)
    rw [built]

theorem sendToSites (hdr : Header) (payload : List Byte) (sites : List SiteId) :
    KeepsPort p (Machine.sendToSites c hdr payload sites) := by
  intro io
  unfold Machine.sendToSites
  split
  · rfl
  · exact sendBuilt away (fun h => placeForSitesWith away (dropReference away) _ h sites) _ _ _ io

theorem rerouteWork (l : LinkNo) : KeepsPort p (Machine.rerouteWork c l) := by
  intro io
  unfold Machine.rerouteWork
  simp only
  have counted : (io.engine.work.foldl
      (fun io f => Machine.countLost f.lostAt (c.unreachable f.groups[l.val]).length io) io).ports[p.val] = io.ports[p.val] :=
    KeepsPort.foldl (f := fun io (f : Fanout) => Machine.countLost f.lostAt (c.unreachable f.groups[l.val]).length io)
      (fun f => KeepsPort.countLost f.lostAt _) io.engine.work io
  refine (foldl (fun f : Fanout => dropReference away f.handle) _ _).trans counted

end

end KeepsPort

/-! ## A flushed queue -/

theorem flushQueue_port (away : c.awayFrom (linkPort l)) (io : Io) :
    (flushQueue c l io).ports[(linkPort l).val]
      = { io.ports[(linkPort l).val] with
          queue := io.ports[(linkPort l).val].queue.filter (isProbeEntry io) } := by
  unfold flushQueue
  simp only
  refine (KeepsPort.foldl (fun e : Entry => KeepsPort.dropReference away e.handle) _ _).trans ?_
  refine (KeepsPort.countPortTimes _ _ _ _).trans ?_
  rw [port_modPort, if_pos rfl]

/-! ## Room after a loss -/

/-- With no notice pending, a dropped reference adds to the free list alone, or nothing. -/
theorem dropReference_free (c : Net) (h : Handle) (quiet : io.pool.noticePending = false) :
    ∃ freed, (dropReference c h io).pool.free = io.pool.free ++ freed := by
  rw [dropReference_quietly c h quiet]
  unfold dropReferenceQuietly
  split
  · exact ⟨[], (List.append_nil _).symm⟩
  · split
    · exact ⟨_, releaseBuffer_free _ _ io⟩
    · exact ⟨[], (List.append_nil _).symm⟩

/-- Room that is left when frames have only been let go. -/
structure Frees (reserve n m : Nat) (io io' : Io) : Prop where
  room : Room reserve n m io'
  free : ∃ freed, io'.pool.free = io.pool.free ++ freed

theorem Frees.trans {reserve n m : Nat} {io' io'' : Io} (h : Frees reserve n m io io') (h' : Frees reserve n m io' io'') :
    Frees reserve n m io io'' := by
  obtain ⟨freed, first⟩ := h.free
  obtain ⟨freed', second⟩ := h'.free
  exact ⟨h'.room, freed ++ freed', by rw [second, first, List.append_assoc]⟩

theorem Room.dropped {reserve n m : Nat} (room : Room reserve n m io) (c : Net) (h : Handle) :
    Frees reserve n m io (dropReference c h io) := by
  have ports := dropReference_ports_of_no_notice c h room.quiet
  obtain ⟨freed, free⟩ := dropReference_free c h room.quiet
  refine ⟨⟨?_, ?_, ?_, fun p => ?_, fun p => ?_⟩, freed, free⟩
  · exact ((Moves.dropReference (P := False) (c := c) False.elim h io).pool room.distinct).nodup_iff.mpr room.distinct
  · rw [dropReference_quietly c h room.quiet, dropReferenceQuietly_noticePending, room.quiet]
  · rw [free, List.length_append]
    have := room.free
    omega
  · rw [ports]
    exact room.busy p
  · rw [ports]
    exact room.queues p

theorem Room.droppedAll {reserve n m : Nat} {α : Type} (c : Net) (handle : α → Handle) (l : List α)
    (room : Room reserve n m io) : Frees reserve n m io (l.foldl (fun io a => dropReference c (handle a) io) io) := by
  induction l generalizing io with
  | nil => exact ⟨room, [], (List.append_nil _).symm⟩
  | cons a l ih =>
    have first := room.dropped c (handle a)
    exact first.trans (ih first.room)

theorem Room.sameFrames {reserve n m : Nat} {io' : Io} (room : Room reserve n m io) (pool : io'.pool = io.pool)
    (ports : io'.ports = io.ports) : Room reserve n m io' := by
  refine ⟨?_, by rw [pool]; exact room.quiet, by rw [pool]; exact room.free, by rw [ports]; exact room.busy,
    by rw [ports]; exact room.queues⟩
  unfold Io.handles
  rw [pool]
  exact room.distinct

/-- A queue gets shorter. -/
theorem Room.shortened {reserve n m : Nat} (room : Room reserve n m io) (p : PortNo) {q : List Entry}
    (shorter : q.length ≤ io.ports[p.val].queue.length) :
    Room reserve n m (modPort p (fun x => { x with queue := q }) io) := by
  refine ⟨room.distinct, room.quiet, room.free, fun k => ?_, fun k => ?_⟩
  · rw [port_modPort]
    split
    · rename_i same
      exact same ▸ room.busy k
    · exact room.busy k
  · rw [port_modPort]
    split
    · have := room.queues p
      simp only
      omega
    · exact room.queues k

theorem Room.flushed {reserve n m : Nat} (room : Room reserve n m io) (c : Net) (l : LinkNo) :
    Frees reserve n m io (flushQueue c l io) := by
  unfold flushQueue
  have shorter := room.shortened (linkPort l) (List.length_filter_le (isProbeEntry io) _)
  have counted := shorter.sameFrames
    (io' := countPortTimes (linkPort l) .queueDrops
      (io.ports[(linkPort l).val].queue.filter fun e => !isProbeEntry io e).length
      (modPort (linkPort l) (fun x => { x with queue := io.ports[(linkPort l).val].queue.filter (isProbeEntry io) }) io))
    (by rw [countPortTimes_live]) (by rw [countPortTimes_live])
  have all := counted.droppedAll c Entry.handle (io.ports[(linkPort l).val].queue.filter fun e => !isProbeEntry io e)
  refine ⟨all.room, ?_⟩
  obtain ⟨freed, free⟩ := all.free
  refine ⟨freed, free.trans ?_⟩
  rw [countPortTimes_live]
  rfl

theorem countWork_live (c : Net) (l : LinkNo) (work : List Fanout) (io : Io) :
    ∃ live, work.foldl (fun io f => countLost f.lostAt (c.unreachable f.groups[l.val]).length io) io
      = { io with live := live } := by
  induction work generalizing io with
  | nil => exact ⟨io.live, rfl⟩
  | cons f work ih =>
    obtain ⟨live, counted⟩ : ∃ live, countLost f.lostAt (c.unreachable f.groups[l.val]).length io = { io with live := live } := by
      cases f.lostAt with
      | some q => exact ⟨_, countPortTimes_live q .noRoute _ io⟩
      | none => exact ⟨_, countDevTimes_live .internalDrops _ io⟩
    obtain ⟨live', rest⟩ := ih { io with live := live }
    exact ⟨live', by rw [List.foldl_cons, counted, rest]⟩

theorem Room.rerouted {reserve n m : Nat} (room : Room reserve n m io) (c : Net) (l : LinkNo) :
    Frees reserve n m io (rerouteWork c l io) := by
  unfold rerouteWork
  obtain ⟨live, counted⟩ := countWork_live c l io.engine.work io
  simp only [counted]
  generalize Engine.mk io.engine.atOnce _ = engine
  have same : Room reserve n m { io with live := live, engine := engine } := room.sameFrames rfl rfl
  have all := same.droppedAll c Fanout.handle ((io.engine.work.map (Fanout.reroute c l)).filter Fanout.isDone)
  exact ⟨all.room, all.free⟩

end Sys2Proof.Machine
end

section
/-! PROOFS. A judgement on a window (R149, R150): what a link that enters or leaves UP sends, flushes and routes anew. -/

namespace Sys2Proof.Machine

variable {c : Net} {l : LinkNo} {s t u : State} {io : Io} {x : Handle}

/-! ## The engine's work, routed anew (R38) -/

theorem buildFrame_engine (c : Net) (hdr : Header) (payload : List Byte) (done : Option Completion) (io : Io) :
    (buildFrame c hdr payload done io).2.engine = io.engine := by
  have asked : (allocate c.active.bufferReserve hdr.frameClass io).2.engine = io.engine := by
    unfold allocate noteEmpty
    simp only
    split
    · split <;> rfl
    · split <;> rfl
  unfold buildFrame
  rcases ha : allocate c.active.bufferReserve hdr.frameClass io with ⟨_ | _ | _, io'⟩
  all_goals
    rw [ha] at asked
    exact asked

theorem sendBuilt_engine {place : Handle → Io → Io} (hp : ∀ h io, (place h io).engine = io.engine) (c : Net) (hdr : Header)
    (payload : List Byte) (done : Option Completion) (io : Io) :
    (sendBuilt c hdr payload done place io).engine = io.engine := by
  have built := buildFrame_engine c hdr payload done io
  unfold sendBuilt
  rcases hb : buildFrame c hdr payload done io with ⟨_ | h, io'⟩
  all_goals
    rw [hb] at built
    simp only at built ⊢
  · exact built
  · rw [dropReference_engine, hp, built]

theorem sendToSites_engine (c : Net) (hdr : Header) (payload : List Byte) (sites : List SiteId) (io : Io) :
    (sendToSites c hdr payload sites io).engine = io.engine := by
  have one (h : Handle) (n : SiteId) (io : Io) : (placeForSite c hdr.frameClass h n io).engine = io.engine := by
    unfold placeForSite placeForSiteWith
    split
    · rfl
    · exact placeEntry_engine c _ _ io
  have all (h : Handle) (ns : List SiteId) (io : Io) : (placeForSites c hdr.frameClass h ns io).engine = io.engine := by
    induction ns generalizing io with
    | nil => rfl
    | cons n ns ih => exact (ih _).trans (one h n io)
  unfold sendToSites
  split
  · rfl
  · exact sendBuilt_engine (fun h => all h sites) _ _ _ _ _

theorem hasSite_or (a b : SiteSet) (n : SiteId) : hasSite (a ||| b) n = (hasSite a n || hasSite b n) := by
  rw [Bool.eq_iff_iff, Bool.or_eq_true, hasSite_iff, hasSite_iff, hasSite_iff]
  simp only [BitVec.getLsbD_or, Bool.or_eq_true]
  tauto

/-- A link is lost to the frames that are not placed whole. -/
theorem reroutes_of_engine (engine : t.io.engine = (rerouteWork c l s.io).engine) (route : t.net.route = c.route) :
    s.reroutes (· == l) t := by
  rw [rerouteWork_engine] at engine
  refine ⟨by rw [engine], Fanout.reroute c l, by rw [engine], fun f _ => ⟨rfl, fun m n => ?_⟩⟩
  rw [Fanout.reroute_groups, hasSite_or, route]
  have lost : ([0, 1, 2, 3].any fun k : LinkNo => (k == l) && hasSite f.groups[k.val] n) = hasSite f.groups[l.val] n := by
    match l with
    | 0 | 1 | 2 | 3 => simp
  have via : hasSite (c.sitesVia f.groups[l.val] m) n = (hasSite f.groups[l.val] n && c.route n == some m) := by
    rw [Bool.eq_iff_iff, hasSite_sitesVia, Bool.and_eq_true, beq_iff_eq]
  rw [lost, via]
  by_cases here : m = l
  · simp [here]
  · simp [here, beq_eq_false_iff_ne.mpr here]

/-! ## A link that leaves UP -/

/-- A frame for several sites takes the head of the free list where there is room. -/
theorem sendToSites_told {n m : Nat} (hdr : Header) (payload : List Byte) {sites : List SiteId}
    (routed : ∀ n ∈ sites, (c.route n).isSome = true) (room : Room c.active.bufferReserve (n + 1) (m + sites.length) io) :
    Room c.active.bufferReserve n m (sendToSites c hdr payload sites io)
      ∧ (∀ f ∈ sitesClaims c hdr payload sites,
          Stands (io.pool.free.take 1) f.entries (frameBytes f.header f.payload) (sendToSites c hdr payload sites io))
      ∧ ∃ j back, j ≤ 1 ∧ (sendToSites c hdr payload sites io).pool.free = io.pool.free.drop j ++ back := by
  unfold sendToSites sitesClaims
  cases sites with
  | nil => exact ⟨room.mono (by omega) (by simp), by simp, 0, [], Nat.zero_le 1, (List.append_nil _).symm⟩
  | cons site rest =>
    have places := places_forSites (c := c) hdr.frameClass routed (frameBytes (c.fromOwn hdr) payload) io.engine
    obtain ⟨room', -, stands, back, free⟩ := sendBuilt_room (c := c) (done := none) room places
    refine ⟨room', fun f hf => ?_, 1, back, le_refl 1, free.trans (by rw [List.drop_one])⟩
    rw [if_neg (by simp), List.mem_singleton] at hf
    rw [hf]
    exact stands (by simp)

/-- The header of LINK CHANGE (R150). -/
def linkChange : Header := { Header.blank .mgmtNotice with subcode := 1 }

/-- The payload of LINK CHANGE (R150). -/
def linkChangeBytes (l : LinkNo) (reported : LinkState) (far : SiteId) : List Byte :=
  [BitVec.ofNat 8 l.val, BitVec.ofNat 8 reported.number, BitVec.ofNat 8 far]

/-- The state in which a link that leaves UP has been flushed and its groups routed anew. -/
def emptied (l : LinkNo) (s : State) : State := setLinkState l .down (modLink l (fun x => { x with goods := 0 }) s)

theorem linkLost_eq (l : LinkNo) (reported : LinkState) (s : State) :
    linkLost l reported s
      = (emptied l s).onIo fun c =>
          sendToSites c linkChange (linkChangeBytes l reported ((emptied l s).link l).farSite) c.managementSites := rfl

theorem emptied_sets (l : LinkNo) (s : State) :
    s.setsLink l { s.link l with state := .down, goods := 0 } (emptied l s) :=
  (State.setsLink.modLink s l fun x => { x with goods := 0 }).setLinkState .down

theorem emptied_farSite (l : LinkNo) (s : State) : ((emptied l s).link l).farSite = (s.link l).farSite := by
  rw [(emptied_sets l s).here]

theorem emptied_frame (l : LinkNo) (s : State) : s.sameButWires (emptied l s) :=
  State.sameButWires.trans (State.sameButWires.modLink l (fun x => { x with goods := 0 }) s) (.setLinkState l .down _)

theorem emptied_io (up : (s.link l).state = .up) :
    (emptied l s).io = rerouteWork (emptied l s).net l (flushQueue (emptied l s).net l s.io) := by
  have flushes : (LinkState.down.flushes && ((modLink l (fun x => { x with goods := 0 }) s).link l).state != .down) = true := by
    rw [link_modLink, if_pos rfl]
    show ((s.link l).state != .down) = true
    rw [up]
    rfl
  unfold emptied setLinkState
  simp only [flushes, if_true]
  rfl

theorem emptied_away (l : LinkNo) (s : State) : (emptied l s).net.awayFrom (linkPort l) := by
  refine awayFrom_of_down ?_
  have down : ((emptied l s).link l).state = .down := by rw [(emptied_sets l s).here]
  intro up
  cases down.symm.trans up

theorem linkLost_queue (up : (s.link l).state = .up) (reported : LinkState) :
    (linkLost l reported s).queueOf (linkPort l) = (s.queueOf (linkPort l)).filter (isProbeEntry s.io) := by
  have away := emptied_away l s
  have ports : (linkLost l reported s).io.ports[(linkPort l).val]
      = { s.io.ports[(linkPort l).val] with queue := s.io.ports[(linkPort l).val].queue.filter (isProbeEntry s.io) } := by
    rw [linkLost_eq]
    refine (KeepsPort.sendToSites away linkChange _ _ (emptied l s).io).trans ?_
    rw [emptied_io up]
    exact (KeepsPort.rerouteWork away l _).trans (flushQueue_port away s.io)
  unfold State.queueOf
  rw [ports]

theorem linkLost_engine (up : (s.link l).state = .up) (reported : LinkState) :
    (linkLost l reported s).io.engine = (rerouteWork (linkLost l reported s).net l s.io).engine := by
  rw [linkLost_eq]
  refine (sendToSites_engine _ _ _ _ _).trans ?_
  rw [emptied_io up, rerouteWork_engine, rerouteWork_engine, flushQueue_engine]
  rfl

/-- With room, the loss of a link lets frames go, and then LINK CHANGE stands (R38, R46, R150). -/
theorem linkLost_told {n m : Nat} (up : (s.link l).state = .up) (reported : LinkState)
    (room : Room s.active.bufferReserve (n + 1) (m + s.sites.length) s.io) :
    let t := linkLost l reported s
    Room s.active.bufferReserve n m t.io
      ∧ (∀ f ∈ sitesClaims t.net linkChange (linkChangeBytes l reported (s.link l).farSite) t.net.managementSites,
          Stands s.io.pool.free f.entries (frameBytes f.header f.payload) t.io)
      ∧ ∃ j back, j ≤ 1 ∧ t.io.pool.free = s.io.pool.free.drop j ++ back := by
  intro t
  obtain ⟨room1, freed1, free1⟩ := room.flushed (emptied l s).net l
  obtain ⟨room2, freed2, free2⟩ := room1.rerouted (emptied l s).net l
  rw [← emptied_io up] at room2 free2
  have active : (emptied l s).active = s.active := by
    obtain ⟨active, -, -⟩ := (emptied_sets l s).inputs
    exact active
  have sites : (emptied l s).sites = s.sites := by rw [emptied_frame]
  have few : (emptied l s).net.managementSites.length ≤ s.sites.length := by
    rw [← sites]
    exact length_managementSites _
  have sent : t.io = sendToSites (emptied l s).net linkChange (linkChangeBytes l reported (s.link l).farSite)
      (emptied l s).net.managementSites (emptied l s).io := by
    rw [← emptied_farSite]
    rfl
  have net : t.net = (emptied l s).net := rfl
  obtain ⟨room', stands, j, back, few', free'⟩ := sendToSites_told (c := (emptied l s).net) linkChange
    (linkChangeBytes l reported (s.link l).farSite) (managementSites_routed _)
    (show Room (emptied l s).active.bufferReserve (n + 1) (m + (emptied l s).net.managementSites.length) (emptied l s).io by
      rw [active]
      exact room2.mono (le_refl _) (by omega))
  rw [sent, net]
  have some : s.io.pool.free ≠ [] := fun none => by
    have := room.free
    rw [none, List.length_nil] at this
    omega
  obtain ⟨first, rest, free⟩ := List.exists_cons_of_ne_nil some
  rw [free2, free1, List.append_assoc] at free'
  refine ⟨active ▸ room', fun f hf => (stands f hf).mono fun k hk => ?_, j, freed1 ++ freed2 ++ back, few', ?_⟩
  · rw [free2, free1, free] at hk
    rw [free]
    exact List.mem_cons.mpr (.inl (by simpa using hk))
  · rw [free', List.drop_append_of_le_length (by rw [free, List.length_cons]; omega), List.append_assoc]

/-! ## A link that enters UP -/

/-- The state in which a link has entered UP, before anything is sent. -/
def risen (l : LinkNo) (s : State) : State :=
  modLink l (fun x => { x with state := .up }) (modLink l (fun x => { x with errors := 0, goods := 0 }) s)

theorem linkUp_eq (l : LinkNo) (s : State) :
    linkUp l s
      = fullRound ((risen l s).onIo fun c =>
          sendToSites c linkChange (linkChangeBytes l .up ((risen l s).link l).farSite) c.managementSites) := rfl

theorem risen_farSite (l : LinkNo) (s : State) : ((risen l s).link l).farSite = (s.link l).farSite := by
  unfold risen
  rw [link_modLink, if_pos rfl, link_modLink, if_pos rfl]

/-- The frames of an entry into UP: LINK CHANGE and a FULL round (R150). -/
def upClaims (l : LinkNo) (far : SiteId) (s : State) (c : Net) : List Claim :=
  sitesClaims c linkChange (linkChangeBytes l .up far) c.managementSites
    ++ sitesClaims c (fullHeader s) (fullPayload s) c.routedSites

theorem Issues.linkUp (l : LinkNo) (s : State) :
    Issues x 2 (2 * s.sites.length) (upClaims l (s.link l).farSite s (linkUp l s).net) s (linkUp l s) := by
  rw [linkUp_eq, ← risen_farSite]
  have change := Issues.toSites (x := x) linkChange (linkChangeBytes l .up ((risen l s).link l).farSite) (risen l s)
    (managementSites_routed _)
  have few : (risen l s).net.managementSites.length ≤ s.sites.length := length_managementSites (risen l s)
  have round := Issues.fullRound (y := x) ((risen l s).onIo fun c =>
    sendToSites c linkChange (linkChangeBytes l .up ((risen l s).link l).farSite) c.managementSites)
  have both := Issues.start (s := s) (change.trans round) rfl rfl
  exact both.mono (le_refl _)
    (by
      show (risen l s).net.managementSites.length + s.sites.length ≤ 2 * s.sites.length
      omega)
    fun f hf => hf

/-! ## A judgement -/

/-- What a judgement that leaves a link `y` does beside it, by the link's state and far site before. -/
structure Judged (l : LinkNo) (was : LinkState) (far : SiteId) (y : Link) (s t : State) : Prop where
  sequence : t.ownSequence = if was ≠ .up ∧ y.state = .up then s.ownSequence + 1 else s.ownSequence
  queue : was = .up → y.state ≠ .up →
    t.queueOf (linkPort l) = (s.queueOf (linkPort l)).filter (isProbeEntry s.io)
  engine : was = .up → y.state ≠ .up → t.io.engine = (rerouteWork t.net l s.io).engine
  told : was = .up → y.state ≠ .up → ∀ n m, Room s.active.bufferReserve (n + 1) (m + s.sites.length) s.io →
    Room s.active.bufferReserve n m t.io
      ∧ (∀ f ∈ sitesClaims t.net linkChange (linkChangeBytes l y.state far) t.net.managementSites,
          Stands s.io.pool.free f.entries (frameBytes f.header f.payload) t.io)
      ∧ ∃ j back, j ≤ 1 ∧ t.io.pool.free = s.io.pool.free.drop j ++ back
  rises : was ≠ .up → y.state = .up → ∀ x, Issues x 2 (2 * s.sites.length) (upClaims l far s t.net) s t

namespace Judged

variable {was : LinkState} {far : SiteId} {y : Link}

/-- The link's other fields were written before. -/
theorem after (f : Link → Link) (h : Judged l was far y (modLink l f s) t) : Judged l was far y s t :=
  ⟨h.sequence, h.queue, h.engine, h.told, fun a b x => (h.rises a b x).start rfl rfl⟩

/-- The link neither entered nor left UP. -/
theorem still (level : was = .up ↔ y.state = .up) (sequence : t.ownSequence = s.ownSequence) :
    Judged l was far y s t := by
  refine ⟨?_, fun up down => absurd (level.mp up) down, fun up down => absurd (level.mp up) down,
    fun up down => absurd (level.mp up) down, fun low high => absurd (level.mpr high) low⟩
  rw [sequence, if_neg]
  exact fun ⟨low, up⟩ => low (level.mpr up)

theorem lost (up : (s.link l).state = .up) (reported : LinkState) (same : y.state = reported) :
    Judged l .up (s.link l).farSite y s (linkLost l reported s) := by
  refine ⟨?_, fun _ _ => linkLost_queue up reported, fun _ _ => linkLost_engine up reported,
    fun _ _ n m room => same ▸ linkLost_told up reported room, fun h => absurd rfl h⟩
  rw [if_neg (by simp), State.sameButWires.linkLost l reported s]

theorem up (l : LinkNo) (s : State) (low : was ≠ .up) (high : y.state = .up) :
    Judged l was (s.link l).farSite y s (linkUp l s) := by
  refine ⟨?_, fun h => absurd h low, fun h => absurd h low, fun h => absurd h low, fun _ _ x => Issues.linkUp l s⟩
  rw [if_pos ⟨low, high⟩]
  rfl

end Judged

theorem judgedError_judged (l : LinkNo) (s : State) :
    Judged l (s.link l).state (s.link l).farSite ((s.link l).afterError s.active) s (judgedError l s) := by
  unfold judgedError Link.afterError
  cases state : (s.link l).state with
  | disabled => exact .still (by simp [state]) rfl
  | down => exact .still (by simp [state]) rfl
  | trial =>
    refine .still (by simp) ?_
    rw [State.sameButWires.setLinkState]
    rfl
  | up =>
    have counted : (modLink l (fun x => { x with errors := x.errors + 1 }) s).link l
        = { s.link l with errors := (s.link l).errors + 1 } := by rw [link_modLink, if_pos rfl]
    simp only [counted]
    show Judged l .up (s.link l).farSite _ s (if s.active.failThreshold ≤ (s.link l).errors + 1 then _ else _)
    split
    · have lost := Judged.lost (l := l) (s := modLink l (fun x => { x with errors := x.errors + 1 }) s)
        (y := { s.link l with state := .down, errors := (s.link l).errors + 1, goods := 0 })
        (by rw [counted, state]) .down rfl
      rw [counted] at lost
      exact lost.after _
    · exact .still (by simp) rfl

theorem goodInTrial_judged {goods : Nat} {was : LinkState} {y : Link} (low : was ≠ .up)
    (high : s.active.restoreCount ≤ goods → y.state = .up) (below : ¬s.active.restoreCount ≤ goods → y.state = .trial) :
    Judged l was (s.link l).farSite y s (goodInTrial l goods s) := by
  unfold goodInTrial
  split
  · exact .up l s low (high (by assumption))
  · refine .still (by simp [low, below (by assumption)]) ?_
    rw [State.sameButWires.setLinkState]
    rfl

theorem judgedGood_judged (l : LinkNo) (s : State) :
    Judged l (s.link l).state (s.link l).farSite ((s.link l).afterGood s.active) s (judgedGood l s) := by
  unfold judgedGood Link.afterGood
  cases state : (s.link l).state with
  | disabled => exact .still (by simp [state]) rfl
  | down =>
    exact goodInTrial_judged (by simp) (fun h => by simp only [if_pos h]) fun h => by simp only [if_neg h]
  | trial =>
    exact goodInTrial_judged (by simp) (fun h => by simp only [if_pos h]) fun h => by simp only [if_neg h]
  | up => exact .still (by simp) rfl

end Sys2Proof.Machine
end

section
/-! PROOFS. The frames of a link (R146 to R148): a PROBE is answered or marks a loop, and a PROBE REPLY closes the
window. -/

namespace Sys2Proof.Machine

variable {c : Net} {l : LinkNo} {s t m : State} {x : Handed} {y : Link}

theorem linkLocal_next {k : Kind} (run : Header → State → State) (hx : s.holds (linkPort l) x k) :
    takeLinkLocal l k run s
      = (run (handedHeader x s) (s.taken (linkPort l))).onIo fun c => dropReference c x.handle := by
  obtain ⟨head, isKind⟩ := hx
  exact takeHanded_of_head (fun _ hdr _ => run hdr) head isKind

/-- What a judgement on a link's window leaves, as its statement asks (R149, R150). -/
structure Sees (l : LinkNo) (y : Link) (s t : State) : Prop where
  link : t.link l = y
  others : ∀ k, k ≠ l → t.link k = s.link k
  sequence : t.ownSequence = if (s.link l).state ≠ .up ∧ y.state = .up then s.ownSequence + 1 else s.ownSequence
  lost : (s.link l).state = .up → y.state = .down →
    t.queueOf (linkPort l) = (s.queueOf (linkPort l)).filter (isProbeEntry s.io) ∧ s.reroutes (· == l) t
  change : ((s.link l).state = .up ↔ y.state ≠ .up) → s.roomFor 2 (2 * s.sites.length) →
    s.noticed t.net linkChange (linkChangeBytes l y.state (s.link l).farSite) t.net.managementSites t
  round : (s.link l).state ≠ .up → y.state = .up → s.roomFor 2 (2 * s.sites.length) →
    s.noticed t.net (fullHeader s) (fullPayload s) t.net.routedSites t

theorem room_taken {n k : Nat} (p : PortNo) (room : s.roomFor n k) (hx : x.handle ∉ s.io.pool.free) :
    Room s.active.bufferReserve n k (s.taken p).io := by
  obtain ⟨room', -, -⟩ := (Issues.taken (x := x.handle) p s).room n k (room_of_roomFor room) hx
  exact room'

/-- A frame's judgement, its buffer let go. -/
theorem Judged.sees {k : Kind} (holds : s.holds (linkPort l) x k)
    (judged : Judged l (s.link l).state (s.link l).farSite y (s.taken (linkPort l)) m)
    (sets : (s.taken (linkPort l)).setsLink l y m) :
    Sees l y s (m.onIo fun c => dropReference c x.handle) := by
  have queue : (s.taken (linkPort l)).queueOf (linkPort l) = s.queueOf (linkPort l) := takenAt_queue _ _ s.io
  obtain ⟨-, isKind⟩ := holds
  have down (notUp : y.state ≠ .up) : m.net.awayFrom (linkPort l) := by
    refine awayFrom_of_down ?_
    have here : (m.link l).state = y.state := congrArg Link.state sets.here
    exact fun up => notUp (here.symm.trans up)
  refine ⟨sets.here, fun k hk => sets.other hk, judged.sequence, fun up lost => ⟨?_, ?_⟩, fun moved room => ?_,
    fun low high room => ?_⟩
  · have notUp : y.state ≠ .up := by rw [lost]; decide
    rw [← queue]
    refine Eq.trans ?_ (judged.queue up notUp)
    exact congrArg Port.queue (KeepsPort.dropReference (down notUp) x.handle m.io)
  · have notUp : y.state ≠ .up := by rw [lost]; decide
    exact reroutes_of_engine (c := m.net) ((dropReference_engine _ _ _).trans ((judged.engine up notUp).trans (by
      rw [rerouteWork_engine, rerouteWork_engine]
      rfl))) rfl
  · have fresh := not_free_of_kind room isKind
    refine noticed_of_stands rfl fun some => ?_
    by_cases up : (s.link l).state = .up
    · obtain ⟨room', stands, -⟩ := judged.told up (moved.mp up) 1 s.sites.length
        ((room_taken _ room fresh).mono (le_refl _) (by show s.sites.length + s.sites.length ≤ _; omega))
      refine (stands _ ?_).dropped _ room'.quiet fresh
      rw [sitesClaims, if_neg (by exact some), List.mem_singleton]
      rfl
    · have high : y.state = .up := by
        by_contra low
        exact up (moved.mpr low)
      refine ((Issues.taken (linkPort l) s).trans (judged.rises up high x.handle)).stands ?_ room (by omega)
        (by show 0 + 2 * s.sites.length ≤ _; omega) fresh _
      rw [List.nil_append, upClaims, sitesClaims, if_neg (by exact some), high]
      exact List.mem_append_left _ (List.mem_singleton.mpr rfl)
  · have fresh := not_free_of_kind room isKind
    refine noticed_of_stands rfl fun some => ?_
    refine ((Issues.taken (linkPort l) s).trans (judged.rises low high x.handle)).stands ?_ room (by omega)
      (by show 0 + 2 * s.sites.length ≤ _; omega) fresh _
    refine List.mem_append_right _ (List.mem_append_right _ ?_)
    rw [sitesClaims, if_neg (by exact some)]
    exact List.mem_singleton.mpr rfl

/-! ## Windows (R147, R148) -/

theorem closeWindow_judged (l : LinkNo) (s : State) :
    Judged l (s.link l).state (s.link l).farSite
      (if (s.link l).outstanding then { s.link l with outstanding := false }.afterError s.active else s.link l) s
      (closeWindow l s) := by
  unfold closeWindow
  split
  · have closed := judgedError_judged l (modLink l (fun x => { x with outstanding := false }) s)
    rw [link_modLink, if_pos rfl] at closed
    exact closed.after _
  · exact .still Iff.rfl rfl

/-- The part's own PROBE judges an open window (R147). -/
theorem takeLoopedProbe_judged (l : LinkNo) (s : State) :
    Judged l (s.link l).state (s.link l).farSite
      (if (s.link l).outstanding then { s.link l with looped := true, outstanding := false }.afterError s.active
        else { s.link l with looped := true })
      s (takeLoopedProbe l s) := by
  have looped := closeWindow_judged l (modLink l (fun x => { x with looped := true }) s)
  rw [link_modLink, if_pos rfl] at looped
  exact looped.after _

theorem takeLoopedProbe_sets (l : LinkNo) (s : State) :
    s.setsLink l
      (if (s.link l).outstanding then { s.link l with looped := true, outstanding := false }.afterError s.active
        else { s.link l with looped := true })
      (takeLoopedProbe l s) :=
  (State.setsLink.modLink s l fun x => { x with looped := true }).closeWindow

theorem goodReply_iff (x : Link) (hdr : Header) :
    goodReply x hdr = true ↔ hdr.tag.toNat = 65535 - x.token.toNat ∧ hdr.origin.toNat = x.farSite := by
  simp [goodReply]

/-- A reply that a link waits for closes its window (R148). -/
theorem takeProbeReply_waited {hdr : Header} (waited : (s.link l).state ≠ .disabled) (window : (s.link l).outstanding = true) :
    takeProbeReply l hdr s
      = if goodReply (s.link l) hdr then
          judgedGood l (modLink l (fun x => { x with advance := true, looped := false })
            (modLink l (fun x => { x with outstanding := false }) s))
        else judgedError l (modLink l (fun x => { x with outstanding := false }) s) := by
  unfold takeProbeReply
  simp only [waited, window, decide_false, Bool.not_true, Bool.or_false, Bool.false_eq_true, if_false]

theorem takeProbeReply_stray {hdr : Header} (stray : (s.link l).state = .disabled ∨ (s.link l).outstanding = false) :
    takeProbeReply l hdr s = s.count .strayReplies := by
  unfold takeProbeReply
  simp only
  rw [if_pos]
  rcases stray with disabled | closed
  · simp [disabled]
  · simp [closed]

theorem goodReply_judged (l : LinkNo) (s : State) :
    let y := { s.link l with outstanding := false, advance := true, looped := false }.afterGood s.active
    let t := judgedGood l (modLink l (fun x => { x with advance := true, looped := false })
      (modLink l (fun x => { x with outstanding := false }) s))
    Judged l (s.link l).state (s.link l).farSite y s t ∧ s.setsLink l y t := by
  have closed : (modLink l (fun x => { x with advance := true, looped := false })
      (modLink l (fun x => { x with outstanding := false }) s)).link l
        = { s.link l with outstanding := false, advance := true, looped := false } := by
    rw [link_modLink, if_pos rfl, link_modLink, if_pos rfl]
  have judged := judgedGood_judged l (modLink l (fun x => { x with advance := true, looped := false })
    (modLink l (fun x => { x with outstanding := false }) s))
  rw [closed] at judged
  exact ⟨(judged.after _).after _,
    ((State.setsLink.modLink s l fun x => { x with outstanding := false }).mod
      fun x => { x with advance := true, looped := false }).judgedGood⟩

theorem badReply_judged (l : LinkNo) (s : State) :
    let y := { s.link l with outstanding := false }.afterError s.active
    let t := judgedError l (modLink l (fun x => { x with outstanding := false }) s)
    Judged l (s.link l).state (s.link l).farSite y s t ∧ s.setsLink l y t := by
  have judged := judgedError_judged l (modLink l (fun x => { x with outstanding := false }) s)
  rw [link_modLink, if_pos rfl] at judged
  exact ⟨judged.after _, (State.setsLink.modLink s l fun x => { x with outstanding := false }).judgedError⟩

/-- An answer to a PROBE stands on the link's own queue (R146). -/
theorem answerProbe_stands {kind : Kind} {k : Handle} {rest : List Handle} {token : BitVec 16}
    (holds : s.holds (linkPort l) x kind) (hf : s.io.pool.free = k :: rest) (empty : bufferOf k s.io = none)
    (quiet : s.io.pool.noticePending = false) (waits : s.waitsAt (linkPort l)) :
    let t := (answerProbe l token (s.taken (linkPort l))).onIo fun c => dropReference c x.handle
    t.queueOf (linkPort l) = insertEntry (probeEntry s.active k) (s.queueOf (linkPort l))
      ∧ bytesOf k t.io
        = frameBytes
            { Header.blank .probeReply with
              origin := BitVec.ofNat 8 s.own
              tag := BitVec.ofNat 16 (65535 - token.toNat) }
            [] := by
  obtain ⟨-, isKind⟩ := holds
  have apart : x.handle ≠ k := fun same => bufferOf_of_kind isKind (same ▸ empty)
  have sent := sendBuilt_one (io := (s.taken (linkPort l)).io) (c := s.net) (p := linkPort l)
    (e := probeEntry s.active k)
    (place := fun h => placeEntry s.net (linkPort l) (probeEntry s.active h))
    (hdr := s.net.fromOwn { Header.blank .probeReply with tag := BitVec.ofNat 16 (65535 - token.toNat) })
    [] none hf (.inl rfl) quiet rfl (fun _ => rfl) (waitsAt_taken _ waits)
  have after := sent.ofTaken.dropped apart s.net
  exact ⟨(after.queue (linkPort l)).trans (if_pos rfl), after.bytes⟩

/-- What the operations on links leave, with the taking of a frame and the release of its buffer. -/
theorem sameButLinks_dropped {p : PortNo} {extra : Held} (run : LinksRun extra (s.taken p) m) (h : Handle) :
    s.sameButLinks (m.onIo fun c => dropReference c h) := by
  have frame := run.frame
  unfold State.sameButLinks at frame ⊢
  rw [frame]
  rfl

end Sys2Proof.Machine

open Sys2Proof Sys2Proof.Machine

/-- Settles O51: the judgements give the link and what it sends; a reply to a PROBE is one frame on its own link. -/
theorem probesAndRepliesJudged : Obligations.ProbesAndRepliesJudged := by
  intro l x s law hdr before judged
  have asked {y : Link} {t : State} (h : Sees l y s t) : judged y t :=
    ⟨h.link, h.others, h.sequence, h.lost, h.change, h.round⟩
  refine ⟨fun holds => ?_, fun holds => ?_⟩
  · refine ⟨_, congrArg Host.Outcome.next (linkLocal_next (takeProbe l) holds),
      tookHanded_of_acts (Acts.takeProbe l hdr _) x.handle, sameButLinks_dropped (LinksRun.takeProbe (extra := Held.none) l hdr) x.handle,
      fun own => ?_, fun other => ?_, fun other disabled quiet => ?_, fun k rest other enabled hf empty quiet waits => ?_⟩
    · have looped : takeProbe l hdr (s.taken (linkPort l)) = takeLoopedProbe l (s.taken (linkPort l)) := if_pos own
      rw [looped]
      exact asked ((takeLoopedProbe_judged l (s.taken (linkPort l))).sees holds (takeLoopedProbe_sets l _))
    · have answered : takeProbe l hdr (s.taken (linkPort l))
          = if before.state = .disabled then s.taken (linkPort l) else answerProbe l hdr.tag (s.taken (linkPort l)) :=
        if_neg other
      rw [answered]
      unfold State.sameButIo
      split <;> rfl
    · have ignored : takeProbe l hdr (s.taken (linkPort l)) = s.taken (linkPort l) :=
        (if_neg other).trans (if_pos disabled)
      rw [ignored]
      exact sameSending_dropped x.handle rfl quiet
    · have answered : takeProbe l hdr (s.taken (linkPort l)) = answerProbe l hdr.tag (s.taken (linkPort l)) :=
        (if_neg other).trans (if_neg enabled)
      rw [answered]
      exact answerProbe_stands holds hf empty quiet waits
  · refine ⟨_, congrArg Host.Outcome.next (linkLocal_next (takeProbeReply l) holds),
      tookHanded_of_acts (Acts.takeProbeReply l hdr _) x.handle,
      sameButLinks_dropped (LinksRun.takeProbeReply (extra := Held.none) l hdr) x.handle, fun stray => ?_,
      fun enabled window => ⟨fun right => ?_, fun wrong => ?_⟩⟩
    · rw [takeProbeReply_stray (s := s.taken (linkPort l)) stray]
      exact ⟨rfl, (((Raises.taken (linkPort l) s).trans (.count .strayReplies _)).trans (.dropped x.handle _)).raised law
        (by decide) rfl⟩
    · rw [(takeProbeReply_waited (s := s.taken (linkPort l)) enabled window).trans
        (if_pos ((goodReply_iff before hdr).mpr right))]
      obtain ⟨good, sets⟩ := goodReply_judged l (s.taken (linkPort l))
      exact asked (good.sees holds sets)
    · rw [(takeProbeReply_waited (s := s.taken (linkPort l)) enabled window).trans
        (if_neg fun good => wrong ((goodReply_iff before hdr).mp good))]
      obtain ⟨bad, sets⟩ := badReply_judged l (s.taken (linkPort l))
      exact asked (bad.sees holds sets)
end

section
/-! PROOFS. The probe timer (R145): the open window is judged, the token advances, and the next PROBE opens a window. -/

namespace Sys2Proof.Machine

variable {c c' : Net} {l : LinkNo} {s t m : State} {x : Handle} {y : Link} {io : Io} {k : Handle} {rest : List Handle}

/-! ## Routes read the link states alone (R30) -/

theorem route_congr (active : c'.active = c.active) (sites : c'.sites = c.sites)
    (states : ∀ k : LinkNo, c'.links[k.val].state = c.links[k.val].state) : c'.route = c.route := by
  have usable (o : Option LinkNo) : c'.usable o = c.usable o := by
    cases o with
    | none => rfl
    | some j => simp only [Net.usable, Option.filter_some, states]
  funext n
  unfold Net.route
  rw [active, sites]
  simp only [usable]

theorem managementSites_congr (sites : c'.sites = c.sites) (route : c'.route = c.route) :
    c'.managementSites = c.managementSites := by
  unfold Net.managementSites
  rw [sites, route]

theorem noticed_congr {hdr : Header} {payload : List Byte} {sites : List SiteId} (active : c'.active = c.active)
    (route : c'.route = c.route) (h : s.noticed c hdr payload sites t) : s.noticed c' hdr payload sites t := by
  unfold State.noticed at h ⊢
  rw [active, route]
  exact h

/-! ## A PROBE on its link (R145) -/

/-- The header of a PROBE (R145). -/
def probeHeader (own : SiteId) (token : BitVec 16) : Header :=
  { Header.blank .probe with origin := BitVec.ofNat 8 own, tag := token }

theorem sendProbe_waits (hf : s.io.pool.free = k :: rest) (waits : s.waitsAt (linkPort l)) :
    let t := sendProbe l s
    t.queueOf (linkPort l) = insertEntry (probeEntry s.active k) (s.queueOf (linkPort l))
      ∧ bytesOf k t.io = frameBytes (probeHeader s.own (s.link l).token) [] := by
  obtain ⟨sent, buffer⟩ := sendBuilt_waits (io := s.io) (c := s.net) (p := linkPort l) (e := probeEntry s.active k)
    (place := fun h => placeEntry s.net (linkPort l) (probeEntry s.active h))
    (hdr := s.net.fromOwn { Header.blank .probe with tag := (s.link l).token })
    [] none hf (.inl rfl) rfl (fun _ => rfl) waits
  refine ⟨?_, ?_⟩
  · refine (congrArg (fun io : Io => io.ports[(linkPort l).val].queue) sent).trans ?_
    exact (putEntry_queue (linkPort l)).trans (if_pos rfl)
  · exact bytesOf_of_buffer buffer

/-- Where there is room, a PROBE keeps what stands. -/
theorem sendProbe_kept (room : Room s.active.bufferReserve 1 1 s.io) (x : Handle) : Kept x s.io (sendProbe l s).io := by
  have places := places_entry (c := s.net) (place := fun h => placeEntry s.net (linkPort l) (probeEntry s.active h))
    (p := linkPort l) (e := fun k => probeEntry s.active k)
    (frameBytes (s.net.fromOwn { Header.blank .probe with tag := (s.link l).token }) []) s.io.engine (fun _ => rfl)
    fun k io => rfl
  obtain ⟨-, kept, -⟩ := sendBuilt_room (c := s.net) (n := 0) (m' := 0) (done := none)
    (show Room s.net.active.bufferReserve (0 + 1) (0 + 1) s.io from room) places
  exact kept x

theorem sendProbe_engine (l : LinkNo) (s : State) : (sendProbe l s).io.engine = s.io.engine :=
  sendBuilt_engine (fun _ _ => placeEntry_engine _ _ _ _) _ _ _ _ _

/-! ## The timer -/

/-- The next PROBE of a link whose window is closed: the token advances and the timer starts again. -/
def probesAgain (l : LinkNo) (m : State) : State := startProbeTimer l (sendProbe l (modLink l applyAdvance m))

theorem probesAgain_active (l : LinkNo) (m : State) : (probesAgain l m).net.active = m.net.active := rfl

theorem probesAgain_sites (l : LinkNo) (m : State) : (probesAgain l m).net.sites = m.net.sites := rfl

theorem probesAgain_engine (l : LinkNo) (m : State) : (probesAgain l m).io.engine = m.io.engine :=
  sendProbe_engine l (modLink l applyAdvance m)

theorem probesAgain_sets (l : LinkNo) (m : State) :
    m.setsLink l
      { applyAdvance (m.link l) with outstanding := true, timer := some (m.after m.active.probePeriod) }
      (probesAgain l m) :=
  ((State.setsLink.refl (s := m) (l := l)).mod applyAdvance).sendProbe.startProbeTimer

theorem probesAgain_states (l : LinkNo) (m : State) (k : LinkNo) :
    ((probesAgain l m).link k).state = (m.link k).state := by
  by_cases here : k = l
  · subst here
    rw [(probesAgain_sets k m).here]
    show (applyAdvance (m.link k)).state = _
    unfold applyAdvance
    split <;> rfl
  · exact congrArg Link.state ((probesAgain_sets l m).other here)

theorem probesAgain_route (l : LinkNo) (m : State) : (probesAgain l m).net.route = m.net.route :=
  route_congr (probesAgain_active l m) (probesAgain_sites l m) (probesAgain_states l m)

theorem probesAgain_waits (hf : m.io.pool.free = k :: rest) (waits : m.waitsAt (linkPort l)) :
    (probesAgain l m).queueOf (linkPort l) = insertEntry (probeEntry m.active k) (m.queueOf (linkPort l))
      ∧ bytesOf k (probesAgain l m).io = frameBytes (probeHeader m.own (applyAdvance (m.link l)).token) [] := by
  have sent := sendProbe_waits (s := modLink l applyAdvance m) hf waits
  rw [link_modLink, if_pos rfl] at sent
  exact sent

/-- Where there is room, the next PROBE keeps what stands. -/
theorem probesAgain_kept (room : Room m.active.bufferReserve 1 1 m.io) (x : Handle) : Kept x m.io (probesAgain l m).io :=
  sendProbe_kept (s := modLink l applyAdvance m) room x

theorem probeTimerEnds_eq {d : Nat} (timer : (s.link l).timer = some d) (due : d ≤ s.timeBase.toNat)
    (enabled : ((closeWindow l s).link l).state ≠ .disabled) : probeTimerEnds l s = probesAgain l (closeWindow l s) := by
  have elapsed : s.due (s.link l).timer = true := by simpa [timer, State.due, State.elapsed] using due
  have state : ((modLink l applyAdvance (closeWindow l s)).link l).state = ((closeWindow l s).link l).state := by
    rw [link_modLink, if_pos rfl]
    unfold applyAdvance
    split <;> rfl
  unfold probeTimerEnds
  rw [if_pos elapsed]
  simp only
  rw [if_neg (by rw [state]; exact enabled)]
  rfl

theorem afterError_keeps (p : Params) (x : Link) :
    (x.afterError p).advance = x.advance ∧ (x.afterError p).token = x.token
      ∧ (x.state ≠ .up → (x.afterError p).state ≠ .up) := by
  unfold Link.afterError
  cases state : x.state with
  | disabled => exact ⟨rfl, rfl, fun _ => by rw [state]; decide⟩
  | down => exact ⟨rfl, rfl, fun _ => by rw [state]; decide⟩
  | trial => exact ⟨rfl, rfl, fun _ => LinkState.noConfusion⟩
  | up =>
    refine ⟨?_, ?_, fun h => absurd rfl h⟩
    · simp only
      split <;> rfl
    · simp only
      split <;> rfl

/-- A link's fields with its open window judged (R145). -/
def Link.closed (p : Params) (x : Link) : Link :=
  if x.outstanding then { x with outstanding := false }.afterError p else x

theorem Link.closed_keeps (p : Params) (x : Link) :
    (x.closed p).advance = x.advance ∧ (x.closed p).token = x.token ∧ (x.state ≠ .up → (x.closed p).state ≠ .up) := by
  unfold Link.closed
  split
  · exact afterError_keeps p _
  · exact ⟨rfl, rfl, id⟩

theorem probed_eq (s : State) (x : Link) :
    s.probed x
      = { x.closed s.active with
          token := if x.advance then advanceToken x.token else x.token
          advance := false
          outstanding := (x.closed s.active).outstanding || decide ((x.closed s.active).state ≠ .disabled)
          timer := some (s.timeBase.toNat + s.active.probePeriod) } := by
  obtain ⟨advance, token, -⟩ := x.closed_keeps s.active
  have whole : s.probed x
      = { applyAdvance (x.closed s.active) with
          outstanding := (applyAdvance (x.closed s.active)).outstanding
            || decide ((applyAdvance (x.closed s.active)).state ≠ .disabled)
          timer := some (s.after s.active.probePeriod) } := rfl
  rw [whole, ← advance, ← token]
  generalize x.closed s.active = y
  unfold applyAdvance
  split
  · rfl
  · rename_i none
    rw [Bool.not_eq_true] at none
    rw [← none]
    rfl

/-- A window is judged an error, so that no link enters UP by its probe timer. -/
theorem probeTimerEnds_sequence (l : LinkNo) (s : State) : (probeTimerEnds l s).ownSequence = s.ownSequence := by
  obtain ⟨-, -, low⟩ := (s.link l).closed_keeps s.active
  have closed : (closeWindow l s).ownSequence = s.ownSequence :=
    (closeWindow_judged l s).sequence.trans (if_neg fun ⟨down, up⟩ => low down up)
  unfold probeTimerEnds
  generalize closeWindow l s = m at closed ⊢
  split
  · simp only
    split <;> exact closed
  · rfl

/-- What a link that fails by its probe timer leaves (R38, R46, R150). -/
structure Fails (l : LinkNo) (s t : State) : Prop where
  reroutes : s.reroutes (· == l) t
  queue : s.roomFor 2 (s.sites.length + 1) → ∀ e ∈ s.queueOf (linkPort l), e.handle ∉ s.io.pool.free →
    (e ∈ t.queueOf (linkPort l) ↔ isProbeEntry s.io e = true)
  noticed : s.roomFor 2 (s.sites.length + 1) →
    s.noticed t.net linkChange (linkChangeBytes l .down (s.link l).farSite) t.net.managementSites t

theorem closeWindow_fails (up : (s.link l).state = .up) (down : ((s.link l).closed s.active).state = .down) :
    let m := closeWindow l s
    m.queueOf (linkPort l) = (s.queueOf (linkPort l)).filter (isProbeEntry s.io)
      ∧ m.io.engine = (rerouteWork m.net l s.io).engine
      ∧ (s.roomFor 2 (s.sites.length + 1) → Room m.active.bufferReserve 1 1 m.io
        ∧ (∀ f ∈ sitesClaims m.net linkChange (linkChangeBytes l .down (s.link l).farSite) m.net.managementSites,
          Stands s.io.pool.free f.entries (frameBytes f.header f.payload) m.io)
        ∧ ∃ k rest, m.io.pool.free = k :: rest ∧ k ∈ s.io.pool.free) := by
  have notUp : ((s.link l).closed s.active).state ≠ .up := by rw [down]; decide
  have judged : Judged l (s.link l).state (s.link l).farSite ((s.link l).closed s.active) s (closeWindow l s) :=
    closeWindow_judged l s
  have frame : s.sameButLinks (closeWindow l s) := (LinksRun.closeWindow (extra := Held.none) l).frame
  have active : (closeWindow l s).active = s.active := by rw [frame]
  refine ⟨judged.queue up notUp, judged.engine up notUp, fun room => ?_⟩
  obtain ⟨room', stands, j, back, one, free⟩ := judged.told up notUp 1 1
    ((room_of_roomFor room).mono (le_refl 2) (by omega))
  rw [down] at stands
  refine ⟨by rw [active]; exact room', stands, ?_⟩
  obtain ⟨-, -, enough, -⟩ := room
  have split : j = 0 ∨ j = 1 := by omega
  match hf : s.io.pool.free with
  | [] | [_] =>
    rw [hf] at enough
    simp only [List.length_nil, List.length_singleton] at enough
    omega
  | a :: b :: rest =>
    rw [hf] at free
    rcases split with rfl | rfl
    · exact ⟨a, _, free, by simp⟩
    · exact ⟨b, _, free, by simp⟩

theorem probeTimerEnds_fails (up : (s.link l).state = .up) (down : ((s.link l).closed s.active).state = .down) :
    Fails l s (probesAgain l (closeWindow l s)) := by
  obtain ⟨left, engine, told⟩ := closeWindow_fails up down
  generalize closeWindow l s = m at left engine told ⊢
  have route := probesAgain_route l m
  refine ⟨reroutes_of_engine ((probesAgain_engine l m).trans engine) route, fun room e he fresh => ?_, fun room => ?_⟩
  · obtain ⟨room', -, k, rest, hf, hk⟩ := told room
    obtain ⟨queue, -⟩ := probesAgain_waits hf
      ⟨room'.busy _, by have := room'.queues (linkPort l); exact Nat.lt_of_succ_le this⟩
    rw [queue, mem_insertEntry, left, List.mem_filter]
    refine ⟨fun h => ?_, fun probe => .inr ⟨he, probe⟩⟩
    rcases h with new | ⟨-, probe⟩
    · rw [new] at fresh
      exact absurd hk fresh
    · exact probe
  · obtain ⟨room', stands, -⟩ := told room
    refine noticed_congr (probesAgain_active l m) route ?_
    rw [managementSites_congr (probesAgain_sites l m) route]
    refine noticed_of_stands rfl fun some => ?_
    have stand := stands (Claim.forSites m.net linkChange (linkChangeBytes l .down (s.link l).farSite)
      m.net.managementSites) (by
        rw [sitesClaims, if_neg (by exact some)]
        exact List.mem_singleton.mpr rfl)
    have zero : (0 : Handle) ∉ s.io.pool.free := fun hk => by
      have := room.1.mem_iff.mp (List.mem_append_left _ hk)
      simp at this
    exact stand.kept (probesAgain_kept room' 0) zero (frameBytes_ne_nil _ _)

end Sys2Proof.Machine

open Sys2Proof Sys2Proof.Machine

/-- Settles O52: with its window closed, a link takes the next token and sends its PROBE. -/
theorem probeTimerOpensWindow : Obligations.ProbeTimerOpensWindow := by
  intro l d s timer due before judged
  have closed : before.closed s.active = judged := rfl
  have set := setsLink_probeTimerEnds (s := s) (l := l) (by simpa [timer, State.due, State.elapsed] using due)
  have link := set.here.trans (probed_eq s before)
  have again (enabled : judged.state ≠ .disabled) : probeTimerEnds l s = probesAgain l (closeWindow l s) := by
    refine probeTimerEnds_eq timer due ?_
    have here := (State.setsLink.refl (s := s) (l := l)).closeWindow.here
    rw [here]
    exact enabled
  refine ⟨probeTimerEnds l s, rfl, (LinksRun.probeTimerEnds (extra := Held.none) l).frame,
    sameIntake_of_acts (Acts.probeTimerEnds l s), ?_, fun k hk => set.other hk, ?_, fun none => ?_, fun pending => ?_,
    fun up down => ?_, fun up down room => ?_, fun k rest window enabled hf empty waits => ?_⟩
  · exact probeTimerEnds_sequence l s
  · rw [link, closed]
  · rw [link]
    exact if_neg (by rw [none]; decide)
  · rw [link]
    simp only [if_pos pending]
    exact ⟨fun i hi => advanceToken_succ _ hi, advanceToken_zero _⟩
  · rw [again (by rw [down]; decide)]
    exact (probeTimerEnds_fails up down).reroutes
  · rw [again (by rw [down]; decide)]
    have fails := probeTimerEnds_fails up down
    exact ⟨fails.queue room, fails.noticed room⟩
  · have still : closeWindow l s = s := if_neg (by simpa using window)
    have same : judged = before := if_neg (by simpa using window)
    rw [again (by rw [same]; exact enabled), still, (probesAgain_sets l s).here]
    exact probesAgain_waits hf waits
end

section
/-! PROOFS. APPLY PARAMETERS (O56) over an engine whose work holds a frame with no group left: no link is lost, so that
nothing is routed anew and the frame stays, where the statement has a frame without a group leave. -/

namespace Sys2Proof.Machine

variable {s : State}

/-- A frame whose entries have all been placed. No step leaves one in the engine's work. -/
def placedFrame : Fanout := { handle := 1, cls := .routine, hop := none, lostAt := none, groups := #v[0, 0, 0, 0] }

/-- An APPLY PARAMETERS without fields from site 1. -/
def applyRequest : Request := { tag := 0, origin := 1, destination := 0, link := 0, code := 6, fields := [] }

/-- The reset state, RUNNING, with that request at the head and that frame in the engine's work. -/
def applyOverPlaced : State :=
  { State.reset with
    partState := .running
    requests := [applyRequest]
    io := { State.reset.io with engine := { atOnce := [], work := [placedFrame] } } }

/-- A link that an APPLY gives no other far site, and that is not UP, stays as it is (R151). -/
theorem reconsiderLink_still {l : LinkNo} (far : s.active.farSite l = (s.link l).farSite) (low : (s.link l).state ≠ .up) :
    reconsiderLink s l = s := by
  unfold reconsiderLink
  simp only
  rw [if_neg (not_not.mpr far), if_neg (by simp [low])]

theorem applyOverPlaced_links (l : LinkNo) :
    applyOverPlaced.active.farSite l = (applyOverPlaced.link l).farSite ∧ (applyOverPlaced.link l).state ≠ .up := by
  match l with
  | 0 | 1 | 2 | 3 => decide

theorem applyOverPlaced_params : (applyParams applyOverPlaced).2 = applyOverPlaced := by
  have still (ls : List LinkNo) : ls.foldl reconsiderLink applyOverPlaced = applyOverPlaced := by
    induction ls with
    | nil => rfl
    | cons l ls ih =>
      obtain ⟨far, low⟩ := applyOverPlaced_links l
      rw [List.foldl_cons, reconsiderLink_still far low]
      exact ih
  exact still allLinks

/-- A reply leaves the engine's work as it is. -/
theorem sendReply_engine (q : Request) (r : Reply) (done : Option Completion) (s : State) :
    (sendReply q r done s).io.engine = s.io.engine := by
  refine sendBuilt_engine (fun h io => ?_) _ _ _ _ _
  unfold placeReply
  split
  · rfl
  · exact placeEntry_engine _ _ _ io

end Sys2Proof.Machine

open Sys2Proof Sys2Proof.Machine

/-- Refutes O56: with the parameters as they were no link leaves UP, and the engine keeps the frame without a group that
`State.reroutes` has leave the work. Such a frame is in no state that the part reaches; the engine's law, the
only one that the statement asks for there, lets it in. -/
theorem not_applyTakesEffect : ¬Obligations.ApplyTakesEffect := by
  intro h
  obtain ⟨-, taken⟩ := h applyRequest [] applyOverPlaced ⟨rfl, rfl, rfl⟩
  obtain ⟨t, next, -, -, -, -, reroutes, -⟩ := taken rfl
  obtain ⟨lawful, -⟩ := reroutes rfl rfl
  have law : applyOverPlaced.engineLaw := by
    intro f hf m group
    rw [List.mem_singleton.mp hf] at group
    match m with
    | 0 | 1 | 2 | 3 => exact absurd rfl group
  obtain ⟨m, r, served, whole, -⟩ := serveHead_sized (s := applyOverPlaced) (q := applyRequest) (rest := []) (code := 6)
    (isCode := fun c => c == 6) 0 (fun _ s => applyParams s) ⟨rfl, rfl, rfl⟩ rfl
  have state : m = applyOverPlaced := (congrArg Prod.snd (whole rfl)).trans applyOverPlaced_params
  have after : { sendReply applyRequest r none m with requests := [] } = t :=
    Host.Outcome.next.inj ((congrArg Host.Outcome.next served).symm.trans next)
  have kept : t.io.engine.work = [placedFrame] := by
    rw [← after]
    exact (congrArg Engine.work (sendReply_engine applyRequest r none m)).trans (by rw [state]; rfl)
  obtain ⟨-, anew, work, -⟩ := lawful law
  have member : placedFrame ∈ t.io.engine.work := by
    rw [kept]
    exact List.mem_singleton.mpr rfl
  rw [work] at member
  obtain ⟨-, some⟩ := List.mem_filter.mp member
  exact absurd some (by decide)
end

section
/-! PROOFS. A CALL START that a check of R129 turns away. -/

namespace Sys2Proof.Machine

variable {s m : State} {u : UnitId} {r : Record} {n : ChannelNo} {hdr : Header} {h : Handle} {cause : Byte}

/-- A CALL START from a channel port: the notice, the checks, the release (R11, R22, R53). -/
theorem callStart_next {x : Handed} (hx : s.holds (chanPort n) x .callStart) :
    exec (.callStart n) s
      = .next ((takeLocalStart n x.handle (handedHeader x s)
          ((unitNotice n (handedHeader x s).unit.toNat .callStart (handedHeader x s).emergency s).taken (chanPort n))).onIo
            fun c => dropReference c x.handle) :=
  congrArg Host.Outcome.next (takeFromChannel_of_head (fun h hdr _ => takeLocalStart n h hdr) hx.1 hx.2)

/-- The notice of a unit that is elsewhere is its marker alone (R53, R101, R106). -/
theorem unitNotice_away {ho : Handover} (hr : s.record u = some r) (away : r.phase = .arriving ho ∨ r.phase = .forward ho)
    (n : ChannelNo) (k : Kind) (marker : Bool) :
    unitNotice n u k marker s = { s with units := (unitNotice n u k marker s).units }
      ∧ s.sameRecordsBut u (unitNotice n u k marker s)
      ∧ (unitNotice n u k marker s).record u = some { r with emergency := r.emergency || marker } := by
  have still : ∃ ho, r.phase = .arriving ho ∨ r.phase = .forward ho ∨ ∃ ch, r.phase = .departing ch ho false :=
    ⟨ho, away.imp id .inl⟩
  have record := marked_record hr marker
  rw [Record.marked_inactive (activity_still still)] at record
  rw [unitNotice_some hr, noticeByState_still still]
  exact ⟨marked_frame s u marker, fun v hv => marked_record_other hv marker, record⟩

/-- What the notice leaves of a unit whose CALL START is turned away: none but its record moves, and that is now
in emergency when it was before or the frame is marked. -/
structure Heard (s : State) (u : UnitId) (marker : Bool) (m : State) : Prop where
  frame : m = { s with units := m.units }
  others : s.sameRecordsBut u m
  emergency : (marker || unitEmergency u m) = (marker || (s.record u).any Record.emergency)

theorem heard_unknown (hr : s.record u = none) (n : ChannelNo) (k : Kind) (marker : Bool) :
    Heard s u marker (unitNotice n u k marker s) := by
  rw [unitNotice_none hr]
  exact ⟨rfl, fun _ _ => rfl, rfl⟩

theorem heard_of_record {r' : Record} {marker : Bool} (hr : s.record u = some r)
    (notice : m = { s with units := m.units } ∧ s.sameRecordsBut u m ∧ m.record u = some r')
    (flag : r'.emergency = (r.emergency || marker)) : Heard s u marker m := by
  obtain ⟨frame, others, record⟩ := notice
  refine ⟨frame, others, ?_⟩
  rw [unitEmergency, record, hr, Option.any_some, Option.any_some, flag]
  cases marker
  · rw [Bool.or_false]
  · rfl

/-- The refusal stands on the channel port (R129). -/
theorem refused_next {x : Handed} (hx : s.holds (chanPort n) x .callStart)
    (heard : Heard s (handedHeader x s).unit.toNat (handedHeader x s).emergency
      (unitNotice n (handedHeader x s).unit.toNat .callStart (handedHeader x s).emergency s))
    (refuses : takeLocalStart n x.handle (handedHeader x s)
        ((unitNotice n (handedHeader x s).unit.toNat .callStart (handedHeader x s).emergency s).taken (chanPort n))
      = refuseStart n (handedHeader x s) cause
        ((unitNotice n (handedHeader x s).unit.toNat .callStart (handedHeader x s).emergency s).taken (chanPort n))) :
    ∃ t, exec (.callStart n) s = .next t ∧ s.tookHanded (chanPort n) t
      ∧ t = { s with io := t.io, units := t.units } ∧ s.sameRecordsBut (handedHeader x s).unit.toNat t
      ∧ s.builtOnChannel n
          { Header.blank .callRefuse with
            emergency :=
              (handedHeader x s).emergency || (s.record (handedHeader x s).unit.toNat).any Record.emergency
            unit := (handedHeader x s).unit
            subcode := cause }
          t := by
  refine ⟨_, callStart_next hx, ?_⟩
  rw [refuses]
  have buffer : bufferOf x.handle s.io ≠ none := bufferOf_of_kind hx.2
  obtain ⟨frame, others, emergency⟩ := heard
  obtain ⟨units, after⟩ : ∃ units, unitNotice n (handedHeader x s).unit.toNat .callStart (handedHeader x s).emergency s
      = { s with units := units } := ⟨_, frame⟩
  rw [after] at others emergency ⊢
  generalize handedHeader x s = hdr at *
  have acts : Acts (State.taken (chanPort n) { s with units := units })
      (refuseStart n hdr cause (State.taken (chanPort n) { s with units := units })) := .sendAnswer _ _ _
  have sent := (sentOn_sendToChannel n
    (answerHeader .callRefuse hdr.unit.toNat 0 cause
      (hdr.emergency || unitEmergency hdr.unit.toNat { s with units := units })) [] none (s.taken (chanPort n))).ofTaken
  have header : answerHeader .callRefuse hdr.unit.toNat 0 cause
      (hdr.emergency || unitEmergency hdr.unit.toNat { s with units := units })
      = { Header.blank .callRefuse with
          emergency := hdr.emergency || (s.record hdr.unit.toNat).any Record.emergency
          unit := hdr.unit
          subcode := cause } := by
    rw [emergency]
    simp only [answerHeader, BitVec.ofNat_toNat, BitVec.setWidth_eq]
    rfl
  rw [header] at sent
  have built := sent.builtDropped s.net buffer (t := ((refuseStart n hdr cause
    (State.taken (chanPort n) { s with units := units })).onIo fun c => dropReference c x.handle)) (by
      rw [← header]
      rfl)
  exact ⟨tookHanded_of_ports x.handle fun q => ⟨(acts.ports q).2.1, (acts.ports q).1⟩, rfl, others, built⟩

/-- Check 1: without a record, or with the radio elsewhere, no call is started (R129). -/
theorem takeLocalStart_elsewhere (away : ∀ r, s.record hdr.unit.toNat = some r → r.phase.isMember = false) :
    takeLocalStart n h hdr s = refuseStart n hdr 4#8 s := by
  cases hr : s.record hdr.unit.toNat with
  | none => simp only [takeLocalStart, hr]
  | some r => simp only [takeLocalStart, hr, away r hr, Bool.not_false, if_true]

/-- Which check turns a member's CALL START away, read off the state before the notice (R129). -/
def State.turnsAway (s : State) (n : ChannelNo) (hdr : Header) (r : Record) (cause : Byte) : Prop :=
  (cause = 3 ∧ r.talkLimited = true)
    ∨ (cause = 5 ∧ r.talkLimited = false ∧ findTalkgroup hdr.talkgroup.toNat s.talkgroups = none)
    ∨ (cause = 6 ∧ r.talkLimited = false ∧ ∃ g, findTalkgroup hdr.talkgroup.toNat s.talkgroups = some g ∧ g.channel ≠ n)
    ∨ (cause = 1 ∧ r.talkLimited = false ∧ r.talking = true
      ∧ (∃ g, findTalkgroup hdr.talkgroup.toNat s.talkgroups = some g ∧ g.channel = n)
      ∧ (∀ c, (s.channel n).phase.call? = some c → c.talker ≠ hdr.unit.toNat)
      ∧ ∀ w ∈ (s.channel n).waits, w.call.talker ≠ hdr.unit.toNat)

theorem currentOf_none {x : Channel} (h : ∀ c, x.phase.call? = some c → c.talker ≠ u) : currentOf u x = none := by
  unfold currentOf
  cases current : x.phase.call? with
  | none => rfl
  | some c => simp [Option.filter, h c current]

theorem waitingOf_none {x : Channel} (h : ∀ w ∈ x.waits, w.call.talker ≠ u) : waitingOf u x = none :=
  List.find?_eq_none.mpr fun w hw => by simpa using h w hw

theorem takeLocalStart_turnedAway (hr : s.record hdr.unit.toNat = some r) (member : r.phase.isMember = true)
    (check : s.turnsAway n hdr r cause) : takeLocalStart n h hdr s = refuseStart n hdr cause s := by
  simp only [takeLocalStart, hr, member, Bool.not_true, Bool.false_eq_true, if_false]
  rcases check with ⟨rfl, limited⟩ | ⟨rfl, free, unknown⟩ | ⟨rfl, free, g, known, other⟩
    | ⟨rfl, free, talking, ⟨g, known, here⟩, current, waits⟩
  · rw [limited]
    rfl
  · simp only [free, unknown, Bool.false_eq_true, if_false]
    rfl
  · simp only [free, known, other, Bool.false_eq_true, if_false]
    rfl
  · simp only [free, known, here, Bool.false_eq_true, if_false, if_true, startOnChannel, currentOf_none current,
      waitingOf_none waits, talking]
    rfl

theorem isMember_of_atHome {ph : Phase} (h : ph.atHome = true) : ph.isMember = true := by
  cases ph with
  | served | proposing | departing => rfl
  | arriving | forward | lost => cases h

end Sys2Proof.Machine

open Sys2Proof Sys2Proof.Machine

/-- Settles O47: every one of these checks is made on what the notice leaves alone. -/
theorem callStartRefused : Obligations.CallStartRefused := by
  intro n x cause s holds hdr u table turnedAway
  rcases turnedAway with ⟨rfl, away⟩ | ⟨r, hr, home, check⟩
  · rcases away with unknown | ⟨r, ho, hr, away⟩
    · refine refused_next holds (heard_unknown unknown n .callStart _) ?_
      rw [unitNotice_none unknown]
      exact takeLocalStart_elsewhere fun r hr => nomatch hr.symm.trans unknown
    · have notice := unitNotice_away hr away n .callStart hdr.emergency
      refine refused_next holds (heard_of_record hr notice rfl) (takeLocalStart_elsewhere fun r' hr' => ?_)
      obtain rfl := Option.some.inj (hr'.symm.trans notice.2.2)
      rcases away with h | h <;> exact congrArg Phase.isMember h
  · have notice := unitNotice_member hr home (k := .callStart) nofun n hdr.emergency
    refine refused_next holds (heard_of_record hr notice rfl) ?_
    refine takeLocalStart_turnedAway (r := r.heard s hdr.emergency) notice.2.2
      ((Phase.isMember_mapActivity _ _).trans (isMember_of_atHome home)) ?_
    rw [notice.1]
    exact check
end

section
/-! PROOFS. The fan-out of a target-set frame where every link has room (R38, R39): which entries are placed within the
event, and what is left to the Forwarding Engine. -/

namespace Sys2Proof.Machine

variable {c : Net} {io : Io} {f : Fanout} {l m : LinkNo} {h : Handle} {n : Nat}

/-! ## The links of a frame's entries -/

/-- The four links in ascending number. -/
def linkOrder : List LinkNo := [0, 1, 2, 3]

theorem mem_linkOrder (l : LinkNo) : l ∈ linkOrder := by
  match l with
  | 0 | 1 | 2 | 3 => decide

theorem linkOrder_ascending : linkOrder.Pairwise (· < ·) := by decide

/-- Of the elements that pass a test, those among the first `n` have fewer than `n` before them. -/
theorem mem_take_filter {α : Type} [LinearOrder α] {p : α → Bool} {as : List α} (sorted : as.Pairwise (· < ·)) {a : α}
    (mem : a ∈ as) (n : Nat) :
    a ∈ (as.filter p).take n ↔ p a = true ∧ (as.countP fun b => decide (b < a) && p b) < n := by
  induction as generalizing n with
  | nil => cases mem
  | cons b as ih =>
    obtain ⟨before, sorted⟩ := List.pairwise_cons.mp sorted
    rcases List.mem_cons.mp mem with rfl | mem
    · have none : (as.countP fun b => decide (b < a) && p b) = 0 := by
        refine List.countP_eq_zero.mpr fun b hb => ?_
        simp [not_lt_of_gt (before b hb)]
      rw [List.countP_cons_of_neg (by simp), none]
      cases hp : p a with
      | false =>
        rw [List.filter_cons_of_neg (by simp [hp])]
        simp only [Bool.false_eq_true, false_and, iff_false]
        intro mem
        exact absurd (before a (List.mem_filter.mp (List.mem_of_mem_take mem)).1) (lt_irrefl a)
      | true =>
        rw [List.filter_cons_of_pos hp]
        cases n with
        | zero => simp
        | succ n => simp
    · have after : b < a := before a mem
      cases hp : p b with
      | false =>
        rw [List.filter_cons_of_neg (by simp [hp]), List.countP_cons_of_neg (by simp [hp])]
        exact ih sorted mem n
      | true =>
        rw [List.filter_cons_of_pos hp, List.countP_cons_of_pos (by simp [hp, after])]
        cases n with
        | zero => simp
        | succ n =>
          rw [List.take_succ_cons, List.mem_cons, or_iff_right (ne_of_gt after), ih sorted mem n,
            Nat.add_lt_add_iff_right]

/-- The links that a frame has an entry left for, in the order in which they take it (log entry 11). -/
def Fanout.links (f : Fanout) : List LinkNo := linkOrder.filter fun l => f.groups[l.val] != 0

theorem Fanout.mem_links : l ∈ f.links ↔ f.groups[l.val] ≠ 0 := by
  rw [Fanout.links, List.mem_filter, bne_iff_ne]
  exact and_iff_right (mem_linkOrder l)

theorem Fanout.links_nodup (f : Fanout) : f.links.Nodup :=
  (linkOrder_ascending.imp ne_of_lt).filter _

theorem Fanout.next_eq (f : Fanout) : f.next? = f.links.head? := List.head?_filter.symm

theorem Fanout.isDone_iff : f.isDone = true ↔ f.links = [] := by
  simp only [Fanout.isDone, Fanout.links, List.filter_eq_nil_iff, List.all_eq_true, Vector.mem_toList_iff, bne_iff_ne,
    not_not, beq_iff_eq]
  refine ⟨fun done l _ => done _ (Vector.getElem_mem _), fun done v mem => ?_⟩
  obtain ⟨i, bound, rfl⟩ := Vector.getElem_of_mem mem
  exact done ⟨i, bound⟩ (mem_linkOrder _)

/-- The frame without its group for a link. -/
def Fanout.without (f : Fanout) (l : LinkNo) : Fanout := { f with groups := f.groups.set l.val 0 }

theorem Fanout.without_group (f : Fanout) (l m : LinkNo) :
    (f.without l).groups[m.val] = if m = l then 0 else f.groups[m.val] := by
  unfold Fanout.without
  rw [Vector.getElem_set]
  simp only [Fin.ext_iff, eq_comm]

theorem Fanout.without_links {ls : List LinkNo} (first : f.links = l :: ls) : (f.without l).links = ls := by
  have apart : l ∉ ls := (List.nodup_cons.mp (first ▸ f.links_nodup)).1
  have rest : (f.without l).links = f.links.filter fun m => m != l := by
    rw [Fanout.links, Fanout.links, List.filter_filter]
    refine List.filter_congr fun m _ => ?_
    rw [Fanout.without_group]
    by_cases hm : m = l <;> simp [hm]
  rw [rest, first, List.filter_cons_of_neg (by simp), List.filter_eq_self.mpr]
  exact fun m hm => bne_iff_ne.mpr fun same => apart (same ▸ hm)

/-! ## Entries with room -/

/-- Every link port has an entry's room, its transmitter being busy. -/
def Io.linksWait (io : Io) : Prop :=
  ∀ l : LinkNo, io.ports[(linkPort l).val].sending.isSome = true ∧ io.ports[(linkPort l).val].queue.length < 64

/-- The entries of a frame that are placed, with a number that is placed at once. -/
def Fanout.entries (c : Net) (f : Fanout) (n : Nat) : List (PortNo × Entry) :=
  (f.links.take n).map fun l => (linkPort l, f.entry c l)

/-- A frame when that number of its entries has been placed. -/
def Fanout.left (f : Fanout) (n : Nat) : Fanout :=
  { f with groups := Vector.ofFn fun l : LinkNo => if l ∈ f.links.take n then 0 else f.groups[l.val] }

theorem filter_not_mem_take {α : Type} [DecidableEq α] {as : List α} (distinct : as.Nodup) (n : Nat) :
    (as.filter fun a => a ∉ as.take n) = as.drop n := by
  have apart : List.Disjoint (as.take n) (as.drop n) := by
    rw [← List.take_append_drop n as] at distinct
    exact List.disjoint_of_nodup_append distinct
  have split : (as.filter fun a => a ∉ as.take n)
      = ((as.take n).filter fun a => a ∉ as.take n) ++ (as.drop n).filter fun a => a ∉ as.take n := by
    rw [← List.filter_append, List.take_append_drop]
  rw [split, List.filter_eq_nil_iff.mpr (by simp), List.nil_append, List.filter_eq_self]
  exact fun a ha => decide_eq_true fun here => apart here ha

theorem Fanout.left_group (f : Fanout) (n : Nat) (m : LinkNo) :
    (f.left n).groups[m.val] = if m ∈ f.links.take n then 0 else f.groups[m.val] := by
  unfold Fanout.left
  rw [Vector.getElem_ofFn]

theorem Fanout.left_links (f : Fanout) (n : Nat) : (f.left n).links = f.links.drop n := by
  have without (placed : List LinkNo) (hp : f.links.take n = placed) :
      (f.left n).links = f.links.filter fun m => m ∉ placed := by
    rw [Fanout.links, Fanout.links, List.filter_filter]
    refine List.filter_congr fun m _ => ?_
    rw [Fanout.left_group, hp]
    by_cases hm : m ∈ placed <;> simp [hm]
  rw [without _ rfl, filter_not_mem_take f.links_nodup n]

theorem Fanout.ext_groups {f g : Fanout} (fields : f = { g with groups := f.groups })
    (groups : ∀ m : LinkNo, f.groups[m.val] = g.groups[m.val]) : f = g := by
  have same : f.groups = g.groups := Vector.ext fun i hi => groups ⟨i, hi⟩
  rw [fields, same]

theorem Fanout.left_zero (f : Fanout) : f.left 0 = f :=
  Fanout.ext_groups rfl fun m => by rw [Fanout.left_group, List.take_zero, if_neg List.not_mem_nil]

theorem Fanout.left_done {f : Fanout} (done : f.links = []) (n : Nat) : f.left n = f :=
  Fanout.ext_groups rfl fun m => by rw [Fanout.left_group, done, List.take_nil, if_neg List.not_mem_nil]

theorem Fanout.without_left {ls : List LinkNo} (first : f.links = l :: ls) (n : Nat) :
    (f.without l).left n = f.left (n + 1) := by
  refine Fanout.ext_groups rfl fun m => ?_
  rw [Fanout.left_group, Fanout.left_group, Fanout.without_links first, first, Fanout.without_group, List.take_succ_cons]
  by_cases here : m = l
  · simp [here]
  · simp [here]

theorem Fanout.without_entries {ls : List LinkNo} (first : f.links = l :: ls) (n : Nat) :
    (linkPort l, f.entry c l) :: (f.without l).entries c n = f.entries c (n + 1) := by
  have apart : l ∉ ls := (List.nodup_cons.mp (first ▸ f.links_nodup)).1
  rw [Fanout.entries, Fanout.entries, Fanout.without_links first, first, List.take_succ_cons, List.map_cons]
  refine congrArg _ (List.map_congr_left fun m hm => ?_)
  have other : m ≠ l := fun same => apart (same ▸ List.mem_of_mem_take hm)
  simp only [Fanout.entry, Fanout.without_group, if_neg other]
  rfl

/-- The first entries of a frame, each on its link's queue. -/
theorem placeGroups_room (f : Fanout) (n : Nat) (io : Io)
    (wait : ∀ l ∈ f.links, io.ports[(linkPort l).val].sending.isSome = true
      ∧ io.ports[(linkPort l).val].queue.length < 64) :
    placeGroups c n f io = (f.left n, putEntries (f.entries c n) io) := by
  induction n generalizing f io with
  | zero => rw [Fanout.left_zero, Fanout.entries, List.take_zero]; rfl
  | succ n ih =>
    have next := f.next_eq
    rw [placeGroups]
    cases first : f.links with
    | nil =>
      rw [first, List.head?_nil] at next
      have still : placeGroup c f io = (f, io) := by
        unfold placeGroup
        rw [next]
      rw [still, ih f io wait, Fanout.left_done first, Fanout.left_done first, Fanout.entries, Fanout.entries, first,
        List.take_nil, List.take_nil]
    | cons l ls =>
      rw [first, List.head?_cons] at next
      have apart : l ∉ ls := (List.nodup_cons.mp (first ▸ f.links_nodup)).1
      obtain ⟨busy, room⟩ := wait l (first ▸ List.mem_cons_self)
      rw [placeGroup_some c next, placeEntry_room c room busy]
      refine (ih (f.without l) (putEntry (linkPort l) (f.entry c l) io) fun m hm => ?_).trans ?_
      · rw [Fanout.without_links first] at hm
        have other : linkPort m ≠ linkPort l := fun same => apart (linkPort_injective same ▸ hm)
        rw [putEntry_sending, putEntry_queue, if_neg other]
        exact wait m (first ▸ List.mem_cons_of_mem _ hm)
      · rw [Fanout.without_left first, ← Fanout.without_entries first]
        rfl

/-! ## A whole fan-out -/

/-- How many entries of the next frame are placed within its event (log entry 36). -/
def Engine.now (e : Engine) : Nat := if e.work = [] then e.atOnce.headD 4 else 0

/-- The engine once a grouped frame has been taken up. -/
def Engine.takes (e : Engine) (f : Fanout) : Engine :=
  if f.links = [] then e
  else
    { atOnce := e.atOnce.tail
      work := if f.links.drop e.now = [] then e.work else e.work ++ [f.left e.now] }

/-- The frames once a grouped frame has been taken up where its links have room. -/
def Fanout.spread (c : Net) (f : Fanout) (io : Io) : Io :=
  let io' := { putEntries (f.entries c io.engine.now) io with engine := io.engine.takes f }
  if f.links.drop io.engine.now = [] then io' else addReference f.handle io'

theorem putEntries_engine (es : List (PortNo × Entry)) (e : Engine) (io : Io) :
    putEntries es { io with engine := e } = { putEntries es io with engine := e } := by
  induction es generalizing io with
  | nil => rfl
  | cons x es ih => exact ih (putEntry x.1 x.2 io)

theorem takeUp_room (f : Fanout) (wait : io.linksWait) : takeUp c f io = f.spread c io := by
  unfold takeUp Fanout.spread
  have now : (if io.engine.work.isEmpty then io.engine.atOnce.headD 4 else 0) = io.engine.now := by
    simp only [Engine.now, List.isEmpty_iff]
  by_cases done : f.links = []
  · have none : f.entries c io.engine.now = [] := by rw [Fanout.entries, done, List.take_nil, List.map_nil]
    rw [if_pos (Fanout.isDone_iff.mpr done), done, List.drop_nil, if_pos rfl, none, Engine.takes, if_pos done]
    rfl
  · rw [if_neg (fun h => done (Fanout.isDone_iff.mp h)), now]
    simp only
    have placed := placeGroups_room (c := c) f io.engine.now
      { io with engine := { io.engine with atOnce := io.engine.atOnce.tail } } fun l _ => wait l
    rw [placed]
    simp only [Fanout.isDone_iff, Fanout.left_links, Engine.takes, done, if_false, putEntries_engine]
    by_cases whole : f.links.drop io.engine.now = []
    · simp only [whole, if_true]
    · simp only [whole, if_false]

theorem groups_get (c : Net) (set : SiteSet) (l : LinkNo) : (c.groups set)[l.val] = c.sitesVia set l := by
  unfold Net.groups
  rw [Vector.getElem_ofFn]

theorem placeSubsets_room (h : Handle) (cls : FrameClass) (hop : Option Nat) (lostAt : Option PortNo) (set : SiteSet)
    (wait : io.linksWait) :
    placeSubsets c h cls (hop.getD c.active.hopLimit) set io
      = putEntries
          (({ handle := h, cls := cls, hop := hop, lostAt := lostAt, groups := c.groups set } : Fanout).links.map
            fun l =>
              (linkPort l,
                ({ handle := h, cls := cls, hop := hop, lostAt := lostAt, groups := c.groups set } : Fanout).entry c l))
          io := by
  generalize hf : ({ handle := h, cls := cls, hop := hop, lostAt := lostAt, groups := c.groups set } : Fanout) = f
  have group (l : LinkNo) : f.groups[l.val] = c.sitesVia set l := by rw [← hf, groups_get]
  have along (ls : List LinkNo) (distinct : ls.Nodup) (io : Io)
      (wait : ∀ l ∈ ls, io.ports[(linkPort l).val].sending.isSome = true
        ∧ io.ports[(linkPort l).val].queue.length < 64) :
      ls.foldl (placeSubset c h cls (hop.getD c.active.hopLimit) set) io
        = putEntries ((ls.filter fun l => f.groups[l.val] != 0).map fun l => (linkPort l, f.entry c l)) io := by
    induction ls generalizing io with
    | nil => rfl
    | cons l ls ih =>
      obtain ⟨apart, distinct⟩ := List.nodup_cons.mp distinct
      rw [List.foldl_cons]
      by_cases none : c.sitesVia set l = 0
      · have still : placeSubset c h cls (hop.getD c.active.hopLimit) set io l = io := by
          simp only [placeSubset, none, if_true]
        rw [still, List.filter_cons_of_neg (by rw [group, none]; simp)]
        exact ih distinct io fun m hm => wait m (List.mem_cons_of_mem _ hm)
      · have put : placeSubset c h cls (hop.getD c.active.hopLimit) set io l = putEntry (linkPort l) (f.entry c l) io := by
          obtain ⟨busy, room⟩ := wait l List.mem_cons_self
          simp only [placeSubset, none, if_false]
          rw [placeEntry_room c room busy, Fanout.entry, group, ← hf]
        rw [put, List.filter_cons_of_pos (by rw [group]; exact bne_iff_ne.mpr none), List.map_cons, putEntries_cons]
        refine ih distinct _ fun m hm => ?_
        have other : linkPort m ≠ linkPort l := fun same => apart (linkPort_injective same ▸ hm)
        rw [putEntry_sending, putEntry_queue, if_neg other]
        exact wait m (List.mem_cons_of_mem _ hm)
  exact along linkOrder (linkOrder_ascending.imp ne_of_lt) io fun l _ => wait l

/-- A target-set frame where every link has room (R38, R39). -/
theorem fanOutSet_room (h : Handle) (cls : FrameClass) (hop : Option Nat) (lostAt : Option PortNo) (set : SiteSet)
    (wait : io.linksWait) :
    fanOutSet c h cls hop lostAt set io
      = ({ handle := h, cls := cls, hop := hop, lostAt := lostAt, groups := c.groups set } : Fanout).spread c io := by
  unfold fanOutSet
  by_cases idle : io.engine = Engine.idle
  · rw [if_pos idle, placeSubsets_room h cls hop lostAt set wait]
    generalize ({ handle := h, cls := cls, hop := hop, lostAt := lostAt, groups := c.groups set } : Fanout) = f
    have now : io.engine.now = 4 := by rw [idle]; rfl
    have few : f.links.length ≤ 4 := List.length_filter_le _ linkOrder
    have same : io.engine.takes f = io.engine := by
      rw [Engine.takes, now, List.drop_eq_nil_of_le few, idle, if_pos rfl]
      split <;> rfl
    unfold Fanout.spread
    rw [same, now, List.drop_eq_nil_of_le few, if_pos rfl, Fanout.entries, List.take_of_length_le few]
    exact putEntries_engine _ io.engine io
  · rw [if_neg idle]
    exact takeUp_room _ wait

/-! ## What a fan-out with room leaves -/

theorem Fanout.entries_handle (c : Net) (f : Fanout) (n : Nat) : ∀ x ∈ f.entries c n, x.2.handle = f.handle := by
  intro x hx
  obtain ⟨l, -, rfl⟩ := List.mem_map.mp hx
  rfl

theorem Fanout.entries_at (c : Net) (f : Fanout) (n : Nat) (l : LinkNo) :
    ((f.entries c n).filter fun x => x.1 == linkPort l)
      = if l ∈ f.links.take n then [(linkPort l, f.entry c l)] else [] := by
  have distinct : (f.links.take n).Nodup := f.links_nodup.sublist (List.take_sublist _ _)
  unfold Fanout.entries
  generalize f.links.take n = ls at distinct
  rw [List.filter_map]
  have same : (fun m : LinkNo => linkPort m == linkPort l) = fun m => m == l := by
    funext m
    rw [Bool.eq_iff_iff, beq_iff_eq, beq_iff_eq]
    exact ⟨linkPort_injective, congrArg linkPort⟩
  have one : (ls.filter fun m => m == l) = if l ∈ ls then [l] else [] := by
    rw [List.filter_beq]
    split
    · rw [List.count_eq_one_of_mem distinct ‹_›]
      rfl
    · rw [List.count_eq_zero.mpr ‹_›]
      rfl
  show (ls.filter fun m => linkPort m == linkPort l).map _ = _
  rw [same, one]
  split <;> rfl

theorem Fanout.entries_off (c : Net) (f : Fanout) (n : Nat) {p : PortNo} (off : ∀ l, linkPort l ≠ p) :
    ((f.entries c n).filter fun x => x.1 == p) = [] := by
  refine List.filter_eq_nil_iff.mpr fun x hx => ?_
  obtain ⟨l, -, rfl⟩ := List.mem_map.mp hx
  simpa using off l

theorem spread_ports (c : Net) (f : Fanout) (io : Io) :
    (f.spread c io).ports = (putEntries (f.entries c io.engine.now) io).ports := by
  unfold Fanout.spread
  simp only
  split <;> rfl

/-- What a fan-out leaves on the queues. -/
theorem spread_queue (c : Net) (f : Fanout) (io : Io) (l : LinkNo) :
    (f.spread c io).ports[(linkPort l).val].queue
      = if l ∈ f.links.take io.engine.now then insertEntry (f.entry c l) io.ports[(linkPort l).val].queue
        else io.ports[(linkPort l).val].queue := by
  rw [spread_ports, putEntries_queue, Fanout.entries_at]
  split <;> rfl

theorem spread_queue_off (c : Net) (f : Fanout) (io : Io) {p : PortNo} (off : ∀ l, linkPort l ≠ p) :
    (f.spread c io).ports[p.val].queue = io.ports[p.val].queue := by
  rw [spread_ports, putEntries_queue, Fanout.entries_off c f _ off]
  rfl

theorem spread_engine (c : Net) (f : Fanout) (io : Io) : (f.spread c io).engine = io.engine.takes f := by
  unfold Fanout.spread
  simp only
  split <;> rfl

theorem spread_live (c : Net) (f : Fanout) (io : Io) : (f.spread c io).live = io.live := by
  obtain ⟨-, -, -, -, live, -⟩ := putEntries_same (f.entries c io.engine.now) io
  unfold Fanout.spread
  simp only
  split <;> exact live

/-- The references to its buffer that a fan-out leaves. -/
def Fanout.holders (f : Fanout) (n : Nat) : Nat := (f.links.take n).length + if f.links.drop n = [] then 0 else 1

theorem Fanout.holders_pos (some : f.links ≠ []) (n : Nat) : 1 ≤ f.holders n := by
  unfold Fanout.holders
  by_cases whole : f.links.drop n = []
  · have all := List.take_append_drop n f.links
    rw [whole, List.append_nil] at all
    rw [all]
    have := List.length_pos_of_ne_nil some
    omega
  · rw [if_neg whole]
    omega

theorem placed_engine (e : Engine) (io : Io) : Placed h id 0 0 io { io with engine := e } := by
  refine ⟨rfl, rfl, rfl, fun _ => rfl, fun _ => le_refl _, fun _ _ h => h, ?_, fun _ _ => rfl⟩
  show bufferOf h io = _
  cases bufferOf h io <;> rfl

theorem placed_addReference (h : Handle) (io : Io) : Placed h id 0 1 io (addReference h io) := by
  refine ⟨rfl, ?_, rfl, fun _ => rfl, fun _ => le_refl _, fun _ _ h => h, ?_, fun k hk => ?_⟩
  · simp only [addReference, modBuffer, List.map_map]
    refine List.map_congr_left fun b _ => ?_
    simp only [Function.comp_apply]
    split <;> rfl
  · rw [addReference, bufferOf_modBuffer _ _ (fun b => { b with refs := b.refs + 1 }) (fun _ => rfl), if_pos rfl]
    rfl
  · rw [addReference, bufferOf_modBuffer _ _ (fun b => { b with refs := b.refs + 1 }) (fun _ => rfl), if_neg hk]

theorem placed_spread (c : Net) (f : Fanout) (io : Io) :
    Placed f.handle id 1 (f.holders io.engine.now) io (f.spread c io) := by
  have entries : Placed f.handle id 1 (f.links.take io.engine.now).length io (putEntries (f.entries c io.engine.now) io) := by
    have length : (f.entries c io.engine.now).length = (f.links.take io.engine.now).length := List.length_map ..
    rw [← length]
    refine placed_putEntries (f.entries_handle c _) (fun p => ?_) io
    by_cases on : ∃ l, linkPort l = p
    · obtain ⟨l, rfl⟩ := on
      rw [Fanout.entries_at]
      split <;> simp
    · rw [Fanout.entries_off c f _ fun l same => on ⟨l, same⟩]
      exact Nat.zero_le 1
  have moved := entries.trans (placed_engine (io.engine.takes f) _)
  unfold Fanout.spread Fanout.holders
  simp only
  split
  · exact moved
  · exact moved.trans (placed_addReference f.handle _)

/-! ## What is placed now and what is left (log entry 36) -/

variable {s t : State} {set : SiteSet}

theorem placesNow_iff (hf : f.groups = s.net.groups set) :
    s.placesNow set m = true ↔ m ∈ f.links.take s.io.engine.now := by
  have group (l : LinkNo) : f.groups[l.val] = s.net.sitesVia set l := by rw [hf, groups_get]
  rw [Fanout.links, mem_take_filter linkOrder_ascending (mem_linkOrder m)]
  simp only [group, State.placesNow, Bool.and_eq_true, decide_eq_true_eq, Engine.now]
  rfl

theorem mem_links_iff (hf : f.groups = s.net.groups set) : m ∈ f.links ↔ s.net.sitesVia set m ≠ 0 := by
  rw [Fanout.mem_links, hf, groups_get]

theorem left_links_iff (hf : f.groups = s.net.groups set) :
    f.links.drop s.io.engine.now = [] ↔ ∀ m, s.net.sitesVia set m ≠ 0 → s.placesNow set m = true := by
  rw [← filter_not_mem_take f.links_nodup, List.filter_eq_nil_iff]
  simp only [decide_eq_true_eq, not_not]
  exact forall_congr' fun m => by rw [mem_links_iff hf, placesNow_iff hf]

/-- What a fan-out leaves to the engine (R38, R39). -/
theorem leavesWork_of_takes {g : Fanout} (hg : g = { f with groups := s.net.groups set })
    (engine : t.io.engine = s.io.engine.takes g) : s.leavesWork f set t := by
  have groups : g.groups = s.net.groups set := by rw [hg]
  have routed : g.links = [] ↔ ∀ m, s.net.sitesVia set m = 0 := by
    rw [List.eq_nil_iff_forall_not_mem]
    exact forall_congr' fun m => by rw [mem_links_iff groups, not_not]
  refine ⟨fun none => ?_, fun ⟨m, routes⟩ => ?_⟩
  · rw [engine, Engine.takes, if_pos (routed.mpr none)]
  · have links : g.links ≠ [] := fun none => routes (routed.mp none m)
    rw [Engine.takes, if_neg links] at engine
    refine ⟨by rw [engine], fun all => ?_, fun ⟨k, here, later⟩ => ?_⟩
    · rw [engine]
      exact if_pos ((left_links_iff groups).mpr all)
    · have behind : g.links.drop s.io.engine.now ≠ [] := fun whole => by
        have now := (left_links_iff groups).mp whole k here
        rw [later] at now
        cases now
      refine ⟨g.left s.io.engine.now, ?_, by rw [hg]; rfl, fun m => ?_⟩
      · rw [engine]
        exact if_neg behind
      · rw [Fanout.left_group, groups, groups_get]
        simp only [placesNow_iff groups]

/-- With the engine idle every entry is placed within the event. -/
theorem placesNow_idle (idle : s.io.engine = Engine.idle) (m : LinkNo) :
    s.placesNow set m = (s.net.sitesVia set m != 0) := by
  generalize hf : ({ handle := 0, cls := .routine, hop := none, lostAt := none, groups := s.net.groups set } : Fanout) = f
  have groups : f.groups = s.net.groups set := by rw [← hf]
  have few : f.links.length ≤ s.io.engine.now := by
    rw [idle]
    exact List.length_filter_le _ linkOrder
  rw [Bool.eq_iff_iff, placesNow_iff groups, List.take_of_length_le few, mem_links_iff groups, bne_iff_ne]

end Sys2Proof.Machine
end

section
/-! PROOFS. A target-set frame from a link and what the Forwarding Engine does with one that is not placed whole (R38):
the counters of the sites that have no route, the frame's entries, the engine's turns, and the loss of a link. -/

namespace Sys2Proof.Machine

variable {c : Net} {io : Io} {f : Fanout} {l m : LinkNo} {s t : State} {set : SiteSet}

/-! ## Sites without a route, counted -/

/-- The counter of sites left without a route (R38, R39). -/
def lostCounter : Option PortNo → Nat
  | some p => portCounterNumber p .noRoute
  | none => DevCounter.internalDrops.number

theorem lostCounter_injective : Function.Injective lostCounter := by
  intro a b h
  cases a with
  | none =>
    cases b with
    | none => rfl
    | some q =>
      simp only [lostCounter, portCounterNumber, DevCounter.number, PortCounter.offset] at h
      omega
  | some p =>
    cases b with
    | none =>
      simp only [lostCounter, portCounterNumber, DevCounter.number, PortCounter.offset] at h
      omega
    | some q =>
      simp only [lostCounter, portCounterNumber, PortCounter.offset] at h
      exact congrArg some (Fin.ext (by omega))

theorem lostCounter_bound (p : Option PortNo) : lostCounter p < 158 := by
  cases p with
  | none => decide
  | some p =>
    simp only [lostCounter, portCounterNumber, PortCounter.offset]
    omega

theorem not_entryCounter_lost (p : Option PortNo) : ¬entryCounter (lostCounter p) := by
  cases p with
  | none => exact not_entryCounter .internalDrops
  | some p => exact entry_of_not_placing (not_placingCounter_noRoute p)

theorem countLost_eq (p : Option PortNo) (n : Nat) (io : Io) : countLost p n io = (bumpAt (lostCounter p))^[n] io := by
  cases p with
  | none =>
    show countDevTimes .internalDrops n io = _
    induction n generalizing io with
    | zero => rfl
    | succ n ih => exact ih _
  | some p =>
    show countPortTimes p .noRoute n io = _
    induction n generalizing io with
    | zero => rfl
    | succ n ih => exact ih _

theorem bumpAt_iterate_length (i n : Nat) (io : Io) : ((bumpAt i)^[n] io).live.length = io.live.length := by
  induction n generalizing io with
  | zero => rfl
  | succ n ih => exact (ih _).trans (bumpAt_grow i io).1

/-- A counter raised a number of times. -/
theorem bumpAt_iterate {i j : Nat} (bound : j < io.live.length) (cap : io.live.getD j 0 ≤ 65535) (n : Nat) :
    ((bumpAt i)^[n] io).live.getD j 0 = if j = i then saturate (io.live.getD j 0 + n) else io.live.getD j 0 := by
  induction n generalizing io with
  | zero =>
    split
    · exact (min_eq_left cap).symm
    · rfl
  | succ n ih =>
    rw [Function.iterate_succ_apply]
    by_cases same : j = i
    · subst same
      have raised := bumpAt_self bound
      have cap' : (bumpAt j io).live.getD j 0 ≤ 65535 := by rw [raised]; exact min_le_right _ _
      rw [ih (by rw [(bumpAt_grow j io).1]; exact bound) cap', if_pos rfl, if_pos rfl, raised]
      simp only [saturate, Config.counterMax]
      omega
    · have kept := bumpAt_other same io
      rw [ih (by rw [(bumpAt_grow i io).1]; exact bound) (by rw [kept]; exact cap), if_neg same, if_neg same, kept]

/-- What the frames of a list lose, counted. -/
theorem countWork_count (count : Fanout → Nat) (work : List Fanout) (p : Option PortNo) (io : Io)
    (length : io.live.length = 158) (cap : io.live.getD (lostCounter p) 0 ≤ 65535) :
    (work.foldl (fun io f => countLost f.lostAt (count f) io) io).live.getD (lostCounter p) 0
      = saturate (io.live.getD (lostCounter p) 0 + ((work.filter fun f => f.lostAt == p).map count).sum) := by
  induction work generalizing io with
  | nil => exact (min_eq_left cap).symm
  | cons f work ih =>
    have one := bumpAt_iterate (i := lostCounter f.lostAt) (by rw [length]; exact lostCounter_bound p) cap (count f)
    rw [← countLost_eq] at one
    have length' : (countLost f.lostAt (count f) io).live.length = 158 := by
      rw [countLost_eq, bumpAt_iterate_length, length]
    by_cases same : f.lostAt = p
    · rw [if_pos (by rw [same])] at one
      rw [List.foldl_cons, ih _ length' (by rw [one]; exact min_le_right _ _), one,
        List.filter_cons_of_pos (by simpa using same), List.map_cons, List.sum_cons]
      simp only [saturate, Config.counterMax]
      omega
    · rw [if_neg fun h => same (lostCounter_injective h).symm] at one
      rw [List.foldl_cons, ih _ length' (by rw [one]; exact cap), one, List.filter_cons_of_neg (by simpa using same)]

theorem counter_cap (hs : s.counterLaw) (i : Nat) : s.io.live.getD i 0 ≤ 65535 := by
  obtain ⟨⟨-, cap⟩, -⟩ := hs
  rw [List.getD_eq_getElem?_getD]
  cases hi : s.io.live[i]? with
  | none => exact Nat.zero_le _
  | some v => exact cap v (List.mem_of_getElem? hi)

/-! ## A frame received at a link -/

theorem forwardTargetSet_next {x : Handed} (hx : headHanded (linkPort l) s = some x)
    (kind : addressedAs .targetSet (handedHeader x s) = true) :
    exec (.forwardTargetSet l) s
      = .next ((fanOut l x.handle (handedHeader x s) (s.taken (linkPort l))).onIo fun c => dropReference c x.handle) :=
  congrArg Host.Outcome.next (takeHanded_of_head (fun h hdr _ => fanOut l h hdr) hx kind)

theorem dropSite_absent {n : SiteId} (h : hasSite set n = false) : dropSite set n = set := by
  refine siteSet_ext fun m => ?_
  rw [hasSite_dropSite]
  exact and_iff_left_of_imp fun here same => by rw [same, h] at here; cases here

theorem countLost_same (p : Option PortNo) (n : Nat) (io : Io) :
    countLost p n io = { io with live := (countLost p n io).live } := by
  cases p with
  | none => exact countDevTimes_live .internalDrops n io
  | some p => exact countPortTimes_live p .noRoute n io

/-- Sites for whom no frame is left (R38, step 2). -/
theorem forwardTargets_nowhere {h : Handle} {hdr : Header} (none : dropSite hdr.targets c.active.ownSite = 0) :
    forwardTargets c l h hdr io = io := if_pos none

theorem forwardTargets_expired {h : Handle} {hdr : Header} (some : dropSite hdr.targets c.active.ownSite ≠ 0)
    (hop : hdr.hop.toNat ≤ 1) : forwardTargets c l h hdr io = countPort (linkPort l) .hopExpired io := by
  simp only [forwardTargets, some, if_false, hop, if_true]

/-- The frame as it is grouped by the links of its sites' routes (R38, step 5). -/
def Net.grouped (c : Net) (l : LinkNo) (h : Handle) (hdr : Header) (set : SiteSet) : Fanout :=
  { handle := h
    cls := hdr.frameClass
    hop := some (hdr.hop.toNat - 1)
    lostAt := some (linkPort l)
    groups := c.groups set }

theorem linksWait_counted (wait : io.linksWait) (p : Option PortNo) (n : Nat) : (countLost p n io).linksWait := by
  rw [countLost_same]
  exact wait

theorem forwardTargets_spread {h : Handle} {hdr : Header} (some : dropSite hdr.targets c.active.ownSite ≠ 0)
    (hop : 2 ≤ hdr.hop.toNat) (wait : io.linksWait) :
    forwardTargets c l h hdr io
      = (c.grouped l h hdr (dropSite hdr.targets c.active.ownSite)).spread c
          (countLost (.some (linkPort l)) (c.unreachable (dropSite hdr.targets c.active.ownSite)).length io) := by
  have more : ¬hdr.hop.toNat ≤ 1 := by omega
  simp only [forwardTargets, some, if_false, more]
  exact fanOutSet_room h hdr.frameClass (.some (hdr.hop.toNat - 1)) (.some (linkPort l)) _ (linksWait_counted wait _ _)

theorem linksWait_of_waits (wait : ∀ m, s.waitsAt (linkPort m)) : s.io.linksWait := wait

theorem linksWait_taken {p : PortNo} (wait : io.linksWait) : (takenAt p io).linksWait := by
  intro l
  rw [takenAt_queue, takenAt_sending]
  exact wait l

/-- What a frame from a link leaves when its set is fanned out and its buffer let go (R22, R38). -/
structure FansOut (l : LinkNo) (x : Handle) (hdr : Header) (set : SiteSet) (s t : State) : Prop where
  channels : ∀ n, t.queueOf (chanPort n) = s.queueOf (chanPort n)
  quiet : set = 0 ∨ hdr.hop.toNat ≤ 1 →
    (∀ m, t.queueOf (linkPort m) = s.queueOf (linkPort m)) ∧ t.io.engine = s.io.engine
  expired : set ≠ 0 → hdr.hop.toNat ≤ 1 → s.raisedAt (linkPort l) .hopExpired t
  lost : set ≠ 0 → 2 ≤ hdr.hop.toNat →
    t.portCounter (linkPort l) .noRoute
      = saturate (s.portCounter (linkPort l) .noRoute + (s.net.unreachable set).length)
  queues : set ≠ 0 → 2 ≤ hdr.hop.toNat → ∀ m, t.queueOf (linkPort m)
    = if s.placesNow set m = true then
        insertEntry
          { handle := x, cls := hdr.frameClass, hop := hdr.hop.toNat - 1, addressing := .subset (s.net.sitesVia set m) }
          (s.queueOf (linkPort m))
      else s.queueOf (linkPort m)
  work : set ≠ 0 → 2 ≤ hdr.hop.toNat →
    s.leavesWork
      { handle := x
        cls := hdr.frameClass
        hop := some (hdr.hop.toNat - 1)
        lostAt := some (linkPort l)
        groups := Vector.replicate 4 0 }
      set t

theorem linkPort_ne_chanPort (l : LinkNo) (n : ChannelNo) : linkPort l ≠ chanPort n := by
  intro same
  have := congrArg Fin.val same
  have := n.isLt
  simp only [linkPort, chanPort] at *
  omega

section

variable {x : Handle} {hdr : Header} (quiet : s.io.pool.noticePending = false)
include quiet

/-- The release of a frame of which nothing goes on. -/
theorem still_of_dropped (ht : t.io = dropReference s.net x io) (pool : io.pool = s.io.pool)
    (ports : io.ports = (takenAt (linkPort l) s.io).ports) (p : PortNo) : t.queueOf p = s.queueOf p :=
  (sameSending_io x ht ports (by rw [pool]; exact quiet) p).1

theorem fansOut_nowhere (none : dropSite hdr.targets s.own = 0)
    (ht : t.io = dropReference s.net x (forwardTargets s.net l x hdr (takenAt (linkPort l) s.io))) :
    FansOut l x hdr (dropSite hdr.targets s.own) s t := by
  rw [forwardTargets_nowhere (c := s.net) none] at ht
  have still := still_of_dropped quiet ht rfl rfl
  refine ⟨fun n => still _, fun _ => ⟨fun m => still _, ?_⟩, fun h => absurd none h, fun h => absurd none h,
    fun h => absurd none h, fun h => absurd none h⟩
  rw [ht, dropReference_engine]
  rfl

theorem fansOut_expired (hs : s.counterLaw) (some : dropSite hdr.targets s.own ≠ 0) (hop : hdr.hop.toNat ≤ 1)
    (ht : t.io = dropReference s.net x (forwardTargets s.net l x hdr (takenAt (linkPort l) s.io))) :
    FansOut l x hdr (dropSite hdr.targets s.own) s t := by
  rw [forwardTargets_expired (c := s.net) some hop] at ht
  have still := still_of_dropped quiet ht rfl rfl
  have few {P : Prop} (h : 2 ≤ hdr.hop.toNat) : P := absurd hop (by omega)
  refine ⟨fun n => still _, fun _ => ⟨fun m => still _, ?_⟩, fun _ _ => ?_, fun _ => few, fun _ => few, fun _ => few⟩
  · rw [ht, dropReference_engine]
    rfl
  · exact raisedAt_of_keeps hs (by decide) (by decide) (f := id) (fun _ => rfl) ht

theorem fansOut_spread (hs : s.counterLaw) (wait : ∀ m, s.waitsAt (linkPort m))
    (some : dropSite hdr.targets s.own ≠ 0) (more : 2 ≤ hdr.hop.toNat)
    (ht : t.io = dropReference s.net x (forwardTargets s.net l x hdr (takenAt (linkPort l) s.io))) :
    FansOut l x hdr (dropSite hdr.targets s.own) s t := by
  have never {P : Prop} (h : dropSite hdr.targets s.own = 0 ∨ hdr.hop.toNat ≤ 1) : P :=
    absurd h (not_or.mpr ⟨some, by omega⟩)
  rw [forwardTargets_spread (c := s.net) some more (linksWait_taken (linksWait_of_waits wait))] at ht
  set io1 := countLost (.some (linkPort l)) (s.net.unreachable (dropSite hdr.targets s.own)).length
    (takenAt (linkPort l) s.io) with hio1
  have same : io1 = { takenAt (linkPort l) s.io with live := io1.live } := countLost_same _ _ _
  set f := s.net.grouped l x hdr (dropSite hdr.targets s.own) with hf
  replace ht : t.io = dropReference s.net x (f.spread s.net io1) := ht
  have groups : f.groups = s.net.groups (dropSite hdr.targets s.own) := rfl
  have engine1 : io1.engine = s.io.engine := by rw [same]; rfl
  have queue1 (p : PortNo) : io1.ports[p.val].queue = s.queueOf p := by
    rw [same]
    exact takenAt_queue _ p s.io
  have quiet1 : (f.spread s.net io1).pool.noticePending = false := by
    rw [(placed_spread s.net f io1).quiet, same]
    exact quiet
  have ports : t.io.ports = (f.spread s.net io1).ports := by
    rw [ht, dropReference_ports_of_no_notice s.net x quiet1]
  have engine : t.io.engine = s.io.engine.takes f := by
    rw [ht, dropReference_engine, spread_engine, engine1]
  refine ⟨fun n => ?_, never, fun _ h => never (.inr h), fun _ _ => ?_, fun _ _ m => ?_, fun _ _ => ?_⟩
  · unfold State.queueOf
    rw [ports, spread_queue_off s.net f io1 fun m => linkPort_ne_chanPort m n]
    exact queue1 _
  · have keeps := KeepsCounter.dropReference (not_entryCounter_lost (.some (linkPort l))) s.net x (f.spread s.net io1)
    have counted := bumpAt_iterate (i := lostCounter (.some (linkPort l))) (j := lostCounter (.some (linkPort l)))
      (io := takenAt (linkPort l) s.io) (by rw [show (takenAt (linkPort l) s.io).live = s.io.live from rfl, hs.1.1]
                                            exact lostCounter_bound _)
      (counter_cap hs _) (s.net.unreachable (dropSite hdr.targets s.own)).length
    rw [if_pos rfl, ← countLost_eq] at counted
    show t.io.live.getD (lostCounter (.some (linkPort l))) 0 = _
    rw [ht, keeps, spread_live]
    exact counted
  · unfold State.queueOf
    rw [ports, spread_queue, engine1]
    simp only [← placesNow_iff groups, queue1]
    rw [Fanout.entry, groups, groups_get]
    rfl
  · exact leavesWork_of_takes (g := f) rfl engine

end

/-- A frame whose set is dealt with (R38, steps 2 to 5). -/
theorem fansOut_of_io {x : Handle} {hdr : Header} (hs : s.counterLaw) (quiet : s.io.pool.noticePending = false)
    (wait : ∀ m, s.waitsAt (linkPort m))
    (ht : t.io = dropReference s.net x (forwardTargets s.net l x hdr (takenAt (linkPort l) s.io))) :
    FansOut l x hdr (dropSite hdr.targets s.own) s t := by
  by_cases none : dropSite hdr.targets s.own = 0
  · exact fansOut_nowhere quiet none ht
  · by_cases hop : hdr.hop.toNat ≤ 1
    · exact fansOut_expired quiet hs none hop ht
    · exact fansOut_spread quiet hs wait none (by omega) ht

/-! ## The engine's turns -/

theorem not_isDone (group : f.groups[l.val] ≠ 0) : f.isDone = false := by
  rw [Bool.eq_false_iff, ne_eq, Fanout.isDone_iff]
  exact fun none => List.ne_nil_of_mem (Fanout.mem_links.mpr group) none

theorem links_of_first (group : f.groups[l.val] ≠ 0) (first : ∀ k : LinkNo, k < l → f.groups[k.val] = 0) :
    ∃ ls, f.links = l :: ls := by
  have mem : l ∈ f.links := Fanout.mem_links.mpr group
  have sorted : f.links.Pairwise (· < ·) := linkOrder_ascending.filter _
  cases hl : f.links with
  | nil => rw [hl] at mem; cases mem
  | cons k ls =>
    rw [hl] at mem sorted
    rcases List.mem_cons.mp mem with rfl | mem
    · exact ⟨ls, rfl⟩
    · have here : f.groups[k.val] ≠ 0 := Fanout.mem_links.mp (hl ▸ List.mem_cons_self)
      exact absurd (first k ((List.pairwise_cons.mp sorted).1 l mem)) here

/-- The links behind the first one of a frame. -/
theorem mem_later {ls : List LinkNo} (first : f.links = l :: ls) {k : LinkNo} :
    k ∈ ls ↔ l < k ∧ f.groups[k.val] ≠ 0 := by
  have sorted : (l :: ls).Pairwise (· < ·) := first ▸ linkOrder_ascending.filter _
  have mem : k ∈ l :: ls ↔ f.groups[k.val] ≠ 0 := first ▸ Fanout.mem_links
  constructor
  · exact fun here => ⟨(List.pairwise_cons.mp sorted).1 k here, mem.mp (List.mem_cons_of_mem _ here)⟩
  · rintro ⟨after, group⟩
    exact (List.mem_cons.mp (mem.mpr group)).resolve_left (ne_of_gt after)

/-- The engine's turn, where the link of the next entry has room (R38). -/
theorem engineTurn_room {rest : List Fanout} {ls : List LinkNo} (work : io.engine.work = f :: rest)
    (first : f.links = l :: ls) (quiet : io.pool.noticePending = false)
    (busy : io.ports[(linkPort l).val].sending.isSome = true) (room : io.ports[(linkPort l).val].queue.length < 64) :
    (engineTurn c io).ports = (putEntry (linkPort l) (f.entry c l) io).ports
      ∧ (engineTurn c io).engine
        = { io.engine with work := if ls = [] then rest else f.without l :: rest } := by
  have next : f.next? = some l := by rw [Fanout.next_eq, first, List.head?_cons]
  have placed : placeGroup c f io = (f.without l, putEntry (linkPort l) (f.entry c l) io) := by
    rw [placeGroup_some c next, placeEntry_room c room busy]
    rfl
  have done : (f.without l).isDone = true ↔ ls = [] := by rw [Fanout.isDone_iff, Fanout.without_links first]
  constructor
  · unfold engineTurn
    rw [work]
    simp only [placed, done]
    split
    · exact dropReference_ports_of_no_notice c f.handle quiet
    · rfl
  · rw [engineTurn_work c work, placed]
    simp only [done]

/-! ## The loss of a link -/

theorem flushQueue_counter {i : Nat} (hi : ¬entryCounter i) (c : Net) (l : LinkNo) : KeepsCounter i (flushQueue c l) := by
  intro io
  unfold flushQueue
  have drops (p : PortNo) (n : Nat) : KeepsCounter i (countPortTimes p .queueDrops n) := by
    induction n with
    | zero => exact fun _ => rfl
    | succ n ih => exact fun io => (ih _).trans (KeepsCounter.queueDrops hi p io)
  exact (KeepsCounter.foldl (fun e : Entry => KeepsCounter.dropReference hi c e.handle) _ _).trans (drops _ _ _)

/-- What frames that are not placed whole lose with a link, counted (R38, step 5). -/
theorem rerouteWork_counter (c : Net) (l : LinkNo) (p : Option PortNo) (length : io.live.length = 158)
    (cap : io.live.getD (lostCounter p) 0 ≤ 65535) :
    (rerouteWork c l io).live.getD (lostCounter p) 0
      = saturate (io.live.getD (lostCounter p) 0
          + ((io.engine.work.filter fun f => f.lostAt == p).map fun f => (c.unreachable f.groups[l.val]).length).sum) := by
  unfold rerouteWork
  exact (KeepsCounter.foldl (fun f : Fanout => KeepsCounter.dropReference (not_entryCounter_lost p) c f.handle) _ _).trans
    (countWork_count _ _ p io length cap)

/-- An entry into DOWN or DISABLED from another state (R46). -/
theorem setLinkState_leaves {new : LinkState} (low : new = .down ∨ new = .disabled) (moves : (s.link l).state ≠ new) :
    (setLinkState l new s).io
      = rerouteWork (setLinkState l new s).net l (flushQueue (setLinkState l new s).net l s.io) := by
  have flushes : (new.flushes && (s.link l).state != new) = true := by
    rcases low with rfl | rfl <;> exact bne_iff_ne.mpr moves
  have after : setLinkState l new s
      = ((modLink l (fun x => { x with state := new }) s).onIo fun c => flushQueue c l).onIo fun c => rerouteWork c l := by
    simp only [setLinkState, flushes, if_true]
  rw [after]
  rfl

theorem setLinkState_lost {new : LinkState} (low : new = .down ∨ new = .disabled) (moves : (s.link l).state ≠ new)
    (hs : s.counterLaw) (p : Option PortNo) :
    (setLinkState l new s).io.live.getD (lostCounter p) 0
      = saturate (s.io.live.getD (lostCounter p) 0
          + ((s.io.engine.work.filter fun f => f.lostAt == p).map fun f =>
              ((setLinkState l new s).net.unreachable f.groups[l.val]).length).sum) := by
  rw [setLinkState_leaves low moves]
  generalize (setLinkState l new s).net = c
  have kept := flushQueue_counter (not_entryCounter_lost p) c l s.io
  have length : (flushQueue c l s.io).live.length = 158 :=
    (Moves.flushQueue (P := False) (c := c) False.elim l s.io).counters.1.trans hs.1.1
  rw [rerouteWork_counter c l p length (by rw [kept]; exact counter_cap hs _), kept, flushQueue_engine]

end Sys2Proof.Machine

open Sys2Proof Sys2Proof.Machine

/-- Settles O27: the frame's entries of this event, the engine's turns, and the groups of a link that is lost. -/
theorem targetSetFansOut : Obligations.TargetSetFansOut := by
  refine ⟨?_, ?_, ?_⟩
  · intro l x s hs quiet hx hdr kind absent wait
    have alone : fanOut l x.handle hdr (s.taken (linkPort l))
        = (s.taken (linkPort l)).onIo fun c => forwardTargets c l x.handle hdr := by
      have here : hasSite hdr.targets (s.taken (linkPort l)).own = false := absent
      simp only [fanOut, here, Bool.false_eq_true, if_false]
    refine ⟨_, forwardTargetSet_next hx kind, ?_⟩
    rw [alone]
    have acts : Acts (s.taken (linkPort l)) ((s.taken (linkPort l)).onIo fun c => forwardTargets c l x.handle hdr) :=
      .onIo _ _ fun _ hc => .forwardTargets hc _ _ _ _
    have fans := fansOut_of_io (hdr := hdr) (t := (((s.taken (linkPort l)).onIo fun c =>
      forwardTargets c l x.handle hdr).onIo fun c => dropReference c x.handle)) hs quiet wait rfl
    rw [dropSite_absent absent] at fans
    exact ⟨tookHanded_of_acts acts x.handle, rfl, fans.channels, fans.quiet, fans.expired, fun some hop =>
      ⟨fans.lost some hop, fans.queues some hop, fun idle m => placesNow_idle idle m, fans.work some hop⟩⟩
  · intro l f rest s pending work quiet group first wait
    obtain ⟨ls, links⟩ := links_of_first group first
    obtain ⟨ports, engine⟩ := engineTurn_room (c := s.net) work links quiet wait.1 wait.2
    have stepped : step s = .next (s.onIo engineTurn) := by
      simp only [step, pending, Machine.rest, work]
    refine ⟨_, stepped, rfl, fun q => ?_, by rw [State.onIo, engine], fun p => ?_, fun none => ?_,
      fun k after some => ?_⟩
    · have port := (congrArg (fun v : Vector Port 10 => v[q.val]) ports).trans (putEntry_ports q)
      constructor
      · refine (congrArg Port.handed port).trans ?_
        split
        · exact congrArg (fun p : PortNo => s.handedAt p) (Eq.symm ‹_›)
        · rfl
      · refine (congrArg Port.reception port).trans ?_
        split
        · exact congrArg (fun p : PortNo => receptionOf p s) (Eq.symm ‹_›)
        · rfl
    · exact (congrArg (fun v : Vector Port 10 => v[p.val].queue) ports).trans (putEntry_queue p)
    · have last : ls = [] := List.eq_nil_iff_forall_not_mem.mpr fun k mem =>
        ((mem_later links).mp mem).2 (none k ((mem_later links).mp mem).1)
      exact (congrArg Engine.work engine).trans (if_pos last)
    · have more : ls ≠ [] := List.ne_nil_of_mem ((mem_later links).mpr ⟨after, some⟩)
      exact (congrArg Engine.work engine).trans (if_neg more)
  · intro l new s low moves hs quiet t lost
    refine ⟨?_, ?_, fun p => setLinkState_lost low moves hs (some p), setLinkState_lost low moves hs none⟩
    · rw [((State.setsLink.refl (s := s) (l := l)).setLinkState new).here]
    · refine reroutes_of_engine (c := t.net) ?_ rfl
      rw [setLinkState_leaves low moves, rerouteWork_engine, rerouteWork_engine, flushQueue_engine]
end

section
/-! PROOFS. What the arbiters send (R39, R44, R131 to R133, R137): call frames offered toward a talkgroup's remote sites,
and answers on the channel port, where there is room for what an event sends. -/

namespace Sys2Proof.Machine

variable {c : Net} {io : Io} {h x : Handle} {l m : LinkNo} {set : SiteSet} {idle : Bool} {s t u : State}

/-! ## Offers (R39) -/

/-- The own site has no route, so that it is in no link's subset. -/
theorem sitesVia_dropOwn (c : Net) (set : SiteSet) (l : LinkNo) :
    c.sitesVia (dropSite set c.active.ownSite) l = c.sitesVia set l := by
  refine siteSet_ext fun n => ?_
  rw [hasSite_sitesVia, hasSite_sitesVia, hasSite_dropSite]
  constructor
  · rintro ⟨⟨here, -⟩, route⟩
    exact ⟨here, route⟩
  · rintro ⟨here, route⟩
    refine ⟨⟨here, fun own => ?_⟩, route⟩
    rw [own, route_own] at route
    cases route

theorem groups_dropOwn (c : Net) (set : SiteSet) : c.groups (dropSite set c.active.ownSite) = c.groups set := by
  unfold Net.groups
  exact congrArg Vector.ofFn (funext fun l => sitesVia_dropOwn c set l)

/-- The frame that is offered, grouped by the links of its sites' routes (R38, R39). -/
def Net.offered (c : Net) (lostAt : Option PortNo) (h : Handle) (cls : FrameClass) (set : SiteSet) : Fanout :=
  { handle := h, cls := cls, hop := none, lostAt := lostAt, groups := c.groups set }

theorem linksWait_modHeader (wait : io.linksWait) (h : Handle) (f : Header → Header) : (modHeader h f io).linksWait := wait

theorem offerTargets_room (lostAt : Option PortNo) (h : Handle) (cls : FrameClass) (set : SiteSet) (wait : io.linksWait) :
    ∃ n, offerTargets c lostAt h cls set io
      = (c.offered lostAt h cls set).spread c (countLost lostAt n (modHeader h c.fromOwn io)) := by
  refine ⟨(c.unreachable (dropSite set c.active.ownSite)).length, ?_⟩
  refine (fanOutSet_room h cls none lostAt _ (linksWait_counted (linksWait_modHeader wait h _) _ _)).trans ?_
  rw [groups_dropOwn]
  rfl

theorem placed_modHeader (h : Handle) (f : Header → Header) (io : Io) :
    Placed h (rewriteHeader f) 0 0 io (modHeader h f io) := by
  refine ⟨rfl, ?_, rfl, fun _ => rfl, fun _ => le_refl _, fun _ _ h => h, ?_, fun k hk => ?_⟩
  · simp only [modHeader, modBuffer, List.map_map]
    refine List.map_congr_left fun b _ => ?_
    simp only [Function.comp_apply]
    split <;> rfl
  · rw [modHeader, bufferOf_modBuffer _ _ (fun b => { b with bytes := rewriteHeader f b.bytes }) (fun _ => rfl), if_pos rfl]
    rfl
  · rw [modHeader, bufferOf_modBuffer _ _ (fun b => { b with bytes := rewriteHeader f b.bytes }) (fun _ => rfl), if_neg hk]

theorem placed_live (h : Handle) (live : List Nat) (io : Io) : Placed h id 0 0 io { io with live := live } := by
  refine ⟨rfl, rfl, rfl, fun _ => rfl, fun _ => le_refl _, fun _ _ h => h, ?_, fun _ _ => rfl⟩
  show bufferOf h io = _
  cases bufferOf h io <;> rfl

theorem placed_offerTargets (lostAt : Option PortNo) (h : Handle) (cls : FrameClass) (set : SiteSet) (wait : io.linksWait) :
    Placed h (rewriteHeader c.fromOwn) 1 ((c.offered lostAt h cls set).holders io.engine.now) io
      (offerTargets c lostAt h cls set io) := by
  obtain ⟨n, offered⟩ := offerTargets_room (c := c) lostAt h cls set wait
  have same := countLost_same lostAt n (modHeader h c.fromOwn io)
  have engine : (countLost lostAt n (modHeader h c.fromOwn io)).engine = io.engine := by rw [same]; rfl
  rw [offered, ← engine]
  have counted := (placed_modHeader h c.fromOwn io).trans (placed_live h (countLost lostAt n (modHeader h c.fromOwn io)).live _)
  rw [← same] at counted
  have placed := counted.trans (placed_spread c (c.offered lostAt h cls set) _)
  simpa using placed

/-- The entries of an offer that is placed whole. -/
def Net.offerEntries (c : Net) (cls : FrameClass) (set : SiteSet) (h : Handle) : List (PortNo × Entry) :=
  (linkOrder.filter fun l => c.sitesVia set l != 0).map fun l =>
    (linkPort l,
      { handle := h, cls := cls, hop := c.active.hopLimit, addressing := .subset (c.sitesVia set l) })

theorem offerTargets_entries (lostAt : Option PortNo) (h : Handle) (cls : FrameClass) (set : SiteSet) (wait : io.linksWait)
    (free : io.engine = Engine.idle) :
    ∀ y ∈ c.offerEntries cls set h, y.2 ∈ (offerTargets c lostAt h cls set io).ports[y.1.val].queue := by
  intro y hy
  obtain ⟨l, hl, rfl⟩ := List.mem_map.mp hy
  have routes : c.sitesVia set l ≠ 0 := bne_iff_ne.mp (List.mem_filter.mp hl).2
  obtain ⟨n, offered⟩ := offerTargets_room (c := c) lostAt h cls set wait
  have group (l : LinkNo) : (c.offered lostAt h cls set).groups[l.val] = c.sitesVia set l := groups_get c set l
  have engine : (countLost lostAt n (modHeader h c.fromOwn io)).engine = Engine.idle := by
    rw [countLost_same]
    exact free
  have few : (c.offered lostAt h cls set).links.length ≤ 4 := List.length_filter_le _ linkOrder
  have now : l ∈ (c.offered lostAt h cls set).links.take (countLost lostAt n (modHeader h c.fromOwn io)).engine.now := by
    rw [engine, List.take_of_length_le (show _ ≤ Engine.idle.now from few), Fanout.mem_links, group]
    exact routes
  rw [offered, spread_queue, if_pos now, Fanout.entry, group]
  exact (mem_insertEntry _ _ _).mpr (.inl rfl)

/-- Some site of a set has a route. -/
def Net.reaches (c : Net) (set : SiteSet) : Prop := ∃ m, c.sitesVia set m ≠ 0

theorem offered_links (lostAt : Option PortNo) (h : Handle) (cls : FrameClass) (reaches : c.reaches set) :
    (c.offered lostAt h cls set).links ≠ [] := by
  obtain ⟨m, routes⟩ := reaches
  exact List.ne_nil_of_mem (Fanout.mem_links.mpr (by rw [Net.offered, groups_get]; exact routes))

theorem rewriteHeader_frameBytes (f : Header → Header) (hdr : Header) (payload : List Byte)
    (same : f { hdr with payloadLength := BitVec.ofNat 8 payload.length }
      = { hdr with payloadLength := BitVec.ofNat 8 payload.length }) :
    rewriteHeader f (frameBytes hdr payload) = frameBytes hdr payload := by
  unfold rewriteHeader frameBytes
  rw [parseHeader_encodeHeader, same]
  rfl

/-- A built call frame, offered (R39). -/
theorem places_offer (hdr : Header) (set : SiteSet) {engine : Engine} (free : idle = true → engine = Engine.idle) :
    Places (fun h => offerTargets c none h hdr.frameClass set) (frameBytes (c.fromOwn hdr) []) 1 (c.reaches set)
      (fun k => if idle then c.offerEntries hdr.frameClass set k else []) (frameBytes (c.fromOwn hdr) []) engine := by
  intro k io room heng
  have wait : io.linksWait := fun l => ⟨(room (linkPort l)).1, Nat.lt_of_succ_le (room (linkPort l)).2⟩
  refine ⟨_, _, placed_offerTargets none k hdr.frameClass set wait, fun y hy => ?_, fun reaches =>
    ⟨Fanout.holders_pos (offered_links none k hdr.frameClass reaches) _, rewriteHeader_frameBytes _ _ _ rfl⟩⟩
  cases idle with
  | false => cases hy
  | true => exact offerTargets_entries none k hdr.frameClass set wait (heng.trans (free rfl)) y hy

end Sys2Proof.Machine
end

section
/-! PROOFS. What an operation of the arbiters sends, counts and leaves alone, as one rule that composes (R131 to R137). -/

namespace Sys2Proof.Machine

variable {x : Handle} {idle : Bool} {n : ChannelNo} {s t u : State} {call : Call} {c : Net} {i : Nat}

/-! ## The counters of a fan-out (R38, R39) -/

namespace KeepsCounter

theorem countLost {lostAt : Option PortNo} (hl : i ≠ lostCounter lostAt) (k : Nat) :
    KeepsCounter i (Machine.countLost lostAt k) := by
  intro io
  rw [countLost_eq]
  induction k generalizing io with
  | zero => rfl
  | succ k ih => exact (ih _).trans (bumpAt hl io)

section

variable (he : ¬entryCounter i)
include he

theorem placeGroup (c : Net) (f : Fanout) : KeepsCounter i fun io => (Machine.placeGroup c f io).2 := by
  intro io
  show (Machine.placeGroup c f io).2.live.getD i 0 = _
  unfold Machine.placeGroup
  cases f.next? with
  | none => rfl
  | some l => exact placeEntry he c _ _ io

theorem placeGroups (c : Net) (k : Nat) (f : Fanout) : KeepsCounter i fun io => (Machine.placeGroups c k f io).2 := by
  induction k generalizing f with
  | zero => exact fun _ => rfl
  | succ k ih => exact fun io => (ih _ _).trans (placeGroup he c f io)

theorem takeUp (c : Net) (f : Fanout) : KeepsCounter i (Machine.takeUp c f) := by
  intro io
  unfold Machine.takeUp
  split
  · rfl
  · generalize (if io.engine.work.isEmpty = true then _ else _) = k
    have placed := placeGroups he c k f { io with engine := { io.engine with atOnce := io.engine.atOnce.tail } }
    simp only at placed ⊢
    split <;> exact placed

theorem fanOutSet (c : Net) (h : Handle) (cls : FrameClass) (hop : Option Nat) (lostAt : Option PortNo) (set : SiteSet) :
    KeepsCounter i (Machine.fanOutSet c h cls hop lostAt set) := by
  intro io
  unfold Machine.fanOutSet
  split
  · refine foldl (f := Machine.placeSubset c h cls (hop.getD c.active.hopLimit) set) (fun l io => ?_) _ io
    unfold Machine.placeSubset
    simp only
    split
    · rfl
    · exact placeEntry he c _ _ io
  · exact takeUp he c _ io

theorem offerTargets {lostAt : Option PortNo} (hl : i ≠ lostCounter lostAt) (c : Net) (h : Handle) (cls : FrameClass)
    (set : SiteSet) : KeepsCounter i (Machine.offerTargets c lostAt h cls set) := by
  intro io
  exact (fanOutSet he c h cls none lostAt _ _).trans (countLost hl _ _)

end

end KeepsCounter

theorem KeepsCounter.offerBuilt (hi : ¬placingCounter i) (c : Net) (hdr : Header) (set : SiteSet) :
    KeepsCounter i (Machine.offerBuilt c hdr set) :=
  .sendBuilt hi (fun h => .offerTargets (lostAt := none) (entry_of_not_placing hi) (fun same => hi (.inl same)) c h _ set) c _ _ _

/-! ## The engine with nothing left to place -/

theorem fanOutSet_idle {io : Io} (free : io.engine = Engine.idle) (c : Net) (h : Handle) (cls : FrameClass)
    (hop : Option Nat) (lostAt : Option PortNo) (set : SiteSet) :
    (fanOutSet c h cls hop lostAt set io).engine = Engine.idle := by
  unfold fanOutSet
  rw [if_pos free]
  have along (ls : List LinkNo) (io : Io) :
      (ls.foldl (placeSubset c h cls (hop.getD c.active.hopLimit) set) io).engine = io.engine := by
    induction ls generalizing io with
    | nil => rfl
    | cons l ls ih =>
      refine (ih _).trans ?_
      unfold placeSubset
      simp only
      split
      · rfl
      · exact placeEntry_engine c _ _ io
  exact (along _ io).trans free

theorem offerTargets_idle {io : Io} (free : io.engine = Engine.idle) (c : Net) (lostAt : Option PortNo) (h : Handle)
    (cls : FrameClass) (set : SiteSet) : (offerTargets c lostAt h cls set io).engine = Engine.idle := by
  refine fanOutSet_idle ?_ _ _ _ _ _ _
  rw [countLost_engine]
  exact free

theorem sendBuilt_idle {place : Handle → Io → Io} {io : Io} (free : io.engine = Engine.idle)
    (hp : ∀ h io, io.engine = Engine.idle → (place h io).engine = Engine.idle) (c : Net) (hdr : Header)
    (payload : List Byte) (done : Option Completion) :
    (sendBuilt c hdr payload done place io).engine = Engine.idle := by
  have built := (buildFrame_engine c hdr payload done io).trans free
  unfold sendBuilt
  rcases hb : buildFrame c hdr payload done io with ⟨_ | h, io'⟩
  all_goals
    rw [hb] at built
    simp only at built ⊢
  · exact built
  · rw [dropReference_engine]
    exact hp h io' built

/-! ## What an operation sends and counts -/

/-- An operation of the arbiters: what it issues, an offer standing whole with the engine idle; the counters it raises;
and what it leaves alone. -/
structure Says (x : Handle) (idle : Bool) (k m : Nat) (claims : List Claim) (raised : List DevCounter) (s t : State) :
    Prop where
  issues : (idle = true → s.io.engine = Engine.idle) → Issues x k m claims s t
  engine : s.io.engine = Engine.idle → t.io.engine = Engine.idle
  raises : Raises raised s t
  counter : t.callCounter = s.callCounter
  frame : s.sameButChannels t

namespace Says

variable {k k' m m' : Nat} {claims claims' : List Claim} {raised raised' : List DevCounter}

theorem trans (h : Says x idle k m claims raised s t) (h' : Says x idle k' m' claims' raised' t u) :
    Says x idle (k + k') (m + m') (claims ++ claims') (raised ++ raised') s u :=
  ⟨fun free => (h.issues free).trans (h'.issues fun on => h.engine (free on)), h'.engine ∘ h.engine,
    h.raises.trans h'.raises, h'.counter.trans h.counter, frameOf_channels.trans h.frame h'.frame⟩

theorem mono (h : Says x idle k m claims raised s t) (hk : k ≤ k') (hm : m ≤ m') (hc : ∀ f ∈ claims', f ∈ claims) :
    Says x idle k' m' claims' raised s t :=
  ⟨fun free => (h.issues free).mono hk hm hc, h.engine, h.raises, h.counter, h.frame⟩

/-- An operation that moves no frame. -/
theorem still (io : t.io = s.io) (counter : t.callCounter = s.callCounter) (frame : s.sameButChannels t) :
    Says x idle 0 0 [] [] s t := by
  have active : t.active = s.active := frame.reads.2.1
  exact ⟨fun _ => .fields active io, fun free => by rw [io]; exact free, .same (by rw [io]), counter, frame⟩

theorem refl (s : State) : Says x idle 0 0 [] [] s s := still rfl rfl (frameOf_channels.refl s)

theorem count (d : DevCounter) (s : State) : Says x idle 0 0 [] [d] s (s.count d) :=
  ⟨fun _ => .count d s, fun free => free, .count d s, rfl, frameOf_channels.io s _⟩

theorem mod (f : Channel → Channel) (s : State) : Says x idle 0 0 [] [] s (modChannel n f s) :=
  still rfl rfl ⟨rfl, rfl⟩

theorem setTalking (v : UnitId) (on : Bool) (s : State) : Says x idle 0 0 [] [] s (Machine.setTalking v on s) :=
  still rfl rfl (CallsRun.setTalking (extra := .none) v on).frame

theorem setLimited (v : UnitId) (on : Bool) (s : State) : Says x idle 0 0 [] [] s (Machine.setLimited v on s) :=
  still rfl rfl (CallsRun.setLimited (extra := .none) v on).frame

theorem sendAnswer (n : ChannelNo) (hdr : Header) (s : State) :
    Says x idle 1 1 [Claim.onChannel n hdr []] [] s (Machine.sendAnswer n hdr s) :=
  ⟨fun _ => .toChannel n hdr [] none s,
    fun free => sendBuilt_idle free (fun _ io free => (placeEntry_engine _ _ _ io).trans free) _ _ _ _,
    .toChannel n hdr [] none s, rfl, frameOf_channels.io s _⟩

theorem deliverCall (k : Kind) (n : ChannelNo) (call : Call) (s : State) :
    Says x idle 1 1 [Claim.onChannel n (call.frame k) []] [] s (Machine.deliverCall k n call s) :=
  sendAnswer n (callHeader k call) s

end Says

/-- The frame of an offer that is built: on each link that routes sites of the set, where the offer is placed whole
(R39). -/
def Claim.offer (c : Net) (idle : Bool) (hdr : Header) (set : SiteSet) : Claim where
  entries := fun k => if idle then c.offerEntries hdr.frameClass set k else []
  header := c.fromOwn hdr
  payload := []

/-- What an offer toward a set claims: nothing where no site of it has a route. -/
def offerClaims (c : Net) (idle : Bool) (hdr : Header) (set : SiteSet) : List Claim :=
  if ∃ m, c.sitesVia set m ≠ 0 then [Claim.offer c idle hdr set] else []

theorem Says.offerCall (k : Kind) (call : Call) (s : State) :
    Says x idle 1 1 (offerClaims s.net idle (call.frame k) (remoteSet call.talkgroup s)) [] s
      (Machine.offerCall k call s) := by
  refine ⟨fun free => ?_, fun free => ?_, ?_, rfl, frameOf_channels.io s _⟩
  · refine Issues.built (done := none) (places_offer (c := s.net) (idle := idle) (call.frame k) (remoteSet call.talkgroup s) free)
      fun f hf => ?_
    unfold offerClaims at hf
    split at hf
    · exact ⟨‹_›, List.mem_singleton.mp hf⟩
    · cases hf
  · exact sendBuilt_idle free (fun _ io free => offerTargets_idle free _ _ _ _ _) _ _ _ _
  · exact .onIo (fun _ hi => .offerBuilt hi _ _ _) (Moves.offerBuilt (P := False) False.elim _ _ _).counters.1

end Sys2Proof.Machine
end

section
/-! PROOFS. The entries of a wait list that a free channel passes on to (R131, R137): those that cannot be granted are
turned away in their order, and the first that can be is granted. -/

namespace Sys2Proof.Machine

variable {x : Handle} {idle : Bool} {n : ChannelNo} {s t u : State} {call : Call} {w : WaitEntry} {b : Channel}

/-! ## Refusals and grants -/

/-- What a local talker is told when a call is turned away (R133, R137). -/
def refusal (n : ChannelNo) (cause : Byte) (call : Call) : List Claim :=
  if call.isLocal then [Claim.onChannel n (call.answer .callRefuse cause) []] else []

theorem Says.turnAway (n : ChannelNo) (call : Call) (cause : Byte) (s : State) :
    Says x idle 1 1 (refusal n cause call) [.callsNotCarried] s (Machine.turnAway n call cause s) := by
  unfold Machine.turnAway refusal
  cases call.isLocal with
  | false => exact (Says.count .callsNotCarried s).mono (Nat.zero_le 1) (Nat.zero_le 1) fun f hf => hf
  | true => exact (Says.sendAnswer n _ s).trans (.count .callsNotCarried _)

theorem Says.makeCurrent (n : ChannelNo) (call : Call) (s : State) :
    Says x idle 0 0 [] [] s (Machine.makeCurrent n call s) := by
  have phased := Says.mod (x := x) (idle := idle) (n := n) (fun y => { y with phase := s.grantedPhase call }) s
  unfold Machine.makeCurrent
  simp only
  split
  · exact phased.trans (.setTalking _ _ _)
  · exact phased

/-- What a grant from the wait list sends (R131). -/
def grantClaims (n : ChannelNo) (idle : Bool) (call : Call) (s : State) : List Claim :=
  if call.isLocal then
    Claim.onChannel n (call.answer .callGrant 0) []
      :: offerClaims s.net idle (call.frame .callStart) (remoteSet call.talkgroup s)
  else [Claim.onChannel n (call.frame .callStart) []]

theorem State.sameButChannels.sees (h : s.sameButChannels t) : t.net = s.net ∧ t.talkgroups = s.talkgroups := by
  have same := h.1
  unfold State.sameButCalls at same
  rw [same]
  exact ⟨rfl, rfl⟩

theorem grantClaims_congr (h : s.sameButChannels t) (n : ChannelNo) (idle : Bool) (call : Call) :
    grantClaims n idle call t = grantClaims n idle call s := by
  obtain ⟨net, talkgroups⟩ := h.sees
  unfold grantClaims remoteSet
  rw [net, talkgroups]

theorem Says.grantWaiting (n : ChannelNo) (call : Call) (s : State) :
    Says x idle 2 2 (grantClaims n idle call s) [] s (Machine.grantWaiting n call s) := by
  have current := Says.makeCurrent (x := x) (idle := idle) n call s
  rw [← grantClaims_congr current.frame]
  unfold Machine.grantWaiting grantClaims
  cases call.isLocal with
  | false =>
    exact (current.trans (.deliverCall .callStart n call _)).mono (Nat.le_succ 1) (Nat.le_succ 1) fun f hf => hf
  | true =>
    exact (current.trans ((Says.sendAnswer n _ _).trans (.offerCall .callStart call _))).mono (le_refl _) (le_refl _)
      fun f hf => hf

theorem grantWaiting_units (n : ChannelNo) (call : Call) (s : State) :
    (grantWaiting n call s).units = if call.isLocal then (setTalking call.talker true s).units else s.units := by
  unfold grantWaiting makeCurrent
  cases call.isLocal <;> rfl

/-! ## Entries turned away in their order -/

/-- Entries are turned away NOT REGISTERED (R137). -/
def turnAll (n : ChannelNo) (gone : List WaitEntry) (s : State) : State :=
  gone.foldl (fun s w => turnAway n w.call 4#8 (removeWait n w.call.id s)) s

theorem turnAll_append (gone more : List WaitEntry) (s : State) :
    turnAll n (gone ++ more) s = turnAll n more (turnAll n gone s) := List.foldl_append

theorem Says.turnAll (n : ChannelNo) (gone : List WaitEntry) (s : State) :
    Says x idle gone.length gone.length (gone.flatMap fun w => refusal n 4 w.call)
      (List.replicate gone.length .callsNotCarried) s (Machine.turnAll n gone s) := by
  induction gone generalizing s with
  | nil => exact .refl s
  | cons w gone ih =>
    have first := (Says.mod (x := x) (idle := idle) (n := n)
      (fun y => { y with waits := y.waits.eraseP fun v => v.call.id == w.call.id }) s).trans (.turnAway n w.call 4#8 _)
    have all := first.trans (ih (Machine.turnAway n w.call 4#8 (removeWait n w.call.id s)))
    exact all.mono (by rw [List.length_cons]; omega) (by rw [List.length_cons]; omega) fun f hf => hf

theorem turnAway_units (n : ChannelNo) (call : Call) (cause : Byte) (s : State) :
    (turnAway n call cause s).units = s.units := by
  unfold turnAway
  cases call.isLocal <;> rfl

theorem turnAll_units (n : ChannelNo) (gone : List WaitEntry) (s : State) : (turnAll n gone s).units = s.units := by
  induction gone generalizing s with
  | nil => rfl
  | cons w gone ih => exact (ih _).trans (turnAway_units n _ _ _)

/-! ## Wait lists without some of their entries -/

theorem erase_id {l : List WaitEntry} (distinct : (idsOf l).Nodup) (id : CallId) :
    (l.eraseP fun v => v.call.id == id) = l.filter fun v => v.call.id != id := by
  induction l with
  | nil => rfl
  | cons w l ih =>
    obtain ⟨fresh, rest⟩ := List.nodup_cons.mp distinct
    by_cases here : w.call.id = id
    · rw [List.eraseP_cons_of_pos (by simpa using here), List.filter_cons_of_neg (by simpa using here)]
      refine (List.filter_eq_self.mpr fun v hv => bne_iff_ne.mpr fun same => fresh ?_).symm
      show w.call.id ∈ idsOf l
      rw [here, ← same]
      exact List.mem_map_of_mem hv
    · rw [List.eraseP_cons_of_neg (by simpa using here), List.filter_cons_of_pos (by simpa using here), ih rest]

/-- In a list without an id twice, an entry is the one with its id. -/
theorem eq_of_id {l : List WaitEntry} (distinct : (idsOf l).Nodup) {v w : WaitEntry} (hv : v ∈ l) (hw : w ∈ l)
    (same : v.call.id = w.call.id) : v = w := List.inj_on_of_nodup_map distinct hv hw same

theorem erase_entry {l : List WaitEntry} (distinct : (idsOf l).Nodup) (mem : w ∈ l) :
    (l.eraseP fun v => v.call.id == w.call.id) = l.filter fun v => v != w := by
  rw [erase_id distinct]
  refine List.filter_congr fun v hv => ?_
  rw [Bool.eq_iff_iff, bne_iff_ne, bne_iff_ne]
  exact not_congr ⟨eq_of_id distinct hv mem, congrArg fun v : WaitEntry => v.call.id⟩

theorem filter_erase {l rest : List WaitEntry} (distinct : (idsOf l).Nodup) {ok : WaitEntry → Bool}
    (first : l.filter ok = w :: rest) : (l.eraseP fun v => v.call.id == w.call.id).filter ok = rest := by
  have mem : w ∈ l := (List.mem_filter.mp (first ▸ List.mem_cons_self : w ∈ l.filter ok)).1
  have order : (w :: rest).Nodup := first ▸ (List.Nodup.of_map _ distinct).filter ok
  rw [erase_entry distinct mem, List.filter_comm, first, List.filter_cons_of_neg (by simp), List.filter_eq_self]
  exact fun v hv => bne_iff_ne.mpr fun same => (List.nodup_cons.mp order).1 (same ▸ hv)

/-- The waiting entries but some of them. -/
def Channel.but (b : Channel) (gone : List WaitEntry) : Channel :=
  { b with waits := b.waits.filter fun v => !gone.contains v }

theorem without_but {gone : List WaitEntry} (distinct : (idsOf b.waits).Nodup) (mem : w ∈ b.waits) :
    (b.without w.call.id).but gone = b.but (w :: gone) := by
  unfold Channel.but Channel.without
  simp only [erase_entry distinct mem, List.filter_filter]
  refine congrArg (fun l => { b with waits := l }) (List.filter_congr fun v _ => ?_)
  rw [List.contains_cons, Bool.not_or, Bool.and_comm]
  rfl

theorem but_nil (b : Channel) : b.but [] = b := by
  have all : (b.waits.filter fun v => !([] : List WaitEntry).contains v) = b.waits := List.filter_eq_self.mpr fun v _ => rfl
  unfold Channel.but
  rw [all]

theorem State.setsChannel.turnAll {gone : List WaitEntry} (h : s.setsChannel n b t) (distinct : (idsOf b.waits).Nodup)
    (order : gone.Nodup) (mem : ∀ w ∈ gone, w ∈ b.waits) : s.setsChannel n (b.but gone) (Machine.turnAll n gone t) := by
  induction gone generalizing t b with
  | nil => exact (but_nil b).symm ▸ h
  | cons w gone ih =>
    obtain ⟨fresh, order⟩ := List.nodup_cons.mp order
    have here : w ∈ b.waits := mem w List.mem_cons_self
    have first := (h.removeWait w.call.id).turnAway w.call 4#8
    rw [← without_but distinct here]
    refine ih first (distinct.sublist ((sublist_without _ b).map _)) order fun v hv => ?_
    have kept : v ∈ b.waits.filter fun v => v != w :=
      List.mem_filter.mpr ⟨mem v (List.mem_cons_of_mem _ hv), bne_iff_ne.mpr fun same => fresh (same ▸ hv)⟩
    show v ∈ b.waits.eraseP fun v => v.call.id == w.call.id
    rw [erase_entry distinct here]
    exact kept

/-! ## The search for an entry that can be granted -/

theorem State.sameButChannels.mayGrant (h : s.sameButChannels t) (w : WaitEntry) : t.mayGrant w = s.mayGrant w :=
  h.grantable w.call

/-- The next state of a search that turns its first entry away. -/
theorem grantFrom_refused {ok : WaitEntry → Bool} {rest : List WaitEntry} (k : Nat)
    (first : (t.channel n).waits.filter ok = w :: rest) (refused : t.mayGrant w = false) :
    grantFrom n ok (k + 1) t = grantFrom n ok k (turnAway n w.call 4#8 (removeWait n w.call.id t)) := by
  have found : (t.channel n).waits.find? ok = some w := by rw [← List.head?_filter, first, List.head?_cons]
  have removed : Machine.grantable w.call (removeWait n w.call.id t) = false :=
    (CallsRun.removeWait (extra := .none) n w.call.id).frame.grantable w.call ▸ refused
  simp only [grantFrom, found, removed, Bool.false_eq_true, if_false]

theorem grantFrom_granted {ok : WaitEntry → Bool} {rest : List WaitEntry} (k : Nat)
    (first : (t.channel n).waits.filter ok = w :: rest) (may : t.mayGrant w = true) :
    grantFrom n ok (k + 1) t = (true, grantWaiting n w.call (removeWait n w.call.id t)) := by
  have found : (t.channel n).waits.find? ok = some w := by rw [← List.head?_filter, first, List.head?_cons]
  have removed : Machine.grantable w.call (removeWait n w.call.id t) = true :=
    (CallsRun.removeWait (extra := .none) n w.call.id).frame.grantable w.call ▸ may
  simp only [grantFrom, found, removed, if_true]

theorem grantFrom_nobody {ok : WaitEntry → Bool} (k : Nat) (none : (t.channel n).waits.filter ok = []) :
    grantFrom n ok k t = (false, t) := by
  have found : (t.channel n).waits.find? ok = .none := by rw [← List.head?_filter, none, List.head?_nil]
  cases k with
  | zero => rfl
  | succ k => simp only [grantFrom, found]

/-- A search turns away the entries that cannot be granted and goes on with the rest. -/
theorem grantFrom_turnAll {ok : WaitEntry → Bool} (gone : List WaitEntry) {rest : List WaitEntry} (k : Nat)
    (distinct : (idsOf (t.channel n).waits).Nodup) (order : (t.channel n).waits.filter ok = gone ++ rest)
    (refused : ∀ v ∈ gone, t.mayGrant v = false) :
    grantFrom n ok (gone.length + k) t = grantFrom n ok k (turnAll n gone t)
      ∧ ((turnAll n gone t).channel n).waits.filter ok = rest := by
  induction gone generalizing t with
  | nil => exact ⟨by rw [List.length_nil, Nat.zero_add]; rfl, order⟩
  | cons w gone ih =>
    rw [List.cons_append] at order
    have next := (State.setsChannel.refl (s := t) (n := n)).removeWait w.call.id
    have first := (next.turnAway w.call 4#8).here
    have waits : ((turnAway n w.call 4#8 (removeWait n w.call.id t)).channel n).waits
        = (t.channel n).waits.eraseP fun v => v.call.id == w.call.id := by rw [first]; rfl
    rw [List.length_cons, Nat.add_right_comm, grantFrom_refused _ order (refused w List.mem_cons_self)]
    refine ih ?_ ?_ fun v hv => ?_
    · rw [waits]
      exact distinct.sublist (List.eraseP_sublist.map _)
    · rw [waits]
      exact filter_erase distinct order
    · rw [(next.turnAway w.call 4#8).frame.mayGrant]
      exact refused v (List.mem_cons_of_mem _ hv)

/-- A search among entries none of which can be granted. -/
theorem grantFrom_none {ok : WaitEntry → Bool} {k : Nat} (distinct : (idsOf (t.channel n).waits).Nodup)
    (enough : ((t.channel n).waits.filter ok).length ≤ k)
    (refused : ∀ v ∈ (t.channel n).waits.filter ok, t.mayGrant v = false) :
    grantFrom n ok k t = (false, turnAll n ((t.channel n).waits.filter ok) t) := by
  obtain ⟨more, rfl⟩ := Nat.exists_eq_add_of_le enough
  obtain ⟨turned, left⟩ := grantFrom_turnAll (rest := []) _ more distinct (List.append_nil _).symm refused
  rw [turned, grantFrom_nobody more left]

/-- A search that finds an entry to grant. -/
theorem grantFrom_some {ok : WaitEntry → Bool} {k : Nat} {gone rest : List WaitEntry}
    (distinct : (idsOf (t.channel n).waits).Nodup) (enough : ((t.channel n).waits.filter ok).length ≤ k)
    (order : (t.channel n).waits.filter ok = gone ++ w :: rest) (refused : ∀ v ∈ gone, t.mayGrant v = false)
    (may : t.mayGrant w = true) :
    grantFrom n ok k t = (true, grantWaiting n w.call (removeWait n w.call.id (turnAll n gone t))) := by
  rw [order, List.length_append, List.length_cons] at enough
  obtain ⟨more, rfl⟩ := Nat.exists_eq_add_of_le enough
  obtain ⟨turned, left⟩ := grantFrom_turnAll gone (rest.length + 1 + more) distinct order refused
  have kept : (turnAll n gone t).mayGrant w = true := by
    rw [(Says.turnAll (x := 0) (idle := false) n gone t).frame.mayGrant, may]
  rw [show gone.length + (rest.length + 1) + more = gone.length + (rest.length + 1 + more) by omega, turned,
    show rest.length + 1 + more = rest.length + more + 1 by omega, grantFrom_granted _ left kept]

/-! ## A channel that passes on -/

/-- The refusals of several entries (R137). -/
def refusals (n : ChannelNo) (gone : List WaitEntry) : List Claim := gone.flatMap fun w => refusal n 4 w.call

/-- A channel that has become free for the entries of `order` has taken them in that order (R137): by the state `s` in
which it became free, from the state `u`. -/
structure Passes (x : Handle) (idle : Bool) (n : ChannelNo) (order : List WaitEntry) (left : Channel) (s u t : State) :
    Prop where
  none : (∀ v ∈ order, s.mayGrant v = false) →
    s.setsChannel n (left.but order) t
      ∧ Says x idle order.length order.length (refusals n order) (List.replicate order.length .callsNotCarried) u t
      ∧ t.units = u.units
  some : ∀ gone w rest, order = gone ++ w :: rest → (∀ v ∈ gone, s.mayGrant v = false) → s.mayGrant w = true →
    s.setsChannel n { left.but (gone ++ [w]) with phase := s.grantedPhase w.call } t
      ∧ Says x idle (gone.length + 2) (gone.length + 2) (refusals n gone ++ grantClaims n idle w.call s)
        (List.replicate gone.length .callsNotCarried) u t
      ∧ t.units = if w.call.isLocal then (setTalking w.call.talker true u).units else u.units

theorem but_but (b : Channel) (gone more : List WaitEntry) : (b.but gone).but more = b.but (gone ++ more) := by
  unfold Channel.but
  simp only [List.filter_filter]
  refine congrArg (fun l => { b with waits := l }) (List.filter_congr fun v _ => ?_)
  rw [List.contains_append, Bool.not_or, Bool.and_comm]

theorem idsOf_but {gone : List WaitEntry} (distinct : (idsOf b.waits).Nodup) : (idsOf (b.but gone).waits).Nodup :=
  distinct.sublist (List.filter_sublist.map _)

/-- The state in which a channel has turned some entries away and granted the next. -/
theorem granted_after {gone : List WaitEntry} (h : s.setsChannel n b u) (distinct : (idsOf b.waits).Nodup)
    (order : (gone ++ [w]).Nodup) (mem : ∀ v ∈ gone ++ [w], v ∈ b.waits) :
    let t := grantWaiting n w.call (removeWait n w.call.id (turnAll n gone u))
    s.setsChannel n { b.but (gone ++ [w]) with phase := s.grantedPhase w.call } t
      ∧ Says x idle (gone.length + 2) (gone.length + 2) (refusals n gone ++ grantClaims n idle w.call s)
        (List.replicate gone.length .callsNotCarried) u t
      ∧ t.units = if w.call.isLocal then (setTalking w.call.talker true u).units else u.units := by
  intro t
  obtain ⟨first, -, apart⟩ := List.nodup_append.mp order
  have turned := h.turnAll distinct first fun v hv => mem v (List.mem_append_left _ hv)
  have here : w ∈ (b.but gone).waits := by
    refine List.mem_filter.mpr ⟨mem w (by simp), ?_⟩
    have fresh : w ∉ gone := fun hw => apart w hw w (List.mem_singleton.mpr rfl) rfl
    simpa using fresh
  have without : (b.but gone).without w.call.id = b.but (gone ++ [w]) := by
    rw [← but_nil ((b.but gone).without w.call.id), without_but (idsOf_but distinct) here, but_but]
  have removed := turned.removeWait w.call.id
  rw [without] at removed
  have refused := Says.turnAll (x := x) (idle := idle) n gone u
  have out := refused.trans (.mod (n := n) (fun y => { y with waits := y.waits.eraseP fun v => v.call.id == w.call.id }) _)
  have grants := out.trans (.grantWaiting n w.call (removeWait n w.call.id (turnAll n gone u)))
  rw [grantClaims_congr removed.frame] at grants
  refine ⟨removed.grantWaiting w.call, ?_, ?_⟩
  · simpa [refusals] using grants
  · refine (grantWaiting_units n w.call _).trans ?_
    have units : (removeWait n w.call.id (turnAll n gone u)).units = u.units := turnAll_units n gone u
    split
    · simp only [setTalking, modUnit, units]
    · exact units

theorem passes_turnAll {order : List WaitEntry} (h : s.setsChannel n b u) (distinct : (idsOf b.waits).Nodup)
    (once : order.Nodup) (mem : ∀ v ∈ order, v ∈ b.waits) :
    s.setsChannel n (b.but order) (turnAll n order u)
      ∧ Says x idle order.length order.length (refusals n order) (List.replicate order.length .callsNotCarried) u
        (turnAll n order u)
      ∧ (turnAll n order u).units = u.units :=
  ⟨h.turnAll distinct once mem, .turnAll n order u, turnAll_units n order u⟩

end Sys2Proof.Machine
end

section
/-! PROOFS. The end of a call and of a hang (R136, R137): which entries a channel that has become free passes on to, in
which order. -/

namespace Sys2Proof.Machine

variable {x : Handle} {idle : Bool} {n : ChannelNo} {s t u : State} {call : Call} {w : WaitEntry} {b left : Channel}
  {order gone rest : List WaitEntry}

theorem mem_of_split {l : List WaitEntry} {ok : WaitEntry → Bool} (split : l.filter ok = gone ++ w :: rest) :
    ∀ v ∈ gone ++ [w], v ∈ l := by
  intro v hv
  refine (List.mem_filter.mp (?_ : v ∈ l.filter ok)).1
  rw [split, ← List.singleton_append, ← List.append_assoc]
  exact List.mem_append_left _ hv

theorem nodup_of_split {l : List WaitEntry} {ok : WaitEntry → Bool} (distinct : (idsOf l).Nodup)
    (split : l.filter ok = gone ++ w :: rest) : (gone ++ [w]).Nodup := by
  have once : (gone ++ w :: rest).Nodup := split ▸ (List.Nodup.of_map _ distinct).filter ok
  rw [← List.singleton_append, ← List.append_assoc] at once
  exact (List.nodup_append.mp once).1

/-- A search among the entries of a sort (R137). -/
theorem grantFrom_passes (h : s.setsChannel n b u) (distinct : (idsOf b.waits).Nodup) (ok : WaitEntry → Bool) :
    Passes x idle n (b.waits.filter ok) b s u (grantFrom n ok b.waits.length u).2 := by
  have waits : (u.channel n).waits = b.waits := by rw [h.here]
  have may (v : WaitEntry) : u.mayGrant v = s.mayGrant v := h.frame.mayGrant v
  have enough : ((u.channel n).waits.filter ok).length ≤ b.waits.length := by rw [waits]; exact List.length_filter_le _ _
  refine ⟨fun refused => ?_, fun gone w rest split refused granted => ?_⟩
  · rw [grantFrom_none (by rw [waits]; exact distinct) enough fun v hv => (may v).trans (refused v (waits ▸ hv)), waits]
    exact passes_turnAll h distinct ((List.Nodup.of_map _ distinct).filter ok) fun v hv => (List.mem_filter.mp hv).1
  · rw [grantFrom_some (by rw [waits]; exact distinct) enough (by rw [waits]; exact split)
      (fun v hv => (may v).trans (refused v hv)) ((may w).trans granted)]
    exact granted_after h distinct (nodup_of_split distinct split) (mem_of_split split)

/-- Whether a search grants. -/
theorem grantFrom_search (h : s.setsChannel n b u) (distinct : (idsOf b.waits).Nodup) (ok : WaitEntry → Bool) :
    ((∀ v ∈ b.waits.filter ok, s.mayGrant v = false) →
        grantFrom n ok b.waits.length u = (false, turnAll n (b.waits.filter ok) u))
      ∧ ∀ gone w rest, b.waits.filter ok = gone ++ w :: rest → (∀ v ∈ gone, s.mayGrant v = false) →
        s.mayGrant w = true → (grantFrom n ok b.waits.length u).1 = true := by
  have waits : (u.channel n).waits = b.waits := by rw [h.here]
  have may (v : WaitEntry) : u.mayGrant v = s.mayGrant v := h.frame.mayGrant v
  have enough : ((u.channel n).waits.filter ok).length ≤ b.waits.length := by rw [waits]; exact List.length_filter_le _ _
  refine ⟨fun refused => ?_, fun gone w rest split refused granted => ?_⟩
  · rw [grantFrom_none (by rw [waits]; exact distinct) enough fun v hv => (may v).trans (refused v (waits ▸ hv)), waits]
  · rw [grantFrom_some (by rw [waits]; exact distinct) enough (by rw [waits]; exact split)
      (fun v hv => (may v).trans (refused v hv)) ((may w).trans granted)]

/-- A change of the channel's own phase before it. -/
theorem Passes.after {v : State} (phased : Says x idle 0 0 [] [] v u) (units : u.units = v.units)
    (h : Passes x idle n order left s u t) : Passes x idle n order left s v t := by
  refine ⟨fun refused => ?_, fun gone w rest split refused may => ?_⟩
  · obtain ⟨sets, sent, same⟩ := h.none refused
    exact ⟨sets, (phased.trans sent).mono (by omega) (by omega) fun f hf => hf, same.trans units⟩
  · obtain ⟨sets, sent, same⟩ := h.some gone w rest split refused may
    refine ⟨sets, (phased.trans sent).mono (by omega) (by omega) fun f hf => hf, ?_⟩
    simp only [setTalking, modUnit, units] at same
    exact same

theorem filter_all (l : List WaitEntry) : (l.filter fun _ => true) = l := List.filter_eq_self.mpr fun _ _ => rfl

/-- A channel that enters IDLE (R137). -/
theorem passes_enterIdle (h : s.setsChannel n b u) (distinct : (idsOf b.waits).Nodup) :
    Passes x idle n b.waits { b with phase := .idle } s u (enterIdle n u) := by
  have phased : s.setsChannel n { b with phase := .idle } (setPhase n .idle u) := h.mod fun y => { y with phase := .idle }
  have search := grantFrom_passes (x := x) (idle := idle) phased distinct fun _ => true
  simp only [filter_all] at search
  have same : enterIdle n u = (grantFrom n (fun _ => true) b.waits.length (setPhase n .idle u)).2 := by
    unfold enterIdle
    simp only [phased.here]
  rw [same]
  exact search.after (.mod _ _) rfl

theorem filter_without_filter (l : List WaitEntry) (ok : WaitEntry → Bool) :
    (l.filter fun v => !(l.filter ok).contains v) = l.filter fun v => !ok v := by
  refine List.filter_congr fun v hv => congrArg _ ?_
  rw [Bool.eq_iff_iff, List.contains_iff_mem, List.mem_filter]
  exact and_iff_right hv

/-- The entries of one sort are all turned away, and then the channel passes on to others (R137). -/
theorem Passes.further {same : List WaitEntry} {v : State} (turned : Says x idle same.length same.length (refusals n same)
      (List.replicate same.length .callsNotCarried) v u)
    (units : u.units = v.units) (refused : ∀ v ∈ same, s.mayGrant v = false)
    (h : Passes x idle n order (left.but same) s u t) : Passes x idle n (same ++ order) left s v t := by
  refine ⟨fun all => ?_, fun gone w rest split before may => ?_⟩
  · obtain ⟨sets, sent, kept⟩ := h.none fun v hv => all v (List.mem_append_right _ hv)
    rw [but_but] at sets
    refine ⟨sets, ?_, kept.trans units⟩
    have both := turned.trans sent
    rw [List.replicate_append_replicate] at both
    rw [List.length_append, refusals, List.flatMap_append]
    exact both
  · obtain ⟨gone', rfl, split'⟩ : ∃ gone', gone = same ++ gone' ∧ order = gone' ++ w :: rest := by
      rcases List.append_eq_append_iff.mp split with ⟨gone', rfl, split'⟩ | ⟨late, rfl, split'⟩
      · exact ⟨gone', rfl, split'⟩
      · cases late with
        | nil => exact ⟨[], (List.append_nil _).symm ▸ by simp, by simpa using split'.symm⟩
        | cons v late =>
          obtain ⟨rfl, -⟩ := List.cons.inj split'
          have no := refused w (by simp)
          rw [may] at no
          cases no
    obtain ⟨sets, sent, kept⟩ := h.some gone' w rest split' (fun v hv => before v (List.mem_append_right _ hv)) may
    refine ⟨?_, ?_, ?_⟩
    · rw [but_but, ← List.append_assoc] at sets
      exact sets
    · have both := turned.trans sent
      rw [List.replicate_append_replicate, ← List.append_assoc] at both
      rw [List.length_append, refusals, List.flatMap_append]
      exact both.mono (by omega) (by omega) fun f hf => hf
    · simp only [setTalking, modUnit, units] at kept
      exact kept

/-! ## The end of a call (R136, R137) -/

/-- The record of a channel whose call has ended, before its waiting entries are tried. -/
def Channel.hanging (b : Channel) (s : State) (call : Call) : Channel :=
  { b with
    phase := .hang call.talkgroup call.emergency (s.timeBase.toNat + hangTimeOf call.talkgroup s)
    lastEnded := some call.id }

/-- The record of a channel whose call has ended, with nobody waiting (R137). -/
def Channel.vacated (b : Channel) (s : State) (call : Call) : Channel :=
  { b with
    phase :=
      if hangTimeOf call.talkgroup s = 0 then .idle
      else .hang call.talkgroup call.emergency (s.timeBase.toNat + hangTimeOf call.talkgroup s)
    lastEnded := some call.id }

/-- The entries that an ended call's channel passes on to, in their order (R137; log entry 40). -/
def Channel.heirs (b : Channel) (s : State) (call : Call) : List WaitEntry :=
  let same := b.waits.filter fun w => w.call.talkgroup == call.talkgroup
  let others := b.waits.filter fun w => w.call.talkgroup != call.talkgroup
  if hangTimeOf call.talkgroup s = 0 then same ++ others else same

/-- The state in which an ended call's channel is in its hang. -/
def hangState (n : ChannelNo) (call : Call) (t : State) : State :=
  modChannel n
    (fun x =>
      { x with
        phase := .hang call.talkgroup call.emergency (t.after (hangTimeOf call.talkgroup t))
        lastEnded := some call.id }) t

theorem State.setsChannel.hangState (h : s.setsChannel n b t) (call : Call) :
    s.setsChannel n (b.hanging s call) (Machine.hangState n call t) := by
  have time : t.after (hangTimeOf call.talkgroup t) = s.timeBase.toNat + hangTimeOf call.talkgroup s := by
    unfold State.after
    rw [h.frame.hangTimeOf, h.frame.reads.1]
  have hang := h.mod fun x =>
    { x with
      phase := .hang call.talkgroup call.emergency (t.after (hangTimeOf call.talkgroup t))
      lastEnded := some call.id }
  rw [time] at hang
  unfold Machine.hangState
  rw [time]
  exact hang

theorem enterHang_eq (h : s.setsChannel n b t) (call : Call) :
    enterHang n call t
      = (let search :=
          grantFrom n (fun w => w.call.talkgroup == call.talkgroup) (b.hanging s call).waits.length (hangState n call t)
        if search.1 then search.2 else if hangTimeOf call.talkgroup s = 0 then enterIdle n search.2 else search.2) := by
  have here := (h.hangState call).here
  unfold enterHang
  rw [← h.frame.hangTimeOf call.talkgroup]
  simp only
  rw [← here]
  rfl

/-- A hang in which nobody of its talkgroup could be granted passes to IDLE and on to the others (R137; log entry 40). -/
theorem passes_enterHang_idle (h : s.setsChannel n b t) (distinct : (idsOf b.waits).Nodup)
    (refused : ∀ v ∈ b.waits.filter fun w => w.call.talkgroup == call.talkgroup, s.mayGrant v = false)
    (zero : hangTimeOf call.talkgroup s = 0) :
    Passes x idle n (b.heirs s call) (b.vacated s call) s t (enterHang n call t) := by
  have hang := h.hangState call
  obtain ⟨nobody, -⟩ := grantFrom_search hang distinct fun w => w.call.talkgroup == call.talkgroup
  have turned := passes_turnAll (x := x) (idle := idle) hang distinct
    ((List.Nodup.of_map _ distinct).filter fun w => w.call.talkgroup == call.talkgroup) fun v hv => (List.mem_filter.mp hv).1
  obtain ⟨sets, sent, units⟩ := turned
  have further := passes_enterIdle (x := x) (idle := idle) sets (idsOf_but distinct)
  have result : enterHang n call t
      = enterIdle n (turnAll n (b.waits.filter fun w => w.call.talkgroup == call.talkgroup) (hangState n call t)) := by
    rw [enterHang_eq h call, nobody refused, zero]
    rfl
  have order : b.heirs s call = (b.waits.filter fun w => w.call.talkgroup == call.talkgroup)
      ++ ((b.hanging s call).but (b.waits.filter fun w => w.call.talkgroup == call.talkgroup)).waits := by
    unfold Channel.heirs
    rw [if_pos zero]
    exact congrArg _ (filter_without_filter b.waits _).symm
  have vacant : b.vacated s call = { b.hanging s call with phase := .idle } := by
    unfold Channel.vacated
    rw [if_pos zero]
    rfl
  rw [result, order, vacant]
  exact (further.further sent units refused).after (.mod _ _) rfl

/-- A call has ended, and its channel has passed on to the calls that wait on it (R136, R137). -/
theorem passes_enterHang (h : s.setsChannel n b t) (distinct : (idsOf b.waits).Nodup) (call : Call) :
    Passes x idle n (b.heirs s call) (b.vacated s call) s t (enterHang n call t) := by
  have hang := h.hangState call
  have search : Passes x idle n _ (b.hanging s call) s t _ :=
    (grantFrom_passes hang distinct fun w => w.call.talkgroup == call.talkgroup).after (.mod _ t) rfl
  by_cases zero : hangTimeOf call.talkgroup s = 0
  · have order : b.heirs s call = (b.waits.filter fun w => w.call.talkgroup == call.talkgroup)
        ++ b.waits.filter fun w => w.call.talkgroup != call.talkgroup := if_pos zero
    refine ⟨fun refused => ?_, fun gone w rest split refused may => ?_⟩
    · refine (passes_enterHang_idle h distinct (fun v hv => ?_) zero).none refused
      exact refused v (order ▸ List.mem_append_left _ hv)
    · by_cases none : ∀ v ∈ b.waits.filter fun w => w.call.talkgroup == call.talkgroup, s.mayGrant v = false
      · exact (passes_enterHang_idle h distinct none zero).some gone w rest split refused may
      · obtain ⟨late, first⟩ : ∃ late, (b.waits.filter fun w => w.call.talkgroup == call.talkgroup) = gone ++ w :: late := by
          rw [order] at split
          rcases List.append_eq_append_iff.mp split with ⟨gone', rfl, -⟩ | ⟨late, same, ahead⟩
          · exact absurd (fun v hv => refused v (List.mem_append_left _ hv)) none
          · cases late with
            | nil =>
              rw [List.append_nil] at same
              exact absurd (fun v hv => refused v (same ▸ hv)) none
            | cons v late =>
              obtain ⟨rfl, -⟩ := List.cons.inj ahead
              exact ⟨late, same⟩
        have found := (grantFrom_search hang distinct fun w => w.call.talkgroup == call.talkgroup).2 gone w late first
          refused may
        rw [enterHang_eq h call]
        simp only [found, if_true]
        exact search.some gone w late first refused may
  · have order : b.heirs s call = b.waits.filter fun w => w.call.talkgroup == call.talkgroup := if_neg zero
    have vacant : b.vacated s call = b.hanging s call := by
      unfold Channel.vacated
      rw [if_neg zero]
      rfl
    have result : enterHang n call t
        = (grantFrom n (fun w => w.call.talkgroup == call.talkgroup) (b.hanging s call).waits.length
            (hangState n call t)).2 := by
      rw [enterHang_eq h call]
      simp only [zero, if_false, ite_self]
    rw [result, order, vacant]
    exact search

end Sys2Proof.Machine
end

section
/-! PROOFS. What the statements ask of an event after which a channel goes on to other calls (R136, R137), and the timers
of a channel (R137 to R140). -/

namespace Sys2Proof.Machine

variable {x : Handle} {idle : Bool} {n : ChannelNo} {s m u t t' : State} {call : Call} {w : WaitEntry} {b left : Channel}
  {order : List WaitEntry}

/-- An offer that stands whole with the engine idle (R39). -/
theorem offeredBuilt_of_stands {hdr : Header} {set : SiteSet} (free : s.io.engine = Engine.idle → idle = true)
    (h : ∀ f ∈ offerClaims s.net idle hdr set, Stands s.io.pool.free f.entries (frameBytes f.header f.payload) t.io) :
    s.offeredBuilt hdr set t := by
  intro reaches
  have claim : offerClaims s.net idle hdr set = [Claim.offer s.net idle hdr set] := if_pos reaches
  obtain ⟨k, hk, entries, bytes⟩ := h (Claim.offer s.net idle hdr set) (by rw [claim]; exact List.mem_singleton.mpr rfl)
  refine ⟨k, hk, bytes, fun on l routes => ?_⟩
  refine entries (linkPort l, _) ?_
  simp only [Claim.offer, free on, if_true]
  exact List.mem_map.mpr ⟨l, List.mem_filter.mpr ⟨mem_linkOrder l, bne_iff_ne.mpr routes⟩, rfl⟩

theorem iterate_saturate (k v : Nat) (cap : v ≤ 65535) : (fun n => saturate (n + 1))^[k] v = min 65535 (v + k) := by
  induction k generalizing v with
  | zero => exact (min_eq_right cap).symm
  | succ k ih =>
    rw [Function.iterate_succ_apply, ih (saturate (v + 1)) (min_le_right _ _)]
    simp only [saturate, Config.counterMax]
    omega

theorem notCarried_of_raises {raised : List DevCounter} (h : Raises raised s t) :
    s.notCarried (raised.count .callsNotCarried) t := by
  intro law
  rw [h.counts law.1.1 .callsNotCarried (by decide)]
  exact iterate_saturate _ _ (counter_cap law _)

/-- How an event surrounds the calls that a channel goes on to: `s` is the state before it, `m` the one in which the
channel becomes free, `u` and `t` those before and after it goes on, and `t'` the one after it. -/
structure Around (x : Handle) (idle : Bool) (n : ChannelNo) (s m u t t' : State) : Prop where
  free : s.io.engine = Engine.idle → idle = true
  may : ∀ w, m.mayGrant w = s.mayGrant w
  phase : ∀ call, m.grantedPhase call = s.grantedPhase call
  grants : ∀ call, grantClaims n idle call m = grantClaims n idle call s
  channel : t'.channel n = t.channel n
  counted : ∀ k, Raises (List.replicate k .callsNotCarried) u t → s.notCarried k t'
  stands : ∀ k claims raised, Says x idle k k claims raised u t → k ≤ 10 → s.roomFor 16 16 →
    ∀ f ∈ claims, Stands s.io.pool.free f.entries (frameBytes f.header f.payload) t'.io
  records : ∀ v r, s.record v = some r → ∃ r', u.record v = some r'
  talking : ∀ v r, t.record v = some r → ∃ r', t'.record v = some r' ∧ r'.talking = r.talking

theorem mem_refusals {gone : List WaitEntry} (mem : w ∈ gone) (here : w.call.isLocal = true) :
    Claim.onChannel n (w.call.answer .callRefuse 4) [] ∈ refusals n gone := by
  refine List.mem_flatMap.mpr ⟨w, mem, ?_⟩
  rw [refusal, if_pos here]
  exact List.mem_singleton.mpr rfl

/-- The calls that a channel goes on to, as the statements have them (R137). -/
theorem Around.passesOn (around : Around x idle n s m u t t') (few : order.length ≤ 8)
    (h : Passes x idle n order left m u t) : s.passesOn n order left t' := by
  refine ⟨fun refused => ?_, fun gone w rest split refused may => ?_⟩
  · obtain ⟨sets, sent, -⟩ := h.none fun v hv => (around.may v).trans (refused v hv)
    refine ⟨around.channel.trans sets.here, around.counted _ sent.raises, fun room v hv here => ?_⟩
    exact queuedOn_of_stands (around.stands _ _ _ sent (by omega) room _ (mem_refusals hv here))
  · have fewer : gone.length + 1 ≤ 8 := by
      rw [split, List.length_append, List.length_cons] at few
      omega
    obtain ⟨sets, sent, units⟩ := h.some gone w rest split (fun v hv => (around.may v).trans (refused v hv))
      ((around.may w).trans may)
    rw [around.phase] at sets
    rw [around.grants] at sent
    have stands (room : s.roomFor 16 16) := around.stands _ _ _ sent (by omega) room
    refine ⟨around.channel.trans sets.here, ⟨around.counted _ sent.raises, fun room v hv here => ?_⟩, fun here => ⟨fun r hr => ?_,
      fun room => ⟨?_, ?_⟩⟩, fun away room => ?_⟩
    · exact queuedOn_of_stands (stands room _ (List.mem_append_left _ (mem_refusals hv here)))
    · obtain ⟨r', hr'⟩ := around.records _ r hr
      rw [if_pos here] at units
      have talks : t.record w.call.talker = some { r' with talking := true } :=
        (record_of_units units).trans (modUnit_record_self hr' fun _ => rfl)
      obtain ⟨r'', hr'', same⟩ := around.talking _ _ talks
      exact ⟨r'', hr'', same⟩
    · refine queuedOn_of_stands (stands room _ (List.mem_append_right _ ?_))
      rw [grantClaims, if_pos here]
      exact List.mem_cons_self
    · refine offeredBuilt_of_stands around.free fun f hf => stands room _ (List.mem_append_right _ ?_)
      rw [grantClaims, if_pos here]
      exact List.mem_cons_of_mem _ hf
    · refine queuedOn_of_stands (stands room _ (List.mem_append_right _ ?_))
      rw [grantClaims, if_neg (by simp [away])]
      exact List.mem_singleton.mpr rfl

end Sys2Proof.Machine
end

section
/-! PROOFS. Offers and the frames beside them (R39): a channel port takes no entry of an offer, and another frame's buffer
stays. -/

namespace Sys2Proof.Machine

variable {c : Net} {io : Io} {h k : Handle} {p : PortNo} {n : ChannelNo} {set : SiteSet}

/-! ## Offers at a port that no route leads to -/

theorem awayFrom_chanPort (c : Net) (n : ChannelNo) : c.awayFrom (chanPort n) := fun _ j _ => linkPort_ne_chanPort j n

namespace KeepsPort

section

variable (away : c.awayFrom p)
include away

theorem placeEntry {q : PortNo} (apart : p ≠ q) (e : Entry) : KeepsPort p (Machine.placeEntry c q e) :=
  placeEntryWith (fun h => dropReference away h) apart e

end

/-- A port that is no link's. -/
theorem placeGroup (off : ∀ l, linkPort l ≠ p) (c : Net) (f : Fanout) : KeepsPort p fun io => (Machine.placeGroup c f io).2 := by
  intro io
  show (Machine.placeGroup c f io).2.ports[p.val] = _
  unfold Machine.placeGroup
  cases f.next? with
  | none => rfl
  | some l => exact placeEntry (fun _ j _ => off j) (off l).symm _ io

theorem placeGroups (off : ∀ l, linkPort l ≠ p) (c : Net) (k : Nat) (f : Fanout) :
    KeepsPort p fun io => (Machine.placeGroups c k f io).2 := by
  induction k generalizing f with
  | zero => exact fun _ => rfl
  | succ k ih => exact fun io => (ih _ _).trans (placeGroup off c f io)

theorem takeUp (off : ∀ l, linkPort l ≠ p) (c : Net) (f : Fanout) : KeepsPort p (Machine.takeUp c f) := by
  intro io
  unfold Machine.takeUp
  split
  · rfl
  · generalize (if io.engine.work.isEmpty = true then _ else _) = k
    have placed := placeGroups off c k f { io with engine := { io.engine with atOnce := io.engine.atOnce.tail } }
    simp only at placed ⊢
    split <;> exact placed

theorem fanOutSet (off : ∀ l, linkPort l ≠ p) (c : Net) (h : Handle) (cls : FrameClass) (hop : Option Nat)
    (lostAt : Option PortNo) (set : SiteSet) : KeepsPort p (Machine.fanOutSet c h cls hop lostAt set) := by
  intro io
  unfold Machine.fanOutSet
  split
  · refine foldl (f := Machine.placeSubset c h cls (hop.getD c.active.hopLimit) set) (fun l io => ?_) _ io
    unfold Machine.placeSubset
    simp only
    split
    · rfl
    · exact placeEntry (fun _ j _ => off j) (off l).symm _ io
  · exact takeUp off c _ io

theorem offerTargets (off : ∀ l, linkPort l ≠ p) (c : Net) (lostAt : Option PortNo) (h : Handle) (cls : FrameClass)
    (set : SiteSet) : KeepsPort p (Machine.offerTargets c lostAt h cls set) := fun _ =>
  (fanOutSet off c h cls none lostAt _ _).trans (countLost lostAt _ _)

theorem offerBuilt (off : ∀ l, linkPort l ≠ p) (c : Net) (hdr : Header) (set : SiteSet) :
    KeepsPort p (Machine.offerBuilt c hdr set) :=
  sendBuilt (fun _ j _ => off j) (fun h => offerTargets off c none h hdr.frameClass set) _ _ _

end KeepsPort

/-! ## The frames beside an offer -/

/-- A frame that is built leaves the buffer of another, with no notice pending. -/
theorem sendBuilt_other {place : Handle → Io → Io} {hdr : Header} {payload : List Byte} {done : Option Completion}
    (used : k ∉ io.pool.free)
    (placed : ∀ h (io' : Io), h ≠ k → io'.ports = io.ports → io'.pool.noticePending = io.pool.noticePending →
      bufferOf k (place h io') = bufferOf k io' ∧ (place h io').pool.noticePending = io'.pool.noticePending)
    (quiet : io.pool.noticePending = false) :
    bufferOf k (sendBuilt c hdr payload done place io) = bufferOf k io := by
  have refused {io' : Io} (asked : allocate c.active.bufferReserve hdr.frameClass io = (.empty, io')
      ∨ allocate c.active.bufferReserve hdr.frameClass io = (.reserve, io')) :
      sendBuilt c hdr payload done place io = countDev .internalDrops io' := by
    rcases asked with asked | asked
    all_goals simp only [sendBuilt, buildFrame, asked]
  cases hf : io.pool.free with
  | nil => exact (congrArg (bufferOf k) (refused (.inl (allocate_empty _ _ hf)))).trans rfl
  | cons h rest =>
    by_cases granted : hdr.frameClass = .priority ∨ c.active.bufferReserve < io.pool.free.length
    · have apart : h ≠ k := fun same => used (by rw [hf, same]; exact List.mem_cons_self)
      rw [sendBuilt_granted payload done place hf granted]
      have built := builtIn_buffer (io := io) (k := h) c.active.bufferReserve rest (frameBytes hdr payload) done k
      rw [if_neg apart.symm] at built
      obtain ⟨same, still⟩ := placed h (builtIn c.active.bufferReserve h rest (frameBytes hdr payload) done io) apart rfl rfl
      rw [dropReference_other c (still.trans quiet) apart.symm, same, built]
    · obtain ⟨priority, low⟩ := not_or.mp granted
      have routine : hdr.frameClass = .routine := by
        cases hc : hdr.frameClass with
        | routine => rfl
        | priority => exact absurd hc priority
      have asked := allocate_reserve (io := io) hf (Nat.not_lt.mp low)
      rw [← routine] at asked
      exact (congrArg (bufferOf k) (refused (.inr asked))).trans rfl

theorem offerBuilt_other (used : k ∉ io.pool.free) (wait : io.linksWait) (quiet : io.pool.noticePending = false)
    (hdr : Header) (set : SiteSet) : bufferOf k (offerBuilt c hdr set io) = bufferOf k io :=
  sendBuilt_other used
    (fun h io' apart ports _ =>
      have placed := placed_offerTargets (c := c) none h hdr.frameClass set
        (show io'.linksWait from fun l => by rw [ports]; exact wait l)
      ⟨placed.others k apart.symm, placed.quiet⟩)
    quiet

end Sys2Proof.Machine
end

section
/-! PROOFS. The timers of a channel (R137 to R140): the wait timer removes an entry, the voice-gap and the talk timer end
the call, and the hang timer frees the channel. -/

namespace Sys2Proof.Machine

variable {x : Handle} {idle : Bool} {n : ChannelNo} {s m u t t' : State} {call : Call} {w : WaitEntry} {b left : Channel}
  {order : List WaitEntry}

/-! ## Whatever a channel goes on to -/

/-- A channel goes on to some entry or to none: it sends at most a refusal for each and a grant. -/
theorem Passes.sent (h : Passes x idle n order left s u t) :
    ∃ k j claims b, k ≤ order.length + 2 ∧ s.setsChannel n b t
      ∧ Says x idle k k claims (List.replicate j .callsNotCarried) u t := by
  cases found : order.find? fun w => s.mayGrant w with
  | none =>
    obtain ⟨sets, sent, -⟩ := h.none fun v hv => by simpa using List.find?_eq_none.mp found v hv
    exact ⟨_, _, _, _, Nat.le_add_right _ _, sets, sent⟩
  | some w =>
    obtain ⟨may, gone, rest, split, refused⟩ := List.find?_eq_some_iff_append.mp found
    obtain ⟨sets, sent, -⟩ := h.some gone w rest split (fun v hv => by simpa using refused v hv) may
    refine ⟨_, _, _, _, ?_, sets, sent⟩
    rw [split, List.length_append, List.length_cons]
    omega

theorem heirs_length (b : Channel) (s : State) (call : Call) : (b.heirs s call).length ≤ b.waits.length := by
  have whole := (List.filter_append_perm (fun w : WaitEntry => w.call.talkgroup == call.talkgroup) b.waits).length_eq
  unfold Channel.heirs
  simp only
  split
  · exact whole.le
  · exact List.length_filter_le _ _

theorem heirs_alone (h : b.waits = []) (s : State) (call : Call) : b.heirs s call = [] := by
  unfold Channel.heirs
  rw [h]
  split <;> rfl

/-- The record of a channel whose call has ended with nobody waiting (R137). -/
def Call.ended (call : Call) (s : State) : Channel where
  phase :=
    if hangTimeOf call.talkgroup s = 0 then .idle
    else .hang call.talkgroup call.emergency (s.timeBase.toNat + hangTimeOf call.talkgroup s)
  waits := []
  lastEnded := some call.id

theorem vacated_alone (h : b.waits = []) (s : State) (call : Call) : b.vacated s call = call.ended s := by
  unfold Channel.vacated Call.ended
  rw [h]

/-- With nobody waiting the end of a call moves no frame. -/
theorem enterHang_alone (h : s.setsChannel n b t) (alone : b.waits = []) (call : Call) : (enterHang n call t).io = t.io := by
  have hang := h.hangState call
  have nobody : grantFrom n (fun w => w.call.talkgroup == call.talkgroup) (b.hanging s call).waits.length
      (hangState n call t) = (false, hangState n call t) :=
    grantFrom_nobody _ (by rw [hang.here, Channel.hanging, alone]; rfl)
  have phased := hang.mod fun y => { y with phase := .idle }
  have idle : enterIdle n (hangState n call t) = setPhase n .idle (hangState n call t) := by
    unfold enterIdle
    exact congrArg Prod.snd (grantFrom_nobody _ (by
      show List.filter _ ((modChannel n (fun y => { y with phase := .idle }) (hangState n call t)).channel n).waits = []
      rw [phased.here, Channel.hanging, alone]
      rfl))
  rw [enterHang_eq h call, nobody]
  simp only [Bool.false_eq_true, if_false, idle]
  split <;> rfl

/-- The records that an event of a channel leaves, and the next unit of its frame. -/
theorem timer_frame (sets : s.setsChannel n b t) (counter : t.callCounter = s.callCounter) (acts : Acts s t) :
    t = { s with io := t.io, units := t.units, channels := t.channels } ∧ s.sameIntake t
      ∧ ∀ k, k ≠ n → t.channel k = s.channel k := by
  have same : t = { s with io := t.io, units := t.units, channels := t.channels, callCounter := t.callCounter } :=
    sets.frame.1
  refine ⟨?_, sameIntake_of_acts acts, fun k hk => sets.other hk⟩
  rw [counter] at same
  exact same

/-! ## An event without a received frame -/

/-- The engine is idle. -/
def State.placesAll (s : State) : Bool := decide (s.io.engine = Engine.idle)

theorem placesAll_iff : s.placesAll = true ↔ s.io.engine = Engine.idle := decide_eq_true_iff

/-- What an event sends before its channel goes on stands in the end, and the channel goes on as the statements have it. -/
theorem around_event {a : Nat} {claims : List Claim} {raised raised' : List DevCounter}
    (before : Says 0 s.placesAll a a claims raised s u) (after : Says 0 s.placesAll 0 0 [] raised' t t') (few : a ≤ 6)
    (never : raised.count .callsNotCarried = 0) (never' : raised'.count .callsNotCarried = 0)
    (channel : t'.channel n = t.channel n)
    (talking : ∀ v r, t.record v = some r → ∃ r', t'.record v = some r' ∧ r'.talking = r.talking) :
    Around 0 s.placesAll n s s u t t' := by
  refine ⟨placesAll_iff.mpr, fun _ => rfl, fun _ => rfl, fun _ => rfl, channel, fun k passed => ?_,
    fun k claims' raised₂ sent many room f hf => ?_, fun v r hr => ?_, talking⟩
  · have all := notCarried_of_raises ((before.raises.trans passed).trans after.raises)
    rw [List.count_append, List.count_append, never, never', List.count_replicate_self, Nat.zero_add, Nat.add_zero] at all
    exact all
  · refine (((before.trans sent).trans after).issues placesAll_iff.mp).standsAlone ?_ room (by omega) (by omega)
    exact List.mem_append_left _ (List.mem_append_right _ hf)
  · have same := before.frame.unflagged v
    rw [hr] at same
    cases hu : u.record v with
    | none => rw [hu] at same; cases same
    | some r' => exact ⟨r', rfl⟩

theorem stands_before {a k : Nat} {claims claims' : List Claim} {raised raised' raised₂ : List DevCounter}
    (before : Says 0 s.placesAll a a claims raised s u) (sent : Says 0 s.placesAll k k claims' raised₂ u t)
    (after : Says 0 s.placesAll 0 0 [] raised' t t') (few : a + k ≤ 16) (room : s.roomFor 16 16) :
    ∀ f ∈ claims, Stands s.io.pool.free f.entries (frameBytes f.header f.payload) t'.io := fun f hf =>
  (((before.trans sent).trans after).issues placesAll_iff.mp).standsAlone
    (List.mem_append_left _ (List.mem_append_left _ hf)) room (by omega) (by omega)

/-! ## Calls that a timer ends (R138, R139) -/

/-- A call is ended by its voice-gap timer toward those who hear it (R138, R141). -/
def gapCut (n : ChannelNo) (call : Call) (s : State) : State :=
  if call.isLocal then offerCall .callEnd call (setTalking call.talker false s) else deliverCall .callEnd n call s

def gapClaims (n : ChannelNo) (call : Call) (s : State) : List Claim :=
  if call.isLocal then offerClaims s.net s.placesAll (call.frame .callEnd) (remoteSet call.talkgroup s)
  else [Claim.onChannel n (call.frame .callEnd) []]

theorem Says.gapCut (n : ChannelNo) (call : Call) (s : State) :
    Says 0 s.placesAll 1 1 (gapClaims n call s) [] s (Machine.gapCut n call s) := by
  unfold Machine.gapCut gapClaims
  cases call.isLocal with
  | false => exact .deliverCall .callEnd n call s
  | true => exact (Says.setTalking call.talker false s).trans (.offerCall .callEnd call _)

theorem setsChannel_gapCut (n : ChannelNo) (call : Call) (s : State) :
    s.setsChannel n (s.channel n) (gapCut n call s) := by
  unfold gapCut
  split
  · exact (State.setsChannel.refl.setTalking _ _).offerCall _ _
  · exact State.setsChannel.refl.deliverCall _ _ _

/-- A local talker is dekeyed, and its call ended toward the other sites (R139). -/
def talkCut (n : ChannelNo) (call : Call) (s : State) : State :=
  offerCall .callEnd call (setTalking call.talker false (sendDekey n call 1#8 s))

theorem Says.talkCut (n : ChannelNo) (call : Call) (s : State) :
    Says 0 s.placesAll 2 2
      (Claim.onChannel n (call.dekey 1) []
        :: offerClaims s.net s.placesAll (call.frame .callEnd) (remoteSet call.talkgroup s))
      [] s (Machine.talkCut n call s) :=
  ((Says.sendAnswer n (call.dekey 1) s).trans (.setTalking call.talker false _)).trans (.offerCall .callEnd call _)

theorem setsChannel_talkCut (n : ChannelNo) (call : Call) (s : State) :
    s.setsChannel n (s.channel n) (talkCut n call s) :=
  ((State.setsChannel.refl.sendAnswer _ _).setTalking _ _).offerCall _ _

/-- The talker whose call was cut off (R139). -/
def cutOff (call : Call) (s : State) : State := (setLimited call.talker true s).count .talkLimitCutoffs

theorem Says.cutOff (call : Call) (s : State) :
    Says x idle 0 0 [] [.talkLimitCutoffs] s (Machine.cutOff call s) :=
  (Says.setLimited call.talker true s).trans (.count .talkLimitCutoffs _)

theorem voiceGapEnds_of {talk : Timer} {gap : Nat} (hp : (s.channel n).phase = .active call talk gap)
    (due : gap ≤ s.timeBase.toNat) : voiceGapEnds n s = enterHang n call (gapCut n call s) := by
  simp only [voiceGapEnds, hp, State.elapsed, due, decide_true, if_true]
  rfl

theorem talkTimerEnds_of {d gap : Nat} (hp : (s.channel n).phase = .active call (some d) gap)
    (due : d ≤ s.timeBase.toNat) : talkTimerEnds n s = cutOff call (enterHang n call (talkCut n call s)) := by
  simp only [talkTimerEnds, hp, State.due, State.elapsed, due, decide_true, if_true]
  rfl

theorem hangTimerEnds_of {g : TalkgroupId} {e : Bool} {d : Nat} (hp : (s.channel n).phase = .hang g e d)
    (due : d ≤ s.timeBase.toNat) : hangTimerEnds n s = enterIdle n s := by
  simp only [hangTimerEnds, hp, State.elapsed, due, decide_true, if_true]

theorem cutOff_record {v : UnitId} {r : Record} (hr : t.record v = some r) :
    ∃ r', (cutOff call t).record v = some r' ∧ r'.talking = r.talking ∧ (v = call.talker → r'.talkLimited = true) := by
  by_cases hv : v = call.talker
  · subst hv
    exact ⟨_, modUnit_record_self hr fun _ => rfl, rfl, fun _ => rfl⟩
  · exact ⟨r, (modUnit_record_other (f := fun r => { r with talkLimited := true }) hv fun _ => rfl).trans hr, rfl, fun same => absurd same hv⟩

/-! ## The end of a call -/

/-- A lawful channel whose call a timer has ended (R136 to R139). -/
theorem endsCall_of {a : Nat} {claims : List Claim} {raised : List DevCounter} (law : (s.channel n).lawful)
    (cut : s.setsChannel n (s.channel n) m) (before : Says 0 s.placesAll a a claims [] s m)
    (after : Says 0 s.placesAll 0 0 [] raised (enterHang n call m) t') (few : a ≤ 6)
    (never : raised.count .callsNotCarried = 0) (channel : t'.channel n = (enterHang n call m).channel n)
    (talking : ∀ v r, (enterHang n call m).record v = some r → ∃ r', t'.record v = some r' ∧ r'.talking = r.talking) :
    s.endsCall n call t'
      ∧ (s.roomFor 16 16 → ∀ f ∈ claims, Stands s.io.pool.free f.entries (frameBytes f.header f.payload) t'.io) := by
  obtain ⟨length, -, distinct⟩ := law.waits
  have passes := passes_enterHang (x := 0) (idle := s.placesAll) cut distinct call
  have heirs : ((s.channel n).heirs s call).length ≤ 8 := (heirs_length _ s call).trans length
  obtain ⟨k, j, claims', b, enough, -, sent⟩ := passes.sent
  exact ⟨(around_event before after few rfl never channel talking).passesOn heirs passes,
    stands_before before sent after (by omega)⟩

/-- The state in which a timer has ended a call, whatever the channel goes on to. -/
theorem frame_of_ended {a : Nat} {claims : List Claim} (distinct : (idsOf (s.channel n).waits).Nodup) (cut : s.setsChannel n (s.channel n) m)
    (before : Says 0 s.placesAll a a claims [] s m) :
    ∃ b j k claims', s.setsChannel n b (enterHang n call m)
      ∧ Says 0 s.placesAll (a + k) (a + k) (claims ++ claims') (List.replicate j .callsNotCarried) s (enterHang n call m) := by
  obtain ⟨k, j, claims', b, -, sets, sent⟩ := (passes_enterHang (x := 0) (idle := s.placesAll) cut distinct call).sent
  exact ⟨b, j, k, claims', sets, before.trans sent⟩

/-- Nobody waits on a channel whose call a timer has ended. -/
theorem alone_of_ended (alone : (s.channel n).waits = []) (cut : s.setsChannel n (s.channel n) m) :
    (enterHang n call m).channel n = call.ended s ∧ (enterHang n call m).units = m.units
      ∧ (enterHang n call m).io = m.io := by
  have distinct : (idsOf (s.channel n).waits).Nodup := by rw [alone]; exact List.nodup_nil
  have passes := passes_enterHang (x := 0) (idle := s.placesAll) cut distinct call
  obtain ⟨sets, -, units⟩ := passes.none fun v hv => by rw [heirs_alone alone] at hv; cases hv
  rw [heirs_alone alone, but_nil, vacated_alone alone] at sets
  exact ⟨sets.here, units, enterHang_alone cut alone call⟩

/-! ## Who talked -/

theorem record_quieted {v : UnitId} (units : t.units = (setTalking v false s).units) :
    s.sameRecordsBut v t ∧ ∀ r, s.record v = some r → t.record v = some { r with talking := false } :=
  ⟨fun _ hu => (record_of_units units).trans (modUnit_record_other hu fun _ => rfl),
    fun _ hr => (record_of_units units).trans (modUnit_record_self hr fun _ => rfl)⟩

theorem record_limited {v : UnitId} (units : t.units = (setLimited v true (setTalking v false s)).units) :
    s.sameRecordsBut v t
      ∧ ∀ r, s.record v = some r → t.record v = some { r with talking := false, talkLimited := true } := by
  obtain ⟨others, own⟩ := record_quieted (s := s) (t := setTalking v false s) rfl
  refine ⟨fun u hu => ?_, fun r hr => ?_⟩
  · exact (record_of_units units).trans
      ((modUnit_record_other (f := fun r => { r with talkLimited := true }) hu fun _ => rfl).trans (others u hu))
  · exact (record_of_units units).trans (modUnit_record_self (own r hr) fun _ => rfl)

/-- The DEKEY ORDER of a talk limit stands behind the offer of the CALL END (R139). -/
theorem talkCut_built (pool : s.poolLaw) (links : ∀ m, s.waitsAt (linkPort m)) (io : t.io.ports = (talkCut n call s).io.ports)
    (buffers : ∀ k, bufferOf k t.io = bufferOf k (talkCut n call s).io) : s.builtOnChannel n (call.dekey 1) t := by
  intro k rest hf _ hn hc hw
  have sent := sentOn_sendToChannel n (call.dekey 1) [] none s k rest hf hn hc hw
  have free : (sendToChannel s.net n (call.dekey 1) [] none s.io).pool.free = rest :=
    congrArg (fun io : Io => io.pool.free) (sendBuilt_waits (c := s.net)
      (e := channelEntry (call.dekey 1).frameClass k) [] none hf hc rfl (fun _ => rfl) hw).1
  have distinct : s.io.pool.free.Nodup := by
    have := pool.nodup_iff.mpr List.nodup_range'
    exact (List.nodup_append.mp this).1
  rw [hf] at distinct
  have wait : (sendToChannel s.net n (call.dekey 1) [] none s.io).linksWait := fun l => by
    rw [sent.sending, sent.queue, if_neg (linkPort_ne_chanPort l n)]
    exact links l
  refine ⟨?_, ?_⟩
  · refine (congrArg Port.queue ((congrArg (fun ports => ports[(chanPort n).val]) io).trans ?_)).trans
      ((sent.queue (chanPort n)).trans (if_pos rfl))
    exact KeepsPort.offerBuilt (fun l => linkPort_ne_chanPort l n) _ _ _ _
  · have kept := (buffers k).trans (offerBuilt_other (c := s.net) (by rw [free]; exact (List.nodup_cons.mp distinct).1) wait
      sent.quiet (call.frame .callEnd) (remoteSet call.talkgroup s))
    rw [← sent.bytes]
    unfold bytesOf
    rw [kept]

theorem exec_talkTimerExpiry {d gap : Nat} (hp : (s.channel n).phase = .active call (some d) gap)
    (due : d ≤ s.timeBase.toNat) :
    exec (.talkTimerExpiry n) s = .next (cutOff call (enterHang n call (talkCut n call s))) :=
  congrArg Host.Outcome.next (talkTimerEnds_of hp due)

theorem record_ended (distinct : (idsOf (s.channel n).waits).Nodup) {r : Record} (hr : s.record call.talker = some r) :
    ∃ r', (enterHang n call (talkCut n call s)).record call.talker = some r' := by
  obtain ⟨b, j, k, claims, -, sent⟩ :=
    frame_of_ended (call := call) distinct (setsChannel_talkCut n call s) (.talkCut n call s)
  have same := sent.frame.unflagged call.talker
  rw [hr] at same
  cases hu : (enterHang n call (talkCut n call s)).record call.talker with
  | none => rw [hu] at same; cases same
  | some r' => exact ⟨r', rfl⟩

/-- The talk timer's expiry, whatever the channel goes on to (R139). -/
theorem cutOff_ended (distinct : (idsOf (s.channel n).waits).Nodup) :
    ∃ b k l claims, s.setsChannel n b (cutOff call (enterHang n call (talkCut n call s)))
      ∧ l.count .talkLimitCutoffs = 1
      ∧ Says 0 s.placesAll k k claims l s (cutOff call (enterHang n call (talkCut n call s))) := by
  obtain ⟨b, j, k, claims, sets, sent⟩ :=
    frame_of_ended (call := call) distinct (setsChannel_talkCut n call s) (.talkCut n call s)
  refine ⟨b, _, _, _, sets.elsewhere (Says.cutOff (x := 0) (idle := s.placesAll) call _).frame, ?_,
    sent.trans (.cutOff call _)⟩
  rw [List.count_append, List.count_replicate]
  rfl

theorem cutOff_built (pool : s.poolLaw) (links : ∀ m, s.waitsAt (linkPort m)) (io : t.io = (talkCut n call s).io) :
    s.builtOnChannel n (call.dekey 1) (cutOff call t) := by
  have ports : (cutOff call t).io.ports = t.io.ports := rfl
  have buffers (k : Handle) : bufferOf k (cutOff call t).io = bufferOf k t.io := rfl
  exact talkCut_built pool links (ports.trans (congrArg Io.ports io)) fun k => (buffers k).trans (congrArg (bufferOf k) io)

theorem cutOff_alone (alone : (s.channel n).waits = []) :
    (cutOff call (enterHang n call (talkCut n call s))).channel n = call.ended s
      ∧ (cutOff call (enterHang n call (talkCut n call s))).units
        = (setLimited call.talker true (setTalking call.talker false s)).units := by
  obtain ⟨channel, units, -⟩ := alone_of_ended (call := call) alone (setsChannel_talkCut n call s)
  refine ⟨channel, ?_⟩
  show (modUnit _ _ _).units = _
  unfold modUnit
  rw [units]
  rfl

/-! ## Entries that leave a channel by its timers -/

theorem State.sentOn.counted {hdr : Header} {payload : List Byte} {io : Io} (h : s.sentOn n hdr payload io) (i : Nat) :
    s.sentOn n hdr payload (bumpAt i io) := fun k rest hf hn hc hw => (h k rest hf hn hc hw).counted i

/-- What the expiry of an entry's wait timer sends (R140). -/
def waitOut (n : ChannelNo) (call : Call) (s : State) : State :=
  if call.isLocal then sendCallRefuse n call 2#8 s else s

theorem waitTimerEnds_of {id : CallId} (found : (s.channel n).waiting id = some w) (due : w.deadline ≤ s.timeBase.toNat) :
    waitTimerEnds n id s = (waitOut n w.call (removeWait n id s)).count .waitExpiries := by
  simp only [waitTimerEnds, found, State.elapsed, due, decide_true, if_true]
  rfl

theorem Says.waitOut (n : ChannelNo) (call : Call) (s : State) :
    ∃ k claims, Says x idle k k claims [] s (Machine.waitOut n call s) := by
  unfold Machine.waitOut
  split
  · exact ⟨1, _, Says.sendAnswer n _ s⟩
  · exact ⟨0, _, .refl s⟩

/-- The first waiting entry is granted to a channel that has become free (R131, R137). -/
theorem enterIdle_grants {rest : List WaitEntry} (first : (s.channel n).waits = w :: rest) (may : s.mayGrant w = true) :
    enterIdle n s = grantWaiting n w.call (removeWait n w.call.id (setPhase n .idle s)) := by
  have phased : s.setsChannel n { s.channel n with phase := .idle } (setPhase n .idle s) :=
    State.setsChannel.refl.mod fun y => { y with phase := .idle }
  have waits : ((setPhase n .idle s).channel n).waits = w :: rest := by rw [phased.here]; exact first
  unfold enterIdle
  simp only [waits, List.length_cons]
  rw [grantFrom_granted (w := w) rest.length (rest := rest) (by rw [waits, filter_all]) ((phased.frame.mayGrant w).trans may)]

theorem enterIdle_granted {rest : List WaitEntry} (first : (s.channel n).waits = w :: rest) (may : s.mayGrant w = true) :
    s.setsChannel n { s.channel n with phase := s.grantedPhase w.call, waits := rest } (enterIdle n s)
      ∧ (enterIdle n s).callCounter = s.callCounter
      ∧ (w.call.isLocal = true → ∀ r, s.record w.call.talker = some r →
        (enterIdle n s).record w.call.talker = some { r with talking := true }) := by
  have removed := ((State.setsChannel.refl (s := s) (n := n)).mod fun y => { y with phase := .idle }).removeWait w.call.id
  have left : ({ s.channel n with phase := .idle } : Channel).without w.call.id
      = { s.channel n with phase := .idle, waits := rest } := by
    unfold Channel.without
    simp only [first]
    rw [List.eraseP_cons_of_pos (by simp)]
  rw [left] at removed
  rw [enterIdle_grants first may]
  refine ⟨removed.grantWaiting w.call, (Says.grantWaiting (x := 0) (idle := false) n w.call _).counter, fun here r hr => ?_⟩
  have units := grantWaiting_units n w.call (removeWait n w.call.id (setPhase n .idle s))
  rw [if_pos here] at units
  refine (record_of_units units).trans (modUnit_record_self (r := r) ?_ fun _ => rfl)
  exact hr

end Sys2Proof.Machine

open Sys2Proof Sys2Proof.Machine

/-- Settles O50: by what each timer sends, and the entries that a free channel then passes on to. -/
theorem callTimersExpire : Obligations.CallTimersExpire := by
  intro n s law before ended quiet frame
  refine ⟨fun id w found due => ?_, fun call talk gap active due lawful => ?_, fun call d gap active due here lawful => ?_,
    fun call talk gap active due alone => ?_, fun call d gap active due here alone => ?_, fun g e d hang due =>
      ⟨fun alone => ?_, fun lawful => ?_, fun w rest first member listens => ?_⟩⟩
  · have result := waitTimerEnds_of found due
    have removed := (State.setsChannel.refl (s := s) (n := n)).removeWait id
    obtain ⟨k, claims, out⟩ := Says.waitOut (x := 0) (idle := false) n w.call (removeWait n id s)
    have sent := ((Says.mod (x := 0) (idle := false) (n := n)
      (fun y => { y with waits := y.waits.eraseP fun v => v.call.id == id }) s).trans out).trans (.count .waitExpiries _)
    have sets : s.setsChannel n ((s.channel n).without id) (waitTimerEnds n id s) := by
      rw [result]
      refine State.setsChannel.count ?_ _
      unfold waitOut
      split
      · exact removed.sendAnswer _ _
      · exact removed
    refine ⟨waitTimerEnds n id s, rfl, timer_frame sets (result ▸ sent.counter) (.waitTimerEnds n id s), ?_,
      result ▸ sent.raises.raised law (by decide) rfl, sets.here, fun away p => ?_, fun here => ?_⟩
    · rw [result]
      unfold waitOut
      split <;> rfl
    · rw [result, waitOut, if_neg (by simp [away])]
      exact ⟨rfl, rfl⟩
    · rw [result, waitOut, if_pos here]
      exact State.sentOn.built (hdr := w.call.answer .callRefuse 2)
        (State.sentOn.counted (sentOn_sendToChannel n (w.call.answer .callRefuse 2) [] none s) _)
  · obtain ⟨-, -, distinct⟩ := lawful.waits
    obtain ⟨b, j, k, claims, sets, sent⟩ := frame_of_ended (call := call) distinct (setsChannel_gapCut n call s) (.gapCut n call s)
    obtain ⟨ends, stands⟩ := endsCall_of (call := call) lawful (setsChannel_gapCut n call s) (.gapCut n call s) (.refl _)
      (by decide) rfl rfl fun v r hr => ⟨r, hr, rfl⟩
    have result := voiceGapEnds_of active due
    refine ⟨voiceGapEnds n s, rfl, timer_frame (result ▸ sets) (result ▸ sent.counter) (.voiceGapEnds n s),
      result ▸ ends, fun room => ?_⟩
    rw [result]
    have claimed := stands room
    unfold gapClaims at claimed
    refine ⟨fun here => ?_, fun away => ?_⟩
    · rw [if_pos here] at claimed
      exact offeredBuilt_of_stands placesAll_iff.mpr claimed
    · rw [if_neg (by simp [away])] at claimed
      exact queuedOn_of_stands (claimed _ (List.mem_singleton.mpr rfl))
  · obtain ⟨-, -, distinct⟩ := lawful.waits
    obtain ⟨b, k, l, claims, sets, once, sent⟩ := cutOff_ended (call := call) distinct
    obtain ⟨ends, stands⟩ := endsCall_of (call := call) lawful (setsChannel_talkCut n call s) (.talkCut n call s)
      (.cutOff call _) (by decide) rfl rfl fun v r hr => by
        obtain ⟨r', hr', same, -⟩ := cutOff_record (call := call) hr
        exact ⟨r', hr', same⟩
    rw [exec_talkTimerExpiry active due]
    refine ⟨_, rfl, timer_frame sets sent.counter (talkTimerEnds_of active due ▸ .talkTimerEnds n s), ends,
      sent.raises.raised law (by decide) once, fun r hr => ?_, fun room => ?_⟩
    · obtain ⟨r₂, hu⟩ := record_ended (call := call) distinct hr
      obtain ⟨r', hr', -, limited⟩ := cutOff_record (call := call) hu
      exact ⟨r', hr', limited rfl⟩
    · have claimed := stands room
      exact ⟨queuedOn_of_stands (claimed _ List.mem_cons_self),
        offeredBuilt_of_stands placesAll_iff.mpr fun f hf => claimed f (List.mem_cons_of_mem _ hf)⟩
  · have distinct : (idsOf (s.channel n).waits).Nodup := by rw [alone]; exact List.nodup_nil
    have cut := setsChannel_gapCut n call s
    obtain ⟨b, j, k, claims, sets, sent⟩ := frame_of_ended (call := call) distinct cut (.gapCut n call s)
    obtain ⟨channel, units, io⟩ := alone_of_ended (call := call) alone cut
    have result := voiceGapEnds_of active due
    refine ⟨voiceGapEnds n s, rfl, timer_frame (result ▸ sets) (result ▸ sent.counter) (.voiceGapEnds n s),
      result ▸ channel, fun here => ?_, fun away => ?_⟩
    · rw [result]
      refine record_quieted (units.trans ?_)
      rw [gapCut, if_pos here]
      rfl
    · have delivered : gapCut n call s = deliverCall .callEnd n call s := if_neg (by simp [away])
      rw [delivered] at units io result
      rw [result]
      refine ⟨units, State.sentOn.built (hdr := call.frame .callEnd) ?_⟩
      rw [io]
      exact sentOn_sendToChannel n (call.frame .callEnd) [] none s
  · have distinct : (idsOf (s.channel n).waits).Nodup := by rw [alone]; exact List.nodup_nil
    obtain ⟨b, k, l, claims, sets, once, sent⟩ := cutOff_ended (call := call) distinct
    obtain ⟨channel, units⟩ := cutOff_alone (call := call) alone
    obtain ⟨-, -, io⟩ := alone_of_ended (call := call) alone (setsChannel_talkCut n call s)
    rw [exec_talkTimerExpiry active due]
    exact ⟨_, rfl, timer_frame sets sent.counter (talkTimerEnds_of active due ▸ .talkTimerEnds n s), channel,
      record_limited units, sent.raises.raised law (by decide) once, fun pool links =>
      cutOff_built pool links io⟩
  · have distinct : (idsOf (s.channel n).waits).Nodup := by rw [alone]; exact List.nodup_nil
    have passes := passes_enterIdle (x := 0) (idle := s.placesAll) (State.setsChannel.refl (s := s) (n := n)) distinct
    obtain ⟨sets, sent, -⟩ := passes.none fun v hv => by rw [alone] at hv; cases hv
    have nobody : (({ s.channel n with phase := .idle } : Channel).but (s.channel n).waits)
        = { s.channel n with phase := .idle } := by
      rw [show (s.channel n).waits = [] from alone, but_nil]
    rw [nobody] at sets
    have result := hangTimerEnds_of hang due
    exact ⟨hangTimerEnds n s, rfl, timer_frame (result ▸ sets) (result ▸ sent.counter) (.hangTimerEnds n s),
      result ▸ sets.here⟩
  · obtain ⟨length, -, distinct⟩ := lawful.waits
    have passes := passes_enterIdle (x := 0) (idle := s.placesAll) (State.setsChannel.refl (s := s) (n := n)) distinct
    obtain ⟨k, j, claims, b, -, sets, sent⟩ := passes.sent
    have result := hangTimerEnds_of hang due
    refine ⟨hangTimerEnds n s, rfl, timer_frame (result ▸ sets) (result ▸ sent.counter) (.hangTimerEnds n s), ?_⟩
    rw [result]
    exact (around_event (.refl s) (.refl _) (by decide) rfl rfl rfl fun v r hr => ⟨r, hr, rfl⟩).passesOn length passes
  · have may : s.mayGrant w = true := by
      unfold State.mayGrant
      cases here : w.call.isLocal with
      | true => exact member here
      | false => exact decide_eq_true (listens here)
    obtain ⟨sets, counter, talks⟩ := enterIdle_granted first may
    have result := hangTimerEnds_of hang due
    exact ⟨hangTimerEnds n s, rfl, timer_frame (result ▸ sets) (result ▸ counter) (.hangTimerEnds n s),
      (result ▸ sets).here, fun here r hr => result ▸ talks here r hr⟩
end

section
/-! PROOFS. A received call frame that is offered and then let go (R39): where its entries stand, what is left to the
Forwarding Engine, and what its buffer holds. -/

namespace Sys2Proof.Machine

variable {s m t u : State} {io : Io} {h k x : Handle} {p : PortNo} {n : ChannelNo} {hdr : Header} {set : SiteSet} {cls : FrameClass}
  {b : Buffer}

/-- Frames that are as they were where an offer is placed: the link ports, and the engine's work. -/
structure Io.linksAs (io io' : Io) : Prop where
  ports : ∀ l, io'.ports[(linkPort l).val].queue = io.ports[(linkPort l).val].queue
    ∧ io'.ports[(linkPort l).val].sending = io.ports[(linkPort l).val].sending
  engine : io'.engine = io.engine
  quiet : io'.pool.noticePending = io.pool.noticePending

namespace Io.linksAs

variable {io io' io'' : Io}

theorem trans (a : io.linksAs io') (b : io'.linksAs io'') : io.linksAs io'' :=
  ⟨fun l => ⟨(b.ports l).1.trans (a.ports l).1, (b.ports l).2.trans (a.ports l).2⟩, b.engine.trans a.engine,
    b.quiet.trans a.quiet⟩

theorem taken (p : PortNo) (io : Io) : io.linksAs (takenAt p io) :=
  ⟨fun l => ⟨takenAt_queue p (linkPort l) io, takenAt_sending p (linkPort l) io⟩, rfl, rfl⟩

theorem header (h : Handle) (f : Header → Header) (io : Io) : io.linksAs (modHeader h f io) :=
  ⟨fun _ => ⟨rfl, rfl⟩, rfl, rfl⟩

theorem counted (i : Nat) (io : Io) : io.linksAs (bumpAt i io) := ⟨fun _ => ⟨rfl, rfl⟩, rfl, rfl⟩

theorem wait (a : io.linksAs io') (wait : io.linksWait) : io'.linksWait := fun l => by
  rw [(a.ports l).1, (a.ports l).2]
  exact wait l

end Io.linksAs

/-- The place of an offered frame in the queues and in the engine's work (R38, R39). -/
theorem offered_after (same : s.io.linksAs io) (wait : ∀ m, s.waitsAt (linkPort m))
    (quiet : s.io.pool.noticePending = false)
    (ht : t.io = dropReference s.net h (offerTargets s.net (some p) h cls set io)) :
    (∀ m, t.queueOf (linkPort m)
      = if s.placesNow set m = true then
          insertEntry
            { handle := h, cls := cls, hop := s.active.hopLimit, addressing := .subset (s.net.sitesVia set m) }
            (s.queueOf (linkPort m))
        else s.queueOf (linkPort m))
      ∧ s.leavesWork { handle := h, cls := cls, hop := none, lostAt := some p, groups := Vector.replicate 4 0 } set t := by
  obtain ⟨k, offered⟩ := offerTargets_room (c := s.net) (some p) h cls set (same.wait wait)
  have lost := countLost_same (some p) k (modHeader h s.net.fromOwn io)
  set io1 := countLost (some p) k (modHeader h s.net.fromOwn io) with hio1
  set f := s.net.offered (some p) h cls set with hf
  have groups : f.groups = s.net.groups set := rfl
  have engine1 : io1.engine = s.io.engine := by rw [lost]; exact same.engine
  have queue1 (l : LinkNo) : io1.ports[(linkPort l).val].queue = s.queueOf (linkPort l) := by
    rw [lost]
    exact (same.ports l).1
  have quiet1 : (f.spread s.net io1).pool.noticePending = false := by
    rw [(placed_spread s.net f io1).quiet, lost]
    exact same.quiet.trans quiet
  rw [offered] at ht
  refine ⟨fun m => ?_, leavesWork_of_takes (g := f) rfl ?_⟩
  · unfold State.queueOf
    rw [ht, dropReference_ports_of_no_notice s.net h quiet1, spread_queue, engine1]
    simp only [← placesNow_iff groups, queue1]
    rw [Fanout.entry, groups, groups_get]
    rfl
  · rw [ht, dropReference_engine, spread_engine, engine1]

/-- The buffer of an offered frame that some link routes outlives its release (R22, R39). -/
theorem offered_bytes {c : Net} (wait : io.linksWait) (hb : bufferOf h io = some b) (held : 1 ≤ b.refs)
    (reaches : c.reaches set) :
    bytesOf h (dropReference c h (offerTargets c (some p) h cls set io)) = rewriteHeader c.fromOwn b.bytes := by
  have placed := placed_offerTargets (c := c) (some p) h cls set wait
  have more := Fanout.holders_pos (offered_links (some p) h cls reaches) io.engine.now
  have buffer := placed.buffer
  rw [hb, Option.map_some] at buffer
  rw [dropReference_many c buffer (by show 2 ≤ b.refs + _; omega), bytesOf,
    bufferOf_modBuffer _ _ (fun b => { b with refs := b.refs - 1 }) (fun _ => rfl), if_pos rfl, buffer]
  rfl

theorem parseHeader_rewriteHeader (f : Header → Header) (bytes : List Byte) :
    parseHeader (rewriteHeader f bytes) = f (parseHeader bytes) := parseHeader_encodeHeader _ _

theorem modHeader_buffer (hb : bufferOf h io = some b) (f : Header → Header) :
    bufferOf h (modHeader h f io) = some { b with bytes := rewriteHeader f b.bytes } := by
  rw [(placed_modHeader h f io).buffer, hb]
  rfl

theorem bytesOf_some (hb : bufferOf h io = some b) : bytesOf h io = b.bytes := by rw [bytesOf, hb]

/-- A held buffer is referred to (R18). -/
theorem held_of_referenceLaw (law : s.referenceLaw) (hb : bufferOf h s.io = some b) : 1 ≤ b.refs :=
  (law.1 b (List.mem_of_find?_eq_some hb)).2

theorem drop_rewriteHeader (f : Header → Header) (bytes : List Byte) :
    (rewriteHeader f bytes).drop Config.headerBytes = bytes.drop Config.headerBytes :=
  List.drop_left' (length_encodeHeader _)

/-- A received frame, its header as it is to be offered, is offered and then let go (R39, R127). -/
theorem offers_of_io {bytes : List Byte} (buffer : bufferOf h s.io = some b) (same : s.io.linksAs io)
    (kept : bufferOf h io = some { b with bytes := bytes }) (header : parseHeader bytes = hdr)
    (rest : bytes.drop Config.headerBytes = b.bytes.drop Config.headerBytes)
    (ht : t.io = dropReference s.net h (offerReceived s.net n h set io)) :
    (∀ m, s.waitsAt (linkPort m)) → s.io.pool.noticePending = false →
      (∀ m, t.queueOf (linkPort m)
        = if s.placesNow set m = true then
            insertEntry
              { handle := h
                cls := hdr.frameClass
                hop := s.active.hopLimit
                addressing := .subset (s.net.sitesVia set m) }
              (s.queueOf (linkPort m))
          else s.queueOf (linkPort m))
        ∧ s.leavesWork
            { handle := h, cls := hdr.frameClass, hop := none, lostAt := some (chanPort n), groups := Vector.replicate 4 0 }
            set t
        ∧ s.offeredAs h hdr set t := by
  intro wait quiet
  have cls : (parseHeader (bytesOf h io)).frameClass = hdr.frameClass := by rw [bytesOf_some kept, header]
  unfold offerReceived at ht
  rw [cls] at ht
  obtain ⟨queues, work⟩ := offered_after same wait quiet ht
  refine ⟨queues, work, fun law reaches => ?_⟩
  rw [ht, offered_bytes (c := s.net) (same.wait wait) kept
    (held_of_referenceLaw (b := b) law buffer) reaches, bytesOf_some buffer]
  show encodeHeader (s.net.fromOwn (parseHeader bytes)) ++ bytes.drop Config.headerBytes = _
  rw [header, rest]
  rfl

end Sys2Proof.Machine
end

section
/-! PROOFS. What the arbiters do with a received frame (R39, R44): its entries join the links' queues or the channel's, and
no other frame moves. -/

namespace Sys2Proof.Machine

variable {s m t u : State} {io : Io} {x : Handle} {n : ChannelNo} {call : Call} {idle : Bool} {i : Nat}

theorem KeepsCounter.modHeader (h : Handle) (f : Header → Header) : KeepsCounter i (Machine.modHeader h f) := fun _ => rfl

theorem device_ne_lost {d : DevCounter} (p : PortNo) : d.number ≠ lostCounter (some p) := by
  have low : d.number < 18 := by cases d <;> decide
  simp only [lostCounter, portCounterNumber]
  omega

/-- The frames of a received frame that is offered: placed on the links, for the received frame alone. -/
theorem placed_offerReceived {c : Net} {set : SiteSet} (wait : io.linksWait) :
    ∃ f r, Placed x f 1 r io (offerReceived c n x set io) :=
  ⟨_, _, placed_offerTargets _ _ _ _ wait⟩

/-- Entries of the received frame alone. -/
theorem Issues.ofPlaced {f : Net → Io → Io} {k : Nat}
    (placed : ∀ m', (∀ p : PortNo, s.io.ports[p.val].sending.isSome = true ∧ s.io.ports[p.val].queue.length + (m' + k) ≤ 64) →
      ∃ g r, Placed x g k r s.io (f s.net s.io)) : Issues x 0 k [] s (s.onIo f) := by
  refine ⟨rfl, fun n' m' room _ => ?_⟩
  obtain ⟨g, r, moved⟩ := placed m' fun p => ⟨room.busy p, room.queues p⟩
  exact ⟨moved.room room, moved.kept, fun f hf => by cases hf⟩

/-- The frames of an offer by an arbiter (R39, R127). -/
def offered (c : Net) (n : ChannelNo) (h : Handle) (set : SiteSet) (emergency : Bool) (io : Io) : Io :=
  offerReceived c n h set (if emergency then modHeader h (fun x => { x with emergency := true }) io else io)

theorem offerFrame_eq (n : ChannelNo) (h : Handle) (call : Call) (s : State) :
    offerFrame n h call s = s.onIo fun c => offered c n h (remoteSet call.talkgroup s) call.emergency := rfl

theorem placed_offered {c : Net} {set : SiteSet} {emergency : Bool} (wait : io.linksWait) :
    ∃ f r, Placed x f 1 r io (offered c n x set emergency io) := by
  unfold offered
  cases emergency with
  | false => exact placed_offerReceived wait
  | true =>
    obtain ⟨f, r, placed⟩ := placed_offerReceived (c := c) (x := x) (n := n) (set := set)
      (linksWait_modHeader wait x fun y => { y with emergency := true })
    exact ⟨_, _, (placed_modHeader x _ io).trans placed⟩

theorem keepsCounter_offered (he : ¬entryCounter i) (hl : i ≠ lostCounter (some (chanPort n))) (c : Net) (h : Handle)
    (set : SiteSet) (emergency : Bool) : KeepsCounter i (offered c n h set emergency) := by
  intro io
  unfold offered
  refine (KeepsCounter.offerTargets he hl c h _ set _).trans ?_
  split <;> rfl

theorem offered_idle {c : Net} {h : Handle} {set : SiteSet} {emergency : Bool} (free : io.engine = Engine.idle) :
    (offered c n h set emergency io).engine = Engine.idle := by
  unfold offered
  refine offerTargets_idle ?_ _ _ _ _ _
  split <;> exact free

/-- A received frame is offered. -/
theorem Says.offerFrame (n : ChannelNo) (x : Handle) (call : Call) (s : State) :
    Says x idle 0 1 [] [] s (Machine.offerFrame n x call s) := by
  have counters := Acts.offerFrame n x call s
  rw [offerFrame_eq] at counters ⊢
  refine ⟨fun _ => .ofPlaced fun m' room => ?_, fun free => offered_idle free, ⟨counters.counters.1, fun _ d hd => ?_⟩, rfl,
    frameOf_channels.io s _⟩
  · exact placed_offered fun l => ⟨(room (linkPort l)).1, by have := (room (linkPort l)).2; omega⟩
  · exact keepsCounter_offered (entry_of_not_placing (not_placingCounter hd)) (device_ne_lost _) s.net x _ _ s.io

/-- A received frame is delivered on a channel port. -/
theorem Says.deliverReceived (n : ChannelNo) (x : Handle) (s : State) :
    Says x idle 0 1 [] [] s (Machine.deliverReceived n x s) := by
  have counters := (Acts.deliverReceived n x s).counters.1
  have keeps (i : Nat) (hi : ¬placingCounter i) :
      KeepsCounter i fun io => deliver s.net n (parseHeader (bytesOf x io)).frameClass x io :=
    fun io => KeepsCounter.placeEntry (entry_of_not_placing hi) s.net _ _ io
  refine ⟨fun _ => .ofPlaced (f := fun c io => deliver c n (parseHeader (bytesOf x io)).frameClass x io) fun m' room => ?_,
    fun free => (placeEntry_engine _ _ _ _).trans free,
    .onIo (f := fun c io => deliver c n (parseHeader (bytesOf x io)).frameClass x io) keeps counters, rfl,
    frameOf_channels.io s _⟩
  · have put := placeEntry_room (e := channelEntry (parseHeader (bytesOf x s.io)).frameClass x) s.net
      (by have := (room (chanPort n)).2; omega) (room (chanPort n)).1
    refine ⟨id, 1, ?_⟩
    show Placed x id 1 1 s.io (placeEntry _ _ _ _)
    rw [put]
    exact placed_putEntries (l := [(chanPort n, channelEntry (parseHeader (bytesOf x s.io)).frameClass x)])
      (by simp [channelEntry]) (fun q => List.length_filter_le (fun y : PortNo × Entry => y.1 == q) [_]) s.io

end Sys2Proof.Machine
end

section
/-! PROOFS. A local call frame (R53, R135, R136): the notice before it, what it leaves of the records, and its part in the
calls. -/

namespace Sys2Proof.Machine

variable {s m t u : State} {x : Handle} {n : ChannelNo} {call : Call} {hdr : Header} {v : UnitId} {r : Record} {k : Kind}
  {marker : Bool} {b : Channel}

/-! ## Who talks, and no more (R141) -/

/-- A record but for who talks. -/
def Record.hushed (r : Record) : Record := { r with talking := false }

/-- The records are as they were but for who talks, and no call id was given. -/
structure State.talksAlone (s t : State) : Prop where
  records : ∀ v, (t.record v).map Record.hushed = (s.record v).map Record.hushed
  counter : t.callCounter = s.callCounter

namespace State.talksAlone

theorem still (units : t.units = s.units) (counter : t.callCounter = s.callCounter) : s.talksAlone t :=
  ⟨fun _ => by rw [record_of_units units], counter⟩

theorem refl (s : State) : s.talksAlone s := still rfl rfl

theorem trans (h : s.talksAlone t) (h' : t.talksAlone u) : s.talksAlone u :=
  ⟨fun v => (h'.records v).trans (h.records v), h'.counter.trans h.counter⟩

theorem setTalking (v : UnitId) (on : Bool) (s : State) : s.talksAlone (Machine.setTalking v on s) := by
  refine ⟨fun w => ?_, rfl⟩
  rw [Machine.setTalking, record_modUnit s v w (fun r => { r with talking := on }) fun _ => rfl]
  by_cases hw : w = v
  · subst hw
    rw [if_pos rfl]
    cases s.record w <;> rfl
  · rw [if_neg hw]

theorem makeCurrent (n : ChannelNo) (call : Call) (s : State) : s.talksAlone (Machine.makeCurrent n call s) := by
  unfold Machine.makeCurrent
  simp only
  split
  · exact (still rfl rfl : s.talksAlone (setPhase n (s.grantedPhase call) s)).trans (setTalking call.talker true _)
  · exact still rfl rfl

theorem grantWaiting (n : ChannelNo) (call : Call) (s : State) : s.talksAlone (Machine.grantWaiting n call s) := by
  refine (makeCurrent n call s).trans ?_
  unfold Machine.grantWaiting
  simp only
  split <;> exact still rfl rfl

theorem turnAway (n : ChannelNo) (call : Call) (cause : Byte) (s : State) :
    s.talksAlone (Machine.turnAway n call cause s) := by
  unfold Machine.turnAway
  simp only
  split <;> exact still rfl rfl

theorem grantFrom (n : ChannelNo) (ok : WaitEntry → Bool) (k : Nat) (s : State) :
    s.talksAlone (Machine.grantFrom n ok k s).2 := by
  induction k generalizing s with
  | zero => exact refl s
  | succ k ih =>
    unfold Machine.grantFrom
    cases (s.channel n).waits.find? ok with
    | none => exact refl s
    | some w =>
      have removed : s.talksAlone (removeWait n w.call.id s) := still rfl rfl
      simp only
      split
      · exact removed.trans (grantWaiting n w.call _)
      · exact removed.trans ((turnAway n w.call 4#8 _).trans (ih _))

theorem enterIdle (n : ChannelNo) (s : State) : s.talksAlone (Machine.enterIdle n s) :=
  (still rfl rfl : s.talksAlone (setPhase n .idle s)).trans (grantFrom n _ _ _)

theorem enterHang (n : ChannelNo) (call : Call) (s : State) : s.talksAlone (Machine.enterHang n call s) := by
  have hang : s.talksAlone (hangState n call s) := still rfl rfl
  have search := hang.trans (grantFrom n (fun w => w.call.talkgroup == call.talkgroup)
    ((hangState n call s).channel n).waits.length (hangState n call s))
  rw [enterHang_eq (State.setsChannel.refl (s := s) (n := n)) call]
  have here := ((State.setsChannel.refl (s := s) (n := n)).hangState call).here
  rw [here] at search
  simp only
  split
  · exact search
  · split
    · exact search.trans (enterIdle n _)
    · exact search

theorem endTalking (call : Call) (s : State) : s.talksAlone (Machine.endTalking call s) := by
  unfold Machine.endTalking
  split
  · exact setTalking _ _ s
  · exact refl s

end State.talksAlone

/-! ## The notice of a call frame (R53) -/

/-- What the notice of a VOICE, a CALL END or a member's CALL START leaves: the record of the unit alone has moved, its
flag by the marker and its activity ACTIVE. -/
structure Noticed (s : State) (v : UnitId) (marker : Bool) (m : State) : Prop where
  frame : m = { s with units := m.units }
  others : s.sameRecordsBut v m
  record : ∀ r, s.record v = some r → m.record v = some (r.heard s marker)
  unknown : s.record v = none → m.record v = none

theorem noticed_of_member (hr : s.record v = some r)
    (notice : m = { s with units := m.units } ∧ s.sameRecordsBut v m ∧ m.record v = some (r.heard s marker)) :
    Noticed s v marker m := by
  obtain ⟨frame, others, record⟩ := notice
  refine ⟨frame, others, fun r' hr' => ?_, fun none => ?_⟩
  · obtain rfl := Option.some.inj (hr'.symm.trans hr)
    exact record
  · rw [hr] at none
    cases none

/-- A VOICE or a CALL END revives and returns nobody (R53, R56, R97). -/
theorem noticed_call (hk : k = .voice ∨ k = .callEnd) (n : ChannelNo) (v : UnitId) (marker : Bool) (s : State) :
    Noticed s v marker (unitNotice n v k marker s) := by
  cases hr : s.record v with
  | none =>
    rw [unitNotice_none hr]
    refine ⟨rfl, fun _ _ => rfl, fun r hr' => ?_, fun _ => hr⟩
    rw [hr] at hr'
    cases hr'
  | some r =>
    by_cases home : r.phase.atHome = true
    · exact noticed_of_member hr (unitNotice_member hr home (by rcases hk with rfl | rfl <;> exact nofun) n marker)
    · have inactive : r.phase.activity? = none := by
        cases hp : r.phase with
        | served | proposing => exact absurd (by rw [hp]; rfl) home
        | departing | arriving | forward | lost => rfl
      have silent : noticeByState n k r (s.marked v marker) = s.marked v marker := by
        unfold noticeByState
        cases hp : r.phase with
        | served | proposing => rw [hp] at inactive; cases inactive
        | departing => rcases hk with rfl | rfl <;> simp [marksReturn, revivesByNotice]
        | arriving | forward => rfl
        | lost => rcases hk with rfl | rfl <;> simp [revivesByNotice]
      have record := marked_record hr marker
      rw [Record.marked_inactive inactive] at record
      refine noticed_of_member hr ?_
      rw [unitNotice_some hr, silent]
      refine ⟨marked_frame s v marker, fun u hu => marked_record_other hu marker, record.trans ?_⟩
      rw [Record.heard, Phase.mapActivity_none inactive]

namespace Noticed

theorem emergency (h : Noticed s v marker m) :
    (marker || unitEmergency v m) = (marker || (s.record v).any Record.emergency) := by
  unfold unitEmergency
  cases hr : s.record v with
  | none => rw [h.unknown hr]
  | some r =>
    rw [h.record r hr, Option.any_some, Option.any_some]
    cases marker with
    | false => exact Bool.or_false _
    | true => rfl

theorem limited (h : Noticed s v marker m) : unitLimited v m = (s.record v).any Record.talkLimited := by
  unfold unitLimited
  cases hr : s.record v with
  | none => rw [h.unknown hr]
  | some r => rw [h.record r hr]; rfl

/-- Who may be granted a waiting call is as it was (R137). -/
theorem mayGrant (h : Noticed s v marker m) (w : WaitEntry) : m.mayGrant w = s.mayGrant w := by
  have talkgroups : m.talkgroups = s.talkgroups := by rw [h.frame]
  have member : ((m.record w.call.talker).any fun r => r.phase.isMember)
      = (s.record w.call.talker).any fun r => r.phase.isMember := by
    by_cases hv : w.call.talker = v
    · rw [hv]
      cases hr : s.record v with
      | none => rw [h.unknown hr]
      | some r =>
        rw [h.record r hr, Option.any_some, Option.any_some]
        exact Phase.isMember_mapActivity _ _
    · rw [h.others _ hv]
  unfold State.mayGrant membersOf
  rw [member, talkgroups]

end Noticed

end Sys2Proof.Machine
end

section
/-! PROOFS. A local VOICE and a local CALL END (R135, R136). -/

namespace Sys2Proof.Machine

variable {s m t u : State} {io : Io} {x : Handle} {n : ChannelNo} {call cur : Call} {hdr : Header} {v : UnitId} {r : Record}
  {k : Kind} {b : Channel} {set : SiteSet} {units : List Record}

/-! ## The frame that is offered -/

theorem callClass (hk : hdr.isKind k = true) (call : k = .callStart ∨ k = .voice ∨ k = .callEnd) :
    hdr.frameClass = if hdr.emergency then .priority else .routine := by
  have kind : hdr.kindOf = some k := by
    have code : hdr.kind = k.code := by simpa [Header.isKind] using hk
    unfold Header.kindOf
    rw [code]
    rcases call with rfl | rfl | rfl <;> rfl
  unfold Header.frameClass
  rw [kind]
  rcases call with rfl | rfl | rfl <;> rfl

/-- A local call frame that is offered with the marker of its call (R39, R127). -/
theorem offers_of_offered {buffer : Buffer} {emergency : Bool} (hb : bufferOf x s.io = some buffer)
    (header : parseHeader buffer.bytes = hdr) (marked : hdr.emergency = true → emergency = true) (same : s.io.linksAs io)
    (kept : bufferOf x io = some buffer)
    (ht : t.io = dropReference s.net x (offered s.net n x set emergency io)) :
    (∀ m, s.waitsAt (linkPort m)) → s.io.pool.noticePending = false →
      (∀ m, t.queueOf (linkPort m)
        = if s.placesNow set m = true then
            insertEntry
              { handle := x
                cls := ({ hdr with emergency := emergency } : Header).frameClass
                hop := s.active.hopLimit
                addressing := .subset (s.net.sitesVia set m) }
              (s.queueOf (linkPort m))
          else s.queueOf (linkPort m))
        ∧ s.leavesWork
            { handle := x
              cls := ({ hdr with emergency := emergency } : Header).frameClass
              hop := none
              lostAt := some (chanPort n)
              groups := Vector.replicate 4 0 }
            set t
        ∧ s.offeredAs x { hdr with emergency := emergency } set t := by
  cases emergency with
  | true =>
    refine offers_of_io hb (same.trans (.header x (fun y => { y with emergency := true }) io)) (modHeader_buffer kept _) ?_
      (drop_rewriteHeader _ _) ht
    rw [parseHeader_rewriteHeader, header]
  | false =>
    have routine : hdr.emergency = false := by
      cases he : hdr.emergency with
      | false => rfl
      | true => exact absurd (marked he) Bool.false_ne_true
    have unmarked : ({ hdr with emergency := false } : Header) = hdr := by rw [← routine]
    rw [unmarked]
    exact offers_of_io hb same kept header rfl ht

/-! ## The state in which a local call frame is handled -/

/-- The state after the notice of a local call frame, which has been taken (R11, R53). -/
def State.onNotice (s : State) (n : ChannelNo) (k : Kind) (hdr : Header) : State :=
  (unitNotice n hdr.unit.toNat k hdr.emergency s).taken (chanPort n)

theorem onNotice_eq (h : Noticed s hdr.unit.toNat hdr.emergency (unitNotice n hdr.unit.toNat k hdr.emergency s)) :
    ∃ units, Noticed s hdr.unit.toNat hdr.emergency { s with units := units }
      ∧ s.onNotice n k hdr = State.taken (chanPort n) { s with units := units } := by
  refine ⟨(unitNotice n hdr.unit.toNat k hdr.emergency s).units, ?_, ?_⟩
  · rw [← h.frame]
    exact h
  · rw [← h.frame]
    rfl

/-- What every event of a local call frame leaves of the rest. -/
theorem localFrame_kept (from_ : m = State.taken (chanPort n) { s with units := units }) (sets : m.setsChannel n b t)
    (acts : Acts m t) (x : Handle) :
    s.tookHanded (chanPort n) (t.onIo fun c => dropReference c x) ∧ s.sameButCalls (t.onIo fun c => dropReference c x)
      ∧ ∀ k, k ≠ n → (t.onIo fun c => dropReference c x).channel k = s.channel k := by
  subst from_
  refine ⟨tookHanded_of_ports x fun q => ⟨(acts.ports q).2.1, (acts.ports q).1⟩, ?_, fun k hk => sets.other hk⟩
  have frame := sets.frame.1
  unfold State.sameButCalls at frame ⊢
  show (t.onIo fun c => dropReference c x) = _
  unfold State.onIo
  rw [frame]
  rfl

/-- A local call frame that gives no call id. -/
theorem localFrame_done (from_ : m = State.taken (chanPort n) { s with units := units }) (sets : m.setsChannel n b t)
    (counter : t.callCounter = m.callCounter) (acts : Acts m t) (x : Handle) :
    s.tookHanded (chanPort n) (t.onIo fun c => dropReference c x) ∧ s.sameButCalls (t.onIo fun c => dropReference c x)
      ∧ (t.onIo fun c => dropReference c x).callCounter = s.callCounter
      ∧ ∀ k, k ≠ n → (t.onIo fun c => dropReference c x).channel k = s.channel k := by
  obtain ⟨took, frame, others⟩ := localFrame_kept from_ sets acts x
  subst from_
  exact ⟨took, frame, counter, others⟩

/-- The call of a frame that its local talker sends is an emergency call by the call, the marker or the talker's flag
(R127). -/
theorem promotedBy_local (notice : Noticed s v hdr.emergency m) (here : cur.isLocal = true) (talker : cur.talker = v) :
    promotedBy hdr cur m
      = { cur with emergency := cur.emergency || hdr.emergency || (s.record v).any Record.emergency } := by
  have flag := notice.emergency
  unfold promotedBy
  rw [here, Bool.true_and, talker, Bool.or_assoc, Bool.or_assoc, flag]

theorem promotedBy_taken {p : PortNo} (notice : Noticed s v hdr.emergency m) (here : cur.isLocal = true)
    (talker : cur.talker = v) :
    promotedBy hdr cur (m.taken p)
      = { cur with emergency := cur.emergency || hdr.emergency || (s.record v).any Record.emergency } :=
  (rfl : promotedBy hdr cur (m.taken p) = promotedBy hdr cur m).trans (promotedBy_local (m := m) notice here talker)

/-! ## VOICE (R135) -/

theorem takeLocalVoice_current {talk : Timer} {gap : Nat} (hp : (m.channel n).phase = .active cur talk gap)
    (here : cur.isLocal = true) (id : cur.id = hdr.callId.toNat) (talker : cur.talker = hdr.unit.toNat)
    (free : unitLimited cur.talker m = false) :
    takeLocalVoice n x hdr m = offerFrame n x (promotedBy hdr cur m) (continueCall n (promotedBy hdr cur m) talk m) := by
  unfold takeLocalVoice
  rw [hp]
  have mine : (cur.isLocal && cur.id == hdr.callId.toNat && cur.talker == hdr.unit.toNat && !unitLimited cur.talker m)
      = true := by
    rw [here, id, free, talker]
    simp
  simp only [mine, if_true]

theorem takeLocalVoice_stray
    (other : ∀ cur talk gap, (m.channel n).phase = .active cur talk gap →
      ¬(cur.isLocal = true ∧ cur.id = hdr.callId.toNat ∧ cur.talker = hdr.unit.toNat
        ∧ unitLimited hdr.unit.toNat m = false)) :
    takeLocalVoice n x hdr m = m.count .strayCallFrames := by
  unfold takeLocalVoice
  cases hp : (m.channel n).phase with
  | idle => rfl
  | hang => rfl
  | active cur talk gap =>
    refine if_neg fun mine => other cur talk gap hp ?_
    simp only [Bool.and_eq_true, beq_iff_eq, Bool.not_eq_true'] at mine
    obtain ⟨⟨⟨here, id⟩, talker⟩, free⟩ := mine
    exact ⟨here, id, talker, talker ▸ free⟩

/-- A VOICE moves no record and gives no call id. -/
theorem takeLocalVoice_rest (n : ChannelNo) (x : Handle) (hdr : Header) (m : State) :
    (takeLocalVoice n x hdr m).units = m.units ∧ (takeLocalVoice n x hdr m).callCounter = m.callCounter
      ∧ ∃ b, m.setsChannel n b (takeLocalVoice n x hdr m) := by
  unfold takeLocalVoice
  cases (m.channel n).phase with
  | idle => exact ⟨rfl, rfl, _, State.setsChannel.refl.count _⟩
  | hang => exact ⟨rfl, rfl, _, State.setsChannel.refl.count _⟩
  | active cur talk gap =>
    simp only
    split
    · exact ⟨rfl, rfl, _, (State.setsChannel.refl.continueCall _ _).offerFrame _ _ _⟩
    · exact ⟨rfl, rfl, _, State.setsChannel.refl.count _⟩

end Sys2Proof.Machine
end

section
/-! PROOFS. A channel that goes on to other calls in the event of a received frame (R22, R136, R137), and a local CALL
END. -/

namespace Sys2Proof.Machine

variable {s m base u t t₁ : State} {x : Handle} {p : PortNo} {n : ChannelNo} {call cur : Call} {hdr : Header} {v : UnitId}
  {b : Channel} {units : List Record} {k : Kind}

/-! ## The event of a received frame -/

/-- The frames that a block of an event sends stand when the received frame is let go (R22). -/
theorem stands_received {a c j j' : Nat} {claims : List Claim} {raised : List DevCounter} (io : base.io = takenAt p s.io)
    (active : base.active = s.active) (sent : Says x s.placesAll a c claims raised base t) (room : s.roomFor j j')
    (fewFrames : a ≤ j) (fewEntries : c ≤ j') (taken : x ∉ s.io.pool.free) (net : Net) :
    ∀ f ∈ claims, Stands s.io.pool.free f.entries (frameBytes f.header f.payload) (dropReference net x t.io) := fun f hf => by
  have first : Issues x 0 0 [] s base := (Issues.taken p s).congr active io
  have all := first.trans (sent.issues fun on => by rw [io]; exact placesAll_iff.mp on)
  exact all.stands hf room (by omega) (by omega) taken net

theorem record_exists (h : s.sameButChannels t) {r : Record} (hr : s.record v = some r) : ∃ r', t.record v = some r' := by
  have same := h.unflagged v
  rw [hr] at same
  cases hu : t.record v with
  | none => rw [hu] at same; cases same
  | some r' => exact ⟨r', rfl⟩

/-- A channel goes on to other calls in the event of a received frame. -/
theorem around_received {a c a' c' : Nat} {raised raised' : List DevCounter} (io : base.io = takenAt p s.io)
    (active : base.active = s.active) (taken : s.roomFor 16 16 → x ∉ s.io.pool.free)
    (before : Says x s.placesAll a c [] raised base u) (after : Says x s.placesAll a' c' [] raised' t t₁)
    (fewFrames : a + a' ≤ 6) (fewEntries : c + c' ≤ 6) (never : raised.count .callsNotCarried = 0)
    (never' : raised'.count .callsNotCarried = 0) (channels : t₁.channels = t.channels) (units : t₁.units = t.units)
    (may : ∀ w, base.mayGrant w = s.mayGrant w) (phase : ∀ call, base.grantedPhase call = s.grantedPhase call)
    (grants : ∀ call, grantClaims n s.placesAll call base = grantClaims n s.placesAll call s)
    (records : ∀ v r, s.record v = some r → ∃ r', base.record v = some r') :
    Around x s.placesAll n s base u t (t₁.onIo fun c => dropReference c x) := by
  refine ⟨placesAll_iff.mpr, may, phase, grants, ?_, fun k passed => ?_, fun k claims raised₂ sent many room f hf => ?_,
    fun v r hr => ?_, fun v r hr => ⟨r, ?_, rfl⟩⟩
  · show t₁.channels[n.val] = t.channels[n.val]
    rw [channels]
  · have live : base.io.live = s.io.live := by rw [io]; rfl
    have all := notCarried_of_raises ((((before.raises.trans passed).trans after.raises).trans (.dropped x _)).ofLive live)
    rw [List.append_nil, List.count_append, List.count_append, never, never', List.count_replicate_self, Nat.zero_add,
      Nat.add_zero] at all
    exact all
  · exact stands_received io active ((before.trans sent).trans after) room (by omega) (by omega) (taken room) t₁.net f
      (List.mem_append_left _ (List.mem_append_right _ hf))
  · obtain ⟨r', hr'⟩ := records v r hr
    exact record_exists before.frame hr'
  · exact (record_of_units units).trans hr

/-! ## CALL END (R136) -/

theorem currentOf_some (h : (m.channel n).phase.call? = some cur) (talker : cur.talker = v) :
    currentOf v (m.channel n) = some cur := by
  unfold currentOf
  rw [h]
  simp [talker]

theorem endLocal_current {cleared : Bool} (h : (m.channel n).phase.call? = some cur) (here : cur.isLocal = true)
    (id : cur.id = hdr.callId.toNat) (talker : cur.talker = hdr.unit.toNat) :
    endLocal n x hdr cleared m
      = enterHang n (promotedBy hdr cur m) (offerFrame n x (promotedBy hdr cur m) (endTalking (promotedBy hdr cur m) m)) := by
  unfold endLocal
  rw [currentOf_some h talker]
  simp only [here, id, beq_self_eq_true, Bool.and_self, if_true]

/-- A CALL END that is not of the current call (R136). -/
theorem endLocal_other {cleared : Bool}
    (other : ∀ cur, (m.channel n).phase.call? = some cur →
      ¬(cur.isLocal = true ∧ cur.id = hdr.callId.toNat ∧ cur.talker = hdr.unit.toNat)) :
    endLocal n x hdr cleared m
      = if ((m.channel n).waits.any fun w =>
            w.call.isLocal && w.call.talker == hdr.unit.toNat && w.call.id == hdr.callId.toNat) then
          removeWait n hdr.callId.toNat m
        else if cleared then m
        else m.count .strayCallFrames := by
  unfold endLocal
  cases current : currentOf hdr.unit.toNat (m.channel n) with
  | none => rfl
  | some cur =>
    obtain ⟨held, talker⟩ := Option.filter_eq_some_iff.mp current
    simp only [beq_iff_eq] at talker
    have foreign : ¬(cur.isLocal && cur.id == hdr.callId.toNat) = true := by
      rw [Bool.and_eq_true, beq_iff_eq]
      exact fun mine => other cur held ⟨mine.1, mine.2, talker⟩
    simp only [foreign]
    rfl

/-- A CALL END moves its own channel, and of the records no more than who talks. -/
theorem endLocal_rest (cleared : Bool) :
    m.talksAlone (endLocal n x hdr cleared m) ∧ ∃ b, m.setsChannel n b (endLocal n x hdr cleared m) := by
  by_cases mine : ∃ cur, (m.channel n).phase.call? = some cur ∧ cur.isLocal = true ∧ cur.id = hdr.callId.toNat
      ∧ cur.talker = hdr.unit.toNat
  · obtain ⟨cur, held, here, id, talker⟩ := mine
    rw [endLocal_current held here id talker]
    have ended : m.talksAlone (offerFrame n x (promotedBy hdr cur m) (endTalking (promotedBy hdr cur m) m)) :=
      (State.talksAlone.endTalking _ m).trans (.still rfl rfl)
    exact ⟨ended.trans (.enterHang n _ _), _,
      ((State.setsChannel.refl.endTalking _).offerFrame n x (promotedBy hdr cur m)).enterHang _⟩
  · rw [endLocal_other fun cur held own => mine ⟨cur, held, own⟩]
    split
    · exact ⟨.still rfl rfl, _, State.setsChannel.refl.removeWait _⟩
    · split
      · exact ⟨.refl m, _, State.setsChannel.refl⟩
      · exact ⟨.still rfl rfl, _, State.setsChannel.refl.count _⟩

theorem unitEmergency_setLimited (v w : UnitId) (on : Bool) (m : State) :
    unitEmergency w (setLimited v on m) = unitEmergency w m := by
  unfold unitEmergency setLimited
  rw [record_modUnit m v w (fun r => { r with talkLimited := on }) fun _ => rfl]
  by_cases hw : w = v
  · subst hw
    rw [if_pos rfl]
    cases m.record w <;> rfl
  · rw [if_neg hw]

theorem promotedBy_setLimited (v : UnitId) (on : Bool) (m : State) :
    promotedBy hdr cur (setLimited v on m) = promotedBy hdr cur m := by
  unfold promotedBy
  rw [unitEmergency_setLimited]

/-! ## What the statements ask of a CALL END -/

/-- The state in which a CALL END is handled: its frame taken, the notice made, the limit lifted (R11, R53, R136). -/
def State.unlimited (s : State) (n : ChannelNo) (v : UnitId) (units : List Record) : State :=
  setLimited v false (State.taken (chanPort n) { s with units := units })

theorem unlimited_frame (n : ChannelNo) (v : UnitId) (units : List Record) :
    (State.taken (chanPort n) { s with units := units }).sameButChannels (s.unlimited n v units) :=
  (CallsRun.setLimited (extra := .none) v false).frame

theorem unlimited_record {marker : Bool} (notice : Noticed s v marker { s with units := units }) {r : Record}
    (hr : s.record v = some r) :
    (s.unlimited n v units).record v = some { r.heard s marker with talkLimited := false } :=
  modUnit_record_self (f := fun r => { r with talkLimited := false }) (notice.record r hr) fun _ => rfl

/-- The record of the talker in the end (R53, R58, R136). -/
theorem record_of_talksAlone {marker : Bool} (notice : Noticed s v marker { s with units := units })
    (after : (s.unlimited n v units).talksAlone t) {r : Record} (hr : s.record v = some r) :
    ∃ r', t.record v = some r' ∧ r'.talkLimited = false ∧ r'.emergency = (r.emergency || marker)
      ∧ r'.phase = r.phase.mapActivity s.activeAgain := by
  have same := after.records v
  rw [unlimited_record notice hr] at same
  cases ht : t.record v with
  | none => rw [ht] at same; cases same
  | some r' =>
    rw [ht] at same
    have hushed := Option.some.inj same
    exact ⟨r', rfl, congrArg Record.talkLimited hushed, congrArg Record.emergency hushed, congrArg Record.phase hushed⟩

/-- The offer of a frame that ends a call, and the release of its talker (R136, R141). -/
def cutByFrame (n : ChannelNo) (x : Handle) (call : Call) (m : State) : State := offerFrame n x call (endTalking call m)

theorem setsChannel_cutByFrame (n : ChannelNo) (x : Handle) (call : Call) (m : State) :
    m.setsChannel n (m.channel n) (cutByFrame n x call m) := (State.setsChannel.refl.endTalking call).offerFrame n x call

theorem Says.cutByFrame (n : ChannelNo) (x : Handle) (call : Call) (idle : Bool) (m : State) :
    Says x idle 0 1 [] [] m (Machine.cutByFrame n x call m) := by
  refine Says.trans (k := 0) (m := 0) (claims := []) (raised := []) ?_ (.offerFrame n x call (endTalking call m))
  unfold endTalking
  split
  · exact .setTalking _ _ m
  · exact .refl m

/-- A lawful channel whose call has ended by a local frame (R136, R137). -/
theorem endsCall_of_frame {marker : Bool} (notice : Noticed s v marker { s with units := units })
    (taken : s.roomFor 16 16 → x ∉ s.io.pool.free) (law : (s.channel n).lawful) (call : Call) :
    s.endsCall n call
      ((enterHang n call (cutByFrame n x call (s.unlimited n v units))).onIo fun c => dropReference c x) := by
  obtain ⟨length, -, distinct⟩ := law.waits
  have frame := unlimited_frame (s := s) n v units
  have passes := passes_enterHang (x := x) (idle := s.placesAll)
    (setsChannel_cutByFrame n x call (s.unlimited n v units)) distinct call
  refine (around_received (s := s) (base := s.unlimited n v units) (p := chanPort n) rfl rfl taken
    (.cutByFrame n x call s.placesAll _) (.refl _) (by omega) (by omega) rfl rfl rfl rfl (fun w => ?_) (fun _ => rfl)
    (fun _ => rfl) fun u r hr => ?_).passesOn ((heirs_length _ _ call).trans length) passes
  · exact (frame.mayGrant w).trans (notice.mayGrant w)
  · by_cases hu : u = v
    · subst hu
      exact ⟨_, unlimited_record notice hr⟩
    · refine ⟨r, ?_⟩
      exact (modUnit_record_other (f := fun r => { r with talkLimited := false }) hu fun _ => rfl).trans
        ((notice.others u hu).trans hr)

end Sys2Proof.Machine
end

section
/-! PROOFS. A local VOICE and a local CALL END: what the statement asks of each (R127, R135 to R137). -/

namespace Sys2Proof.Machine

variable {s m t : State} {x : Handle} {n : ChannelNo} {call cur : Call} {hdr : Header} {v : UnitId} {units : List Record}
  {k : Kind}

/-- An offer with the marker of its call, as the statements have it (R39, R127). -/
theorem offers_of_marked {emergency : Bool} {set : SiteSet} {p : PortNo} (kind : k = .callStart ∨ k = .voice ∨ k = .callEnd)
    (hk : (parseHeader (bytesOf x s.io)).isKind k = true)
    (marked : (parseHeader (bytesOf x s.io)).emergency = true → emergency = true)
    (ht : t.io = dropReference s.net x (offered s.net n x set emergency (takenAt p s.io))) :
    s.offers (chanPort n) x (if emergency then .priority else .routine)
      { parseHeader (bytesOf x s.io) with emergency := emergency } set t := by
  intro _ wait quiet _
  obtain ⟨buffer, hb⟩ := Option.ne_none_iff_exists'.mp (bufferOf_of_kind hk)
  have bytes := bytesOf_some hb
  rw [bytes] at hk marked ⊢
  have same := Io.linksAs.taken p s.io
  have placed := offers_of_offered hb rfl marked same hb ht wait quiet
  rw [callClass (k := k) (hdr := { parseHeader buffer.bytes with emergency := emergency }) hk kind] at placed
  exact placed

theorem callEnd_next {y : Handed} (hx : s.holds (chanPort n) y .callEnd) :
    exec (.callEnd n) s
      = .next ((takeLocalEnd n y.handle (handedHeader y s) (s.onNotice n .callEnd (handedHeader y s))).onIo
          fun c => dropReference c y.handle) :=
  congrArg Host.Outcome.next (takeFromChannel_of_head (fun h hdr _ => takeLocalEnd n h hdr) hx.1 hx.2)

theorem voice_next {y : Handed} (hx : s.holds (chanPort n) y .voice) :
    exec (.voice n) s
      = .next ((takeLocalVoice n y.handle (handedHeader y s) (s.onNotice n .voice (handedHeader y s))).onIo
          fun c => dropReference c y.handle) :=
  congrArg Host.Outcome.next (takeFromChannel_of_head (fun h hdr _ => takeLocalVoice n h hdr) hx.1 hx.2)

/-- With nobody waiting, a CALL END of the current call leaves its channel in the hang, its talker silent, and its frame
offered (R136, R141). -/
theorem callEnd_alone (alone : (s.channel n).waits = []) (call : Call) :
    let t := enterHang n call (cutByFrame n x call (s.unlimited n v units))
    t.channel n = call.ended s ∧ t.units = (endTalking call (s.unlimited n v units)).units
      ∧ (t.onIo fun c => dropReference c x).io
        = dropReference s.net x
          (offered s.net n x (remoteSet call.talkgroup s) call.emergency (takenAt (chanPort n) s.io)) := by
  intro t
  obtain ⟨channel, units', io⟩ := alone_of_ended (s := s.unlimited n v units) (call := call) alone
    (setsChannel_cutByFrame n x call (s.unlimited n v units))
  have frame := ((setsChannel_cutByFrame n x call (s.unlimited n v units)).enterHang call).frame
  have net : t.net = s.net := frame.sees.1
  refine ⟨channel, units', (congrArg (fun c => dropReference c x t.io) net).trans (congrArg (dropReference s.net x) ?_)⟩
  refine io.trans ?_
  unfold cutByFrame
  rw [offerFrame_eq]
  unfold endTalking
  split <;> rfl

theorem currentPhase {c : Call} (h : (s.channel n).phase.call? = some c) :
    ∃ talk gap, (s.channel n).phase = .active c talk gap := by
  cases hp : (s.channel n).phase with
  | idle => rw [hp] at h; cases h
  | hang => rw [hp] at h; cases h
  | active c' talk gap =>
    rw [hp] at h
    obtain rfl := Option.some.inj h
    exact ⟨talk, gap, rfl⟩

/-- A frame that is counted as stray, and let go. -/
theorem stray_raised (law : s.counterLaw) (live : m.io.live = s.io.live) :
    s.raised .strayCallFrames ((m.count .strayCallFrames).onIo fun c => dropReference c x) :=
  (((Raises.count .strayCallFrames m).trans (.dropped x _)).ofLive live).raised law (by decide) rfl

theorem stray_kept (law : s.counterLaw) (live : m.io.live = s.io.live) :
    (m.onIo fun c => dropReference c x).devCounter .strayCallFrames = s.devCounter .strayCallFrames :=
  ((Raises.dropped x m).ofLive live).kept law (by decide) rfl

end Sys2Proof.Machine

open Sys2Proof Sys2Proof.Machine

/-- Settles O48: by what the notice leaves, and what the channel makes of the frame. -/
theorem voiceAndCallEnd : Obligations.VoiceAndCallEnd := by
  intro n x s law hdr u before flagged
  refine ⟨fun holds => ?_, fun holds => ?_⟩
  · obtain ⟨units, notice, from_⟩ := onNotice_eq (noticed_call (k := .voice) (.inl rfl) n u hdr.emergency s)
    have limited : unitLimited u (State.taken (chanPort n) { s with units := units })
        = (s.record u).any Record.talkLimited := notice.limited
    obtain ⟨same, counter, b, sets⟩ := takeLocalVoice_rest n x.handle hdr (State.taken (chanPort n) { s with units := units })
    obtain ⟨took, frame, counted, others⟩ := localFrame_done rfl sets counter (.takeLocalVoice n x.handle hdr _) x.handle
    rw [voice_next holds, from_]
    refine ⟨_, rfl, took, frame, counted, others, fun w hw => ?_, fun r hr => ?_, fun cur talk gap current here id talker free => ?_,
      fun other => ?_⟩
    · exact (record_of_units same).trans (notice.others w hw)
    · exact (record_of_units same).trans (notice.record r hr)
    · have carried := takeLocalVoice_current (x := x.handle) (hdr := hdr)
        (m := State.taken (chanPort n) { s with units := units }) current here id talker
        (talker ▸ limited.trans free)
      have promoted := promotedBy_taken (p := chanPort n) notice here talker
      rw [promoted] at carried
      rw [carried]
      refine ⟨?_, offers_of_marked (k := .voice) (.inr (.inl rfl)) holds.2 (fun marked => ?_) rfl⟩
      · exact ((State.setsChannel.refl.continueCall _ talk).offerFrame n x.handle
          { cur with emergency := cur.emergency || hdr.emergency || flagged }).here
      · show (cur.emergency || hdr.emergency || flagged) = true
        rw [show hdr.emergency = true from marked, Bool.or_true, Bool.true_or]
    · have stray := takeLocalVoice_stray (x := x.handle) (hdr := hdr)
        (m := State.taken (chanPort n) { s with units := units }) fun cur talk gap current => by
          rw [limited]
          exact other cur talk gap current
      rw [stray]
      exact ⟨rfl, stray_raised law rfl, fun quiet => sameSending_dropped x.handle rfl quiet⟩
  · obtain ⟨units, notice, from_⟩ := onNotice_eq (noticed_call (k := .callEnd) (.inr rfl) n u hdr.emergency s)
    obtain ⟨talks, b, sets⟩ := endLocal_rest (x := x.handle) (hdr := hdr) (n := n) (m := s.unlimited n u units)
      ((s.record u).any Record.talkLimited)
    have ends : takeLocalEnd n x.handle hdr (State.taken (chanPort n) { s with units := units })
        = endLocal n x.handle hdr ((s.record u).any Record.talkLimited) (s.unlimited n u units) := by
      rw [← show unitLimited u (State.taken (chanPort n) { s with units := units }) = _ from notice.limited]
      rfl
    have acts : Acts _ _ := .takeLocalEnd n x.handle hdr (State.taken (chanPort n) { s with units := units })
    rw [ends] at acts
    obtain ⟨took, frame, counted, others⟩ := localFrame_done rfl
      ((State.setsChannel.refl.setLimited u false).trans sets)
      talks.counter acts x.handle
    rw [callEnd_next holds, from_, ends]
    have current {cur : Call} (held : before.phase.call? = some cur) (here : cur.isLocal = true)
        (id : cur.id = hdr.callId.toNat) (talker : cur.talker = u) :
        endLocal n x.handle hdr ((s.record u).any Record.talkLimited) (s.unlimited n u units)
          = enterHang n { cur with emergency := cur.emergency || hdr.emergency || flagged }
              (cutByFrame n x.handle { cur with emergency := cur.emergency || hdr.emergency || flagged }
                (s.unlimited n u units)) := by
      have promoted : promotedBy hdr cur (s.unlimited n u units) = _ :=
        (promotedBy_setLimited u false _).trans (promotedBy_taken notice here talker)
      rw [endLocal_current (m := s.unlimited n u units) held here id talker, promoted]
      rfl
    refine ⟨_, rfl, took, frame, counted, others, fun r hr => record_of_talksAlone notice (talks.trans (.still rfl rfl)) hr,
      fun cur talk gap active here id talker alone => ?_, fun cur talk gap active here id talker lawful => ?_,
      fun foreign w hw here talker id => ?_, fun foreign nobody => ?_⟩
    · obtain ⟨channel, units', io⟩ := callEnd_alone (x := x.handle) (v := u) (units := units) alone
        { cur with emergency := cur.emergency || hdr.emergency || flagged }
      rw [current (by rw [active]; rfl) here id talker]
      refine ⟨channel, fun r hr => ?_, offers_of_marked (k := .callEnd) (.inr (.inr rfl)) holds.2 (fun marked => ?_)
        io⟩
      · refine ⟨_, (record_quieted (s := s.unlimited n u units) (units'.trans ?_)).2 _ (unlimited_record notice hr), rfl⟩
        rw [endTalking, if_pos here, ← talker]
      · show (cur.emergency || hdr.emergency || flagged) = true
        rw [show hdr.emergency = true from marked, Bool.or_true, Bool.true_or]
    · rw [current (by rw [active]; rfl) here id talker]
      exact endsCall_of_frame notice (fun room => not_free_of_kind room holds.2) lawful _
    · rw [endLocal_other (m := s.unlimited n u units) fun cur held mine => foreign cur held mine.2.1]
      have waits : (((s.unlimited n u units).channel n).waits.any fun w =>
          w.call.isLocal && w.call.talker == hdr.unit.toNat && w.call.id == hdr.callId.toNat) = true :=
        List.any_eq_true.mpr ⟨w, hw, by simp [here, talker, id, u]⟩
      rw [if_pos waits, id]
      exact (State.setsChannel.refl.removeWait hdr.callId.toNat).here
    · rw [endLocal_other (m := s.unlimited n u units) foreign]
      have waits : ¬(((s.unlimited n u units).channel n).waits.any fun w =>
          w.call.isLocal && w.call.talker == hdr.unit.toNat && w.call.id == hdr.callId.toNat) = true := fun found => by
        obtain ⟨w, hw, mine⟩ := List.any_eq_true.mp found
        simp only [Bool.and_eq_true, beq_iff_eq] at mine
        obtain ⟨⟨here, talker⟩, id⟩ := mine
        exact nobody w hw ⟨here, talker, id⟩
      rw [if_neg waits]
      cases limited : (s.record u).any Record.talkLimited with
      | true =>
        exact ⟨rfl, fun quiet => sameSending_dropped x.handle rfl quiet, nofun, fun _ => stray_kept law rfl⟩
      | false =>
        exact ⟨rfl, fun quiet => sameSending_dropped x.handle rfl quiet, fun _ => stray_raised law rfl, nofun⟩
end

section
/-! PROOFS. A call that is decided (R130 to R133): what its waiting, its preemption of another call and its grant send. -/

namespace Sys2Proof.Machine

variable {s base u t t₁ : State} {x h : Handle} {p : PortNo} {n : ChannelNo} {call cur : Call} {hdr : Header} {v : UnitId}
  {b : Channel} {idle : Bool} {w : WaitEntry}

/-! ## Waiting (R133) -/

theorem Says.joinList (n : ChannelNo) (call : Call) (s : State) :
    Says x idle 1 1 (if call.isLocal then [Claim.onChannel n (call.answer .callQueued 0) []] else []) [] s
      (Machine.joinList n call s) := by
  have joined := Says.mod (x := x) (idle := idle) (n := n)
    (fun y => { y with waits := joinEntry (waitEntryOf call s) y.waits }) s
  unfold Machine.joinList
  cases call.isLocal with
  | false => exact joined.mono (Nat.zero_le 1) (Nat.zero_le 1) fun f hf => hf
  | true => exact joined.trans (.sendAnswer n _ _)

theorem joinWait_room (few : (s.channel n).waits.length < 8) : joinWait n call s = joinList n call s := by
  unfold joinWait
  exact if_pos few

theorem joinWait_busy (full : 8 ≤ (s.channel n).waits.length)
    (nobody : call.emergency = false ∨ ∀ w ∈ (s.channel n).waits, w.call.emergency = true) :
    joinWait n call s = turnAway n call 1#8 s := by
  have few : ¬(s.channel n).waits.length < Config.waitListCapacity := Nat.not_lt.mpr full
  unfold joinWait
  simp only [few, if_false]
  rcases nobody with routine | emergency
  · rw [routine]
    rfl
  · rw [removeNewestWait_of_emergency emergency]
    exact ite_self _

theorem joinWait_displaces {ahead behind : List WaitEntry} (full : 8 ≤ (s.channel n).waits.length)
    (urgent : call.emergency = true) (newest : newestRoutine ahead w behind (s.channel n).waits) :
    joinWait n call s
      = joinList n call (turnAway n w.call 1#8 (modChannel n (fun y => { y with waits := ahead ++ behind }) s)) := by
  have few : ¬(s.channel n).waits.length < Config.waitListCapacity := Nat.not_lt.mpr full
  unfold joinWait
  simp only [few, if_false, urgent, if_true, removeNewestWait_of_newest newest]

/-! ## Preemption (R132) -/

theorem requeueRemote_room (few : (s.channel n).waits.length < 8) :
    requeueRemote n cur s
      = modChannel n (fun y => { y with waits := rejoinEntry (waitEntryOf { cur with emergency := false } s) y.waits }) s := by
  unfold requeueRemote
  exact if_pos few

theorem requeueRemote_busy (full : 8 ≤ (s.channel n).waits.length)
    (nobody : ∀ w ∈ (s.channel n).waits, w.call.emergency = true) : requeueRemote n cur s = s.count .callsNotCarried := by
  have few : ¬(s.channel n).waits.length < Config.waitListCapacity := Nat.not_lt.mpr full
  unfold requeueRemote
  simp only [few, if_false, removeNewestWait_of_emergency nobody]

theorem requeueRemote_displaces {ahead behind : List WaitEntry} (full : 8 ≤ (s.channel n).waits.length)
    (newest : newestRoutine ahead w behind (s.channel n).waits) :
    requeueRemote n cur s
      = modChannel n
          (fun y =>
            { y with
              waits :=
                rejoinEntry (waitEntryOf { cur with emergency := false } s) y.waits })
          (turnAway n w.call 1#8 (modChannel n (fun y => { y with waits := ahead ++ behind }) s)) := by
  have few : ¬(s.channel n).waits.length < Config.waitListCapacity := Nat.not_lt.mpr full
  unfold requeueRemote
  simp only [few, if_false, removeNewestWait_of_newest newest]

theorem preemptCall_local (here : cur.isLocal = true) :
    preemptCall n cur s
      = modChannel n (fun y => { y with lastEnded := some cur.id })
          (offerCall .callEnd cur (setTalking cur.talker false (sendDekey n cur 2#8 s))) := if_pos here

theorem preemptCall_remote (away : cur.isLocal = false) : preemptCall n cur s = requeueRemote n cur s :=
  if_neg (by simp [away])

theorem Says.preemptLocal (here : cur.isLocal = true) (s : State) :
    Says x idle 2 2
      (Claim.onChannel n (cur.dekey 2) [] :: offerClaims s.net idle (cur.frame .callEnd) (remoteSet cur.talkgroup s)) [] s
      (Machine.preemptCall n cur s) := by
  rw [preemptCall_local here]
  have sent := (((Says.sendAnswer (x := x) (idle := idle) n (cur.dekey 2) s).trans (.setTalking cur.talker false _)).trans
    (.offerCall .callEnd cur _)).trans (.mod (n := n) (fun y => { y with lastEnded := some cur.id }) _)
  exact sent.mono (le_refl 2) (le_refl 2) fun f hf => List.mem_append_left [] hf

/-! ## The state in which a call is decided -/

/-- The state in which the arbiter takes up a received frame: its buffer is held, and the records, the channel and the call
counter may have moved. -/
def Enters (p : PortNo) (s base : State) : Prop :=
  base = { s with io := takenAt p s.io, units := base.units, channels := base.channels, callCounter := base.callCounter }

namespace Enters

variable (enters : Enters p s base)
include enters

theorem io : base.io = takenAt p s.io := by rw [enters]

theorem active : base.active = s.active := by rw [enters]

theorem net : base.net = s.net := by rw [enters]; rfl

theorem grantedPhase (call : Call) : base.grantedPhase call = s.grantedPhase call := by rw [enters]; rfl

theorem waitEntryOf (call : Call) : Machine.waitEntryOf call base = Machine.waitEntryOf call s := by rw [enters]; rfl

theorem remoteSet (g : TalkgroupId) : Machine.remoteSet g base = Machine.remoteSet g s := by rw [enters]; rfl

theorem offerClaims (hdr : Header) (set : SiteSet) :
    Machine.offerClaims base.net idle hdr set = Machine.offerClaims s.net idle hdr set := by rw [enters.net]

end Enters

/-- An event that has decided a call: what it sends and counts in all, up to the release of the received frame. -/
structure Event (p : PortNo) (x : Handle) (claims : List Claim) (raised : List DevCounter) (s base t : State) : Prop where
  enters : Enters p s base
  taken : s.roomFor 4 4 → x ∉ s.io.pool.free
  sent : ∃ a c, a ≤ 4 ∧ c ≤ 4 ∧ Says x s.placesAll a c claims raised base t

namespace Event

variable {claims : List Claim} {raised : List DevCounter} (event : Event p x claims raised s base t)
include event

theorem notCarried : s.notCarried (raised.count .callsNotCarried) (t.onIo fun c => dropReference c x) := by
  obtain ⟨a, c, -, -, sent⟩ := event.sent
  have all := notCarried_of_raises ((sent.raises.trans (.dropped x _)).ofLive (s := s) (by rw [event.enters.io]; rfl))
  rwa [List.append_nil] at all

theorem stands (room : s.roomFor 4 4) :
    ∀ f ∈ claims, Stands s.io.pool.free f.entries (frameBytes f.header f.payload) (t.onIo fun c => dropReference c x).io := by
  obtain ⟨a, c, few, few', sent⟩ := event.sent
  exact stands_received event.enters.io event.enters.active sent room few few' (event.taken room) t.net

theorem queued {hdr : Header} (room : s.roomFor 4 4) (claim : Claim.onChannel n hdr [] ∈ claims) :
    s.queuedOn n hdr [] (t.onIo fun c => dropReference c x) := queuedOn_of_stands (event.stands room _ claim)

end Event

/-- What happens after the decision and before the release of the frame: its other sites are served, with at most so many
entries in a queue. -/
structure Follows (x : Handle) (idle : Bool) (j : Nat) (t t₁ : State) : Prop where
  sent : Says x idle 0 j [] [] t t₁
  channels : t₁.channels = t.channels
  units : t₁.units = t.units

theorem Follows.refl (t : State) : Follows x idle 0 t t := ⟨.refl t, rfl, rfl⟩

theorem Follows.channel {j : Nat} (h : Follows x idle j t t₁) (k : ChannelNo) : t₁.channel k = t.channel k := by
  unfold State.channel
  rw [h.channels]

theorem Event.of {a c j : Nat} {claims : List Claim} {raised : List DevCounter} (enters : Enters p s base)
    (taken : s.roomFor 4 4 → x ∉ s.io.pool.free) (sent : Says x s.placesAll a c claims raised base t)
    (follows : Follows x s.placesAll j t t₁) (few : a ≤ 4) (few' : c + j ≤ 4) : Event p x claims raised s base t₁ := by
  have all := sent.trans follows.sent
  rw [List.append_nil, List.append_nil] at all
  exact ⟨enters, taken, _, _, by omega, by omega, all⟩

/-- R133: a call that waits, as the statements have it. -/
theorem waitsFor_of {j : Nat} (enters : Enters p s base) (taken : s.roomFor 4 4 → x ∉ s.io.pool.free)
    (follows : Follows x s.placesAll j (joinWait n call base) t₁) (few : j ≤ 2) :
    s.waitsFor n (base.channel n) call (t₁.onIo fun c => dropReference c x) := by
  have sets := (State.setsChannel.refl (s := base) (n := n)).joinWait call
  rw [enters.waitEntryOf] at sets
  have channel : (t₁.onIo fun c => dropReference c x).channel n = (base.channel n).joined (waitEntryOf call s) :=
    (follows.channel n).trans sets.here
  unfold State.waitsFor
  intro entry
  refine ⟨fun fewer => ?_, fun full nobody => ?_, fun ahead w behind full urgent newest => ?_⟩
  · rw [joinWait_room fewer] at follows
    have event := Event.of enters taken (.joinList n call base) follows (by omega) (by omega)
    refine ⟨channel.trans (if_pos fewer), event.notCarried, fun room here => event.queued room ?_⟩
    rw [if_pos here]
    exact List.mem_singleton.mpr rfl
  · have notFew : ¬(base.channel n).waits.length < Config.waitListCapacity := Nat.not_lt.mpr full
    have same : (base.channel n).joined (waitEntryOf call s) = base.channel n := by
      unfold Channel.joined
      rw [if_neg notFew]
      rcases nobody with routine | emergency
      · exact if_neg (by rw [show (waitEntryOf call s).call.emergency = call.emergency from rfl, routine]; simp)
      · rw [removeNewestWait_of_emergency emergency]
        exact ite_self _
    rw [joinWait_busy full nobody] at follows
    have event := Event.of enters taken (.turnAway n call 1#8 base) follows (by omega) (by omega)
    refine ⟨channel.trans same, event.notCarried, fun room here => event.queued room ?_⟩
    rw [refusal, if_pos here]
    exact List.mem_singleton.mpr rfl
  · have notFew : ¬(base.channel n).waits.length < Config.waitListCapacity := Nat.not_lt.mpr full
    have same : (base.channel n).joined (waitEntryOf call s)
        = { base.channel n with waits := joinEntry entry (ahead ++ behind) } := by
      unfold Channel.joined
      rw [if_neg notFew, if_pos (show (waitEntryOf call s).call.emergency = true from urgent),
        removeNewestWait_of_newest newest]
      rfl
    rw [joinWait_displaces full urgent newest] at follows
    have sent := ((Says.mod (x := x) (idle := s.placesAll) (n := n) (fun y => { y with waits := ahead ++ behind }) base).trans
      (.turnAway n w.call 1#8 _)).trans (.joinList n call _)
    have event := Event.of enters taken sent follows (by omega) (by omega)
    refine ⟨channel.trans same, event.notCarried, fun room => ⟨fun here => event.queued room ?_, fun here =>
      event.queued room ?_⟩⟩
    · refine List.mem_append_left _ (List.mem_append_right _ ?_)
      rw [refusal, if_pos here]
      exact List.mem_singleton.mpr rfl
    · refine List.mem_append_right _ ?_
      rw [if_pos here]
      exact List.mem_singleton.mpr rfl

/-! ## Grants (R131) -/

/-- What a grant on arrival sends beside the frame itself. -/
def arrivalClaims (n : ChannelNo) (call : Call) : Arrival → List Claim
  | .localStart _ => [Claim.onChannel n (call.answer .callGrant 0) []]
  | .remoteFrame _ => []

/-- The most entries of a queue that a grant on arrival takes. -/
def Arrival.entries : Arrival → Nat
  | .localStart _ => 2
  | .remoteFrame _ => 1

theorem Says.modHeader (x : Handle) (f : Header → Header) (s : State) :
    Says x idle 0 0 [] [] s (s.onIo fun _ => Machine.modHeader x f) :=
  ⟨fun _ => .ofPlaced (f := fun _ => Machine.modHeader x f) fun _ _ => ⟨_, _, placed_modHeader x f s.io⟩, fun free => free,
    .same rfl, rfl, frameOf_channels.io s _⟩

theorem Says.grantArrival (n : ChannelNo) (call : Call) (src : Arrival) (s : State) :
    Says src.handle idle 1 src.entries (arrivalClaims n call src) [] s (Machine.grantArrival n call src s) := by
  have current := Says.makeCurrent (x := src.handle) (idle := idle) n call s
  cases src with
  | localStart h =>
    exact current.trans (((Says.sendAnswer n (call.answer .callGrant 0) _).trans (.modHeader h _ _)).trans
      (.offerFrame n h call _))
  | remoteFrame h => exact (current.trans (.deliverReceived n h _)).mono (Nat.zero_le 1) (le_refl 1) fun f hf => hf

theorem grantArrival_units (n : ChannelNo) (call : Call) (src : Arrival) (s : State) :
    (grantArrival n call src s).units = if call.isLocal then (setTalking call.talker true s).units else s.units := by
  unfold grantArrival makeCurrent
  cases src <;> cases call.isLocal <;> rfl

/-- R132: a preempted call, as the statements have it. -/
theorem preempts_of {j : Nat} {src : Arrival} (enters : Enters p s base)
    (taken : s.roomFor 4 4 → src.handle ∉ s.io.pool.free)
    (follows : Follows src.handle s.placesAll j (grantArrival n call src (preemptCall n cur base)) t₁)
    (few : src.entries + j ≤ 2) (routine : cur.emergency = false)
    (others : cur.talker ≠ call.talker ∨ call.isLocal = false → base.record cur.talker = s.record cur.talker) :
    s.preempts n (base.channel n) cur call (t₁.onIo fun c => dropReference c src.handle) := by
  have same : ({ cur with emergency := false } : Call) = cur := by rw [← routine]
  have sets := ((State.setsChannel.refl (s := base) (n := n)).preemptCall cur).grantArrival call src
  rw [enters.waitEntryOf, enters.grantedPhase, same] at sets
  have channel : (t₁.onIo fun c => dropReference c src.handle).channel n
      = { (base.channel n).preempted (waitEntryOf cur s) with phase := s.grantedPhase call } :=
    (follows.channel n).trans sets.here
  unfold State.preempts
  intro back granted
  refine ⟨fun here => ?_, fun away fewer => ?_, fun away full nobody => ?_, fun ahead w behind away full newest => ?_⟩
  · have kept : (base.channel n).preempted (waitEntryOf cur s) = { base.channel n with lastEnded := some cur.id } :=
      if_pos here
    have event := Event.of enters taken ((Says.preemptLocal here base).trans (.grantArrival n call src _)) follows
      (by omega) (by omega)
    refine ⟨channel.trans (by rw [kept]), event.notCarried, fun r hr apart => ?_, fun room => ⟨?_, ?_⟩⟩
    · have quiet := (record_quieted (s := base) (t := preemptCall n cur base) (v := cur.talker)
        (by rw [preemptCall_local here]; rfl)).2 r ((others apart).trans hr)
      have units := follows.units.trans (grantArrival_units n call src (preemptCall n cur base))
      cases hc : call.isLocal with
      | false =>
        rw [hc] at units
        exact (record_of_units units).trans quiet
      | true =>
        rw [hc] at units
        refine (record_of_units units).trans ?_
        refine (modUnit_record_other (f := fun r => { r with talking := true }) (fun eq => ?_) fun _ => rfl).trans quiet
        rcases apart with apart | remote
        · exact apart eq
        · rw [hc] at remote
          cases remote
    · exact event.queued room (List.mem_append_left _ List.mem_cons_self)
    · refine offeredBuilt_of_stands placesAll_iff.mpr fun f hf => event.stands room f
        (List.mem_append_left _ (List.mem_cons_of_mem _ ?_))
      rw [enters.offerClaims, enters.remoteSet]
      exact hf
  · have kept : (base.channel n).preempted (waitEntryOf cur s)
        = { base.channel n with waits := rejoinEntry back (base.channel n).waits } :=
      (if_neg (by rw [show (waitEntryOf cur s).call.isLocal = cur.isLocal from rfl, away]; exact Bool.false_ne_true)).trans
        (if_pos fewer)
    rw [preemptCall_remote away, requeueRemote_room fewer] at follows
    have event := Event.of enters taken ((Says.mod (n := n) (fun y =>
      { y with waits := rejoinEntry (waitEntryOf { cur with emergency := false } base) y.waits }) base).trans
        (.grantArrival n call src _)) follows (by omega) (by omega)
    exact ⟨channel.trans (by rw [kept]), event.notCarried⟩
  · have kept : (base.channel n).preempted (waitEntryOf cur s) = base.channel n := by
      refine (if_neg (by rw [show (waitEntryOf cur s).call.isLocal = cur.isLocal from rfl, away]; exact Bool.false_ne_true)).trans
        ((if_neg (Nat.not_lt.mpr full)).trans ?_)
      rw [removeNewestWait_of_emergency nobody]
    rw [preemptCall_remote away, requeueRemote_busy full nobody] at follows
    have event := Event.of enters taken ((Says.count .callsNotCarried base).trans (.grantArrival n call src _)) follows
      (by omega) (by omega)
    exact ⟨channel.trans (by rw [kept]), event.notCarried⟩
  · have kept : (base.channel n).preempted (waitEntryOf cur s)
        = { base.channel n with waits := rejoinEntry back (ahead ++ behind) } := by
      refine (if_neg (by rw [show (waitEntryOf cur s).call.isLocal = cur.isLocal from rfl, away]; exact Bool.false_ne_true)).trans
        ((if_neg (Nat.not_lt.mpr full)).trans ?_)
      rw [removeNewestWait_of_newest newest]
      rfl
    rw [preemptCall_remote away, requeueRemote_displaces full newest] at follows
    have sent := (((Says.mod (x := src.handle) (idle := s.placesAll) (n := n)
      (fun y => { y with waits := ahead ++ behind }) base).trans (.turnAway n w.call 1#8 _)).trans
      (.mod (n := n) (fun y =>
        { y with waits := rejoinEntry (waitEntryOf { cur with emergency := false } base) y.waits }) _)).trans
      (.grantArrival n call src _)
    have event := Event.of enters taken sent follows (by omega) (by omega)
    refine ⟨channel.trans (by rw [kept]), event.notCarried, fun room here => event.queued room ?_⟩
    refine List.mem_append_left _ (List.mem_append_left _ (List.mem_append_right _ ?_))
    rw [refusal, if_pos here]
    exact List.mem_singleton.mpr rfl

/-! ## The decision (R130) -/

/-- What a decision leaves, as the statements have it: `granted` is what a grant leaves beside the channel. -/
theorem decides_of {j : Nat} {src : Arrival} {granted : State → Prop} (enters : Enters p s base)
    (taken : s.roomFor 4 4 → src.handle ∉ s.io.pool.free)
    (follows : Follows src.handle s.placesAll j (decideCall n call src base) t₁) (few : src.entries + j ≤ 2)
    (others : ∀ cur talk gap, (base.channel n).phase = .active cur talk gap →
      cur.talker ≠ call.talker ∨ call.isLocal = false → base.record cur.talker = s.record cur.talker)
    (grants : ∀ base', base' = base ∨ (∃ cur talk gap, (base.channel n).phase = .active cur talk gap
        ∧ base' = preemptCall n cur base) →
      decideCall n call src base = grantArrival n call src base' →
      granted (t₁.onIo fun c => dropReference c src.handle)) :
    s.decides n (base.channel n) call granted (t₁.onIo fun c => dropReference c src.handle) := by
  have few' : j ≤ 2 := by omega
  refine ⟨fun free => ?_, fun g e d hang other calm => ?_, fun cur talk gap active => ⟨fun calm => ?_, fun urgent routine => ?_⟩⟩
  · have decided : decideCall n call src base = grantArrival n call src base := by
      unfold decideCall
      rcases free with idle | ⟨e, d, hang⟩ | ⟨g, d, hang, urgent⟩
      · rw [idle]
      · rw [hang]
        exact if_pos rfl
      · rw [hang]
        simp only [urgent, Bool.not_false, Bool.and_self, if_true, ite_self]
    refine ⟨?_, ?_, grants base (.inl rfl) decided⟩
    · rw [decided] at follows
      refine (follows.channel n).trans ?_
      rw [← enters.grantedPhase]
      exact (State.setsChannel.refl.grantArrival call src).here
    · rw [decided] at follows
      exact (Event.of enters taken (.grantArrival n call src base) follows (by omega) (by omega)).notCarried
  · have decided : decideCall n call src base = joinWait n call base := by
      unfold decideCall
      rw [hang]
      have no : (call.emergency && !e) = false := by rcases calm with h | h <;> simp [h]
      simp only [other, if_false, no, Bool.false_eq_true]
    rw [decided] at follows
    exact waitsFor_of enters taken follows few'
  · have decided : decideCall n call src base = joinWait n call base := by
      unfold decideCall
      rw [active]
      have no : (call.emergency && !cur.emergency) = false := by rcases calm with h | h <;> simp [h]
      simp only [no, Bool.false_eq_true, if_false]
    rw [decided] at follows
    exact waitsFor_of enters taken follows few'
  · have decided : decideCall n call src base = grantArrival n call src (preemptCall n cur base) := by
      unfold decideCall
      rw [active]
      simp only [urgent, routine, Bool.not_false, Bool.and_self, if_true]
    have granted' := grants _ (.inr ⟨cur, talk, gap, active, rfl⟩) decided
    rw [decided] at follows
    exact ⟨preempts_of enters taken follows few routine (others cur talk gap active), granted'⟩

end Sys2Proof.Machine
end

section
/-! PROOFS. The two halves of a call frame from a link (R38): the copy for the own site, delivered on its channel, and the
rest of its set, forwarded. -/

namespace Sys2Proof.Machine

variable {s base u t t₁ : State} {io : Io} {x : Handle} {p : PortNo} {n : ChannelNo} {l : LinkNo} {call cur : Call}
  {hdr : Header} {idle : Bool} {i : Nat} {c : Net}

/-! ## The rest of the set -/

theorem device_ne_port {d : DevCounter} (p : PortNo) (e : PortCounter) : d.number ≠ portCounterNumber p e := by
  have low : d.number < 18 := by cases d <;> decide
  simp only [portCounterNumber]
  omega

theorem keepsCounter_forwardTargets (he : ¬entryCounter i) (hl : ∀ e, i ≠ portCounterNumber (linkPort l) e) (c : Net)
    (x : Handle) (hdr : Header) : KeepsCounter i (forwardTargets c l x hdr) := by
  intro io
  unfold forwardTargets
  simp only
  split
  · rfl
  · split
    · exact bumpAt_other (hl .hopExpired) io
    · exact (KeepsCounter.fanOutSet he c x _ _ _ _ _).trans (KeepsCounter.countLost (hl .noRoute) _ io)

theorem forwardTargets_idle (free : io.engine = Engine.idle) : (forwardTargets c l x hdr io).engine = Engine.idle := by
  unfold forwardTargets
  simp only
  split
  · exact free
  · split
    · exact free
    · exact fanOutSet_idle (by rw [countLost_engine]; exact free) _ _ _ _ _ _

theorem placed_countLost (x : Handle) (q : Option PortNo) (k : Nat) (io : Io) : Placed x id 0 0 io (countLost q k io) := by
  rw [countLost_same q k io]
  exact placed_live x _ io

theorem placed_forwardTargets (wait : io.linksWait) : ∃ f r, Placed x f 1 r io (forwardTargets c l x hdr io) := by
  by_cases none : dropSite hdr.targets c.active.ownSite = 0
  · rw [forwardTargets_nowhere none]
    exact ⟨id, 0, (Placed.refl x io).mono (Nat.zero_le 1)⟩
  · by_cases few : hdr.hop.toNat ≤ 1
    · rw [forwardTargets_expired none few]
      exact ⟨id, 0, (placed_count x _ io).mono (Nat.zero_le 1)⟩
    · rw [forwardTargets_spread none (by omega) wait]
      have spread := (placed_countLost x (some (linkPort l))
        (c.unreachable (dropSite hdr.targets c.active.ownSite)).length io).trans (placed_spread c
        (c.grouped l x hdr (dropSite hdr.targets c.active.ownSite)) _)
      exact ⟨_, _, spread.mono (Nat.zero_add 1).le⟩

theorem KeepsPort.forwardTargets (off : ∀ l, linkPort l ≠ p) (c : Net) (l : LinkNo) (x : Handle) (hdr : Header) :
    KeepsPort p (Machine.forwardTargets c l x hdr) := by
  intro io
  unfold Machine.forwardTargets
  simp only
  split
  · rfl
  · split
    · rfl
    · exact (fanOutSet off c x _ _ _ _ _).trans (countLost _ _ io)

theorem sitesVia_empty (c : Net) (m : LinkNo) : c.sitesVia 0 m = 0 :=
  (sitesVia_eq_zero _).mpr fun k hk => absurd hk (by simp)

/-- The other sites of a frame's set are served after its copy for the own site. -/
theorem follows_forwardTargets (l : LinkNo) (x : Handle) (hdr : Header) (t : State) :
    Follows x idle 1 t (t.onIo fun c => forwardTargets c l x hdr) := by
  refine ⟨⟨fun _ => .ofPlaced fun m' room => ?_, fun free => forwardTargets_idle free, ⟨?_, fun _ d hd => ?_⟩, rfl,
    frameOf_channels.io t _⟩, rfl, rfl⟩
  · exact placed_forwardTargets fun m => ⟨(room (linkPort m)).1, by have := (room (linkPort m)).2; omega⟩
  · exact (Moves.forwardTargets (P := False) False.elim l x hdr t.io).counters.1
  · exact keepsCounter_forwardTargets (entry_of_not_placing (not_placingCounter hd)) (fun e => device_ne_port _ e) _ x hdr t.io

/-- Where the entries of a forwarded frame stand (R38). -/
theorem forwarded_after (same : s.io.linksAs io) (wait : ∀ m, s.waitsAt (linkPort m))
    (quiet : s.io.pool.noticePending = false) (ht : t.io = dropReference s.net x (forwardTargets s.net l x hdr io)) :
    (hdr.hop.toNat ≤ 1 → ∀ m, t.queueOf (linkPort m) = s.queueOf (linkPort m))
      ∧ (2 ≤ hdr.hop.toNat → s.io.engine = Engine.idle → ∀ m, t.queueOf (linkPort m)
        = if s.net.sitesVia hdr.targets m = 0 then s.queueOf (linkPort m)
          else
            insertEntry
              { handle := x
                cls := hdr.frameClass
                hop := hdr.hop.toNat - 1
                addressing := .subset (s.net.sitesVia hdr.targets m) }
              (s.queueOf (linkPort m))) := by
  obtain ⟨f, r, placed⟩ := placed_forwardTargets (c := s.net) (x := x) (hdr := hdr) (l := l) (same.wait wait)
  have ports : t.io.ports = (forwardTargets s.net l x hdr io).ports := by
    rw [ht, dropReference_ports_of_no_notice s.net x (placed.quiet.trans (same.quiet.trans quiet))]
  have queue (m : LinkNo) (io' : Io) (hio : io'.ports = io.ports) : io'.ports[(linkPort m).val].queue = s.queueOf (linkPort m) := by
    rw [hio]
    exact (same.ports m).1
  refine ⟨fun few m => ?_, fun more idle m => ?_⟩
  · unfold State.queueOf
    rw [ports]
    by_cases none : dropSite hdr.targets s.own = 0
    · rw [forwardTargets_nowhere (c := s.net) none]
      exact queue m io rfl
    · rw [forwardTargets_expired (c := s.net) none few]
      exact queue m (countPort (linkPort l) .hopExpired io) rfl
  · unfold State.queueOf
    rw [ports]
    have via : s.net.sitesVia (dropSite hdr.targets s.own) m = s.net.sitesVia hdr.targets m := sitesVia_dropOwn _ _ _
    by_cases none : dropSite hdr.targets s.own = 0
    · rw [forwardTargets_nowhere (c := s.net) none, if_pos (by rw [← via, none]; exact sitesVia_empty _ m)]
      exact queue m io rfl
    · have lost := countLost_same (some (linkPort l)) (s.net.unreachable (dropSite hdr.targets s.own)).length io
      have spread := forwardTargets_spread (c := s.net) (l := l) (h := x) none more (same.wait wait)
      set io1 := countLost (some (linkPort l)) (s.net.unreachable (dropSite hdr.targets s.own)).length io with hio1
      set f := s.net.grouped l x hdr (dropSite hdr.targets s.own) with hf
      rw [show forwardTargets s.net l x hdr io = f.spread s.net io1 from spread, spread_queue]
      have engine : io1.engine = s.io.engine := by rw [lost]; exact same.engine
      have groups : f.groups = s.net.groups (dropSite hdr.targets s.own) := rfl
      have placed : m ∈ f.links.take io1.engine.now ↔ s.net.sitesVia hdr.targets m ≠ 0 := by
        rw [engine, ← placesNow_iff groups, placesNow_idle idle, via, bne_iff_ne]
      have queue1 : io1.ports[(linkPort m).val].queue = s.queueOf (linkPort m) := queue m io1 (by rw [lost])
      by_cases routes : s.net.sitesVia hdr.targets m = 0
      · rw [if_neg (placed.not.mpr (not_not.mpr routes)), if_pos routes, queue1]
        rfl
      · rw [if_pos (placed.mpr routes), if_neg routes, queue1, Fanout.entry, groups, groups_get, via]
        rfl

end Sys2Proof.Machine
end

section
/-! PROOFS. The copy of a call frame for the own site on its channel (R44, R134 to R136), and the received frame while other
frames are sent. -/

namespace Sys2Proof.Machine

variable {s base base' u t t₁ : State} {io : Io} {x k : Handle} {p : PortNo} {n : ChannelNo} {l : LinkNo} {call cur : Call}
  {hdr : Header} {idle : Bool} {i : Nat} {c : Net}

/-! ## Who talks, in a decision -/

namespace State.talksAlone

theorem joinList (n : ChannelNo) (call : Call) (s : State) : s.talksAlone (Machine.joinList n call s) := by
  unfold Machine.joinList
  simp only
  split <;> exact still rfl rfl

theorem joinWait (n : ChannelNo) (call : Call) (s : State) : s.talksAlone (Machine.joinWait n call s) := by
  unfold Machine.joinWait
  simp only
  split
  · exact joinList n call s
  · split
    · split
      · exact turnAway n call _ s
      · exact ((still rfl rfl : s.talksAlone (modChannel n _ s)).trans (turnAway n _ _ _)).trans (joinList n call _)
    · exact turnAway n call _ s

theorem preemptCall (n : ChannelNo) (call : Call) (s : State) : s.talksAlone (Machine.preemptCall n call s) := by
  unfold Machine.preemptCall Machine.requeueRemote
  split
  · exact ((still rfl rfl : s.talksAlone (sendDekey n call 2#8 s)).trans (setTalking call.talker false _)).trans
      (still rfl rfl)
  · simp only
    split
    · exact still rfl rfl
    · split
      · exact still rfl rfl
      · exact ((still rfl rfl : s.talksAlone (modChannel n _ s)).trans (turnAway n _ _ _)).trans (still rfl rfl)

theorem grantArrival (n : ChannelNo) (call : Call) (src : Arrival) (s : State) :
    s.talksAlone (Machine.grantArrival n call src s) := by
  refine (makeCurrent n call s).trans ?_
  cases src <;> exact still rfl rfl

theorem decideCall (n : ChannelNo) (call : Call) (src : Arrival) (s : State) :
    s.talksAlone (Machine.decideCall n call src s) := by
  unfold Machine.decideCall
  cases (s.channel n).phase with
  | idle => exact grantArrival n call src s
  | hang g e d =>
    simp only
    split
    · exact grantArrival n call src s
    · split
      · exact grantArrival n call src s
      · exact joinWait n call s
  | active cur talk gap =>
    simp only
    split
    · exact (preemptCall n cur s).trans (grantArrival n call src _)
    · exact joinWait n call s

end State.talksAlone

/-! ## A received frame while others are sent -/

/-- An answer on a channel with room leaves the buffer of another frame. -/
theorem sendAnswer_other (used : k ∉ s.io.pool.free) (wait : s.waitsAt (chanPort n))
    (quiet : s.io.pool.noticePending = false) (hdr : Header) :
    bufferOf k (sendAnswer n hdr s).io = bufferOf k s.io := by
  refine sendBuilt_other (c := s.net) used (fun h io' apart ports _ => ?_) quiet
  have put : deliver s.net n hdr.frameClass h io' = putEntry (chanPort n) (channelEntry hdr.frameClass h) io' :=
    placeEntry_room s.net (by rw [ports]; exact wait.2) (by rw [ports]; exact wait.1)
  rw [put, putEntry_buffer, if_neg (show k ≠ (channelEntry hdr.frameClass h).handle from apart.symm)]
  exact ⟨rfl, rfl⟩

theorem room_waitsAt {reserve a m : Nat} (room : Room reserve a (m + 1) s.io) (p : PortNo) : s.waitsAt p :=
  ⟨room.busy p, Nat.lt_of_lt_of_le (Nat.lt_succ_of_le (Nat.le_add_right _ m)) (room.queues p)⟩

theorem turnAway_other {reserve a m : Nat} (room : Room reserve a (m + 1) s.io) (used : k ∉ s.io.pool.free) (n : ChannelNo)
    (call : Call) (cause : Byte) : bufferOf k (turnAway n call cause s).io = bufferOf k s.io := by
  unfold turnAway
  simp only
  split
  · exact sendAnswer_other used (room_waitsAt room _) room.quiet _
  · rfl

/-- Preemption leaves the buffer of the frame that asks for it. -/
theorem preemptCall_other {a m : Nat} (room : Room s.active.bufferReserve (a + 2) (m + 2) s.io) (used : k ∉ s.io.pool.free)
    (n : ChannelNo) (cur : Call) : bufferOf k (preemptCall n cur s).io = bufferOf k s.io := by
  cases here : cur.isLocal with
  | true =>
    rw [preemptCall_local here]
    obtain ⟨room', kept, -⟩ :=
      ((Says.sendAnswer (x := k) (idle := false) n (cur.dekey 2) s).issues nofun).room (a + 1) (m + 1) room used
    refine (offerBuilt_other (io := (sendDekey n cur 2#8 s).io) (fun free => used (kept.free k free))
      (fun l => ⟨room'.busy _, ?_⟩) room'.quiet _ _).trans (sendAnswer_other used (room_waitsAt room _) room.quiet _)
    have := room'.queues (linkPort l)
    exact Nat.lt_of_lt_of_le (Nat.lt_succ_of_le (Nat.le_add_right _ m)) this
  | false =>
    rw [preemptCall_remote here]
    unfold requeueRemote
    simp only
    split
    · rfl
    · split
      · rfl
      · exact turnAway_other (s := modChannel n _ s) (m := m + 1) room used n _ 1#8

/-! ## The copy on its channel -/

/-- A received frame delivered where there is room (R44). -/
theorem deliverReceived_io (wait : s.waitsAt (chanPort n)) :
    (deliverReceived n x s).io = putEntry (chanPort n) (channelEntry (parseHeader (bytesOf x s.io)).frameClass x) s.io :=
  placeEntry_room s.net wait.2 wait.1

theorem linksAs_putEntry (n : ChannelNo) (e : Entry) (io : Io) : io.linksAs (putEntry (chanPort n) e io) :=
  ⟨fun l => ⟨(putEntry_queue (linkPort l)).trans (if_neg (linkPort_ne_chanPort l n)), putEntry_sending (linkPort l)⟩, rfl, rfl⟩

/-- The delivered frame's entry stands on its channel in the end, where the event had room (R44). -/
theorem delivered_queued {a m a' m' j j' : Nat} {claims claims' : List Claim} {raised raised' : List DevCounter}
    (enters : Enters p s base) (taken : x ∉ s.io.pool.free) (room : s.roomFor j j')
    (before : Says x s.placesAll a m claims raised base base')
    (bytes : Room base.active.bufferReserve (j - a + a) (j' - m + m) base.io → bytesOf x base'.io = bytesOf x base.io)
    (after : Says x s.placesAll a' m' claims' raised' (deliverReceived n x base') t₁)
    (frames : a + a' ≤ j) (entries : m + m' + 1 ≤ j') :
    channelEntry (parseHeader (bytesOf x s.io)).frameClass x
      ∈ (t₁.onIo fun c => dropReference c x).queueOf (chanPort n) := by
  have engine (on : s.placesAll = true) : base.io.engine = Engine.idle := by
    rw [enters.io]
    exact placesAll_iff.mp on
  have first : Issues x 0 0 [] s base := (Issues.taken p s).congr enters.active enters.io
  obtain ⟨room0, kept0, -⟩ := first.room j j' ((room_of_roomFor room).mono (by omega) (by omega)) taken
  rw [← enters.active] at room0
  have taken0 : x ∉ base.io.pool.free := fun free => taken (kept0.free x free)
  have room0' : Room base.active.bufferReserve (j - a + a) (j' - m + m) base.io := room0.mono (by omega) (by omega)
  obtain ⟨room1, kept1, -⟩ := (before.issues engine).room (j - a) (j' - m) room0' taken0
  have taken1 : x ∉ base'.io.pool.free := fun free => taken0 (kept1.free x free)
  have active1 := (before.issues engine).active
  have wait : base'.waitsAt (chanPort n) := room_waitsAt (m := j' - m - 1) (room1.mono (le_refl _) (by omega)) _
  have delivered := Says.deliverReceived (idle := s.placesAll) n x base'
  obtain ⟨room2, kept2, -⟩ := (delivered.issues fun on => before.engine (engine on)).room (j - a) (j' - m - 1)
    (active1 ▸ room1.mono (by omega) (by omega)) taken1
  have taken2 : x ∉ (deliverReceived n x base').io.pool.free := fun free => taken1 (kept2.free x free)
  obtain ⟨room3, kept3, -⟩ := (after.issues fun on => delivered.engine (before.engine (engine on))).room (j - a - a')
    (j' - m - 1 - m') (by
      rw [(delivered.issues fun on => before.engine (engine on)).active]
      exact room2.mono (by omega) (by omega)) taken2
  have stands : channelEntry (parseHeader (bytesOf x s.io)).frameClass x ∈ (deliverReceived n x base').queueOf (chanPort n) := by
    have same : bytesOf x base'.io = bytesOf x s.io := (bytes room0').trans (by rw [enters.io]; rfl)
    unfold State.queueOf
    rw [deliverReceived_io wait, putEntry_queue, if_pos rfl, same]
    exact (mem_insertEntry _ _ _).mpr (.inl rfl)
  have last := kept3.queue (chanPort n) _ stands
  show _ ∈ (dropReference t₁.net x t₁.io).ports[(chanPort n).val].queue
  rw [dropReference_ports_of_no_notice t₁.net x room3.quiet]
  exact last

end Sys2Proof.Machine
end

section
/-! PROOFS. A call frame from a link whose set holds the own site (R128, R134 to R136): what its channel makes of it. -/

namespace Sys2Proof.Machine

variable {s m u t t₁ : State} {x : Handle} {n : ChannelNo} {l : LinkNo} {call cur : Call} {hdr : Header} {idle : Bool}
  {g : TalkgroupEntry} {b : Channel} {id : CallId}

/-! ## The event -/

/-- What every event of a frame from a link leaves of the rest. -/
theorem linkFrame_done (here : hasSite hdr.targets s.own = true)
    (sets : (s.taken (linkPort l)).setsChannel n b (localCopy x hdr (s.taken (linkPort l))))
    (counter : (localCopy x hdr (s.taken (linkPort l))).callCounter = s.callCounter) :
    let t := ((localCopy x hdr (s.taken (linkPort l))).onIo fun c => forwardTargets c l x hdr).onIo fun c =>
      dropReference c x
    s.tookHanded (linkPort l) t ∧ s.sameButCalls t ∧ t.callCounter = s.callCounter
      ∧ ∀ k, k ≠ n → t.channel k = s.channel k := by
  intro t
  have acts := Acts.fanOut l x hdr (s.taken (linkPort l))
  unfold fanOut at acts
  rw [if_pos (show hasSite hdr.targets (s.taken (linkPort l)).own = true from here)] at acts
  refine ⟨tookHanded_of_acts acts x, ?_, counter, fun k hk => sets.other hk⟩
  have taken : s.sameButChannels (s.taken (linkPort l)) := frameOf_channels.io s _
  exact (frameOf_channels.trans (frameOf_channels.trans taken sets.frame)
    (frameOf_channels.trans (frameOf_channels.io _ _) (frameOf_channels.io _ _))).1

theorem fanOut_here (here : hasSite hdr.targets s.own = true) :
    fanOut l x hdr (s.taken (linkPort l))
      = (localCopy x hdr (s.taken (linkPort l))).onIo fun c => forwardTargets c l x hdr := by
  unfold fanOut
  rw [if_pos (show hasSite hdr.targets (s.taken (linkPort l)).own = true from here)]

/-- A frame that its channel counts, and no more. -/
theorem counted_forwarded {d : DevCounter} (hd : d ≠ .internalDrops) (law : s.counterLaw) :
    s.raised d ((((s.taken (linkPort l)).count d).onIo fun c => forwardTargets c l x hdr).onIo fun c => dropReference c x) := by
  have follows := follows_forwardTargets (idle := false) l x hdr ((s.taken (linkPort l)).count d)
  exact ((((Raises.count d (s.taken (linkPort l))).trans follows.sent.raises).trans (.dropped x _)).ofLive rfl).raised law hd
    (by simp)

/-! ## The kinds -/

theorem not_isKind {a k : Kind} (h : hdr.isKind a = true) (apart : a.code ≠ k.code) : hdr.isKind k = false := by
  have code : hdr.kind = a.code := by simpa [Header.isKind] using h
  simp [Header.isKind, code, apart]

theorem localCopy_start (found : findTalkgroup hdr.talkgroup.toNat m.talkgroups = some g) (hk : hdr.isKind .callStart = true) :
    localCopy x hdr m = takeRemoteStart g.channel x hdr m := by
  simp only [localCopy, found, hk, if_true]

theorem localCopy_voice (found : findTalkgroup hdr.talkgroup.toNat m.talkgroups = some g) (hk : hdr.isKind .voice = true) :
    localCopy x hdr m = takeRemoteVoice g.channel x hdr m := by
  simp only [localCopy, found, hk, not_isKind hk (k := .callStart) (by decide), if_true, Bool.false_eq_true, if_false]

theorem localCopy_end (found : findTalkgroup hdr.talkgroup.toNat m.talkgroups = some g) (hk : hdr.isKind .callEnd = true) :
    localCopy x hdr m = takeRemoteEnd g.channel x hdr m := by
  simp only [localCopy, found, not_isKind hk (k := .callStart) (by decide), not_isKind hk (k := .voice) (by decide),
    Bool.false_eq_true, if_false]

theorem localCopy_unknown (none : findTalkgroup hdr.talkgroup.toNat m.talkgroups = none) :
    localCopy x hdr m = m.count .callsNotCarried := by
  simp only [localCopy, none]

/-! ## The channel of the frame -/

theorem admitRemote_rest (n : ChannelNo) (x : Handle) (hdr : Header) (m : State) :
    m.talksAlone (admitRemote n x hdr m) ∧ ∃ b, m.setsChannel n b (admitRemote n x hdr m) := by
  unfold admitRemote
  split
  · exact ⟨.still rfl rfl, _, State.setsChannel.refl.count _⟩
  · exact ⟨.decideCall n _ _ m, _, State.setsChannel.refl.decideCall _ _⟩

theorem takeRemoteStart_rest (n : ChannelNo) (x : Handle) (hdr : Header) (m : State) :
    m.talksAlone (takeRemoteStart n x hdr m) ∧ ∃ b, m.setsChannel n b (takeRemoteStart n x hdr m) := by
  unfold takeRemoteStart
  simp only
  split
  · exact ⟨.still rfl rfl, _, State.setsChannel.refl.count _⟩
  · exact admitRemote_rest n x hdr m

theorem takeOtherVoice_rest (n : ChannelNo) (x : Handle) (hdr : Header) (m : State) :
    m.talksAlone (takeOtherVoice n x hdr m) ∧ ∃ b, m.setsChannel n b (takeOtherVoice n x hdr m) := by
  unfold takeOtherVoice
  simp only
  split
  · exact ⟨.still rfl rfl, _, State.setsChannel.refl.count _⟩
  · exact admitRemote_rest n x hdr m

theorem takeRemoteVoice_rest (n : ChannelNo) (x : Handle) (hdr : Header) (m : State) :
    m.talksAlone (takeRemoteVoice n x hdr m) ∧ ∃ b, m.setsChannel n b (takeRemoteVoice n x hdr m) := by
  unfold takeRemoteVoice
  cases (m.channel n).phase with
  | idle | hang => exact takeOtherVoice_rest n x hdr m
  | active cur talk gap =>
    simp only
    split
    · exact ⟨.still rfl rfl, _, (State.setsChannel.refl.deliverReceived n x).continueCall _ talk⟩
    · exact takeOtherVoice_rest n x hdr m

theorem endOther_rest (n : ChannelNo) (hdr : Header) (m : State) :
    m.talksAlone (endOther n hdr m) ∧ ∃ b, m.setsChannel n b (endOther n hdr m) := by
  unfold endOther
  split
  · exact ⟨.still rfl rfl, _, State.setsChannel.refl.removeWait _⟩
  · exact ⟨.still rfl rfl, _, State.setsChannel.refl.count _⟩

theorem takeRemoteEnd_rest (n : ChannelNo) (x : Handle) (hdr : Header) (m : State) :
    m.talksAlone (takeRemoteEnd n x hdr m) ∧ ∃ b, m.setsChannel n b (takeRemoteEnd n x hdr m) := by
  unfold takeRemoteEnd
  cases (m.channel n).phase with
  | idle | hang => exact endOther_rest n hdr m
  | active cur talk gap =>
    simp only
    split
    · exact ⟨((State.talksAlone.still rfl rfl : m.talksAlone (deliverReceived n x m)).trans (.endTalking _ _)).trans
        (.enterHang n _ _), _, ((State.setsChannel.refl.deliverReceived n x).endTalking _).enterHang _⟩
    · exact endOther_rest n hdr m

theorem localCopy_rest (found : findTalkgroup hdr.talkgroup.toNat m.talkgroups = some g) :
    m.talksAlone (localCopy x hdr m) ∧ ∃ b, m.setsChannel g.channel b (localCopy x hdr m) := by
  unfold localCopy
  rw [found]
  simp only
  split
  · exact takeRemoteStart_rest _ x hdr m
  · split
    · exact takeRemoteVoice_rest _ x hdr m
    · exact takeRemoteEnd_rest _ x hdr m

/-! ## What the statements say of a channel and a call id -/

theorem isLastEnded_iff : isLastEnded b id = true ↔ (∃ k e d, b.phase = .hang k e d) ∧ b.lastEnded = some id := by
  unfold isLastEnded
  rw [Bool.and_eq_true, beq_iff_eq]
  refine and_congr_left fun _ => ?_
  cases b.phase with
  | idle => simp [ChannelPhase.isHang]
  | active => simp [ChannelPhase.isHang]
  | hang g e d => simp [ChannelPhase.isHang]

theorem waiting_isSome : (b.waiting id).isSome = true ↔ ∃ w ∈ b.waits, w.call.id = id := by
  unfold Channel.waiting
  rw [List.find?_isSome]
  simp only [beq_iff_eq]

end Sys2Proof.Machine
end

section
/-! PROOFS. What the statement asks of a call frame from a link for the own site (R38, R128, R130 to R137). -/

namespace Sys2Proof.Machine

variable {s m t u : State} {x : Handle} {n : ChannelNo} {l : LinkNo} {call cur : Call} {hdr : Header} {g : TalkgroupEntry}

/-- The state after a frame from a link: its copy handled, the rest of its set served, its buffer let go. -/
def State.passedOn (l : LinkNo) (x : Handle) (hdr : Header) (m : State) : State :=
  (m.onIo fun c => forwardTargets c l x hdr).onIo fun c => dropReference c x

theorem passedOn_channel (l : LinkNo) (x : Handle) (hdr : Header) (m : State) (k : ChannelNo) :
    (m.passedOn l x hdr).channel k = m.channel k := rfl

theorem passedOn_units (l : LinkNo) (x : Handle) (hdr : Header) (m : State) : (m.passedOn l x hdr).units = m.units := rfl

theorem passedOn_raised {d : DevCounter} {raised : List DevCounter} (sent : Raises raised (s.taken (linkPort l)) m)
    (hd : d ≠ .internalDrops) (law : s.counterLaw) (once : raised.count d = 1) : s.raised d (m.passedOn l x hdr) :=
  (((sent.trans (follows_forwardTargets (idle := false) l x hdr m).sent.raises).trans (.dropped x _)).ofLive rfl).raised law hd
    (by simpa using once)

/-- A frame from a link stands on a channel, and on the links of the rest of its set (R38, R44). -/
def State.delivers (n : ChannelNo) (x : Handle) (hdr : Header) (s t : State) : Prop :=
  s.io.pool.noticePending = false →
    (s.waitsAt (chanPort n) →
      t.queueOf (chanPort n) = insertEntry (channelEntry hdr.frameClass x) (s.queueOf (chanPort n)))
      ∧ ((∀ k, s.waitsAt (linkPort k)) → 2 ≤ hdr.hop.toNat → s.waitsAt (chanPort n) → s.io.engine = Engine.idle →
        ∀ k, t.queueOf (linkPort k)
          = if s.net.sitesVia hdr.targets k = 0 then s.queueOf (linkPort k)
            else
              insertEntry
                { handle := x
                  cls := hdr.frameClass
                  hop := hdr.hop.toNat - 1
                  addressing := .subset (s.net.sitesVia hdr.targets k) }
                (s.queueOf (linkPort k)))

theorem delivered_of (hm : s.waitsAt (chanPort n) →
      m.io = putEntry (chanPort n) (channelEntry hdr.frameClass x) (takenAt (linkPort l) s.io))
    (net : m.net = s.net) : s.delivers n x hdr (m.passedOn l x hdr) := by
  intro quiet
  refine ⟨fun wait => ?_, fun links more wait idle => ?_⟩
  · have off (k : LinkNo) : linkPort k ≠ chanPort n := linkPort_ne_chanPort k n
    have dropped := KeepsPort.dropReference (awayFrom_chanPort m.net n) x (forwardTargets m.net l x hdr m.io)
    have forwarded := KeepsPort.forwardTargets off m.net l x hdr m.io
    refine (congrArg Port.queue (dropped.trans forwarded)).trans ?_
    rw [hm wait, putEntry_queue, if_pos rfl, takenAt_queue]
    rfl
  · have same : s.io.linksAs m.io := by
      rw [hm wait]
      exact (Io.linksAs.taken (linkPort l) s.io).trans (linksAs_putEntry n _ _)
    exact (forwarded_after (l := l) same links quiet (t := m.passedOn l x hdr) (by
      show dropReference m.net x (forwardTargets m.net l x hdr m.io) = _
      rw [net])).2 more idle

/-- The call of a frame of the talkgroup (R127). -/
def TalkgroupEntry.remoteCall (g : TalkgroupEntry) (hdr : Header) : Call where
  id := hdr.callId.toNat
  talkgroup := g.id
  talker := hdr.unit.toNat
  site := hdr.origin.toNat
  emergency := hdr.emergency || g.cls == .priority
  isLocal := false

theorem id_of_findTalkgroup {k : TalkgroupId} {tab : List TalkgroupEntry} (found : findTalkgroup k tab = some g) : g.id = k := by
  have := List.find?_some found
  simpa using this

theorem remoteCall_eq (found : findTalkgroup hdr.talkgroup.toNat m.talkgroups = some g) :
    remoteCall hdr m = g.remoteCall hdr := by
  unfold remoteCall TalkgroupEntry.remoteCall priorityTalkgroup
  rw [found, id_of_findTalkgroup found]
  rfl

theorem membersOf_eq (found : findTalkgroup hdr.talkgroup.toNat m.talkgroups = some g) :
    membersOf hdr.talkgroup.toNat m = g.members := by
  unfold membersOf
  rw [found]
  rfl

/-- Preemption sends at most a DEKEY ORDER and a CALL END, or a refusal. -/
theorem Says.preemptCall {idle : Bool} (n : ChannelNo) (cur : Call) (s : State) :
    ∃ claims raised, Says x idle 2 2 claims raised s (Machine.preemptCall n cur s) := by
  cases here : cur.isLocal with
  | true => exact ⟨_, _, Says.preemptLocal here s⟩
  | false =>
    rw [preemptCall_remote here]
    unfold requeueRemote
    simp only
    split
    · exact ⟨_, _, (Says.mod (n := n) _ s).mono (by omega) (by omega) fun f hf => hf⟩
    · split
      · exact ⟨_, _, (Says.count .callsNotCarried s).mono (by omega) (by omega) fun f hf => hf⟩
      · exact ⟨_, _, (((Says.mod (n := n) _ s).trans (.turnAway n _ 1#8 _)).trans (.mod (n := n) _ _)).mono (by omega)
          (by omega) fun f hf => hf⟩

theorem makeCurrent_io (n : ChannelNo) (call : Call) (s : State) : (makeCurrent n call s).io = s.io := by
  unfold makeCurrent
  simp only
  split <;> rfl

/-- A frame of which a call is decided: what the statement asks (R130). -/
theorem decides_remote (taken : s.roomFor 4 4 → x ∉ s.io.pool.free) (call : Call) :
    s.decides n (s.channel n) call
      (fun t => s.roomFor 4 4 →
        channelEntry (parseHeader (bytesOf x s.io)).frameClass x ∈ t.queueOf (chanPort n))
      ((decideCall n call (.remoteFrame x) (s.taken (linkPort l))).passedOn l x hdr) := by
  have enters : Enters (linkPort l) s (s.taken (linkPort l)) := rfl
  refine decides_of (base := s.taken (linkPort l)) (src := .remoteFrame x) enters taken (follows_forwardTargets l x hdr _) (le_refl 2)
    (fun _ _ _ _ _ => rfl) fun base' from_ granted room => ?_
  have follows := (follows_forwardTargets (idle := s.placesAll) l x hdr (decideCall n call (.remoteFrame x) (s.taken (linkPort l)))).sent
  rw [granted] at follows ⊢
  obtain ⟨claims, raised, before, bytes⟩ : ∃ claims raised,
      Says x s.placesAll 2 2 claims raised (s.taken (linkPort l)) (makeCurrent n call base')
        ∧ (Room (s.taken (linkPort l)).active.bufferReserve (4 - 2 + 2) (4 - 2 + 2) (s.taken (linkPort l)).io →
          bytesOf x (makeCurrent n call base').io = bytesOf x (s.taken (linkPort l)).io) := by
    have current := Says.makeCurrent (x := x) (idle := s.placesAll) n call base'
    rcases from_ with rfl | ⟨cur, talk, gap, -, rfl⟩
    · exact ⟨[], [], current.mono (by omega) (by omega) fun f hf => hf, fun _ => by rw [makeCurrent_io]⟩
    · obtain ⟨claims, raised, preempted⟩ := Says.preemptCall (x := x) (idle := s.placesAll) n cur (s.taken (linkPort l))
      refine ⟨_, _, preempted.trans current, fun room' => ?_⟩
      rw [makeCurrent_io]
      unfold bytesOf
      rw [preemptCall_other room' (taken room) n cur]
  exact delivered_queued (n := n) enters (taken room) room before bytes follows (by omega) (by omega)

/-! ## Calls that come to a channel (R134, R135) -/

/-- A call that comes to its channel: not carried without members, and otherwise decided. -/
theorem admitRemote_done (law : s.counterLaw) (taken : s.roomFor 4 4 → x ∉ s.io.pool.free)
    (found : findTalkgroup hdr.talkgroup.toNat s.talkgroups = some g) :
    let t := (admitRemote n x hdr (s.taken (linkPort l))).passedOn l x hdr
    (g.members = 0 → t.channel n = s.channel n ∧ s.raised .callsNotCarried t)
      ∧ (0 < g.members → s.decides n (s.channel n) (g.remoteCall hdr)
        (fun t => s.roomFor 4 4 →
          channelEntry (parseHeader (bytesOf x s.io)).frameClass x ∈ t.queueOf (chanPort n)) t) := by
  have members : membersOf hdr.talkgroup.toNat (s.taken (linkPort l)) = g.members := membersOf_eq found
  have call : remoteCall hdr (s.taken (linkPort l)) = g.remoteCall hdr := remoteCall_eq found
  intro t
  refine ⟨fun none => ?_, fun some => ?_⟩
  · have counted : admitRemote n x hdr (s.taken (linkPort l)) = (s.taken (linkPort l)).count .callsNotCarried :=
      if_pos (members.trans none)
    have result : t = ((s.taken (linkPort l)).count .callsNotCarried).passedOn l x hdr :=
      congrArg (State.passedOn l x hdr) counted
    rw [result]
    exact ⟨rfl, passedOn_raised (.count _ _) (by decide) law rfl⟩
  · have decided : admitRemote n x hdr (s.taken (linkPort l))
        = decideCall n (g.remoteCall hdr) (.remoteFrame x) (s.taken (linkPort l)) := by
      unfold admitRemote
      rw [members, call, if_neg (by omega)]
    have result : t = (decideCall n (g.remoteCall hdr) (.remoteFrame x) (s.taken (linkPort l))).passedOn l x hdr :=
      congrArg (State.passedOn l x hdr) decided
    rw [result]
    exact decides_remote taken _

theorem takeRemoteStart_stray (held : hdr.callId.toNat ∈ (m.channel n).heldIds
      ∨ isLastEnded (m.channel n) hdr.callId.toNat = true) :
    takeRemoteStart n x hdr m = m.count .strayCallFrames := by
  refine if_pos ?_
  rw [Bool.or_eq_true, List.contains_iff_mem]
  exact held

theorem takeRemoteStart_admits (new : hdr.callId.toNat ∉ (m.channel n).heldIds)
    (fresh : ¬isLastEnded (m.channel n) hdr.callId.toNat = true) :
    takeRemoteStart n x hdr m = admitRemote n x hdr m := by
  refine if_neg ?_
  rw [Bool.or_eq_true, List.contains_iff_mem]
  exact not_or.mpr ⟨new, fresh⟩

theorem takeRemoteVoice_other (other : ∀ cur, (m.channel n).phase.call? = some cur → cur.id ≠ hdr.callId.toNat) :
    takeRemoteVoice n x hdr m = takeOtherVoice n x hdr m := by
  unfold takeRemoteVoice
  cases hp : (m.channel n).phase with
  | idle | hang => rfl
  | active cur talk gap => exact if_neg (other cur (by rw [hp]; rfl))

theorem takeOtherVoice_stray (held : (∃ w ∈ (m.channel n).waits, w.call.id = hdr.callId.toNat)
      ∨ isLastEnded (m.channel n) hdr.callId.toNat = true) :
    takeOtherVoice n x hdr m = m.count .strayCallFrames := by
  refine if_pos ?_
  rw [Bool.or_eq_true, waiting_isSome]
  exact held

theorem takeOtherVoice_admits (new : ¬∃ w ∈ (m.channel n).waits, w.call.id = hdr.callId.toNat)
    (fresh : ¬isLastEnded (m.channel n) hdr.callId.toNat = true) : takeOtherVoice n x hdr m = admitRemote n x hdr m := by
  refine if_neg ?_
  rw [Bool.or_eq_true, waiting_isSome]
  exact not_or.mpr ⟨new, fresh⟩

theorem takeRemoteEnd_other (other : ∀ cur, (m.channel n).phase.call? = some cur → cur.id ≠ hdr.callId.toNat) :
    takeRemoteEnd n x hdr m = endOther n hdr m := by
  unfold takeRemoteEnd
  cases hp : (m.channel n).phase with
  | idle | hang => rfl
  | active cur talk gap => exact if_neg (other cur (by rw [hp]; rfl))

theorem stray_passedOn (law : s.counterLaw) :
    (((s.taken (linkPort l)).count .strayCallFrames).passedOn l x hdr).channel n = s.channel n
      ∧ s.raised .strayCallFrames (((s.taken (linkPort l)).count .strayCallFrames).passedOn l x hdr) :=
  ⟨rfl, passedOn_raised (.count _ _) (by decide) law rfl⟩

/-- A channel that grants a remote call at once (R131). -/
theorem admitRemote_grants (found : findTalkgroup hdr.talkgroup.toNat s.talkgroups = some g) (some : 0 < g.members)
    (free : (s.channel n).phase = .idle ∨ ∃ e d, (s.channel n).phase = .hang g.id e d) :
    admitRemote n x hdr (s.taken (linkPort l))
      = deliverReceived n x (makeCurrent n (g.remoteCall hdr) (s.taken (linkPort l))) := by
  have members : membersOf hdr.talkgroup.toNat (s.taken (linkPort l)) = g.members := membersOf_eq found
  have call : remoteCall hdr (s.taken (linkPort l)) = g.remoteCall hdr := remoteCall_eq found
  unfold admitRemote
  rw [members, call, if_neg (by omega)]
  unfold decideCall
  rcases free with idle | ⟨e, d, hang⟩
  · rw [show ((s.taken (linkPort l)).channel n).phase = .idle from idle]
    rfl
  · rw [show ((s.taken (linkPort l)).channel n).phase = .hang g.id e d from hang]
    exact if_pos rfl

theorem deliverReceived_taken (hbytes : parseHeader (bytesOf x s.io) = hdr) (io : m.io = takenAt (linkPort l) s.io)
    (wait : s.waitsAt (chanPort n)) :
    (deliverReceived n x m).io = putEntry (chanPort n) (channelEntry hdr.frameClass x) (takenAt (linkPort l) s.io) := by
  have wait' : m.waitsAt (chanPort n) := by
    unfold State.waitsAt State.queueOf
    rw [io]
    exact waitsAt_taken (linkPort l) wait
  rw [deliverReceived_io wait', io, show bytesOf x (takenAt (linkPort l) s.io) = bytesOf x s.io from rfl, hbytes]

end Sys2Proof.Machine
end

section
/-! PROOFS. A frame from a link of the call that is current (R135, R136), and the statement about all frames from a link for
the own site. -/

namespace Sys2Proof.Machine

variable {s m t u : State} {x : Handle} {n : ChannelNo} {l : LinkNo} {call cur : Call} {hdr : Header} {g : TalkgroupEntry}

theorem takeRemoteVoice_current {talk : Timer} {gap : Nat} (hp : (m.channel n).phase = .active cur talk gap)
    (same : cur.id = hdr.callId.toNat) :
    takeRemoteVoice n x hdr m = continueCall n (promotedBy hdr cur m) talk (deliverReceived n x m) := by
  unfold takeRemoteVoice
  rw [hp]
  exact if_pos same

/-- A call that a remote frame has ended (R136, R141). -/
def endedByFrame (n : ChannelNo) (x : Handle) (call : Call) (m : State) : State :=
  endTalking call (deliverReceived n x m)

theorem takeRemoteEnd_current {talk : Timer} {gap : Nat} (hp : (m.channel n).phase = .active cur talk gap)
    (same : cur.id = hdr.callId.toNat) :
    takeRemoteEnd n x hdr m
      = enterHang n (promotedBy hdr cur m) (endedByFrame n x (promotedBy hdr cur m) m) := by
  unfold takeRemoteEnd
  rw [hp]
  exact if_pos same

theorem setsChannel_endedByFrame (n : ChannelNo) (x : Handle) (call : Call) (m : State) :
    m.setsChannel n (m.channel n) (endedByFrame n x call m) := (State.setsChannel.refl.deliverReceived n x).endTalking call

theorem Says.endTalking {idle : Bool} (call : Call) (m : State) : Says x idle 0 0 [] [] m (Machine.endTalking call m) := by
  unfold Machine.endTalking
  split
  · exact .setTalking _ _ m
  · exact .refl m

theorem endTalking_io (call : Call) (m : State) : (endTalking call m).io = m.io := by
  unfold endTalking
  split <;> rfl

/-- With nobody waiting, a remote CALL END leaves the hang, a silent talker and its delivery (R136, R141). -/
theorem remoteEnd_alone {id : CallId} (alone : (s.channel n).waits = []) (hbytes : parseHeader (bytesOf x s.io) = hdr)
    (call : Call) (same : call.id = id) :
    let t := (enterHang n call (endedByFrame n x call (s.taken (linkPort l)))).passedOn l x hdr
    t.channel n = { call.ended s with lastEnded := some id }
      ∧ (call.isLocal = false → t.units = s.units)
      ∧ (call.isLocal = true → s.sameRecordsBut call.talker t
        ∧ ∀ r, s.record call.talker = some r → t.record call.talker = some { r with talking := false })
      ∧ s.delivers n x hdr t := by
  obtain ⟨channel, units, io⟩ := alone_of_ended (s := s.taken (linkPort l)) (call := call) alone
    (setsChannel_endedByFrame n x call (s.taken (linkPort l)))
  have net := ((setsChannel_endedByFrame n x call (s.taken (linkPort l))).enterHang call).frame.sees.1
  have units' : (endedByFrame n x call (s.taken (linkPort l))).units
      = if call.isLocal then (setTalking call.talker false s).units else s.units := by
    unfold endedByFrame endTalking
    split <;> rfl
  subst same
  intro t
  refine ⟨(passedOn_channel l x hdr _ n).trans channel, fun away => ?_, fun here => ?_,
    delivered_of (fun wait => io.trans ((endTalking_io call _).trans ?_)) net⟩
  · refine (passedOn_units l x hdr _).trans (units.trans (units'.trans ?_))
    rw [away]
    rfl
  · refine record_quieted ((passedOn_units l x hdr _).trans (units.trans (units'.trans ?_)))
    rw [here]
    rfl
  · exact deliverReceived_taken (m := s.taken (linkPort l)) hbytes rfl wait

/-- A lawful channel whose call a remote frame has ended goes on to other calls, and the frame stands on it (R136,
R137). -/
theorem remoteEnd_passesOn (law : (s.channel n).lawful) (taken : s.roomFor 16 16 → x ∉ s.io.pool.free) (call : Call) :
    let t := (enterHang n call (endedByFrame n x call (s.taken (linkPort l)))).passedOn l x hdr
    s.endsCall n call t
      ∧ (s.roomFor 16 16 → channelEntry (parseHeader (bytesOf x s.io)).frameClass x ∈ t.queueOf (chanPort n)) := by
  obtain ⟨length, -, distinct⟩ := law.waits
  have passes := passes_enterHang (x := x) (idle := s.placesAll)
    (setsChannel_endedByFrame n x call (s.taken (linkPort l))) distinct call
  have heirs : ((s.channel n).heirs (s.taken (linkPort l)) call).length ≤ 8 := (heirs_length _ _ call).trans length
  have follows := follows_forwardTargets (idle := s.placesAll) l x hdr
    (enterHang n call (endedByFrame n x call (s.taken (linkPort l))))
  intro t
  refine ⟨?_, fun room => ?_⟩
  · have before := (Says.deliverReceived (idle := s.placesAll) n x (s.taken (linkPort l))).trans (.endTalking call _)
    exact (around_received (s := s) (base := s.taken (linkPort l)) (p := linkPort l) rfl rfl taken before follows.sent
      (by omega) (by omega) rfl rfl rfl rfl (fun _ => rfl) (fun _ => rfl) (fun _ => rfl) fun v r hr => ⟨r, hr⟩).passesOn
      heirs passes
  · obtain ⟨k, j, claims, b, few, -, sent⟩ := passes.sent
    have few' : k ≤ 10 := few.trans (by
      have : ((s.taken (linkPort l)).channel n).heirs (s.taken (linkPort l)) call
          = (s.channel n).heirs (s.taken (linkPort l)) call := rfl
      rw [this]
      omega)
    have after := ((Says.endTalking (x := x) (idle := s.placesAll) call (deliverReceived n x (s.taken (linkPort l)))).trans
      sent).trans follows.sent
    exact delivered_queued (n := n) (base := s.taken (linkPort l)) rfl (taken room) room (.refl _) (fun _ => rfl) after
      (by omega) (by omega)

/-- A remote call that is granted at once is current, and its frame delivered (R131). -/
theorem admitRemote_granted (found : findTalkgroup hdr.talkgroup.toNat s.talkgroups = some g) (some : 0 < g.members)
    (free : (s.channel n).phase = .idle ∨ ∃ e d, (s.channel n).phase = .hang g.id e d)
    (hbytes : parseHeader (bytesOf x s.io) = hdr) :
    let t := (admitRemote n x hdr (s.taken (linkPort l))).passedOn l x hdr
    t.channel n
        = { s.channel n with
            phase := .active (g.remoteCall hdr) none (s.timeBase.toNat + s.active.voiceGap) }
      ∧ t.units = s.units ∧ s.delivers n x hdr t := by
  rw [admitRemote_grants found some free]
  have current := (State.setsChannel.refl (s := s.taken (linkPort l)) (n := n)).makeCurrent (g.remoteCall hdr)
  have io : (makeCurrent n (g.remoteCall hdr) (s.taken (linkPort l))).io = takenAt (linkPort l) s.io := makeCurrent_io _ _ _
  have delivered := current.deliverReceived n x
  intro t
  exact ⟨(passedOn_channel l x hdr _ n).trans delivered.here, passedOn_units l x hdr _,
    delivered_of (deliverReceived_taken hbytes io) delivered.frame.sees.1⟩

/-- A remote VOICE of the current call carries it on, and is delivered (R135). -/
theorem remoteVoice_carried {talk : Timer} {gap : Nat} (hp : (s.channel n).phase = .active cur talk gap)
    (same : cur.id = hdr.callId.toNat) (hbytes : parseHeader (bytesOf x s.io) = hdr) :
    let t := (takeRemoteVoice n x hdr (s.taken (linkPort l))).passedOn l x hdr
    let call := promotedBy hdr cur s
    t.channel n
        = { s.channel n with
            phase := .active call (if call.emergency then none else talk) (s.timeBase.toNat + s.active.voiceGap) }
      ∧ t.units = s.units ∧ s.delivers n x hdr t := by
  rw [takeRemoteVoice_current (m := s.taken (linkPort l)) hp same]
  have delivered := (State.setsChannel.refl (s := s.taken (linkPort l)) (n := n)).deliverReceived n x
  have carried := delivered.continueCall (promotedBy hdr cur (s.taken (linkPort l))) talk
  have io : (continueCall n (promotedBy hdr cur (s.taken (linkPort l))) talk (deliverReceived n x (s.taken (linkPort l)))).io
      = (deliverReceived n x (s.taken (linkPort l))).io := rfl
  intro t call
  refine ⟨(passedOn_channel l x hdr _ n).trans carried.here, passedOn_units l x hdr _,
    delivered_of (fun wait => ?_) carried.frame.sees.1⟩
  rw [io]
  exact deliverReceived_taken (m := s.taken (linkPort l)) hbytes rfl wait

end Sys2Proof.Machine

open Sys2Proof Sys2Proof.Machine

/-- Settles O49: the copy for the own site is decided, carried on or ended, and the rest of the set forwarded. -/
theorem remoteCallFramesTaken : Obligations.RemoteCallFramesTaken := by
  refine ⟨?_, ?_⟩
  · intro l x s head law hdr target here none
    rw [forwardTargetSet_next head target, fanOut_here here, localCopy_unknown (m := s.taken (linkPort l)) none]
    refine ⟨_, rfl, tookHanded_of_acts ((Acts.count _ .callsNotCarried).trans (.onIo _ _ fun _ hc => .forwardTargets hc _ _ _ _))
      x.handle, rfl, passedOn_raised (.count _ _) (by decide) law rfl, fun quiet links => ?_⟩
    have same : s.io.linksAs ((s.taken (linkPort l)).count .callsNotCarried).io :=
      (Io.linksAs.taken (linkPort l) s.io).trans (.counted _ _)
    obtain ⟨expired, placed⟩ := forwarded_after (l := l) (x := x.handle) (hdr := hdr) same links quiet
      (t := ((s.taken (linkPort l)).count .callsNotCarried).passedOn l x.handle hdr) rfl
    refine ⟨fun n => ?_, expired, placed⟩
    have off (k : LinkNo) : linkPort k ≠ chanPort n := linkPort_ne_chanPort k n
    have port := (KeepsPort.dropReference (awayFrom_chanPort s.net n) x.handle _).trans
      (KeepsPort.forwardTargets off s.net l x.handle hdr ((s.taken (linkPort l)).count .callsNotCarried).io)
    exact (congrArg Port.queue port).trans (takenAt_queue (linkPort l) (chanPort n) s.io)
  · intro l x g s head law hdr id n before target here found call delivered queued gap ended
    have taken {k m : Nat} (room : s.roomFor k m) : x.handle ∉ s.io.pool.free := fun free =>
      bufferOf_of_addressed target (bufferOf_of_free (room_of_roomFor room).distinct free)
    have found' : findTalkgroup hdr.talkgroup.toNat (s.taken (linkPort l)).talkgroups = some g := found
    obtain ⟨talks, b, sets⟩ := localCopy_rest (x := x.handle) found'
    obtain ⟨took, frame, counter, others⟩ := linkFrame_done here sets talks.counter
    rw [forwardTargetSet_next head target, fanOut_here here]
    have admitted := admitRemote_done (n := n) (l := l) law taken found
    have lasting : isLastEnded before id = true ↔ ended := isLastEnded_iff
    refine ⟨_, rfl, took, frame, counter, others, fun kind => ?_, fun kind foreign => ?_, fun kind foreign => ?_,
      fun cur talk d active same => ?_⟩
    · rw [localCopy_start found' kind]
      refine ⟨fun held => ?_, fun new fresh => ?_⟩
      · rw [takeRemoteStart_stray (m := s.taken (linkPort l)) (held.imp_right lasting.mpr)]
        exact stray_passedOn law
      · rw [takeRemoteStart_admits (m := s.taken (linkPort l)) new (lasting.not.mpr fresh)]
        refine ⟨admitted.1, admitted.2, fun some free => ?_⟩
        exact admitRemote_granted found some free rfl
    · rw [localCopy_voice found' kind, takeRemoteVoice_other (m := s.taken (linkPort l)) foreign]
      refine ⟨fun held => ?_, fun new fresh => ?_⟩
      · rw [takeOtherVoice_stray (m := s.taken (linkPort l)) (held.imp_right lasting.mpr)]
        exact stray_passedOn law
      · rw [takeOtherVoice_admits (m := s.taken (linkPort l)) (fun ⟨w, hw, eq⟩ => new w hw eq) (lasting.not.mpr fresh)]
        exact admitted
    · rw [localCopy_end found' kind, takeRemoteEnd_other (m := s.taken (linkPort l)) foreign]
      refine ⟨fun held => ?_, fun new => ?_⟩
      · have removed : endOther n hdr (s.taken (linkPort l)) = removeWait n id (s.taken (linkPort l)) :=
          if_pos (waiting_isSome.mpr held)
        rw [removed]
        exact (State.setsChannel.refl.removeWait id).here
      · have stray : endOther n hdr (s.taken (linkPort l)) = (s.taken (linkPort l)).count .strayCallFrames :=
          if_neg fun held => by
            obtain ⟨w, hw, eq⟩ := waiting_isSome.mp held
            exact new w hw eq
        rw [stray]
        exact stray_passedOn law
    · intro urgent
      have promoted : promotedBy hdr cur (s.taken (linkPort l)) = { cur with emergency := urgent } := rfl
      refine ⟨fun kind => ?_, fun kind alone => ?_, fun kind lawful => ?_⟩
      · rw [localCopy_voice found' kind]
        exact remoteVoice_carried active same rfl
      · rw [localCopy_end found' kind, takeRemoteEnd_current (m := s.taken (linkPort l)) active same, promoted]
        exact remoteEnd_alone alone rfl { cur with emergency := urgent } same
      · rw [localCopy_end found' kind, takeRemoteEnd_current (m := s.taken (linkPort l)) active same, promoted]
        exact remoteEnd_passesOn lawful taken { cur with emergency := urgent }
end

section
/-! PROOFS. A local CALL START that is granted (R131): its answer and its offer beside each other. -/

namespace Sys2Proof.Machine

variable {s m base base' t t₁ : State} {io : Io} {x k : Handle} {n : ChannelNo} {call cur : Call} {hdr : Header} {v : UnitId}
  {r : Record} {set : SiteSet} {b : Buffer}

/-! ## The grant's frames -/

/-- The answer of a grant, and the received frame with its call's id (R131). -/
def answered (n : ChannelNo) (x : Handle) (call : Call) (m : State) : State :=
  (sendGrant n call (makeCurrent n call m)).onIo fun _ => modHeader x fun y => { y with callId := BitVec.ofNat 16 call.id }

theorem grantArrival_local (n : ChannelNo) (call : Call) (x : Handle) (m : State) :
    grantArrival n call (.localStart x) m = offerFrame n x call (answered n x call m) := rfl

theorem answered_io (n : ChannelNo) (x : Handle) (call : Call) (m : State) :
    (answered n x call m).io
      = modHeader x (fun y => { y with callId := BitVec.ofNat 16 call.id })
          (sendToChannel m.net n (call.answer .callGrant 0) [] none m.io) := by
  unfold answered sendGrant sendAnswer State.onIo
  have frame := (Says.makeCurrent (x := x) (idle := false) n call m).frame.sees.1
  simp only [frame, makeCurrent_io]
  rfl

/-- An answer on a channel with room leaves the links as they were, and the buffer of the received frame. -/
theorem sendToChannel_links {rest : List Handle} (free : s.io.pool.free = k :: rest) (quiet : s.io.pool.noticePending = false)
    (wait : s.waitsAt (chanPort n)) (hdr : Header) :
    s.io.linksAs (sendToChannel s.net n hdr [] none s.io) := by
  have engine : (sendToChannel s.net n hdr [] none s.io).engine = s.io.engine :=
    sendBuilt_engine (fun h io => placeEntry_engine _ _ _ io) _ _ _ _ _
  by_cases granted : hdr.frameClass = .priority ∨ s.active.bufferReserve < s.io.pool.free.length
  · have sent := sentOn_sendToChannel n hdr [] none s k rest free quiet granted wait
    refine ⟨fun l => ⟨(sent.queue _).trans (if_neg (linkPort_ne_chanPort l n)), sent.sending _⟩, engine, ?_⟩
    rw [sent.quiet, quiet]
  · obtain ⟨priority, low⟩ := not_or.mp granted
    have routine : hdr.frameClass = .routine := by
      cases hc : hdr.frameClass with
      | routine => rfl
      | priority => exact absurd hc priority
    have refused : sendToChannel s.net n hdr [] none s.io = countDev .internalDrops s.io := by
      have asked := allocate_reserve (io := s.io) free (Nat.not_lt.mp low)
      rw [← routine] at asked
      unfold sendToChannel sendBuilt buildFrame
      rw [show allocate s.net.active.bufferReserve hdr.frameClass s.io = _ from asked]
    rw [refused]
    exact .counted _ _

/-- The frame of a granted CALL START, in its buffer. -/
theorem answered_header (kept : bufferOf x (sendToChannel m.net n (call.answer .callGrant 0) [] none m.io) = some b) :
    bufferOf x (answered n x call m).io
      = some { b with bytes := rewriteHeader (fun y => { y with callId := BitVec.ofNat 16 call.id }) b.bytes } := by
  rw [answered_io]
  exact modHeader_buffer kept _

/-- An offer with the marker of its call is one of the frame with that marker in its buffer (R39, R127). -/
theorem offered_as {c : Net} {emergency : Bool} (hb : bufferOf x io = some b)
    (marked : (parseHeader b.bytes).emergency = true → emergency = true) :
    ∃ io₁ bytes, offered c n x set emergency io = offerReceived c n x set io₁ ∧ io.linksAs io₁
      ∧ bufferOf x io₁ = some { b with bytes := bytes }
      ∧ parseHeader bytes = { parseHeader b.bytes with emergency := emergency }
      ∧ bytes.drop Config.headerBytes = b.bytes.drop Config.headerBytes := by
  cases emergency with
  | true =>
    refine ⟨_, _, rfl, .header x (fun y => { y with emergency := true }) io, modHeader_buffer hb _, ?_, drop_rewriteHeader _ _⟩
    exact parseHeader_rewriteHeader _ _
  | false =>
    have routine : (parseHeader b.bytes).emergency = false := by
      cases hm : (parseHeader b.bytes).emergency with
      | false => rfl
      | true => exact absurd (marked hm) Bool.false_ne_true
    exact ⟨io, b.bytes, rfl, ⟨fun _ => ⟨rfl, rfl⟩, rfl, rfl⟩, hb, by rw [← routine], rfl⟩

/-- An offer in full: the entries on the links, and the frame in its buffer once the received copy is let go. -/
theorem offered_whole {c : Net} {emergency : Bool} (wait : io.linksWait) (quiet : io.pool.noticePending = false)
    (hb : bufferOf x io = some b) (marked : (parseHeader b.bytes).emergency = true → emergency = true) :
    (io.engine = Engine.idle → ∀ m, c.sitesVia set m ≠ 0 →
        ({ handle := x
           cls := ({ parseHeader b.bytes with emergency := emergency } : Header).frameClass
           hop := c.active.hopLimit
           addressing := .subset (c.sitesVia set m) } : Entry)
          ∈ (dropReference c x (offered c n x set emergency io)).ports[(linkPort m).val].queue)
      ∧ (1 ≤ b.refs → c.reaches set →
        bytesOf x (dropReference c x (offered c n x set emergency io))
          = encodeHeader (c.fromOwn { parseHeader b.bytes with emergency := emergency })
            ++ b.bytes.drop Config.headerBytes) := by
  obtain ⟨io₁, bytes, spelled, same, kept, header, rest⟩ := offered_as (c := c) (n := n) (set := set) hb marked
  have cls : (parseHeader (bytesOf x io₁)).frameClass
      = ({ parseHeader b.bytes with emergency := emergency } : Header).frameClass := by rw [bytesOf_some kept, header]
  rw [spelled, offerReceived, cls]
  refine ⟨fun free m routes => ?_, fun held reaches => ?_⟩
  · have entry := offerTargets_entries (c := c) (some (chanPort n)) x
      ({ parseHeader b.bytes with emergency := emergency } : Header).frameClass set (same.wait wait) (same.engine.trans free)
      (linkPort m, _) (List.mem_map.mpr ⟨m, List.mem_filter.mpr ⟨mem_linkOrder m, bne_iff_ne.mpr routes⟩, rfl⟩)
    have still := (placed_offerTargets (c := c) (some (chanPort n)) x
      ({ parseHeader b.bytes with emergency := emergency } : Header).frameClass set (same.wait wait)).quiet
    rw [dropReference_ports_of_no_notice c x (still.trans (same.quiet.trans quiet))]
    exact entry
  · rw [offered_bytes (same.wait wait) kept held reaches]
    show encodeHeader (c.fromOwn (parseHeader bytes)) ++ bytes.drop Config.headerBytes = _
    rw [header, rest]

/-- The header with which a granted CALL START is offered (R39, R127, R131). -/
def Header.started (hdr : Header) (call : Call) : Header :=
  { hdr with emergency := call.emergency, callId := BitVec.ofNat 16 call.id }

/-- The frame of a granted CALL START, in its buffer. -/
theorem started_header (call : Call) (bytes : List Byte) :
    ({ parseHeader (rewriteHeader (fun y => { y with callId := BitVec.ofNat 16 call.id }) bytes) with
        emergency := call.emergency } : Header)
      = (parseHeader bytes).started call := by
  rw [parseHeader_rewriteHeader]
  rfl

/-- What is offered of a granted CALL START, whatever its class. -/
theorem offers_answered (hb : bufferOf x s.io = some b) (same : s.io.linksAs (answered n x call m).io)
    (kept : bufferOf x (sendToChannel m.net n (call.answer .callGrant 0) [] none m.io) = some b)
    (marked : (parseHeader b.bytes).emergency = true → call.emergency = true)
    (ht : t.io = dropReference s.net x (offered s.net n x set call.emergency (answered n x call m).io))
    (wait : ∀ k, s.waitsAt (linkPort k)) (quiet : s.io.pool.noticePending = false) :
    (∀ k, t.queueOf (linkPort k)
      = if s.placesNow set k = true then
          insertEntry
            { handle := x
              cls := ((parseHeader b.bytes).started call).frameClass
              hop := s.active.hopLimit
              addressing := .subset (s.net.sitesVia set k) }
            (s.queueOf (linkPort k))
        else s.queueOf (linkPort k))
      ∧ s.leavesWork
          { handle := x
            cls := ((parseHeader b.bytes).started call).frameClass
            hop := none
            lostAt := some (chanPort n)
            groups := Vector.replicate 4 0 }
          set t
      ∧ s.offeredAs x ((parseHeader b.bytes).started call) set t := by
  have before := answered_header (x := x) kept
  have header := parseHeader_rewriteHeader (fun y => { y with callId := BitVec.ofNat 16 call.id }) b.bytes
  have tail := drop_rewriteHeader (fun y => { y with callId := BitVec.ofNat 16 call.id }) b.bytes
  obtain ⟨io₁, bytes, spelled, same₁, kept₁, header₁, rest₁⟩ :=
    offered_as (c := s.net) (n := n) (set := set) (emergency := call.emergency) before fun hm => marked (by rwa [header] at hm)
  rw [spelled] at ht
  exact offers_of_io hb (same.trans same₁) kept₁ (header₁.trans (started_header call b.bytes))
    (rest₁.trans tail) ht wait quiet

end Sys2Proof.Machine
end

section
/-! PROOFS. A local CALL START that is granted (R131), where there is room: its answer stands on the channel, and its frame
goes to the other sites with its call's id and marker. -/

namespace Sys2Proof.Machine

variable {s m base base' t : State} {io : Io} {x k : Handle} {n : ChannelNo} {call cur : Call} {hdr : Header} {v : UnitId}
  {r : Record} {set : SiteSet} {b : Buffer} {p : PortNo} {claims : List Claim} {raised : List DevCounter}

/-- The class of a granted CALL START is that of its call (R10, R127). -/
theorem startedClass (hk : hdr.isKind .callStart = true) (call : Call) :
    (hdr.started call).frameClass = if call.emergency then .priority else .routine :=
  callClass (k := .callStart) (hdr := hdr.started call) hk (.inl rfl)

/-- What a call's talker is told, at most one frame, leaves room and the received frame. -/
theorem answered_room (room : Room m.active.bufferReserve 2 2 m.io) (used : x ∉ m.io.pool.free) (hb : bufferOf x m.io = some b)
    (hdr : Header) :
    let io := sendToChannel m.net n hdr [] none m.io
    io.linksWait ∧ io.pool.noticePending = false ∧ io.engine = m.io.engine ∧ bufferOf x io = some b := by
  obtain ⟨room', -, -⟩ := ((Says.sendAnswer (x := x) (idle := false) n hdr m).issues nofun).room 1 1 room used
  refine ⟨fun l => ⟨room'.busy _, Nat.lt_of_succ_le (room'.queues _)⟩, room'.quiet, ?_, ?_⟩
  · exact sendBuilt_engine (fun h io => placeEntry_engine _ _ _ io) _ _ _ _ _
  · exact (sendAnswer_other used (room_waitsAt room _) room.quiet hdr).trans hb

/-- The frame of a granted CALL START goes to the other sites (R39, R131). -/
theorem started_goes (room : Room m.active.bufferReserve 2 2 m.io) (used : x ∉ m.io.pool.free) (hb : bufferOf x m.io = some b)
    (hk : (parseHeader b.bytes).isKind .callStart = true) (marked : (parseHeader b.bytes).emergency = true → call.emergency = true) :
    let io := dropReference m.net x (offered m.net n x set call.emergency (answered n x call m).io)
    (m.io.engine = Engine.idle → ∀ l, m.net.sitesVia set l ≠ 0 →
        ({ handle := x
           cls := if call.emergency then .priority else .routine
           hop := m.net.active.hopLimit
           addressing := .subset (m.net.sitesVia set l) } : Entry) ∈ io.ports[(linkPort l).val].queue)
      ∧ (1 ≤ b.refs → m.net.reaches set →
        bytesOf x io = encodeHeader (m.net.fromOwn ((parseHeader b.bytes).started call)) ++ b.bytes.drop Config.headerBytes) := by
  obtain ⟨wait, quiet, engine, kept⟩ := answered_room (n := n) room used hb (call.answer .callGrant 0)
  have header := parseHeader_rewriteHeader (fun y => { y with callId := BitVec.ofNat 16 call.id }) b.bytes
  have tail := drop_rewriteHeader (fun y => { y with callId := BitVec.ofNat 16 call.id }) b.bytes
  have form := answered_io n x call m
  obtain ⟨entries, bytes⟩ := offered_whole (c := m.net) (n := n) (set := set) (io := (answered n x call m).io)
    (emergency := call.emergency) (by rw [form]; exact wait) (by rw [form]; exact quiet) (answered_header kept)
    fun hm => marked (by rwa [header] at hm)
  intro io
  refine ⟨fun free l routes => ?_, fun held reaches => ?_⟩
  · have entry := entries (by rw [form]; exact engine.trans free) l routes
    rw [started_header, startedClass hk] at entry
    exact entry
  · rw [bytes held reaches, started_header, tail]

/-- The frames of a granted CALL START, once it is let go (R22). -/
theorem granted_io (n : ChannelNo) (x : Handle) (call : Call) (m : State) :
    ((grantArrival n call (.localStart x) m).onIo fun c => dropReference c x).io
      = dropReference m.net x (offered m.net n x (remoteSet call.talkgroup m) call.emergency (answered n x call m).io) := by
  have frame := (((Says.makeCurrent (x := x) (idle := false) n call m).trans (.sendAnswer n (call.answer .callGrant 0) _)).trans
    (.modHeader x (fun y => { y with callId := BitVec.ofNat 16 call.id }) _)).frame
  obtain ⟨net, talkgroups⟩ : (answered n x call m).net = m.net ∧ (answered n x call m).talkgroups = m.talkgroups := frame.sees
  have set : remoteSet call.talkgroup (answered n x call m) = remoteSet call.talkgroup m := by
    unfold remoteSet
    rw [talkgroups]
  rw [grantArrival_local, offerFrame_eq, set]
  show dropReference (answered n x call m).net x (offered (answered n x call m).net n x _ call.emergency _) = _
  rw [net]

/-- What a granted CALL START leaves of the frames, where there is room (R131). -/
theorem granted_sends (enters : Enters p s base) (room : s.roomFor 4 4) (taken : x ∉ s.io.pool.free)
    (hb : bufferOf x s.io = some b) (hk : (parseHeader b.bytes).isKind .callStart = true)
    (marked : (parseHeader b.bytes).emergency = true → call.emergency = true)
    (before : Says x s.placesAll 2 2 claims raised base m)
    (kept : Room base.active.bufferReserve 4 4 base.io → bufferOf x m.io = bufferOf x base.io) :
    let t := (grantArrival n call (.localStart x) m).onIo fun c => dropReference c x
    s.queuedOn n (call.answer .callGrant 0) [] t
      ∧ s.fannedOut x (if call.emergency then .priority else .routine) (remoteSet call.talkgroup s) t
      ∧ s.offeredAs x ((parseHeader b.bytes).started call) (remoteSet call.talkgroup s) t := by
  intro t
  have event : Event p x _ _ s base (grantArrival n call (.localStart x) m) :=
    .of enters (fun _ => taken) (before.trans (.grantArrival n call (.localStart x) m)) (.refl _) (by omega)
      (Nat.le_refl 4)
  have engine (on : s.placesAll = true) : base.io.engine = Engine.idle := by
    rw [enters.io]
    exact placesAll_iff.mp on
  obtain ⟨net, talkgroups⟩ := before.frame.sees
  have net' : m.net = s.net := net.trans enters.net
  have set : remoteSet call.talkgroup m = remoteSet call.talkgroup s := by
    rw [← enters.remoteSet]
    unfold remoteSet
    rw [talkgroups]
  obtain ⟨room0, kept0, -⟩ := ((Issues.taken (x := x) p s).congr enters.active enters.io).room 4 4 (room_of_roomFor room) taken
  rw [← enters.active] at room0
  have used : x ∉ base.io.pool.free := fun free => taken (kept0.free x free)
  obtain ⟨room1, kept1, -⟩ := (before.issues engine).room 2 2 room0 used
  have buffer : bufferOf x m.io = some b := by
    rw [kept room0, enters.io]
    exact hb
  rw [← (before.issues engine).active] at room1
  obtain ⟨entries, bytes⟩ := started_goes (n := n) (set := remoteSet call.talkgroup s) room1 (fun free => used (kept1.free x free))
    buffer hk marked
  have form : t.io = dropReference m.net x (offered m.net n x (remoteSet call.talkgroup s) call.emergency (answered n x call m).io) :=
    (granted_io n x call m).trans (by rw [set])
  refine ⟨event.queued room (List.mem_append_right _ (List.mem_singleton.mpr rfl)), fun free l routes => ?_, fun law reaches => ?_⟩
  · have entry := entries (before.engine (engine (placesAll_iff.mpr free))) l (net' ▸ routes)
    unfold State.queueOf
    rw [form]
    rw [net'] at entry ⊢
    exact entry
  · rw [form, bytes (held_of_referenceLaw law hb) (net' ▸ reaches), net', bytesOf_some hb]
    rfl

end Sys2Proof.Machine
end

section
/-! PROOFS. A local CALL START that is decided (R130): its talker's record, and what the statement asks of the decision. -/

namespace Sys2Proof.Machine

variable {s m base base' t : State} {x : Handle} {n : ChannelNo} {call cur : Call} {hdr : Header} {v : UnitId}
  {r : Record} {b : Buffer} {p : PortNo} {src : Arrival}

/-! ## The talker's record (R141) -/

theorem joinList_units (n : ChannelNo) (call : Call) (s : State) : (joinList n call s).units = s.units := by
  unfold joinList
  simp only
  split <;> rfl

theorem joinWait_units (n : ChannelNo) (call : Call) (s : State) : (joinWait n call s).units = s.units := by
  unfold joinWait
  simp only
  split
  · exact joinList_units n call s
  · split
    · split
      · exact turnAway_units n call _ s
      · exact (joinList_units n call _).trans (turnAway_units n _ _ _)
    · exact turnAway_units n call _ s

theorem requeueRemote_units (n : ChannelNo) (call : Call) (s : State) : (requeueRemote n call s).units = s.units := by
  unfold requeueRemote
  simp only
  split
  · rfl
  · split
    · rfl
    · exact turnAway_units n _ _ _

/-- Preemption moves the record of the talker that is cut off alone. -/
theorem preemptCall_record (apart : cur.talker ≠ v) : (preemptCall n cur s).record v = s.record v := by
  cases here : cur.isLocal with
  | true =>
    rw [preemptCall_local here]
    exact modUnit_record_other (f := fun r => { r with talking := false }) apart.symm fun _ => rfl
  | false =>
    rw [preemptCall_remote here]
    exact record_of_units (requeueRemote_units n cur s)

/-- A granted local talker talks. -/
theorem grantArrival_record (here : call.isLocal = true) (hr : m.record call.talker = some r) :
    (grantArrival n call src m).record call.talker = some { r with talking := true } := by
  have units := grantArrival_units n call src m
  rw [if_pos here] at units
  exact (record_of_units units).trans (modUnit_record_self (f := fun r => { r with talking := true }) hr fun _ => rfl)

theorem grantArrival_record_other (apart : v ≠ call.talker) : (grantArrival n call src m).record v = m.record v := by
  have units := grantArrival_units n call src m
  split at units
  · exact (record_of_units units).trans (modUnit_record_other (f := fun r => { r with talking := true }) apart fun _ => rfl)
  · exact record_of_units units

/-- A decision leaves a local caller's record as it was, or talking. -/
theorem decideCall_record (here : call.isLocal = true) (hr : m.record call.talker = some r)
    (apart : ∀ c, (m.channel n).phase.call? = some c → c.talker ≠ call.talker) :
    (decideCall n call src m).record call.talker = some r
      ∨ (decideCall n call src m).record call.talker = some { r with talking := true } := by
  have waits : (joinWait n call m).record call.talker = some r := (record_of_units (joinWait_units n call m)).trans hr
  have granted := grantArrival_record (n := n) (src := src) here hr
  unfold decideCall
  cases hp : (m.channel n).phase with
  | idle => exact .inr granted
  | hang g e d =>
    simp only
    split
    · exact .inr granted
    · split
      · exact .inr granted
      · exact .inl waits
  | active cur talk gap =>
    simp only
    split
    · exact .inr (grantArrival_record here ((preemptCall_record (apart cur (by rw [hp]; rfl))).trans hr))
    · exact .inl waits

/-! ## The decision (R130) -/

/-- What a grant of a local CALL START leaves beside the channel record (R131). -/
def State.startGranted (s : State) (n : ChannelNo) (x : Handle) (hdr : Header) (call : Call) (r : Record) (t : State) : Prop :=
  t.record call.talker = some { r with talking := true }
    ∧ (s.roomFor 4 4 →
      s.queuedOn n (call.answer .callGrant 0) [] t
        ∧ s.fannedOut x (if call.emergency then .priority else .routine) (remoteSet call.talkgroup s) t
        ∧ s.offeredAs x (hdr.started call) (remoteSet call.talkgroup s) t)

theorem decides_local (enters : Enters p s base) (hb : bufferOf x s.io = some b)
    (hk : (parseHeader b.bytes).isKind .callStart = true) (marked : (parseHeader b.bytes).emergency = true → call.emergency = true)
    (taken : s.roomFor 4 4 → x ∉ s.io.pool.free) (here : call.isLocal = true) (hr : base.record call.talker = some r)
    (others : ∀ v, v ≠ call.talker → base.record v = s.record v)
    (apart : ∀ c, (base.channel n).phase.call? = some c → c.talker ≠ call.talker) :
    s.decides n (base.channel n) call (s.startGranted n x (parseHeader b.bytes) call r)
      ((decideCall n call (.localStart x) base).onIo fun c => dropReference c x) := by
  refine decides_of (src := .localStart x) enters taken (.refl _) (le_refl 2) (fun cur talk gap active apart' => ?_)
    fun base' from_ granted => ?_
  · exact others _ (apart cur (by rw [active]; rfl))
  · rw [granted]
    have record : base'.record call.talker = some r := by
      rcases from_ with rfl | ⟨cur, talk, gap, active, rfl⟩
      · exact hr
      · exact (preemptCall_record (apart cur (by rw [active]; rfl))).trans hr
    refine ⟨grantArrival_record (n := n) (src := .localStart x) here record, fun room => ?_⟩
    rcases from_ with rfl | ⟨cur, talk, gap, active, rfl⟩
    · exact granted_sends enters room (taken room) hb hk marked ((Says.refl base').mono (Nat.zero_le 2) (Nat.zero_le 2)
        fun f hf => hf) fun _ => rfl
    · obtain ⟨claims, raised, preempted⟩ := Says.preemptCall (x := x) (idle := s.placesAll) n cur base
      refine granted_sends enters room (taken room) hb hk marked preempted fun room' => ?_
      refine preemptCall_other (a := 2) (m := 2) room' ?_ n cur
      rw [enters.io]
      exact taken room

end Sys2Proof.Machine
end

section
/-! PROOFS. A local CALL START that is granted at once, from IDLE or the hang of its talkgroup (R130, R131): its answer and its
offer one by one, each as soon as it alone has room. -/

namespace Sys2Proof.Machine

variable {s m base t : State} {io : Io} {x k : Handle} {n : ChannelNo} {call : Call} {hdr : Header} {v : UnitId}
  {b : Buffer} {p : PortNo} {c : Net} {set : SiteSet}

/-! ## An offer and the other frames -/

theorem offered_chanPort (c : Net) (n k : ChannelNo) (x : Handle) (set : SiteSet) (emergency : Bool) (io : Io) :
    (offered c n x set emergency io).ports[(chanPort k).val] = io.ports[(chanPort k).val] := by
  unfold offered
  refine (KeepsPort.offerTargets (fun l => linkPort_ne_chanPort l k) c _ x _ set _).trans ?_
  split <;> rfl

theorem answered_other (n : ChannelNo) (x : Handle) (call : Call) (m : State) (apart : k ≠ x) :
    bufferOf k (answered n x call m).io = bufferOf k (sendToChannel m.net n (call.answer .callGrant 0) [] none m.io) := by
  rw [answered_io]
  exact (placed_modHeader x _ _).others k apart

/-- The frames in which a call is decided: those of the state before, less the one that was taken. -/
theorem Enters.sentOn (enters : Enters p s base) (n : ChannelNo) (hdr : Header) :
    s.sentOn n hdr [] (sendToChannel base.net n hdr [] none base.io) := by
  rw [enters.net, enters.io]
  exact (sentOn_sendToChannel n hdr [] none (s.taken p)).ofTaken

/-! ## The grant -/

/-- The answer of a grant stands where there is room for it, the links' queues having room for the offer (R131). -/
theorem granted_built (enters : Enters p s base) (hb : bufferOf x s.io = some b) (links : ∀ l, s.waitsAt (linkPort l)) :
    s.builtOnChannel n (call.answer .callGrant 0)
      ((grantArrival n call (.localStart x) base).onIo fun c => dropReference c x) := by
  intro k rest free unused quiet granted wait
  have sent := enters.sentOn n (call.answer .callGrant 0) k rest free quiet granted wait
  have apart : k ≠ x := by
    rintro rfl
    rw [hb] at unused
    cases unused
  have form := answered_io n x call base
  have waits : (answered n x call base).io.linksWait := fun l => by
    rw [form]
    show (sendToChannel base.net n (call.answer .callGrant 0) [] none base.io).ports[(linkPort l).val].sending.isSome = true
      ∧ (sendToChannel base.net n (call.answer .callGrant 0) [] none base.io).ports[(linkPort l).val].queue.length < 64
    rw [sent.sending, sent.queue, if_neg (linkPort_ne_chanPort l n)]
    exact links l
  obtain ⟨f, r, placed⟩ := placed_offered (c := base.net) (n := n) (x := x) (set := remoteSet call.talkgroup base)
    (emergency := call.emergency) waits
  have still := placed.quiet.trans (show _ = false by rw [form]; exact sent.quiet)
  have bytes : bytesOf k (dropReference base.net x
      (offered base.net n x (remoteSet call.talkgroup base) call.emergency (answered n x call base).io))
        = frameBytes (call.answer .callGrant 0) [] := by
    rw [← sent.bytes]
    unfold bytesOf
    rw [dropReference_other base.net still apart, placed.others k apart, answered_other n x call base apart]
  have queue : (dropReference base.net x
      (offered base.net n x (remoteSet call.talkgroup base) call.emergency (answered n x call base).io)).ports[(chanPort n).val].queue
        = insertEntry (channelEntry (call.answer .callGrant 0).frameClass k) (s.queueOf (chanPort n)) := by
    rw [dropReference_ports_of_no_notice base.net x still, offered_chanPort, form]
    exact (sent.queue (chanPort n)).trans (if_pos rfl)
  unfold State.queueOf
  rw [granted_io]
  exact ⟨queue, bytes⟩

/-- The frame of a granted CALL START is offered, its answer having room (R39, R131). -/
theorem granted_offers (enters : Enters p s base) (hb : bufferOf x s.io = some b)
    (hk : (parseHeader b.bytes).isKind .callStart = true) (marked : (parseHeader b.bytes).emergency = true → call.emergency = true)
    (wait : s.waitsAt (chanPort n)) :
    s.offers (chanPort n) x (if call.emergency then .priority else .routine) ((parseHeader b.bytes).started call)
      (remoteSet call.talkgroup s) ((grantArrival n call (.localStart x) base).onIo fun c => dropReference c x) := by
  intro pool links quiet free
  have used : x ∉ s.io.pool.free := fun hx => by
    have none := bufferOf_of_free (pool.nodup_iff.mpr List.nodup_range') hx
    rw [hb] at none
    cases none
  obtain ⟨k, rest, hf⟩ := List.exists_cons_of_ne_nil free
  have same := (Io.linksAs.taken p s.io).trans ((sendToChannel_links (s := s.taken p) hf quiet (waitsAt_taken p wait)
    (call.answer .callGrant 0)).trans (.header x (fun y => { y with callId := BitVec.ofNat 16 call.id }) _))
  have kept : bufferOf x (sendToChannel s.net n (call.answer .callGrant 0) [] none (takenAt p s.io)) = some b :=
    (sendAnswer_other (s := s.taken p) used (waitsAt_taken p wait) quiet _).trans hb
  have form := answered_io n x call base
  rw [enters.net, enters.io] at form
  have io := granted_io n x call base
  rw [enters.net, enters.remoteSet] at io
  have placed := offers_answered (n := n) (m := base) (call := call) (set := remoteSet call.talkgroup s) hb
    (by rw [form]; exact same) (by rw [enters.net, enters.io]; exact kept) marked io links quiet
  rw [startedClass hk] at placed
  exact placed

end Sys2Proof.Machine
end

section
/-! PROOFS. The checks of a local CALL START (R129): what it comes to, and what it leaves. -/

namespace Sys2Proof.Machine

variable {s m base t : State} {x k : Handle} {n : ChannelNo} {call cur : Call} {hdr : Header} {v : UnitId} {r : Record}
  {b : Buffer} {g : TalkgroupEntry} {w : WaitEntry} {units : List Record} {y : Channel}

/-! ## What it comes to -/

theorem talker_of_currentOf (found : currentOf v y = none) {c : Call} (hc : y.phase.call? = some c) : c.talker ≠ v := by
  intro same
  unfold currentOf at found
  rw [hc] at found
  simp [Option.filter, same] at found

theorem takeLocalStart_checked (hr : m.record hdr.unit.toNat = some r) (member : r.phase.isMember = true)
    (free : r.talkLimited = false) (found : findTalkgroup hdr.talkgroup.toNat m.talkgroups = some g) (here : g.channel = n) :
    takeLocalStart n x hdr m = startOnChannel n x hdr r m := by
  simp only [takeLocalStart, hr, member, free, found, here, Bool.not_true, Bool.false_eq_true, if_false, if_true]

theorem startOnChannel_current (hc : (m.channel n).phase.call? = some cur) (talker : cur.talker = hdr.unit.toNat) :
    startOnChannel n x hdr r m = sendGrant n cur m := by
  unfold startOnChannel
  rw [currentOf_some hc talker]

theorem startOnChannel_again (apart : ∀ c, (m.channel n).phase.call? = some c → c.talker ≠ hdr.unit.toNat)
    (again : waitingOf hdr.unit.toNat (m.channel n) = some w) : startOnChannel n x hdr r m = reaskStart n x hdr w m := by
  unfold startOnChannel
  rw [currentOf_none apart, again]

theorem startOnChannel_new (apart : ∀ c, (m.channel n).phase.call? = some c → c.talker ≠ hdr.unit.toNat)
    (nobody : waitingOf hdr.unit.toNat (m.channel n) = none) (silent : r.talking = false) :
    startOnChannel n x hdr r m = newStart n x hdr m := by
  unfold startOnChannel
  rw [currentOf_none apart, nobody, silent]
  exact if_neg Bool.false_ne_true

/-- From IDLE and the hang of its talkgroup a call is granted (R130). -/
theorem decideCall_free {src : Arrival}
    (free : (m.channel n).phase = .idle ∨ ∃ e d, (m.channel n).phase = .hang call.talkgroup e d) :
    decideCall n call src m = grantArrival n call src m := by
  unfold decideCall
  rcases free with idle | ⟨e, d, hang⟩
  · rw [idle]
  · rw [hang]
    exact if_pos rfl

/-- A call that cannot preempt the current one waits (R130). -/
theorem decideCall_calm {src : Arrival} {talk : Timer} {gap : Nat} (active : (m.channel n).phase = .active cur talk gap)
    (calm : call.emergency = false ∨ cur.emergency = true) : decideCall n call src m = joinWait n call m := by
  unfold decideCall
  rw [active]
  have no : (call.emergency && !cur.emergency) = false := by rcases calm with h | h <;> simp [h]
  simp only [no, Bool.false_eq_true, if_false]

/-! ## What it leaves -/

theorem newStart_sets (n : ChannelNo) (x : Handle) (hdr : Header) (m : State) : ∃ y, m.setsChannel n y (newStart n x hdr m) := by
  have given : m.setsChannel n (m.channel n) (assignCallId m).2 := State.setsChannel.refl.elsewhere ⟨rfl, rfl⟩ rfl
  exact ⟨_, given.decideCall _ _⟩

theorem startOnChannel_sets (n : ChannelNo) (x : Handle) (hdr : Header) (r : Record) (m : State) :
    ∃ y, m.setsChannel n y (startOnChannel n x hdr r m) := by
  unfold startOnChannel
  split
  · exact ⟨_, State.setsChannel.refl.sendAnswer _ _⟩
  · split
    · unfold reaskStart
      simp only
      split
      · exact ⟨_, (State.setsChannel.refl.removeWait _).decideCall _ _⟩
      · exact ⟨_, State.setsChannel.refl.sendAnswer _ _⟩
    · split
      · exact ⟨_, State.setsChannel.refl.sendAnswer _ _⟩
      · exact newStart_sets n x hdr m

/-- The caller's record is as the notice left it, or talking (R141). -/
theorem startOnChannel_record {r' : Record} (hr : m.record hdr.unit.toNat = some r') (n : ChannelNo) (x : Handle) (r : Record) :
    (startOnChannel n x hdr r m).record hdr.unit.toNat = some r'
      ∨ (startOnChannel n x hdr r m).record hdr.unit.toNat = some { r' with talking := true } := by
  unfold startOnChannel
  split
  · exact .inl hr
  · rename_i nobody
    have apart (c : Call) (hc : (m.channel n).phase.call? = some c) : c.talker ≠ hdr.unit.toNat := talker_of_currentOf nobody hc
    split
    · rename_i w _
      unfold reaskStart
      simp only
      split
      · refine decideCall_record (call := localCall hdr w.call.id m) (m := removeWait n w.call.id m) rfl hr fun c hc => apart c ?_
        rwa [((State.setsChannel.refl (s := m) (n := n)).removeWait w.call.id).here] at hc
      · exact .inl hr
    · split
      · exact .inl hr
      · exact decideCall_record (call := localCall hdr (assignCallId m).1 m) (m := (assignCallId m).2) rfl hr apart

/-- An answer alone (R129, R133). -/
theorem told_alone (from_ : m = State.taken (chanPort n) { s with units := units }) (hb : bufferOf x s.io = some b) (hdr : Header) :
    let t := (sendAnswer n hdr m).onIo fun c => dropReference c x
    t.channel n = s.channel n ∧ t.callCounter = s.callCounter ∧ t.units = units ∧ s.builtOnChannel n hdr t := by
  subst from_
  refine ⟨rfl, rfl, rfl, ?_⟩
  have sent : s.sentOn n hdr [] (sendToChannel s.net n hdr [] none (takenAt (chanPort n) s.io)) :=
    (sentOn_sendToChannel n hdr [] none (s.taken (chanPort n))).ofTaken
  refine sent.builtDropped s.net (x := x) ?_ rfl
  rw [hb]
  exact nofun

/-- A call that waits with room is told so (R133). -/
theorem joinList_built {p : PortNo} (enters : Enters p s base) (hb : bufferOf x s.io = some b) (here : call.isLocal = true) :
    s.builtOnChannel n (call.answer .callQueued 0) ((joinList n call base).onIo fun c => dropReference c x) := by
  have sent := enters.sentOn n (call.answer .callQueued 0)
  have joined : joinList n call base
      = sendQueued n call (modChannel n (fun y => { y with waits := joinEntry (waitEntryOf call base) y.waits }) base) :=
    if_pos here
  refine sent.builtDropped base.net (x := x) ?_ ?_
  · rw [hb]
    exact nofun
  · rw [joined]
    rfl

/-- The call of a CALL START, as the statements have it (R127). -/
theorem localCall_eq (notice : Noticed s hdr.unit.toNat hdr.emergency { s with units := units })
    (hr : s.record hdr.unit.toNat = some r) (found : findTalkgroup hdr.talkgroup.toNat s.talkgroups = some g) (id : CallId)
    (p : PortNo) :
    localCall hdr id (State.taken p { s with units := units })
      = { id := id
          talkgroup := g.id
          talker := hdr.unit.toNat
          site := s.own
          emergency := r.emergency || hdr.emergency || g.cls == .priority
          isLocal := true } := by
  have flag : unitEmergency hdr.unit.toNat (State.taken p { s with units := units }) = (r.emergency || hdr.emergency) := by
    have record : (State.taken p { s with units := units }).record hdr.unit.toNat = some (r.heard s hdr.emergency) :=
      notice.record r hr
    unfold unitEmergency
    rw [record]
    rfl
  have cls : priorityTalkgroup hdr.talkgroup.toNat (State.taken p { s with units := units }) = (g.cls == .priority) := by
    have known : findTalkgroup hdr.talkgroup.toNat (State.taken p { s with units := units }).talkgroups = some g := found
    unfold priorityTalkgroup
    rw [known]
    rfl
  unfold localCall
  rw [flag, cls, id_of_findTalkgroup found]
  rfl

theorem remoteSet_found {k : TalkgroupId} (found : findTalkgroup k s.talkgroups = some g) : remoteSet g.id s = g.remote := by
  unfold remoteSet
  rw [id_of_findTalkgroup found, found]
  rfl

end Sys2Proof.Machine
end

section
/-! PROOFS. A local CALL START: what the statement asks of each outcome (R127, R129 to R133). -/

namespace Sys2Proof.Machine

variable {s m base t : State} {x : Handle} {n : ChannelNo} {cur : Call} {hdr : Header} {r r' : Record}
  {b : Buffer} {g : TalkgroupEntry} {w : WaitEntry} {units : List Record} {p : PortNo} {id : CallId}

/-- The call of a CALL START (R127). -/
def State.startedCall (s : State) (hdr : Header) (r : Record) (g : TalkgroupEntry) (id : CallId) : Call :=
  { id := id
    talkgroup := g.id
    talker := hdr.unit.toNat
    site := s.own
    emergency := r.emergency || hdr.emergency || g.cls == .priority
    isLocal := true }

/-- A CALL START that has passed its checks (R129). -/
structure Starting (s : State) (x : Handle) (b : Buffer) (hdr : Header) (r : Record) (g : TalkgroupEntry)
    (units : List Record) : Prop where
  buffer : bufferOf x s.io = some b
  header : hdr = parseHeader b.bytes
  kind : hdr.isKind .callStart = true
  notice : Noticed s hdr.unit.toNat hdr.emergency { s with units := units }
  record : s.record hdr.unit.toNat = some r
  found : findTalkgroup hdr.talkgroup.toNat s.talkgroups = some g

namespace Starting

variable (start : Starting s x b hdr r g units)
include start

theorem localCall (p : PortNo) (id : CallId) :
    Machine.localCall hdr id (State.taken p { s with units := units }) = s.startedCall hdr r g id :=
  localCall_eq start.notice start.record start.found id p

theorem marked (hm : (parseHeader b.bytes).emergency = true) (id : CallId) : (s.startedCall hdr r g id).emergency = true := by
  show (r.emergency || hdr.emergency || g.cls == .priority) = true
  rw [start.header, hm, Bool.or_true, Bool.true_or]

theorem isStart : (parseHeader b.bytes).isKind .callStart = true := start.header ▸ start.kind

/-- The records before the call is decided (R53). -/
theorem heard (same : base.units = units) : base.record hdr.unit.toNat = some (r.heard s hdr.emergency) :=
  (record_of_units (s := { s with units := units }) same).trans (start.notice.record r start.record)

theorem others (same : base.units = units) : s.sameRecordsBut hdr.unit.toNat base := fun v hv =>
  (record_of_units (s := { s with units := units }) same).trans (start.notice.others v hv)

/-- The decision on the call of a CALL START, and what a grant leaves (R130, R131). -/
theorem decides (enters : Enters p s base) (same : base.units = units) (id : CallId)
    (apart : ∀ c, (base.channel n).phase.call? = some c → c.talker ≠ hdr.unit.toNat) :
    s.decides n (base.channel n) (s.startedCall hdr r g id)
      (s.startGranted n x hdr (s.startedCall hdr r g id) (r.heard s hdr.emergency))
      ((decideCall n (s.startedCall hdr r g id) (.localStart x) base).onIo fun c => dropReference c x) := by
  have decided := decides_local (call := s.startedCall hdr r g id) enters start.buffer start.isStart
    (fun hm => start.marked hm id) (fun room => not_free_of_kind (k := .callStart) room (by
      rw [bytesOf_some start.buffer]
      exact start.isStart)) rfl (start.heard same) (start.others same) apart
  rwa [← start.header] at decided

/-- A call that is granted at once: the other records, its answer and its offer (R131). -/
theorem granted (enters : Enters p s base) (same : base.units = units) (id : CallId) :
    let t := (grantArrival n (s.startedCall hdr r g id) (.localStart x) base).onIo fun c => dropReference c x
    s.sameRecordsBut hdr.unit.toNat t
      ∧ ((∀ l, s.waitsAt (linkPort l)) → s.builtOnChannel n ((s.startedCall hdr r g id).answer .callGrant 0) t)
      ∧ (s.waitsAt (chanPort n) →
        s.offers (chanPort n) x (if (s.startedCall hdr r g id).emergency then .priority else .routine)
          (hdr.started (s.startedCall hdr r g id)) g.remote t) := by
  intro t
  refine ⟨fun v hv => (grantArrival_record_other (call := s.startedCall hdr r g id) hv).trans (start.others same v hv),
    granted_built enters start.buffer, fun wait => ?_⟩
  have offers := granted_offers (call := s.startedCall hdr r g id) enters start.buffer start.isStart
    (fun hm => start.marked hm id) wait
  rwa [← start.header, show remoteSet (s.startedCall hdr r g id).talkgroup s = g.remote from remoteSet_found start.found]
    at offers

/-- A call that waits, its talker's record as the notice left it (R133). -/
theorem waits (enters : Enters p s base) (same : base.units = units) (id : CallId) :
    let t := (joinWait n (s.startedCall hdr r g id) base).onIo fun c => dropReference c x
    t.record hdr.unit.toNat = some (r.heard s hdr.emergency)
      ∧ ((base.channel n).waits.length < 8 →
        s.builtOnChannel n ((s.startedCall hdr r g id).answer .callQueued 0) t) := by
  intro t
  refine ⟨(record_of_units (joinWait_units n _ base)).trans (start.heard same), fun few => ?_⟩
  have joined := joinWait_room (call := s.startedCall hdr r g id) few
  show s.builtOnChannel n _ ((joinWait n (s.startedCall hdr r g id) base).onIo fun c => dropReference c x)
  rw [joined]
  exact joinList_built enters start.buffer rfl

/-- What a grant leaves, as the statement has it (R131). -/
theorem grants (n : ChannelNo) (id : CallId) :
    s.startGranted n x hdr (s.startedCall hdr r g id) (r.heard s hdr.emergency)
      = fun t => t.record hdr.unit.toNat = some { r.heard s hdr.emergency with talking := true }
        ∧ (s.roomFor 4 4 →
          s.queuedOn n ((s.startedCall hdr r g id).answer .callGrant 0) [] t
            ∧ s.fannedOut x (if (s.startedCall hdr r g id).emergency then .priority else .routine) g.remote t
            ∧ s.offeredAs x (hdr.started (s.startedCall hdr r g id)) g.remote t) := by
  unfold State.startGranted
  rw [show remoteSet (s.startedCall hdr r g id).talkgroup s = g.remote from remoteSet_found start.found]
  rfl

/-- A CALL START whose caller waits already (R129). -/
theorem asksAgain (hm : m = State.taken (chanPort n) { s with units := units })
    (apart : ∀ c, (s.channel n).phase.call? = some c → c.talker ≠ hdr.unit.toNat) (w : WaitEntry) :
    let t := (reaskStart n x hdr w m).onIo fun c => dropReference c x
    let call := s.startedCall hdr r g w.call.id
    t.callCounter = s.callCounter
      ∧ (call.emergency = false ∨ w.call.emergency = true →
        t.channel n = s.channel n ∧ t.record hdr.unit.toNat = some (r.heard s hdr.emergency)
          ∧ s.sameRecordsBut hdr.unit.toNat t ∧ s.builtOnChannel n (w.call.answer .callQueued 0) t)
      ∧ (call.emergency = true → w.call.emergency = false →
        s.decides n ((s.channel n).without w.call.id) call
          (s.startGranted n x hdr call (r.heard s hdr.emergency)) t) := by
  intro t call
  have form : reaskStart n x hdr w m
      = if (call.emergency && !w.call.emergency) = true then decideCall n call (.localStart x) (removeWait n w.call.id m)
        else sendQueued n w.call m := by
    unfold reaskStart
    rw [hm, start.localCall]
  obtain ⟨channel, counter, same, built⟩ := told_alone hm start.buffer (w.call.answer .callQueued 0)
  by_cases urgent : (call.emergency && !w.call.emergency) = true
  · rw [if_pos urgent] at form
    rw [Bool.and_eq_true, Bool.not_eq_true'] at urgent
    obtain ⟨loud, routine⟩ := urgent
    refine ⟨?_, fun calm => ?_, fun _ _ => ?_⟩
    · have talks := State.talksAlone.decideCall n call (.localStart x) (removeWait n w.call.id m)
      show (reaskStart n x hdr w m).callCounter = s.callCounter
      rw [form, talks.counter, hm]
      rfl
    · rw [loud, routine] at calm
      rcases calm with no | no <;> cases no
    · have removed := (State.setsChannel.refl (s := m) (n := n)).removeWait w.call.id
      have from_ : m.channel n = s.channel n := by rw [hm]; rfl
      rw [from_] at removed
      have decided := start.decides (n := n) (p := chanPort n) (base := removeWait n w.call.id m)
        (by rw [hm]; rfl) (by rw [hm]; rfl) w.call.id fun c hc => apart c (by rwa [removed.here] at hc)
      rw [removed.here] at decided
      show s.decides n _ call _ ((reaskStart n x hdr w m).onIo fun c => dropReference c x)
      rw [form]
      exact decided
  · rw [if_neg urgent] at form
    have result : t = (sendQueued n w.call m).onIo fun c => dropReference c x := congrArg (State.onIo _) form
    rw [result]
    refine ⟨counter, fun _ => ⟨channel, start.heard same, start.others same, built⟩, fun loud routine => ?_⟩
    rw [loud, routine] at urgent
    exact absurd rfl urgent

/-- A CALL START of nobody's call here (R127, R129). -/
theorem startsAnew (hm : m = State.taken (chanPort n) { s with units := units })
    (apart : ∀ c, (s.channel n).phase.call? = some c → c.talker ≠ hdr.unit.toNat) :
    let t := (newStart n x hdr m).onIo fun c => dropReference c x
    let call := s.startedCall hdr r g (assignCallId s).1
    t.callCounter = (assignCallId s).2.callCounter
      ∧ s.decides n (s.channel n) call (s.startGranted n x hdr call (r.heard s hdr.emergency)) t
      ∧ ((s.channel n).phase = .idle ∨ (∃ e d, (s.channel n).phase = .hang g.id e d) →
        s.sameRecordsBut hdr.unit.toNat t
          ∧ ((∀ l, s.waitsAt (linkPort l)) → s.builtOnChannel n (call.answer .callGrant 0) t)
          ∧ (s.waitsAt (chanPort n) →
            s.offers (chanPort n) x (if call.emergency then .priority else .routine) (hdr.started call) g.remote t))
      ∧ ∀ cur talk gap, (s.channel n).phase = .active cur talk gap → call.emergency = false ∨ cur.emergency = true →
        t.record hdr.unit.toNat = some (r.heard s hdr.emergency)
          ∧ ((s.channel n).waits.length < 8 → s.builtOnChannel n (call.answer .callQueued 0) t) := by
  intro t call
  obtain ⟨base, hbase⟩ : ∃ base, base = (assignCallId m).2 := ⟨_, rfl⟩
  have enters : Enters (chanPort n) s base := by rw [hbase, hm]; rfl
  have records : base.units = units := by rw [hbase, hm]; rfl
  have channel : base.channel n = s.channel n := by rw [hbase, hm]; rfl
  have counted : base.callCounter = (assignCallId s).2.callCounter := by rw [hbase, hm]; rfl
  have form : newStart n x hdr m = decideCall n call (.localStart x) base := by
    have named : Machine.localCall hdr (assignCallId m).1 m = call := by
      rw [hm, start.localCall]
      rfl
    rw [hbase, ← named]
    rfl
  have result : t = (decideCall n call (.localStart x) base).onIo fun c => dropReference c x := congrArg (State.onIo _) form
  rw [result]
  refine ⟨?_, ?_, fun idle => ?_, fun cur talk gap active calm => ?_⟩
  · exact (State.talksAlone.decideCall n call (.localStart x) base).counter.trans counted
  · have decided := start.decides (n := n) enters records (assignCallId s).1 (by rwa [channel])
    rwa [channel] at decided
  · rw [decideCall_free (m := base) (call := call) (by rw [channel]; exact idle)]
    exact start.granted (n := n) enters records (assignCallId s).1
  · rw [decideCall_calm (m := base) (call := call) (by rw [channel]; exact active) calm, ← channel]
    exact start.waits (n := n) enters records (assignCallId s).1

end Starting

end Sys2Proof.Machine

open Sys2Proof Sys2Proof.Machine

/-- Settles O46: by the check that the CALL START comes to, and by what the channel makes of its call. -/
theorem callStartDecided : Obligations.CallStartDecided := by
  refine ⟨?_, fun s law => assignCallId_spec law⟩
  intro n x r g s holds hdr u before hr home free found here urgent callOf noted grant cls started granted elsewhere again
  obtain ⟨b, hb⟩ := Option.ne_none_iff_exists'.mp (bufferOf_of_kind holds.2)
  obtain ⟨units, notice, from_⟩ := onNotice_eq (hdr := hdr) (k := .callStart) (n := n)
    (noticed_of_member hr (unitNotice_member hr home (k := .callStart) nofun n hdr.emergency))
  have start : Starting s x.handle b hdr r g units :=
    ⟨hb, congrArg parseHeader (bytesOf_some hb), holds.2, notice, hr, found⟩
  obtain ⟨m, hm⟩ : ∃ m, m = State.taken (chanPort n) { s with units := units } := ⟨_, rfl⟩
  have records : m.units = units := by rw [hm]; rfl
  have channels (k : ChannelNo) : m.channel k = s.channel k := by rw [hm]; rfl
  have enters : Enters (chanPort n) s m := by rw [hm]; rfl
  have checked : takeLocalStart n x.handle hdr m = startOnChannel n x.handle hdr (r.heard s hdr.emergency) m :=
    takeLocalStart_checked (start.heard records) ((Phase.isMember_mapActivity _ _).trans (isMember_of_atHome home)) free
      (by rw [hm]; exact found) here
  have next : exec (.callStart n) s
      = .next ((takeLocalStart n x.handle hdr (s.onNotice n .callStart hdr)).onIo fun c => dropReference c x.handle) :=
    callStart_next holds
  rw [from_, ← hm, checked] at next
  have acts : Acts m (startOnChannel n x.handle hdr (r.heard s hdr.emergency) m) := .startOnChannel n x.handle hdr _ m
  obtain ⟨y, sets⟩ := startOnChannel_sets n x.handle hdr (r.heard s hdr.emergency) m
  obtain ⟨took, frame, others⟩ := localFrame_kept hm sets acts x.handle
  refine ⟨_, next, took, frame, others, startOnChannel_record (start.heard records) n x.handle _, fun cur hc talker => ?_,
    fun w apart found => ?_, fun apart nobody silent => ?_⟩
  · rw [startOnChannel_current (by rwa [channels]) talker]
    obtain ⟨channel, counter, same, built⟩ := told_alone hm hb (cur.answer .callGrant 0)
    exact ⟨channel, counter, start.heard same, start.others same, built⟩
  · rw [startOnChannel_again (w := w) (by rwa [channels]) (by rwa [channels])]
    obtain ⟨counter, calm, anew⟩ := start.asksAgain hm apart w
    refine ⟨counter, calm, fun loud routine => ?_⟩
    have decided := anew loud routine
    rw [start.grants n w.call.id] at decided
    exact decided
  · rw [startOnChannel_new (x := x.handle) (r := r.heard s hdr.emergency) (by rwa [channels]) (by rwa [channels]) silent]
    obtain ⟨counter, decided, idle, busy⟩ := start.startsAnew hm apart
    rw [start.grants n (assignCallId s).1] at decided
    refine ⟨counter, decided, idle, fun cur talk gap active calm => ?_⟩
    obtain ⟨record, queued⟩ := busy cur talk gap active calm
    exact ⟨by rw [record, ← silent]; rfl, queued⟩
end

section
/-! PROOFS. A buffer that is held keeps its bytes while other frames are built, placed and let go (R16, R18, R21, R24): its
count does not come to 0, and no buffer of its handle is granted. -/

namespace Sys2Proof.Machine

variable {x h : Handle} {extra before after final : Held} {a b d io : Io} {c : Net} {s t u : State} {p : PortNo}

/-- An operation on frames that keeps the balance, and the bytes of a buffer. -/
def Spares (x : Handle) (before after : Held) (a b : Io) : Prop := balanced before a → balanced after b ∧ bytesOf x b = bytesOf x a

theorem Spares.trans (h : Spares x before after a b) (h' : Spares x after final b d) : Spares x before final a d := fun hb => by
  obtain ⟨kept, same⟩ := h hb
  obtain ⟨kept', same'⟩ := h' kept
  exact ⟨kept', same'.trans same⟩

/-- An operation that leaves the pool's buffers as they are. -/
theorem Spares.still (refs : balanced before a → balanced after b) (buffers : b.pool.allocated = a.pool.allocated) :
    Spares x before after a b := fun hb => ⟨refs hb, by simp only [bytesOf, bufferOf, buffers]⟩

/-- A change of buffers that keeps the bytes of this one. -/
theorem Spares.write (refs : balanced before a → balanced after b)
    (same : (bufferOf x b).map Buffer.bytes = (bufferOf x a).map Buffer.bytes) : Spares x before after a b := fun hb =>
  ⟨refs hb, by
    unfold bytesOf
    cases hx : bufferOf x a <;> cases hy : bufferOf x b <;> simp_all⟩

theorem modBuffer_bytes {f : Buffer → Buffer} (hf : ∀ y, (f y).handle = y.handle) (k : Handle) (io : Io)
    (same : k = x → ∀ y, (f y).bytes = y.bytes) :
    (bufferOf x (modBuffer k f io)).map Buffer.bytes = (bufferOf x io).map Buffer.bytes := by
  rw [bufferOf_modBuffer k x f hf]
  by_cases hk : x = k
  · rw [if_pos hk, Option.map_map]
    congr 1
    funext y
    exact same hk.symm y
  · rw [if_neg hk]

section

variable (held : 1 ≤ extra.more x)
include held

theorem held_more : 1 ≤ (oneMore h extra).more x := Nat.le_add_right_of_le held

/-- A buffer that is held is not free. -/
theorem balanced.used (hb : balanced extra io) : x ∉ io.pool.free := fun free => by
  have some := hb.isSome (h := x) (pinned_lt_of_more held)
  rw [bufferOf_of_free hb.1 free] at some
  cases some

theorem Spares.dropReferenceQuietly (reserve : Nat) (h : Handle) :
    Spares x (oneMore h extra) extra io (Machine.dropReferenceQuietly reserve h io) := by
  intro hb
  suffices same : (bufferOf x (Machine.dropReferenceQuietly reserve h io)).map Buffer.bytes = (bufferOf x io).map Buffer.bytes from
    Spares.write (fun hb => hb.dropReferenceQuietly reserve) same hb
  obtain ⟨y, hy⟩ := Option.isSome_iff_exists.mp (hb.isSome (h := h) (pinned_lt_of_more (by rw [oneMore_self]; omega)))
  unfold Machine.dropReferenceQuietly
  rw [hy]
  simp only
  split
  · rename_i last
    rw [bufferOf_releaseBuffer, handle_of_bufferOf hy]
    by_cases same : x = h
    · obtain ⟨count, -, owed⟩ := hb.2 h
      have least := pinned_le_references io h
      simp only [refsOf, hy, Option.map_some, Option.getD_some, oneMore_self] at count
      rw [same] at held
      omega
    · rw [if_neg same]
  · exact modBuffer_bytes (f := fun b => { b with refs := b.refs - 1 }) (fun _ => rfl) h io fun _ _ => rfl

end

/-! ## Entries (R41, R42) -/

theorem Spares.addReference (h : Handle) (least : io.pinned h < io.references h + extra.more h) :
    Spares x extra (oneMore h extra) io (Machine.addReference h io) :=
  .write (fun hb => hb.addReference least)
    (modBuffer_bytes (f := fun b => { b with refs := b.refs + 1 }) (fun _ => rfl) h io fun _ _ => rfl)

theorem startTransmission_allocated (p : PortNo) (io : Io) : (startTransmission p io).pool = io.pool := by
  unfold startTransmission
  split <;> rfl

theorem Spares.placeWithRoom (p : PortNo) (e : Entry) (least : io.pinned e.handle < io.references e.handle + extra.more e.handle) :
    Spares x extra extra io (Machine.placeWithRoom p e io) := by
  refine .write (fun hb => hb.placeWithRoom least) ?_
  have same := modBuffer_bytes (x := x) (f := fun b => { b with refs := b.refs + 1 }) (fun _ => rfl) e.handle
    (modPort p (fun y => { y with queue := insertEntry e y.queue }) io) fun _ _ => rfl
  unfold Machine.placeWithRoom
  simp only
  split
  · unfold bufferOf at same ⊢
    rw [startTransmission_allocated]
    exact same
  · exact same

/-- What may release a reference. -/
def DropsSparing (x : Handle) (drop : Handle → Io → Io) : Prop :=
  ∀ (h : Handle) (extra : Held) (io : Io), 1 ≤ extra.more x → Spares x (oneMore h extra) extra io (drop h io)

section

variable (held : 1 ≤ extra.more x)
include held

theorem Spares.placeEntryWith {drop : Handle → Io → Io} (hd : DropsSparing x drop) (p : PortNo) (e : Entry)
    (least : io.pinned e.handle < io.references e.handle + extra.more e.handle) :
    Spares x extra extra io (Machine.placeEntryWith drop p e io) := by
  unfold Machine.placeEntryWith
  simp only
  split
  · exact placeWithRoom p e least
  · split
    · exact .still (fun hb => hb.bumpAt _) rfl
    · split
      · exact .still (fun hb => hb.bumpAt _) rfl
      · rename_i d q hq
        have counted : Spares x extra (oneMore e.handle extra) io (Machine.addReference e.handle (countPort p .displaced io)) :=
          (Spares.still (fun hb => hb.bumpAt _) rfl).trans (addReference e.handle least)
        have moved : Spares x (oneMore e.handle extra) (oneMore d.handle extra)
            (Machine.addReference e.handle (countPort p .displaced io))
            (modPort p (fun x => { x with queue := insertEntry e q })
              (Machine.addReference e.handle (countPort p .displaced io))) :=
          .still (fun hb => hb.displace (p := p) hq) rfl
        exact (counted.trans moved).trans (hd d.handle extra _ held)

theorem Spares.placeForSiteWith {drop : Handle → Io → Io} (hd : DropsSparing x drop) (cls : FrameClass) {h : Handle}
    (site : SiteId) (holds : 1 ≤ extra.more h) : Spares x extra extra io (Machine.placeForSiteWith drop c cls h site io) := by
  unfold Machine.placeForSiteWith
  split
  · exact .still (fun hb => hb.bumpAt _) rfl
  · exact placeEntryWith held hd _ _ (pinned_lt_of_more holds)

theorem Spares.placeForSitesWith {drop : Handle → Io → Io} (hd : DropsSparing x drop) (cls : FrameClass) {h : Handle}
    (sites : List SiteId) (holds : 1 ≤ extra.more h) :
    Spares x extra extra io (Machine.placeForSitesWith drop c cls h sites io) := by
  unfold Machine.placeForSitesWith
  induction sites generalizing io with
  | nil => exact fun hb => ⟨hb, rfl⟩
  | cons n ns ih => exact (placeForSiteWith held hd cls n holds).trans ih

end

/-! ## Buffers let go and granted (R19, R24, R27) -/

theorem dropsSparing_quietly (x : Handle) (reserve : Nat) : DropsSparing x (dropReferenceQuietly reserve) := fun h _ _ held =>
  .dropReferenceQuietly held reserve h

section

variable (held : 1 ≤ extra.more x)
include held

theorem Spares.takeBuffer {rest : List Handle} (hf : io.pool.free = h :: rest) :
    Spares x extra (oneMore h extra) io (Machine.takeBuffer h rest io) := by
  intro hb
  refine Spares.write (fun hb => hb.takeBuffer hf) ?_ hb
  have used := balanced.used held hb
  rw [bufferOf_takeBuffer, if_neg]
  rintro rfl
  exact used (by rw [hf]; exact List.mem_cons_self)

/-- The bytes of another buffer are written, of one that was granted. -/
theorem Spares.takeWritten {rest : List Handle} (hf : io.pool.free = h :: rest) (f : Buffer → Buffer)
    (keep : ∀ b, (f b).handle = b.handle ∧ (f b).refs = b.refs) :
    Spares x extra (oneMore h extra) io (modBuffer h f (Machine.takeBuffer h rest io)) := by
  intro hb
  have apart : h ≠ x := by
    rintro rfl
    exact balanced.used held hb (by rw [hf]; exact List.mem_cons_self)
  refine (takeBuffer held hf).trans (Spares.write (fun hb => hb.modBuffer h f keep) ?_) hb
  exact modBuffer_bytes (fun y => (keep y).1) h _ fun same => absurd same apart

theorem Spares.sendPoolExhausted (c : Net) : Spares x extra extra io (Machine.sendPoolExhausted c io) := by
  unfold Machine.sendPoolExhausted
  split
  · exact fun hb => ⟨hb, rfl⟩
  · rename_i h rest hf
    have quiet : Spares x extra extra io { io with pool := { io.pool with noticePending := false } } :=
      .still (fun hb => hb.same rfl rfl rfl rfl) rfl
    have built := quiet.trans (takeWritten held (io := { io with pool := { io.pool with noticePending := false } }) hf
      (fun b => { b with bytes := mgmtNoticeBytes c 3#8 0 0 [] }) fun _ => ⟨rfl, rfl⟩)
    have placed := built.trans (placeForSitesWith (held_more held) (dropsSparing_quietly x c.active.bufferReserve) .priority
      c.managementSites (c := c) (one_le_oneMore _ _))
    exact placed.trans (dropReferenceQuietly held c.active.bufferReserve h)

theorem Spares.dropReference (c : Net) (h : Handle) : Spares x (oneMore h extra) extra io (Machine.dropReference c h io) := by
  have quietly := dropReferenceQuietly (io := io) held c.active.bufferReserve h
  unfold Machine.dropReference
  simp only
  split
  · exact quietly.trans (sendPoolExhausted held c)
  · exact quietly

omit held in
theorem dropsSparing (x : Handle) (c : Net) : DropsSparing x (Machine.dropReference c) := fun h _ _ held => .dropReference held c h

/-! ## Frames that are built (R21, R32 to R35, R44) -/

theorem Spares.placeForSite (c : Net) (cls : FrameClass) {h : Handle} (site : SiteId) (holds : 1 ≤ extra.more h) :
    Spares x extra extra io (Machine.placeForSite c cls h site io) := placeForSiteWith held (dropsSparing x c) cls site holds

theorem Spares.placeForSites (c : Net) (cls : FrameClass) {h : Handle} (sites : List SiteId) (holds : 1 ≤ extra.more h) :
    Spares x extra extra io (Machine.placeForSites c cls h sites io) := placeForSitesWith held (dropsSparing x c) cls sites holds

theorem Spares.deliver (c : Net) (n : ChannelNo) (cls : FrameClass) {h : Handle} (holds : 1 ≤ extra.more h) :
    Spares x extra extra io (Machine.deliver c n cls h io) :=
  placeEntryWith held (dropsSparing x c) _ _ (pinned_lt_of_more holds)

theorem Spares.buildFrame (c : Net) (hdr : Header) (payload : List Byte) (done : Option Completion) (io : Io) :
    (∀ h, (Machine.buildFrame c hdr payload done io).1 = some h →
        Spares x extra (oneMore h extra) io (Machine.buildFrame c hdr payload done io).2)
      ∧ ((Machine.buildFrame c hdr payload done io).1 = none →
        Spares x extra extra io (Machine.buildFrame c hdr payload done io).2) := by
  have noted : Spares x extra extra io (noteExcess c.active.bufferReserve io) :=
    .still (fun hb => hb.noteExcess c.active.bufferReserve) rfl
  have emptied : Spares x extra extra io (noteEmpty (noteExcess c.active.bufferReserve io)) := by
    refine noted.trans (.still (fun hb => hb.noteEmpty) ?_)
    unfold noteEmpty
    split <;> rfl
  have counted (io : Io) : Spares x extra extra io (countDev .internalDrops io) := .still (fun hb => hb.bumpAt _) rfl
  unfold Machine.buildFrame allocate
  simp only
  cases hf : (noteExcess c.active.bufferReserve io).pool.free with
  | nil => exact ⟨nofun, fun _ => emptied.trans (counted _)⟩
  | cons k rest =>
    simp only
    split
    · rename_i eq
      split at eq
      · cases eq
      · obtain ⟨same, rfl⟩ := Prod.mk.inj eq
        obtain rfl := Allocation.granted.inj same
        refine ⟨fun h some => ?_, nofun⟩
        obtain rfl := Option.some.inj some
        exact noted.trans (takeWritten held hf _ fun _ => ⟨rfl, rfl⟩)
    · rename_i eq
      split at eq
      · obtain ⟨-, rfl⟩ := Prod.mk.inj eq
        exact ⟨nofun, fun _ => noted.trans (counted _)⟩
      · cases eq
    · rename_i eq
      split at eq <;> cases eq

theorem Spares.sendBuilt (c : Net) (hdr : Header) (payload : List Byte) (done : Option Completion) (place : Handle → Io → Io)
    (hp : ∀ (h : Handle) (io : Io), Spares x (oneMore h extra) (oneMore h extra) io (place h io)) :
    Spares x extra extra io (Machine.sendBuilt c hdr payload done place io) := by
  obtain ⟨built, refused⟩ := buildFrame held c hdr payload done io
  unfold Machine.sendBuilt
  split <;> rename_i eq <;> rw [eq] at built refused
  · exact ((built _ rfl).trans (hp _ _)).trans (dropReference held c _)
  · exact refused rfl

theorem Spares.sendToSite (c : Net) (hdr : Header) (site : SiteId) : Spares x extra extra io (Machine.sendToSite c hdr site io) :=
  sendBuilt held c _ _ _ _ fun _ _ => placeForSite (held_more held) c _ _ (one_le_oneMore _ _)

theorem Spares.sendToSites (c : Net) (hdr : Header) (payload : List Byte) (sites : List SiteId) :
    Spares x extra extra io (Machine.sendToSites c hdr payload sites io) := by
  unfold Machine.sendToSites
  split
  · exact fun hb => ⟨hb, rfl⟩
  · exact sendBuilt held c _ _ _ _ fun _ _ => placeForSites (held_more held) c _ _ (one_le_oneMore _ _)

theorem Spares.sendToChannel (c : Net) (n : ChannelNo) (hdr : Header) (payload : List Byte) (done : Option Completion) :
    Spares x extra extra io (Machine.sendToChannel c n hdr payload done io) :=
  sendBuilt held c _ _ _ _ fun _ _ => deliver (held_more held) c n _ (one_le_oneMore _ _)

end

end Sys2Proof.Machine
end

section
/-! PROOFS. The unit notice (R53): the frame that brought it keeps its buffer, and a unit that has been heard once is not
moved by the same notice again. -/

namespace Sys2Proof.Machine

variable {x : Handle} {extra : Held} {io : Io} {s t m : State} {u : UnitId} {r : Record} {n : ChannelNo} {k : Kind} {p : PortNo}
  {y : Handed} {marker : Bool} {c : Instr}

/-! ## The frame of a notice (R16, R18) -/

section

variable (held : 1 ≤ extra.more x)
include held

theorem Spares.memberEntry (g : TalkgroupId) (s : State) : Spares x extra extra s.io (Machine.memberEntry g s).io := by
  unfold Machine.memberEntry
  split
  · exact fun hb => ⟨hb, rfl⟩
  · simp only
    split
    · exact sendToSites held s.net _ [] s.net.routedSites
    · exact fun hb => ⟨hb, rfl⟩

theorem Spares.memberExit (g : TalkgroupId) (s : State) : Spares x extra extra s.io (Machine.memberExit g s).io := by
  unfold Machine.memberExit
  split
  · exact fun hb => ⟨hb, rfl⟩
  · simp only
    split
    · exact sendToSites held s.net _ [] s.net.routedSites
    · exact fun hb => ⟨hb, rfl⟩

theorem Spares.deleteRecord (u : UnitId) (s : State) : Spares x extra extra s.io (Machine.deleteRecord u s).io := by
  unfold Machine.deleteRecord exitReport
  cases s.record u with
  | none => exact fun hb => ⟨hb, rfl⟩
  | some r =>
    have counted (io : Io) : Spares x extra extra io (countDev .recordsDeleted io) := .still (fun hb => hb.bumpAt _) rfl
    simp only
    split
    · exact (memberExit held r.talkgroup s).trans (counted _)
    · exact counted _

theorem Spares.reviveByNotice (n : ChannelNo) (r : Record) (s : State) :
    Spares x extra extra s.io (Machine.reviveByNotice n r s).io := by
  unfold Machine.reviveByNotice
  cases found : findTalkgroup r.talkgroup s.talkgroups with
  | none => exact deleteRecord held r.unit s
  | some g =>
    exact (memberEntry held r.talkgroup (enterPhase r.unit (.served g.channel (freshActivity s) none) s)).trans
      (sendToChannel held _ n (acceptHeader r.unit r.talkgroup g.channel) [] none)

theorem Spares.radioReturned (u : UnitId) (ch : ChannelNo) (ho : Handover) (s : State) :
    Spares x extra extra s.io (Machine.radioReturned u ch ho s).io :=
  (sendToSite held s.net (cancelHeader u ho.id 4) ho.partner).trans (.still (fun hb => hb.bumpAt _) rfl)

theorem Spares.unitNotice (n : ChannelNo) (u : UnitId) (k : Kind) (marker : Bool) (s : State) :
    Spares x extra extra s.io (Machine.unitNotice n u k marker s).io := by
  cases hr : s.record u with
  | none =>
    rw [unitNotice_none hr]
    exact fun hb => ⟨hb, rfl⟩
  | some r =>
    have same : (s.marked u marker).io = s.io := by rw [marked_frame]
    rw [unitNotice_some hr, ← same]
    generalize s.marked u marker = m
    unfold noticeByState
    cases r.phase with
    | served | proposing =>
      simp only
      split <;> exact fun hb => ⟨hb, rfl⟩
    | departing ch ho sent =>
      simp only
      split
      · exact radioReturned held r.unit ch ho m
      · exact fun hb => ⟨hb, rfl⟩
    | arriving | forward => exact fun hb => ⟨hb, rfl⟩
    | lost =>
      simp only
      split
      · exact reviveByNotice held n r m
      · exact fun hb => ⟨hb, rfl⟩

end

/-- The reference of a handed frame passes to the event that takes it (R22). -/
theorem balanced_taken (hx : headHanded p s = some y) (hb : balanced extra s.io) :
    balanced (oneMore y.handle extra) (s.taken p).io := by
  have handed : s.io.ports[p.val].handed = y :: s.io.ports[p.val].handed.tail := by
    unfold headHanded at hx
    cases hl : s.io.ports[p.val].handed with
    | nil => simp [hl] at hx
    | cons z zs => simpa [hl] using hx
  have count (k : Handle) : s.io.ports[p.val].handed.countP (fun y => y.handle == k)
      = s.io.ports[p.val].handed.tail.countP (fun y => y.handle == k) + if k = y.handle then 1 else 0 := by
    conv_lhs => rw [handed]
    simp only [List.countP_cons, beq_iff_eq, eq_comm (a := k)]
  refine hb.shift rfl rfl fun k => ?_
  have moved := references_modPort p (fun y => { y with handed := y.handed.tail }) s.io k
  have pins := pinned_modPort p (fun y => { y with handed := y.handed.tail }) s.io k
  have split := count k
  simp only [Port.references] at moved
  simp only [Port.pinned] at pins
  have references : (s.taken p).io.references k = (modPort p (fun y => { y with handed := y.handed.tail }) s.io).references k := rfl
  have pinned : (s.taken p).io.pinned k = (modPort p (fun y => { y with handed := y.handed.tail }) s.io).pinned k := rfl
  rw [references, pinned]
  simp only [oneMore]
  exact ⟨by omega, fun least => by omega⟩

/-- The frame that brings a notice stands in its buffer afterwards as before (R16, R18). -/
theorem bytesOf_unitNotice (pool : s.poolLaw) (law : s.referenceLaw) (hx : headHanded p s = some y) (n : ChannelNo) (u : UnitId)
    (k : Kind) (marker : Bool) : bytesOf y.handle (unitNotice n u k marker s).io = bytesOf y.handle s.io := by
  have taken := balanced_taken hx ((balanced_iff s pool).mpr law)
  have spared := (Spares.unitNotice (one_le_oneMore y.handle .none) n u k marker (s.taken p) taken).2
  rw [unitNotice_passes] at spared
  exact spared

/-! ## A notice that has been taken -/

theorem modUnit_id {f : Record → Record} (fixed : ∀ q ∈ s.units, q.unit = u → f q = q) : modUnit u f s = s := by
  have same : (s.units.map fun r => if r.unit == u then f r else r) = s.units := by
    refine (List.map_congr_left fun q hq => ?_).trans (List.map_id _)
    by_cases hu : q.unit = u
    · rw [if_pos (beq_iff_eq.mpr hu), fixed q hq hu]
      rfl
    · rw [if_neg (by simpa using hu)]
      rfl
  unfold modUnit
  rw [same]

/-- What holds of every record of a unit after all have been written. -/
theorem modUnit_all {f : Record → Record} {P : Record → Prop}
    (all : ∀ q ∈ s.units, q.unit = u → P (f q)) : ∀ q ∈ (modUnit u f s).units, q.unit = u → P q := by
  intro q hq hu
  obtain ⟨r, hr, rfl⟩ := List.mem_map.mp hq
  by_cases mine : r.unit = u
  · rw [if_pos (beq_iff_eq.mpr mine)]
    exact all r hr mine
  · rw [if_neg (by simpa using mine)] at hu
    exact absurd hu mine

/-- A record of a unit that has just been heard: SERVED, ACTIVE with its timer started now, and marked by a marked
frame. -/
def Record.justHeard (s : State) (marker : Bool) (r : Record) : Prop :=
  (∃ ch, r.phase = .served ch (freshActivity s) none) ∧ (marker = true → r.emergency = true)

/-- The same notice moves nothing more (R53, R58, R65). -/
theorem unitNotice_settled (all : ∀ q ∈ s.units, q.unit = u → q.justHeard s marker) (n : ChannelNo) (k : Kind) :
    unitNotice n u k marker s = s := by
  have marked : s.marked u marker = s := by
    cases marker with
    | false => rfl
    | true => exact modUnit_id fun q hq hu => if_pos ((all q hq hu).2 rfl)
  cases hr : s.record u with
  | none => exact unitNotice_none hr n k marker
  | some r =>
    rw [unitNotice_some hr, marked]
    obtain ⟨ch, phase⟩ := (all r (mem_of_record s hr) (unit_of_record s hr)).1
    unfold noticeByState
    rw [phase]
    simp only
    split
    · rfl
    · rw [unit_of_record s hr]
      refine modUnit_id fun q hq hu => ?_
      obtain ⟨ch', phase'⟩ := (all q hq hu).1
      rw [phase']
      have touched : touchActivity s (freshActivity s) = freshActivity s := rfl
      show { q with phase := .served ch' (touchActivity s (freshActivity s)) none } = q
      rw [touched, ← phase']

end Sys2Proof.Machine
end

section
/-! PROOFS. A radio that has returned (R97), and a unit that is heard again (R56): what their notices leave, send and count. -/

namespace Sys2Proof.Machine

variable {x : Handle} {s t m : State} {u : UnitId} {r : Record} {n : ChannelNo} {k : Kind} {p : PortNo} {ch : ChannelNo}
  {ho : Handover} {own : TalkgroupEntry} {marker : Bool} {d : Nat}

/-- The record of a unit that is SERVED here from now on (R56, R97). -/
def Record.here (s : State) (ch : ChannelNo) (marker : Bool) (r : Record) : Record :=
  { r with
    phase := .served ch (freshActivity s) none
    emergency := r.emergency || marker
    entryTime := s.timeBase }

/-! ## A radio that was sent away has returned (R97) -/

/-- The state after the notice of a radio that has returned. -/
def State.back (s : State) (u : UnitId) (ch : ChannelNo) (ho : Handover) (marker : Bool) : State :=
  radioReturned u ch ho (s.marked u marker)

theorem unitNotice_back (hr : s.record u = some r) (hp : r.phase = .departing ch ho true) (hk : marksReturn k = true)
    (n : ChannelNo) (marker : Bool) : unitNotice n u k marker s = s.back u ch ho marker := by
  rw [unitNotice_some hr, noticeByState, hp]
  simp only [hk, Bool.and_self, if_true]
  rw [unit_of_record s hr]
  rfl

theorem back_frame (s : State) (u : UnitId) (ch : ChannelNo) (ho : Handover) (marker : Bool) :
    s.back u ch ho marker = { s with io := (s.back u ch ho marker).io, units := (s.back u ch ho marker).units } := by
  unfold State.back
  rw [marked_frame]
  rfl

theorem marked_all (s : State) (u : UnitId) (marker : Bool) :
    ∀ q ∈ (s.marked u marker).units, q.unit = u → (marker = true → q.emergency = true) := by
  cases marker with
  | false => exact fun _ _ _ => nofun
  | true => exact modUnit_all fun q _ _ _ => by rw [marked_true]; exact Bool.or_true _

/-- The records of a unit that has entered SERVED afresh. -/
theorem enterServed_all {P : Record → Prop} (all : ∀ q ∈ s.units, q.unit = u → P q)
    (keep : ∀ q, P q → P (q.enter s.timeBase (.served ch (freshActivity s) none))) :
    ∀ q ∈ (enterPhase u (.served ch (freshActivity s) none) s).units, q.unit = u →
      (∃ ch, q.phase = .served ch (freshActivity s) none) ∧ P q :=
  modUnit_all fun q hq hu => ⟨⟨ch, rfl⟩, keep q (all q hq hu)⟩

theorem back_record_other {v : UnitId} (hv : v ≠ u) : (s.back u ch ho marker).record v = s.record v := by
  unfold State.back radioReturned
  rw [count_record, startRoamHold_record, if_neg hv]
  exact ((enterPhase_record u v _ _).trans (if_neg hv)).trans (marked_record_other hv marker)

theorem back_record (hr : s.record u = some r) (hp : r.phase = .departing ch ho true) :
    (s.back u ch ho marker).record u
      = some { r.here s ch marker with roamHold := some (s.after (s.active.roamHold * 1000)) } := by
  have mine := marked_record hr marker
  rw [Record.marked_inactive (by rw [hp]; rfl)] at mine
  have entered := Record.enter_changed (r := { r with emergency := r.emergency || marker }) s.timeBase
    (ph := .served ch (freshActivity s) none) (by rw [hp]; exact nofun)
  unfold State.back radioReturned
  rw [count_record, startRoamHold_record, if_pos rfl]
  have served : (enterPhase u (.served ch (freshActivity (s.marked u marker)) none) (s.marked u marker)).record u
      = some (r.here s ch marker) := by
    rw [enterPhase_record, if_pos rfl, mine, marked_frame]
    exact congrArg some entered
  refine (congrArg (Option.map _) served).trans ?_
  rw [marked_frame]
  rfl

theorem back_heard (s : State) (u : UnitId) (ch : ChannelNo) (ho : Handover) (marker : Bool) :
    ∀ q ∈ (s.back u ch ho marker).units, q.unit = u → q.justHeard (s.back u ch ho marker) marker := by
  have served := enterServed_all (ch := ch) (marked_all s u marker) fun q marked => marked
  have held := modUnit_all (s := sendCancel u ho.id 4#8 ho.partner
    (enterPhase u (.served ch (freshActivity (s.marked u marker)) none) (s.marked u marker)))
    (f := fun r => { r with roamHold := some (s.after (s.active.roamHold * 1000)) })
    (P := fun q => (∃ ch, q.phase = .served ch (freshActivity (s.marked u marker)) none) ∧ (marker = true → q.emergency = true))
    served
  intro q hq hu
  rw [back_frame]
  unfold State.back at hq
  rw [marked_frame] at hq held
  exact held q hq hu

theorem Issues.back (s : State) (u : UnitId) (ch : ChannelNo) (ho : Handover) (marker : Bool) :
    Issues x 1 1 (siteClaims s.net (cancelHeader u ho.id 4) ho.partner) s (s.back u ch ho marker) := by
  have net : (s.marked u marker).net = s.net := by rw [marked_frame]; rfl
  have sent := Issues.toSite (x := x) (cancelHeader u ho.id 4) ho.partner
    (enterPhase u (.served ch (freshActivity (s.marked u marker)) none) (s.marked u marker))
  rw [show (enterPhase u (.served ch (freshActivity (s.marked u marker)) none) (s.marked u marker)).net = s.net from net] at sent
  have start := sent.start (s := s) (by rw [marked_frame]; rfl) (by rw [marked_frame]; rfl)
  have whole : Issues x (1 + 0 + 0) (1 + 0 + 0) _ s (s.back u ch ho marker) :=
    (start.trans (.modUnit u _ _)).trans (.count .roamsFailed _)
  exact whole.mono (le_refl 1) (le_refl 1) fun f hf => List.mem_append_left _ (List.mem_append_left _ hf)

theorem Raises.back (s : State) (u : UnitId) (ch : ChannelNo) (ho : Handover) (marker : Bool) :
    Raises [.roamsFailed] s (s.back u ch ho marker) := by
  have sent := (Raises.sendCancel u ho.id 4#8 ho.partner
    (enterPhase u (.served ch (freshActivity (s.marked u marker)) none) (s.marked u marker))).ofLive (s := s)
    (by rw [marked_frame]; rfl)
  have whole : Raises ([] ++ [.roamsFailed]) s (s.back u ch ho marker) :=
    (sent.trans (l' := []) (Raises.same (t := startRoamHold u _) rfl)).trans (.count .roamsFailed _)
  exact whole

/-! ## A LOST unit is heard again (R56) -/

/-- The state in which a LOST unit's record is SERVED again on its talkgroup's channel, its entry reported. -/
def State.revived (s : State) (r : Record) (own : TalkgroupEntry) (marker : Bool) : State :=
  reviveRecord r own (s.marked r.unit marker)

theorem revived_frame (s : State) (r : Record) (own : TalkgroupEntry) (marker : Bool) :
    s.revived r own marker
      = { s with
          io := (s.revived r own marker).io
          units := (s.revived r own marker).units
          talkgroups := s.talkgroups.map fun k => if k.id = r.talkgroup then { k with members := k.members + 1 } else k
          ownSequence := (s.revived r own marker).ownSequence } := by
  unfold State.revived reviveRecord
  rw [memberEntry_frame, marked_frame]
  rfl

theorem revived_units (s : State) (r : Record) (own : TalkgroupEntry) (marker : Bool) :
    (s.revived r own marker).units
      = (enterPhase r.unit (.served own.channel (freshActivity s) none) (s.marked r.unit marker)).units := by
  unfold State.revived reviveRecord
  rw [memberEntry_frame, show freshActivity (s.marked r.unit marker) = freshActivity s by rw [marked_frame]; rfl]

theorem revived_record_other {v : UnitId} (hv : v ≠ r.unit) : (s.revived r own marker).record v = s.record v :=
  (record_of_units (revived_units s r own marker)).trans
    (((enterPhase_record r.unit v _ _).trans (if_neg hv)).trans (marked_record_other hv marker))

theorem revived_record (hr : s.record r.unit = some r) (hp : r.phase = .lost ch d) :
    (s.revived r own marker).record r.unit = some (r.here s own.channel marker) := by
  have mine := marked_record hr marker
  rw [Record.marked_inactive (by rw [hp]; rfl)] at mine
  have entered := Record.enter_changed (r := { r with emergency := r.emergency || marker }) s.timeBase
    (ph := .served own.channel (freshActivity s) none) (by rw [hp]; exact nofun)
  rw [record_of_units (revived_units s r own marker), enterPhase_record, if_pos rfl, mine, marked_frame]
  exact congrArg some entered

theorem revived_heard (s : State) (r : Record) (own : TalkgroupEntry) (marker : Bool) :
    ∀ q ∈ (s.revived r own marker).units, q.unit = r.unit → q.justHeard s marker := by
  have served := enterServed_all (ch := own.channel) (marked_all s r.unit marker) fun q marked => marked
  rw [show freshActivity (s.marked r.unit marker) = freshActivity s by rw [marked_frame]; rfl] at served
  rw [revived_units]
  exact served

theorem Issues.revived (s : State) (r : Record) (own : TalkgroupEntry) (marker : Bool) :
    Issues x 1 s.sites.length [] s (s.revived r own marker) := by
  have sent := Issues.reportEntry (x := x) r.talkgroup
    (enterPhase r.unit (.served own.channel (freshActivity (s.marked r.unit marker)) none) (s.marked r.unit marker))
  have sites : (enterPhase r.unit (.served own.channel (freshActivity (s.marked r.unit marker)) none)
    (s.marked r.unit marker)).sites = s.sites := by rw [marked_frame]; rfl
  rw [sites] at sent
  exact sent.start (by rw [marked_frame]; rfl) (by rw [marked_frame]; rfl)

theorem Raises.revived (s : State) (r : Record) (own : TalkgroupEntry) (marker : Bool) :
    Raises [] s (s.revived r own marker) :=
  (Raises.memberEntry r.talkgroup _).ofLive (by rw [marked_frame]; rfl)

theorem revived_sequence (found : findTalkgroup r.talkgroup s.talkgroups = some own) :
    (s.revived r own marker).ownSequence = if own.members = 0 then s.ownSequence + 1 else s.ownSequence := by
  unfold State.revived reviveRecord
  rw [memberEntry_sequence (e := own) (by rw [marked_frame]; exact found), marked_frame]
  rfl

/-- The notice of a LOST unit, but for a REGISTER, revives it and accepts it (R56). -/
theorem unitNotice_revives (hr : s.record r.unit = some r) (hp : r.phase = .lost ch d) (hk : revivesByNotice k = true)
    (found : findTalkgroup r.talkgroup s.talkgroups = some own) (n : ChannelNo) (marker : Bool) :
    unitNotice n r.unit k marker s = sendAccept n r.unit r.talkgroup own.channel (s.revived r own marker) := by
  rw [unitNotice_some hr, noticeByState, hp]
  simp only [hk, if_true, reviveByNotice]
  rw [show (s.marked r.unit marker).talkgroups = s.talkgroups by rw [marked_frame], found]
  rfl

/-- A LOST unit whose talkgroup has been removed is deleted (R52, R56). -/
def State.forgotten (s : State) (u : UnitId) (marker : Bool) : State :=
  (removeRecord u (s.marked u marker)).count .recordsDeleted

theorem deleteRecord_forgotten (hr : s.record r.unit = some r) (hp : r.phase = .lost ch d) (marker : Bool) :
    deleteRecord r.unit (s.marked r.unit marker) = s.forgotten r.unit marker := by
  have mine := marked_record hr marker
  rw [Record.marked_inactive (by rw [hp]; rfl)] at mine
  unfold deleteRecord
  rw [mine]
  have away : exitReport { r with emergency := r.emergency || marker } (s.marked r.unit marker) = s.marked r.unit marker :=
    exitReport_away (show r.phase.isMember = false by rw [hp]; rfl)
  simp only
  rw [away]
  rfl

theorem unitNotice_forgets (hr : s.record r.unit = some r) (hp : r.phase = .lost ch d) (hk : revivesByNotice k = true)
    (gone : findTalkgroup r.talkgroup s.talkgroups = none) (n : ChannelNo) (marker : Bool) :
    unitNotice n r.unit k marker s = s.forgotten r.unit marker := by
  rw [unitNotice_some hr, noticeByState, hp]
  simp only [hk, if_true, reviveByNotice]
  rw [show (s.marked r.unit marker).talkgroups = s.talkgroups by rw [marked_frame], gone]
  exact deleteRecord_forgotten hr hp marker

theorem forgotten_frame (s : State) (u : UnitId) (marker : Bool) :
    s.forgotten u marker
      = { s with io := countDev .recordsDeleted s.io, units := (s.forgotten u marker).units } := by
  unfold State.forgotten
  rw [marked_frame]
  rfl

theorem forgotten_none (s : State) (u : UnitId) (marker : Bool) : ∀ q ∈ (s.forgotten u marker).units, q.unit ≠ u := by
  intro q hq
  have kept := (List.mem_filter.mp hq).2
  simpa using kept

theorem forgotten_record (s : State) (u : UnitId) (marker : Bool) : (s.forgotten u marker).record u = none := by
  cases hr : (s.forgotten u marker).record u with
  | none => rfl
  | some q => exact absurd (unit_of_record _ hr) (forgotten_none s u marker q (mem_of_record _ hr))

theorem removeRecord_record_other {v : UnitId} (hv : v ≠ u) (s : State) : (removeRecord u s).record v = s.record v := by
  unfold State.record removeRecord
  rw [List.find?_filter]
  congr 1
  funext r
  by_cases hr : r.unit = v
  · simp [hr, hv]
  · simp [hr]

theorem forgotten_record_other {v : UnitId} (hv : v ≠ u) (marker : Bool) : (s.forgotten u marker).record v = s.record v := by
  refine Eq.trans ?_ (marked_record_other hv marker)
  exact removeRecord_record_other hv (s.marked u marker)

theorem Raises.forgotten (s : State) (u : UnitId) (marker : Bool) : Raises [.recordsDeleted] s (s.forgotten u marker) :=
  (Raises.count .recordsDeleted (removeRecord u (s.marked u marker))).ofLive (by rw [marked_frame]; rfl)

end Sys2Proof.Machine
end

section
/-! PROOFS. A frame from a radio that has been heard again is then handled as the same frame of its record as it now is, or of
a unit without one (R56, R97). -/

namespace Sys2Proof.Machine

variable {x : Handed} {s t m : State} {u : UnitId} {r : Record} {n : ChannelNo} {k : Kind} {p : PortNo} {ch : ChannelNo}
  {ho : Handover} {own : TalkgroupEntry} {marker : Bool} {d : Nat} {c : Instr}

/-- The four signs of life (R97), each with its command. -/
def lifeSigns (n : ChannelNo) : List (Instr × Kind) :=
  [(.register n, .register), (.measure n, .measure), (.pollReply n, .pollReply), (.callStart n, .callStart)]

theorem lifeSign_cases (hc : (c, k) ∈ lifeSigns n) :
    (c = .register n ∧ k = .register) ∨ (c = .measure n ∧ k = .measure) ∨ (c = .pollReply n ∧ k = .pollReply)
      ∨ (c = .callStart n ∧ k = .callStart) := by
  simpa [lifeSigns] using hc

theorem lifeSign_marksReturn (hc : (c, k) ∈ lifeSigns n) : marksReturn k = true := by
  rcases lifeSign_cases hc with ⟨-, rfl⟩ | ⟨-, rfl⟩ | ⟨-, rfl⟩ | ⟨-, rfl⟩ <;> rfl

theorem lifeSign_revives (hc : (c, k) ∈ lifeSigns n) (other : k ≠ .register) : revivesByNotice k = true := by
  rcases lifeSign_cases hc with ⟨-, rfl⟩ | ⟨-, rfl⟩ | ⟨-, rfl⟩ | ⟨-, rfl⟩
  · exact absurd rfl other
  all_goals rfl

theorem lifeSign_runs (hc : (c, k) ∈ lifeSigns n) : ∃ run, ∀ s, exec c s = .next (takeFromChannel n k run s) := by
  rcases lifeSign_cases hc with ⟨rfl, rfl⟩ | ⟨rfl, rfl⟩ | ⟨rfl, rfl⟩ | ⟨rfl, rfl⟩ <;> exact ⟨_, fun _ => rfl⟩

/-- A state from which a command goes on as from another, the same frame still to be taken. -/
structure GoesOnAs (c : Instr) (k : Kind) (n : ChannelNo) (x : Handed) (s m : State) : Prop where
  exec : exec c s = exec c m
  holds : m.holds (chanPort n) x k
  header : handedHeader x m = handedHeader x s
  payload : handedPayload x m = handedPayload x s
  intake : s.sameIntake m

/-- The notice of a frame may be taken on its own, where it then moves nothing more. -/
theorem goesOnAs_unitNotice (hc : (c, k) ∈ lifeSigns n) (holds : s.holds (chanPort n) x k) (pool : s.poolLaw)
    (law : s.referenceLaw) (unit : (handedHeader x s).unit.toNat = u)
    (hm : unitNotice n u k (handedHeader x s).emergency s = m)
    (settled : unitNotice n u k (handedHeader x s).emergency m = m) : GoesOnAs c k n x s m := by
  subst unit
  obtain ⟨run, runs⟩ := lifeSign_runs hc
  have bytes : bytesOf x.handle m.io = bytesOf x.handle s.io := by
    rw [← hm]
    exact bytesOf_unitNotice pool law holds.1 n _ k _
  have intake : s.sameIntake m := by
    rw [← hm]
    exact sameIntake_of_acts (.unitNotice n _ k _ s)
  have header : handedHeader x m = handedHeader x s := congrArg parseHeader bytes
  have payload : handedPayload x m = handedPayload x s := congrArg payloadOf bytes
  have head : headHanded (chanPort n) m = some x := by
    have same : m.io.ports[(chanPort n).val].handed = s.io.ports[(chanPort n).val].handed := (intake (chanPort n)).1
    unfold headHanded
    rw [same]
    exact holds.1
  have kind : (handedHeader x m).isKind k = true := header ▸ holds.2
  refine ⟨?_, ⟨head, kind⟩, header, payload, intake⟩
  rw [runs, runs, takeFromChannel_of_head run holds.1 holds.2, takeFromChannel_of_head run head kind, header, payload, settled, hm]

/-- The room that an event leaves (R19, R41). -/
theorem roomFor_of_issues {frames entries a e : Nat} {claims : List Claim} (sent : Issues 0 a e claims s m)
    (acts : Acts s m) (room : s.roomFor (frames + a) (entries + e)) : m.roomFor frames entries := by
  have used : (0 : Handle) ∉ s.io.pool.free := fun hk => by
    have := room.1.mem_iff.mp (List.mem_append_left _ hk)
    simp at this
  obtain ⟨left, -, -⟩ := sent.room frames entries (room_of_roomFor room) used
  refine ⟨acts.pool room.1, left.quiet, ?_, fun p => ⟨left.busy p, left.queues p⟩⟩
  rw [sent.active]
  exact left.free

/-- A frame from a radio that was sent away is handled as the same frame of a unit that is SERVED here (R97). -/
theorem goesOnAs_back (hc : (c, k) ∈ lifeSigns n) (holds : s.holds (chanPort n) x k) (law : s.counterLaw) (pool : s.poolLaw)
    (refs : s.referenceLaw) (hr : s.record (handedHeader x s).unit.toNat = some r) (hp : r.phase = .departing ch ho true) :
    ∃ m, (GoesOnAs c k n x s m ∧ s.sameRecordsBut (handedHeader x s).unit.toNat m)
      ∧ m = { s with io := m.io, units := m.units } ∧ s.raised .roamsFailed m
      ∧ m.record (handedHeader x s).unit.toNat
        = some
            { r.here s ch (handedHeader x s).emergency with roamHold := some (s.after (s.active.roamHold * 1000)) }
      ∧ ∀ frames entries, s.roomFor (frames + 1) (entries + 1) → m.roomFor frames entries
        ∧ s.queuedFor (cancelHeader (handedHeader x s).unit.toNat ho.id 4) ho.partner m := by
  have notice := unitNotice_back hr hp (lifeSign_marksReturn hc) n (handedHeader x s).emergency
  have acts : Acts s (s.back (handedHeader x s).unit.toNat ch ho (handedHeader x s).emergency) := by
    rw [← notice]
    exact .unitNotice n _ k _ s
  refine ⟨_, ⟨goesOnAs_unitNotice hc holds pool refs rfl notice (unitNotice_settled (back_heard s _ ch ho _) n k),
    fun v hv => back_record_other hv⟩, back_frame s _ ch ho _, (Raises.back s _ ch ho _).raised law (by decide) rfl,
    back_record hr hp, fun frames entries room => ⟨roomFor_of_issues (.back s _ ch ho _) acts room, ?_⟩⟩
  refine queuedFor_of_stands fun routed => (Issues.back s _ ch ho _).standsAlone ?_ room (Nat.le_add_left 1 frames)
    (Nat.le_add_left 1 entries)
  unfold siteClaims
  rw [if_pos routed]
  exact List.mem_singleton.mpr rfl

/-- The state in which a LOST unit has been revived and accepted (R56). -/
theorem Issues.revivedAccepted (s : State) (r : Record) (own : TalkgroupEntry) (marker : Bool) (n : ChannelNo) {h : Handle} :
    Issues h 2 (s.sites.length + 1) [Claim.onChannel n (acceptHeader r.unit r.talkgroup own.channel) []] s
      (Machine.sendAccept n r.unit r.talkgroup own.channel (s.revived r own marker)) :=
  (Issues.revived s r own marker).trans (.sendAccept n r.unit r.talkgroup own.channel _)

/-- A frame of a LOST unit, but for a REGISTER, is handled as the same frame of a unit that is SERVED here (R56). -/
theorem goesOnAs_revived (hc : (c, k) ∈ lifeSigns n) (other : k ≠ .register) (holds : s.holds (chanPort n) x k) (pool : s.poolLaw)
    (refs : s.referenceLaw) (hr : s.record (handedHeader x s).unit.toNat = some r) (hp : r.phase = .lost ch d)
    (found : findTalkgroup r.talkgroup s.talkgroups = some own) :
    ∃ m, (GoesOnAs c k n x s m ∧ s.sameRecordsBut (handedHeader x s).unit.toNat m)
      ∧ m = { s with
            io := m.io
            units := m.units
            talkgroups := s.talkgroups.map fun y => if y.id = r.talkgroup then { y with members := y.members + 1 } else y
            ownSequence := if own.members = 0 then s.ownSequence + 1 else s.ownSequence }
      ∧ m.record (handedHeader x s).unit.toNat = some (r.here s own.channel (handedHeader x s).emergency)
      ∧ ∀ frames entries, s.roomFor (frames + 2) (entries + s.sites.length + 1) → m.roomFor frames entries
        ∧ s.queuedOn n (acceptHeader (handedHeader x s).unit.toNat r.talkgroup own.channel) [] m := by
  obtain unit : r.unit = (handedHeader x s).unit.toNat := unit_of_record s hr
  rw [← unit] at hr ⊢
  have notice := unitNotice_revives hr hp (lifeSign_revives hc other) found n (handedHeader x s).emergency
  have acts : Acts s (sendAccept n r.unit r.talkgroup own.channel (s.revived r own (handedHeader x s).emergency)) := by
    rw [← notice]
    exact .unitNotice n _ k _ s
  have frame := revived_frame s r own (handedHeader x s).emergency
  rw [revived_sequence found] at frame
  have settled : unitNotice n r.unit k (handedHeader x s).emergency
      (sendAccept n r.unit r.talkgroup own.channel (s.revived r own (handedHeader x s).emergency))
        = sendAccept n r.unit r.talkgroup own.channel (s.revived r own (handedHeader x s).emergency) := by
    refine unitNotice_settled (fun q hq hu => ?_) n k
    have heard := revived_heard s r own (handedHeader x s).emergency q hq hu
    unfold Record.justHeard at heard ⊢
    rw [show freshActivity (sendAccept n r.unit r.talkgroup own.channel (s.revived r own (handedHeader x s).emergency))
      = freshActivity s by rw [frame]; rfl]
    exact heard
  have sent (h : Handle) := Issues.revivedAccepted s r own (handedHeader x s).emergency n (h := h)
  refine ⟨sendAccept n r.unit r.talkgroup own.channel (s.revived r own (handedHeader x s).emergency),
    ⟨goesOnAs_unitNotice hc holds pool refs unit.symm notice settled, fun v hv =>
    revived_record_other (r := r) (own := own) (marker := (handedHeader x s).emergency) hv⟩, ?_, revived_record hr hp,
    fun frames entries room => ⟨roomFor_of_issues (sent 0) acts room, ?_⟩⟩
  · rw [frame]
    rfl
  · exact queuedOn_of_stands ((sent 0).standsAlone (List.mem_singleton.mpr rfl) room (Nat.le_add_left 2 frames) (by omega))

/-- A frame of a LOST unit without a talkgroup, but for a REGISTER, is handled as the same frame of a unit without a
record (R56). -/
theorem goesOnAs_forgotten (hc : (c, k) ∈ lifeSigns n) (other : k ≠ .register) (holds : s.holds (chanPort n) x k)
    (law : s.counterLaw) (pool : s.poolLaw) (refs : s.referenceLaw) (hr : s.record (handedHeader x s).unit.toNat = some r)
    (hp : r.phase = .lost ch d) (gone : findTalkgroup r.talkgroup s.talkgroups = none) :
    ∃ m, (GoesOnAs c k n x s m ∧ s.sameRecordsBut (handedHeader x s).unit.toNat m)
      ∧ m = { s with io := m.io, units := m.units } ∧ m.record (handedHeader x s).unit.toNat = none
      ∧ m.io.pool = s.io.pool ∧ m.io.ports = s.io.ports ∧ s.raised .recordsDeleted m := by
  obtain unit : r.unit = (handedHeader x s).unit.toNat := unit_of_record s hr
  rw [← unit] at hr ⊢
  have notice := unitNotice_forgets hr hp (lifeSign_revives hc other) gone n (handedHeader x s).emergency
  have settled := unitNotice_none (forgotten_record s r.unit (handedHeader x s).emergency) n k (handedHeader x s).emergency
  have frame := forgotten_frame s r.unit (handedHeader x s).emergency
  refine ⟨s.forgotten r.unit (handedHeader x s).emergency,
    ⟨goesOnAs_unitNotice hc holds pool refs unit.symm notice settled, fun v hv =>
    forgotten_record_other hv _⟩, ?_, forgotten_record s r.unit _, ?_, ?_, (Raises.forgotten s r.unit _).raised law (by decide) rfl⟩
  · rw [frame]
  · rw [frame]
    rfl
  · rw [frame]
    rfl

end Sys2Proof.Machine
end

section
/-! PROOFS. A REGISTER of a member (R55, R96): its record, its talkgroups, its answer. -/

namespace Sys2Proof.Machine

variable {x : Handle} {s t m : State} {r : Record} {n : ChannelNo} {e : TalkgroupEntry} {g : Registration} {ch : ChannelNo}

theorem Phase.number_withChannel (ch : ChannelNo) (ph : Phase) : (ph.withChannel ch).number = ph.number := by cases ph <;> rfl

theorem Phase.handover_withChannel (ch : ChannelNo) (ph : Phase) : (ph.withChannel ch).handover? = ph.handover? := by
  cases ph <;> rfl

theorem Phase.activity_withChannel (ch : ChannelNo) (ph : Phase) : (ph.withChannel ch).activity? = ph.activity? := by
  cases ph <;> rfl

theorem Phase.channel_withChannel {ph : Phase} (stands : ph.channel? = some ch) (c : ChannelNo) :
    (ph.withChannel c).channel? = some c := by
  cases ph with
  | served | proposing | departing | lost => rfl
  | arriving | forward => cases stands

theorem registerByState_member (hr : s.record g.unit = some r) (member : r.phase.isMember = true) :
    registerByState n g s = registerServed n g r s := by
  unfold registerByState
  rw [hr]
  cases hp : r.phase with
  | served | proposing | departing => simp only [hp]
  | arriving | forward | lost => rw [hp] at member; cases member

theorem registerServed_unknown (gone : findTalkgroup g.talkgroup s.talkgroups = none) :
    registerServed n g r s = sendRefuse n g.unit 1#8 s := by
  unfold registerServed
  rw [gone]

/-- The record of a member after its REGISTER (R55). -/
def Record.registered (g : Registration) (e : TalkgroupEntry) (r : Record) : Record :=
  { r with
    talkgroup := g.talkgroup
    lastSite := g.lastSite
    emergency := r.emergency && !g.clears
    phase := if g.talkgroup = r.talkgroup then r.phase else r.phase.withChannel e.channel }

/-- The channel on which a REGISTER ACCEPT names a member (R55). -/
def Record.acceptedOn (g : Registration) (e : TalkgroupEntry) (r : Record) : ChannelNo :=
  if g.talkgroup = r.talkgroup then r.phase.channel?.getD e.channel else e.channel

/-- The member counts after a member's REGISTER (R113). -/
def Registration.counts (g : Registration) (r : Record) (l : List TalkgroupEntry) : List TalkgroupEntry :=
  if g.talkgroup = r.talkgroup then l
  else
    l.map fun k =>
      if k.id = r.talkgroup then { k with members := k.members - 1 }
      else if k.id = g.talkgroup then { k with members := k.members + 1 }
      else k

/-- What a REGISTER of a member writes, its answer still to be sent. -/
def reregistered (g : Registration) (e : TalkgroupEntry) (r : Record) (s : State) : State :=
  if g.talkgroup = r.talkgroup then modUnit g.unit g.note s
  else
    modUnit g.unit (fun r => g.note { r with talkgroup := g.talkgroup, phase := r.phase.withChannel e.channel })
      (memberEntry g.talkgroup (memberExit r.talkgroup s))

theorem registerServed_known (found : findTalkgroup g.talkgroup s.talkgroups = some e) :
    registerServed n g r s = sendAccept n g.unit g.talkgroup (r.acceptedOn g e) (reregistered g e r s) := by
  unfold registerServed reregistered Record.acceptedOn
  rw [found]
  simp only
  split <;> rfl

theorem reregistered_frame (g : Registration) (e : TalkgroupEntry) (r : Record) (s : State) :
    reregistered g e r s
      = { s with
          io := (reregistered g e r s).io
          units := (reregistered g e r s).units
          talkgroups := g.counts r s.talkgroups
          ownSequence := (reregistered g e r s).ownSequence } := by
  unfold reregistered Registration.counts
  by_cases same : g.talkgroup = r.talkgroup
  · simp only [if_pos same]
    rfl
  · simp only [if_neg same]
    unfold modUnit
    rw [memberEntry_frame, memberExit_frame]
    simp only [List.map_map]
    congr 2
    funext k
    by_cases old : k.id = r.talkgroup
    · have apart : ¬r.talkgroup = g.talkgroup := fun eq => same eq.symm
      simp [old, apart]
    · simp [old]

theorem reregistered_sequence (same : g.talkgroup = r.talkgroup) :
    (reregistered g e r s).ownSequence = s.ownSequence ∧ (reregistered g e r s).io = s.io := by
  unfold reregistered
  rw [if_pos same]
  exact ⟨rfl, rfl⟩

theorem reregistered_record (hr : s.record g.unit = some r) :
    (reregistered g e r s).record g.unit = some (r.registered g e) := by
  unfold reregistered Record.registered
  by_cases same : g.talkgroup = r.talkgroup
  · simp only [if_pos same]
    refine (modUnit_record_self (f := g.note) hr fun _ => rfl).trans ?_
    rw [same]
    rfl
  · simp only [if_neg same]
    have units : (memberEntry g.talkgroup (memberExit r.talkgroup s)).units = s.units := by
      rw [memberEntry_frame, memberExit_frame]
    exact (modUnit_record_self (f := fun r => g.note { r with talkgroup := g.talkgroup, phase := r.phase.withChannel e.channel })
      ((record_of_units units).trans hr) fun _ => rfl)

theorem reregistered_record_other {v : UnitId} (hv : v ≠ g.unit) : (reregistered g e r s).record v = s.record v := by
  unfold reregistered
  split
  · exact modUnit_record_other (f := g.note) hv fun _ => rfl
  · have units : (memberEntry g.talkgroup (memberExit r.talkgroup s)).units = s.units := by
      rw [memberEntry_frame, memberExit_frame]
    exact (modUnit_record_other (f := fun r => g.note { r with talkgroup := g.talkgroup, phase := r.phase.withChannel e.channel })
      hv fun _ => rfl).trans (record_of_units units)

theorem Issues.reregistered (g : Registration) (e : TalkgroupEntry) (r : Record) (s : State) :
    Issues x 2 (2 * s.sites.length) [] s (Machine.reregistered g e r s) := by
  unfold Machine.reregistered
  split
  · exact nothing rfl rfl
  · have left := reportExit (x := x) r.talkgroup s
    have joined := reportEntry (x := x) g.talkgroup (Machine.memberExit r.talkgroup s)
    rw [show (Machine.memberExit r.talkgroup s).sites = s.sites by rw [memberExit_frame]] at joined
    exact ((left.trans joined).trans (.modUnit g.unit _ _)).mono (le_refl 2) (by omega) fun f hf => by simp at hf

theorem Raises.reregistered (g : Registration) (e : TalkgroupEntry) (r : Record) (s : State) :
    Raises [] s (Machine.reregistered g e r s) := by
  unfold Machine.reregistered
  split
  · exact .same rfl
  · have moved := (Raises.memberExit r.talkgroup s).trans (Raises.memberEntry g.talkgroup (Machine.memberExit r.talkgroup s))
    exact Raises.trans (l := []) (l' := []) moved (.same rfl)

end Sys2Proof.Machine
end

section
/-! PROOFS. A REGISTER of a member at home, whole (R11, R53, R55, R58): refused, or its record brought up to date. -/

namespace Sys2Proof.Machine

variable {x : Handed} {h : Handle} {s t m : State} {r : Record} {n : ChannelNo} {e : TalkgroupEntry} {g : Registration} {ch : ChannelNo}
  {marker : Bool} {units : List Record}

/-- The record of a member whose REGISTER has been read. -/
theorem heard_phase (marker : Bool) (r : Record) (s : State) :
    (r.heard s marker).phase.number = r.phase.number ∧ (r.heard s marker).phase.channel? = r.phase.channel?
      ∧ (r.heard s marker).phase.handover? = r.phase.handover?
      ∧ (r.heard s marker).phase.isMember = r.phase.isMember
      ∧ ∀ a, (r.heard s marker).phase.activity? = some a →
        a.cls = .active ∧ a.timer = some (s.after (s.active.runDownshift * 1000)) := by
  refine ⟨Phase.number_mapActivity _ _, Phase.channel_mapActivity _ _, Phase.handover_mapActivity _ _,
    Phase.isMember_mapActivity _ _, fun a ha => ?_⟩
  have from_ : (r.phase.activity?.map s.activeAgain) = some a := (Phase.activity_mapActivity _ _).symm.trans ha
  obtain ⟨b, -, rfl⟩ := Option.map_eq_some_iff.mp from_
  unfold State.activeAgain
  simp only
  split
  · rename_i active
    exact ⟨active, rfl⟩
  · exact ⟨rfl, rfl⟩

/-- A REGISTER of a member at home, as its command runs it. -/
theorem register_atHome (holds : s.holds (chanPort n) x .register) (hr : s.record (handedHeader x s).unit.toNat = some r)
    (home : r.phase.atHome = true) :
    ∃ units, Noticed s (handedHeader x s).unit.toNat (handedHeader x s).emergency { s with units := units }
      ∧ exec (.register n) s
        = .next ((registerServed n (registrationOf (handedHeader x s) (handedPayload x s)) (r.heard s (handedHeader x s).emergency)
            (State.taken (chanPort n) { s with units := units })).onIo fun c => dropReference c x.handle) := by
  have notice := noticed_of_member hr (unitNotice_member hr home (k := .register) nofun n (handedHeader x s).emergency)
  obtain ⟨units, noticed, from_⟩ := onNotice_eq (hdr := handedHeader x s) (k := .register) (n := n) notice
  refine ⟨units, noticed, ?_⟩
  have next : exec (.register n) s
      = .next ((registerByState n (registrationOf (handedHeader x s) (handedPayload x s)) (s.onNotice n .register (handedHeader x s))).onIo
          fun c => dropReference c x.handle) := register_next holds
  have record : (State.taken (chanPort n) { s with units := units }).record
      (registrationOf (handedHeader x s) (handedPayload x s)).unit = some (r.heard s (handedHeader x s).emergency) :=
    noticed.record r hr
  rw [next, from_, registerByState_member record ((Phase.isMember_mapActivity _ _).trans (isMember_of_atHome home))]

/-- A REGISTER of a member at home that names no talkgroup of the table is refused (R54, R55). -/
theorem registerServed_refuses (holds : s.holds (chanPort n) x .register)
    (hr : s.record (handedHeader x s).unit.toNat = some r) (home : r.phase.atHome = true)
    (gone : findTalkgroup (handedHeader x s).talkgroup.toNat s.talkgroups = none) :
    ∃ t, exec (.register n) s = .next t ∧ s.tookHanded (chanPort n) t ∧ t = { s with io := t.io, units := t.units }
      ∧ s.sameRecordsBut (handedHeader x s).unit.toNat t
      ∧ t.record (handedHeader x s).unit.toNat = some (r.heard s (handedHeader x s).emergency)
      ∧ s.builtOnChannel n (refuseHeader (handedHeader x s).unit.toNat 1) t := by
  obtain ⟨units, noticed, next⟩ := register_atHome holds hr home
  rw [registerServed_unknown (s := State.taken (chanPort n) { s with units := units })
    (g := registrationOf (handedHeader x s) (handedPayload x s)) gone] at next
  have hx : bufferOf x.handle s.io ≠ none := bufferOf_of_kind holds.2
  obtain ⟨same, built⟩ := refused_leaves (s := { s with units := units }) (n := n) (p := chanPort n)
    (u := (handedHeader x s).unit.toNat) (cause := 1#8) (x := x.handle) hx rfl
  have acts : Acts (State.taken (chanPort n) { s with units := units })
      (sendRefuse n (handedHeader x s).unit.toNat 1#8 (State.taken (chanPort n) { s with units := units })) := .sendRefuse _ _ _ _
  refine ⟨_, next, tookHanded_of_ports x.handle fun q => ⟨(acts.ports q).2.1, (acts.ports q).1⟩, rfl,
    fun v hv => noticed.others v hv, noticed.record r hr, built⟩

/-- A REGISTER of a member at home brings its record up to date and is accepted (R55). -/
theorem registerServed_updates (holds : s.holds (chanPort n) x .register)
    (hr : s.record (handedHeader x s).unit.toNat = some r) (home : r.phase.atHome = true)
    (found : findTalkgroup (handedHeader x s).talkgroup.toNat s.talkgroups = some e) :
    let g := registrationOf (handedHeader x s) (handedPayload x s)
    ∃ t, exec (.register n) s = .next t ∧ s.tookHanded (chanPort n) t
      ∧ t = { s with
            io := t.io
            units := t.units
            talkgroups := g.counts r s.talkgroups
            ownSequence := t.ownSequence }
      ∧ (g.talkgroup = r.talkgroup → t.ownSequence = s.ownSequence)
      ∧ s.sameRecordsBut g.unit t
      ∧ t.record g.unit = some ((r.heard s g.marker).registered g e)
      ∧ (s.roomFor 4 (2 * s.sites.length + 4) →
        s.queuedOn n (acceptHeader g.unit g.talkgroup ((r.heard s g.marker).acceptedOn g e)) [] t) := by
  intro g
  obtain ⟨units, noticed, next⟩ := register_atHome holds hr home
  obtain ⟨m, hm⟩ : ∃ m, m = State.taken (chanPort n) { s with units := units } := ⟨_, rfl⟩
  have mine : m.record g.unit = some (r.heard s g.marker) := by
    rw [hm]
    exact noticed.record r hr
  rw [← hm, registerServed_known (g := g) (e := e) (by rw [hm]; exact found)] at next
  replace next : exec (.register n) s
      = .next ((sendAccept n g.unit g.talkgroup ((r.heard s g.marker).acceptedOn g e)
          (reregistered g e (r.heard s g.marker) m)).onIo fun c => dropReference c x.handle) := next
  have acts : Acts (State.taken (chanPort n) { s with units := units })
      (sendAccept n g.unit g.talkgroup ((r.heard s g.marker).acceptedOn g e) (reregistered g e (r.heard s g.marker) m)) := by
    rw [← registerServed_known (g := g) (e := e) (by rw [hm]; exact found), ← hm]
    exact .registerServed n g _ m
  have frame := reregistered_frame g e (r.heard s g.marker) m
  have issued : Issues x.handle 3 (2 * s.sites.length + 1) [Claim.onChannel n
      (acceptHeader g.unit g.talkgroup ((r.heard s g.marker).acceptedOn g e)) []] s
      (sendAccept n g.unit g.talkgroup ((r.heard s g.marker).acceptedOn g e) (reregistered g e (r.heard s g.marker) m)) := by
    have first : Issues x.handle 0 0 [] s m := by
      rw [hm]
      exact (Issues.taken (chanPort n) _).start rfl rfl
    have moved := first.trans (.reregistered g e (r.heard s g.marker) m)
    rw [show m.sites = s.sites by rw [hm]; rfl] at moved
    exact (moved.trans (.sendAccept n g.unit g.talkgroup _ _)).mono (le_refl 3) (by omega) fun f hf => hf
  refine ⟨_, next, tookHanded_of_ports x.handle fun q => ⟨(acts.ports q).2.1, (acts.ports q).1⟩, ?_, fun same => ?_,
    fun v hv => ?_, reregistered_record mine, fun room => ?_⟩
  · rw [frame, hm]
    rfl
  · refine (reregistered_sequence (r := r.heard s g.marker) (e := e) (s := m) same).1.trans ?_
    rw [hm]
    rfl
  · refine (reregistered_record_other (r := r.heard s g.marker) (e := e) (s := m) hv).trans ?_
    rw [hm]
    exact noticed.others v hv
  · exact queuedOn_of_stands (issued.stands (List.mem_singleton.mpr rfl) room (by omega) (by omega)
      (not_free_of_kind room holds.2) _)

end Sys2Proof.Machine
end

section
/-! PROOFS. What the owners of MEASURE, POLL REPLY and CALL START do with a unit that is SERVED here afresh (R61, R73, R91, R129). -/

namespace Sys2Proof.Machine

variable {x : Handle} {s m t : State} {u : UnitId} {r ρ : Record} {n : ChannelNo} {k : Kind} {ch : ChannelNo} {call cur : Call}
  {hdr : Header} {payload : List Byte}

/-! ## What a CALL START sends and counts (R129 to R133) -/

/-- What an operation of the arbiters may send here, and that it counts no more than calls not carried. -/
structure Speaks (x : Handle) (a : Nat) (m t : State) : Prop where
  issues : Issues x a a [] m t
  raises : ∃ l, (∀ d ∈ l, d = .callsNotCarried) ∧ Raises l m t
  talkgroups : t.talkgroups = m.talkgroups

theorem Says.speaks {a e b : Nat} {claims : List Claim} {raised : List DevCounter} (h : Says x false a e claims raised m t)
    (only : ∀ d ∈ raised, d = .callsNotCarried) (ha : a ≤ b) (he : e ≤ b) : Speaks x b m t :=
  ⟨(h.issues nofun).mono ha he fun _ hf => absurd hf List.not_mem_nil, ⟨_, only, h.raises⟩, h.frame.sees.2⟩

namespace Speaks

theorem trans {a b : Nat} (h : Speaks x a s m) (h' : Speaks x b m t) : Speaks x (a + b) s t := by
  obtain ⟨l, only, raises⟩ := h.raises
  obtain ⟨l', only', raises'⟩ := h'.raises
  exact ⟨h.issues.trans h'.issues, ⟨_, fun d hd => (List.mem_append.mp hd).elim (only d) (only' d), raises.trans raises'⟩,
    h'.talkgroups.trans h.talkgroups⟩

theorem mono {a b : Nat} (h : Speaks x a m t) (hb : a ≤ b) : Speaks x b m t :=
  ⟨h.issues.mono hb hb fun _ hf => hf, h.raises, h.talkgroups⟩

/-- An operation that starts in a state with the same frames and talkgroups. -/
theorem start {a : Nat} (h : Speaks x a m t) (active : m.active = s.active) (io : m.io = s.io)
    (talkgroups : m.talkgroups = s.talkgroups) : Speaks x a s t := by
  obtain ⟨l, only, raises⟩ := h.raises
  exact ⟨h.issues.start active io, ⟨l, only, raises.ofLive (by rw [io])⟩, h.talkgroups.trans talkgroups⟩

theorem sendAnswer (n : ChannelNo) (hdr : Header) (s : State) : Speaks x 1 s (Machine.sendAnswer n hdr s) :=
  (Says.sendAnswer n hdr s).speaks (fun _ hd => absurd hd List.not_mem_nil) (le_refl 1) (le_refl 1)

theorem turnAway (n : ChannelNo) (call : Call) (cause : Byte) (s : State) : Speaks x 1 s (Machine.turnAway n call cause s) :=
  (Says.turnAway n call cause s).speaks (fun _ hd => List.mem_singleton.mp hd) (le_refl 1) (le_refl 1)

theorem mod (n : ChannelNo) (f : Channel → Channel) (s : State) : Speaks x 0 s (modChannel n f s) :=
  (Says.mod f s).speaks (fun _ hd => absurd hd List.not_mem_nil) (le_refl 0) (le_refl 0)

theorem joinList (n : ChannelNo) (call : Call) (s : State) : Speaks x 1 s (Machine.joinList n call s) :=
  (Says.joinList n call s).speaks (fun _ hd => absurd hd List.not_mem_nil) (le_refl 1) (le_refl 1)

theorem joinWait (n : ChannelNo) (call : Call) (s : State) : Speaks x 2 s (Machine.joinWait n call s) := by
  unfold Machine.joinWait
  simp only
  split
  · exact (joinList n call s).mono (Nat.le_succ 1)
  · split
    · split
      · exact (turnAway n call _ s).mono (Nat.le_succ 1)
      · exact ((mod n _ s).trans (turnAway n _ _ _)).trans (joinList n call _)
    · exact (turnAway n call _ s).mono (Nat.le_succ 1)

theorem requeueRemote (n : ChannelNo) (call : Call) (s : State) : Speaks x 2 s (Machine.requeueRemote n call s) := by
  unfold Machine.requeueRemote
  simp only
  split
  · exact (mod n _ s).mono (Nat.zero_le 2)
  · split
    · exact (Says.count .callsNotCarried s).speaks (fun _ hd => List.mem_singleton.mp hd) (Nat.zero_le 2) (Nat.zero_le 2)
    · exact (((mod n _ s).trans (turnAway n _ _ _)).trans (mod n _ _)).mono (Nat.le_succ 1)

theorem preemptCall (n : ChannelNo) (cur : Call) (s : State) : Speaks x 2 s (Machine.preemptCall n cur s) := by
  cases here : cur.isLocal with
  | true => exact (Says.preemptLocal here s).speaks (fun _ hd => absurd hd List.not_mem_nil) (le_refl 2) (le_refl 2)
  | false =>
    rw [preemptCall_remote here]
    exact requeueRemote n cur s

theorem grantArrival (n : ChannelNo) (call : Call) (s : State) :
    Speaks x 2 s (Machine.grantArrival n call (.localStart x) s) :=
  (Says.grantArrival n call (.localStart x) s).speaks (fun _ hd => absurd hd List.not_mem_nil) (Nat.le_succ 1) (le_refl 2)

theorem decideCall (n : ChannelNo) (call : Call) (s : State) : Speaks x 4 s (Machine.decideCall n call (.localStart x) s) := by
  have granted := (grantArrival (x := x) n call s).mono (by decide : 2 ≤ 4)
  have waits := (joinWait (x := x) n call s).mono (by decide : 2 ≤ 4)
  unfold Machine.decideCall
  cases (s.channel n).phase with
  | idle => exact granted
  | hang g e d =>
    simp only
    split
    · exact granted
    · split
      · exact granted
      · exact waits
  | active cur talk gap =>
    simp only
    split
    · exact (preemptCall n cur s).trans (grantArrival n call _)
    · exact waits

theorem startOnChannel (n : ChannelNo) (hdr : Header) (r : Record) (s : State) :
    Speaks x 4 s (Machine.startOnChannel n x hdr r s) := by
  have told (hdr : Header) : Speaks x 4 s (Machine.sendAnswer n hdr s) := (sendAnswer n hdr s).mono (by decide)
  unfold Machine.startOnChannel
  split
  · exact told _
  · split
    · unfold reaskStart
      simp only
      split
      · exact (mod n _ s).trans (decideCall n _ _) |>.mono (le_refl 4)
      · exact told _
    · split
      · exact told _
      · exact (decideCall n _ (assignCallId s).2).start rfl rfl rfl

/-- A CALL START uses at most four buffers and places, whatever comes of it. -/
theorem takeLocalStart (n : ChannelNo) (hdr : Header) (s : State) : Speaks x 4 s (Machine.takeLocalStart n x hdr s) := by
  have told (cause : Byte) : Speaks x 4 s (refuseStart n hdr cause s) := (sendAnswer n _ s).mono (by decide)
  unfold Machine.takeLocalStart
  split
  · exact told _
  · split
    · exact told _
    · split
      · exact told _
      · split
        · exact told _
        · split
          · exact startOnChannel n hdr _ s
          · exact told _

end Speaks

theorem takeLocalStart_record {r' : Record} (hr : m.record hdr.unit.toNat = some r') (n : ChannelNo) (x : Handle) :
    (takeLocalStart n x hdr m).record hdr.unit.toNat = some r'
      ∨ (takeLocalStart n x hdr m).record hdr.unit.toNat = some { r' with talking := true } := by
  unfold takeLocalStart
  split
  · exact .inl hr
  · split
    · exact .inl hr
    · split
      · exact .inl hr
      · split
        · exact .inl hr
        · split
          · exact startOnChannel_record hr n x _
          · exact .inl hr

/-! ## The owner of a sign of life -/

/-- The owner of a sign of life other than REGISTER handles it. -/
def takeSign (k : Kind) (n : ChannelNo) (h : Handle) (hdr : Header) (payload : List Byte) (s : State) : State :=
  if k = .measure then measureByState hdr.unit.toNat payload s
  else if k = .pollReply then pollReplyByState hdr.unit.toNat s
  else takeLocalStart n h hdr s

/-- What is left of a record that was SERVED afresh when its frame came. -/
structure Record.StaysHome (k : Kind) (ρ r' : Record) : Prop where
  number : r'.phase.number ≤ 1
  served : k ≠ .measure ∨ ρ.roamHold.isSome = true → r'.phase.number = 0
  channel : r'.phase.channel? = ρ.phase.channel?
  activity : r'.phase.activity? = ρ.phase.activity?
  talkgroup : r'.talkgroup = ρ.talkgroup
  slot : r'.slot = ρ.slot
  emergency : r'.emergency = ρ.emergency
  entryTime : r'.entryTime = ρ.entryTime
  roamHold : ρ.roamHold.isSome = true → r'.roamHold = ρ.roamHold

/-- What the owner of a sign of life leaves of a unit that was SERVED afresh when it came. -/
structure LeftHome (k : Kind) (h : Handle) (u : UnitId) (ρ : Record) (m t : State) : Prop where
  acts : Acts m t
  record : ∃ r', t.record u = some r' ∧ ρ.StaysHome k r'
  issues : Issues h 4 4 [] m t
  raises : ρ.roamHold.isSome = true → ∃ l, l.count .roamsFailed = 0 ∧ Raises l m t
  talkgroups : t.talkgroups = m.talkgroups

theorem Record.staysHome_of_served {r' : Record} (served : r'.phase = .served ch (freshActivity m) none)
    (same : r' = { ρ with serving := r'.serving, candidates := r'.candidates, talking := r'.talking })
    (k : Kind) : ρ.StaysHome k r' := by
  have phase : r'.phase = ρ.phase := by rw [same]
  refine ⟨?_, fun _ => ?_, congrArg _ phase, congrArg _ phase, ?_, ?_, ?_, ?_, fun _ => ?_⟩
  · rw [served]
    exact Nat.zero_le 1
  · rw [served]
    rfl
  all_goals rw [same]

/-- A poll's answer changes nothing of fresh presence (R61). -/
theorem answerPoll_fresh (s : State) : answerPoll s (freshActivity s) = freshActivity s := rfl

theorem leftHome_pollReply (hr : m.record u = some ρ) (hp : ρ.phase = .served ch (freshActivity m) none) (h : Handle) :
    LeftHome .pollReply h u ρ m (pollReplyByState u m) := by
  have record : (pollReplyByState u m).record u = some ρ := by
    rw [pollReplyByState_some hr]
    refine (modUnit_record_self (f := fun r => { r with phase := r.phase.mapActivity (answerPoll m) }) hr fun _ => rfl).trans ?_
    have phase : ρ.phase.mapActivity (answerPoll m) = ρ.phase := by
      rw [hp]
      exact congrArg (Phase.served ch · none) (answerPoll_fresh m)
    rw [phase]
  have frame : pollReplyByState u m = { m with units := (pollReplyByState u m).units } := by
    rw [pollReplyByState_some hr]
    rfl
  refine ⟨.pollReplyByState u m, ⟨ρ, record, Record.staysHome_of_served hp rfl _⟩, ?_, fun _ => ⟨[], rfl, .same ?_⟩, ?_⟩
  · exact (Issues.fields (by rw [frame]) (by rw [frame])).mono (by decide) (by decide) fun f hf => hf
  · rw [frame]
  · rw [frame]

theorem leftHome_callStart (hr : m.record hdr.unit.toNat = some ρ) (hp : ρ.phase = .served ch (freshActivity m) none)
    (n : ChannelNo) (h : Handle) : LeftHome .callStart h hdr.unit.toNat ρ m (takeLocalStart n h hdr m) := by
  obtain ⟨issues, ⟨l, only, raises⟩, talkgroups⟩ := Speaks.takeLocalStart (x := h) n hdr m
  have kept : l.count .roamsFailed = 0 := List.count_eq_zero.mpr fun mem => nomatch only _ mem
  refine ⟨.takeLocalStart n h hdr m, ?_, issues, fun _ => ⟨l, kept, raises⟩, talkgroups⟩
  rcases takeLocalStart_record hr n h with same | talks
  · exact ⟨ρ, same, Record.staysHome_of_served hp rfl _⟩
  · exact ⟨_, talks, Record.staysHome_of_served (r' := { ρ with talking := true }) hp rfl _⟩

/-- While its roam hold runs, a record has no trigger (R80, R83). -/
theorem triggerSite_held (held : r.roamHold.isSome = true) (c : Net) (tab : List (Option NeighborEntry)) :
    triggerSite c tab r = none := by
  have none : r.roamHold.isNone = false := by
    cases hh : r.roamHold with
    | none => rw [hh] at held; cases held
    | some d => rfl
  unfold triggerSite
  cases r.serving with
  | none => rfl
  | some serving =>
    have nobody : ((r.candidates.filterMap id).filter fun x =>
        eligible c tab r serving x && decide (c.active.dwell ≤ x.qualify)) = [] := by
      refine List.filter_eq_nil_iff.mpr fun x _ => ?_
      simp [eligible, none]
    simp only [nobody]
    rfl

theorem leftHome_measure (hr : m.record u = some ρ) (hp : ρ.phase = .served ch (freshActivity m) none)
    (now : ρ.entryTime = m.timeBase) (payload : List Byte) (h : Handle) :
    LeftHome .measure h u ρ m (measureByState u payload m) := by
  obtain ⟨base, hb⟩ : ∃ base, base = modUnit u (learn m.active m.neighbors payload) m := ⟨_, rfl⟩
  have taught : base.record u = some (learn m.active m.neighbors payload ρ) := by
    rw [hb]
    exact modUnit_record_self (f := learn m.active m.neighbors payload) hr fun _ => rfl
  have acts := Acts.measureByState u payload m
  have runs : measureByState u payload m = triggerRoam u base := by
    have member : ρ.phase.isMember = true := by rw [hp]; rfl
    simp only [measureByState, hr, member, if_true, hb]
  have frame : base = { m with units := base.units } := by rw [hb]; rfl
  have issued : Issues h 0 0 [] m base := .fields (by rw [frame]) (by rw [frame])
  have phase : (learn m.active m.neighbors payload ρ).phase = .served ch (freshActivity m) none := hp
  rw [runs] at acts ⊢
  cases trigger : triggerSite base.net base.neighbors (learn m.active m.neighbors payload ρ) with
  | none =>
    rw [triggerRoam_none taught (.inr trigger)] at acts ⊢
    refine ⟨acts, ⟨_, taught, Record.staysHome_of_served phase rfl _⟩, issued.mono (by decide) (by decide) fun f hf => hf,
      fun _ => ⟨[], rfl, .same (by rw [frame])⟩, by rw [frame]⟩
  | some site =>
    have free : ¬ρ.roamHold.isSome = true := fun held => by
      rw [triggerSite_held (r := learn m.active m.neighbors payload ρ) held] at trigger
      cases trigger
    rw [triggerRoam_some taught phase trigger] at acts ⊢
    have time : base.timeBase = m.timeBase := by rw [frame]
    have sent (hdr : Header) : Issues h 4 4 [] m (base.onIo fun c => sendToSite c hdr site) :=
      (issued.trans (.toSite hdr site base)).mono (by decide) (by decide) fun f hf => absurd hf List.not_mem_nil
    cases hf : base.io.pool.free with
    | cons k rest =>
      rw [takeTrigger_granted hf] at acts ⊢
      have record := (proposed_leaves (ch := ch) (a := freshActivity m) (site := site) taught (by rw [phase]; rfl)).record
      refine ⟨acts, ⟨_, record, ⟨le_refl 1, fun or => ?_, ?_, ?_, rfl, rfl, rfl, time.trans now.symm, fun held => absurd held free⟩⟩,
        (sent (requestHeader _ _)).congr rfl rfl, fun held => absurd held free, by rw [frame]; rfl⟩
      · rcases or with other | held
        · exact absurd rfl other
        · exact absurd held free
      · rw [hp]
        rfl
      · rw [hp]
        rfl
    | nil =>
      rw [takeTrigger_refused hf] at acts ⊢
      have record := (unproposed_leaves (site := site) taught).record
      refine ⟨acts, ⟨_, record, ⟨?_, fun _ => ?_, rfl, rfl, rfl, rfl, rfl, rfl, fun held => absurd held free⟩⟩, ?_,
        fun held => absurd held free, by rw [frame]; rfl⟩
      · exact (congrArg (Phase.number · ≤ 1) phase).mpr (Nat.zero_le 1)
      · exact congrArg Phase.number phase
      · exact ((((issued.trans (.toSite _ site base)).trans (.modUnit _ _ _)).trans (.count .roamsFailed _))).mono (by decide)
          (by decide) fun f hf => absurd hf List.not_mem_nil

/-- What the owner of a sign of life leaves of a unit that was SERVED afresh when it came (R61, R73, R129). -/
theorem leftHome_takeSign (hc : k = .measure ∨ k = .pollReply ∨ k = .callStart) (hr : m.record hdr.unit.toNat = some ρ)
    (hp : ρ.phase = .served ch (freshActivity m) none) (now : ρ.entryTime = m.timeBase) (n : ChannelNo) (h : Handle)
    (payload : List Byte) : LeftHome k h hdr.unit.toNat ρ m (takeSign k n h hdr payload m) := by
  rcases hc with rfl | rfl | rfl
  · exact leftHome_measure hr hp now payload h
  · exact leftHome_pollReply hr hp h
  · exact leftHome_callStart hr hp n h

end Sys2Proof.Machine
end

section
/-! PROOFS. MEASURE, POLL REPLY and CALL START of a unit that is heard again, whole (R11, R52, R53, R56, R97). -/

namespace Sys2Proof.Machine

variable {x : Handed} {s m t : State} {u : UnitId} {r ρ : Record} {n : ChannelNo} {k : Kind} {ch : ChannelNo} {d : Nat}
  {own : TalkgroupEntry} {ho : Handover} {c : Instr} {p : PortNo} {marker : Bool} {hdr : Header}

/-- A frame is taken by its notice and its owner (R11, R22, R53). -/
theorem tookHanded_of_notice (notice : Acts s m) (owner : Acts (m.taken p) t) (h : Handle) :
    s.tookHanded p (t.onIo fun c => dropReference c h) := by
  refine tookHanded_of_ports h fun q => ?_
  obtain ⟨reception, handed, -⟩ := notice.ports q
  obtain ⟨reception', handed', -⟩ := owner.ports q
  have taken : (m.taken p).io.ports[q.val] = (takenAt p m.io).ports[q.val] := rfl
  rw [taken, takenAt_port] at reception' handed'
  rw [takenAt_port]
  by_cases here : p = q
  · rw [if_pos here] at reception' handed' ⊢
    exact ⟨handed'.trans (congrArg List.tail handed), reception'.trans reception⟩
  · rw [if_neg here] at reception' handed' ⊢
    exact ⟨handed'.trans handed, reception'.trans reception⟩

theorem lifeSign_other (hc : (c, k) ∈ lifeSigns n) (other : k ≠ .register) : k = .measure ∨ k = .pollReply ∨ k = .callStart := by
  rcases lifeSign_cases hc with ⟨-, rfl⟩ | ⟨-, rfl⟩ | ⟨-, rfl⟩ | ⟨-, rfl⟩
  · exact absurd rfl other
  · exact .inl rfl
  · exact .inr (.inl rfl)
  · exact .inr (.inr rfl)

/-- A sign of life other than REGISTER, from a channel port (R11, R22, R53). -/
theorem lifeSign_next (hc : (c, k) ∈ lifeSigns n) (other : k ≠ .register) (holds : s.holds (chanPort n) x k)
    (hm : unitNotice n (handedHeader x s).unit.toNat k (handedHeader x s).emergency s = m) :
    exec c s
      = .next ((takeSign k n x.handle (handedHeader x s) (handedPayload x s) (m.taken (chanPort n))).onIo
          fun c => dropReference c x.handle) := by
  rw [← hm]
  rcases lifeSign_cases hc with ⟨-, rfl⟩ | ⟨rfl, rfl⟩ | ⟨rfl, rfl⟩ | ⟨rfl, rfl⟩
  · exact absurd rfl other
  · exact measure_next holds
  · exact pollReply_next holds
  · exact callStart_next holds

/-- A sign of life of a unit that its notice has made SERVED afresh. -/
theorem lifeSign_served (hc : (c, k) ∈ lifeSigns n) (other : k ≠ .register) (holds : s.holds (chanPort n) x k)
    (hm : unitNotice n (handedHeader x s).unit.toNat k (handedHeader x s).emergency s = m)
    (hr : m.record (handedHeader x s).unit.toNat = some ρ) (hp : ρ.phase = .served ch (freshActivity m) none)
    (now : ρ.entryTime = m.timeBase) :
    ∃ t, exec c s = .next (t.onIo fun c => dropReference c x.handle)
      ∧ s.tookHanded (chanPort n) (t.onIo fun c => dropReference c x.handle)
      ∧ LeftHome k x.handle (handedHeader x s).unit.toNat ρ (m.taken (chanPort n)) t := by
  have notice : Acts s m := by
    rw [← hm]
    exact .unitNotice n _ k _ s
  have left := leftHome_takeSign (m := m.taken (chanPort n)) (hdr := handedHeader x s) (lifeSign_other hc other) hr hp now n
    x.handle (handedPayload x s)
  exact ⟨_, lifeSign_next hc other holds hm, tookHanded_of_notice notice left.acts x.handle, left⟩

/-! ## A LOST unit (R56) -/

/-- A sign of life of a LOST unit, but for a REGISTER: it is a member again, and accepted (R56). -/
theorem lifeSign_revived (hc : (c, k) ∈ lifeSigns n) (other : k ≠ .register) (holds : s.holds (chanPort n) x k)
    (hr : s.record (handedHeader x s).unit.toNat = some r) (hp : r.phase = .lost ch d)
    (found : findTalkgroup r.talkgroup s.talkgroups = some own) :
    ∃ t r', exec c s = .next t ∧ s.tookHanded (chanPort n) t ∧ t.record (handedHeader x s).unit.toNat = some r'
      ∧ (r.here s own.channel (handedHeader x s).emergency).StaysHome k r'
      ∧ t.talkgroups = s.talkgroups.map (fun y => if y.id = r.talkgroup then { y with members := y.members + 1 } else y)
      ∧ (s.roomFor 8 (s.sites.length + 8) →
        s.queuedOn n (acceptHeader (handedHeader x s).unit.toNat r.talkgroup own.channel) [] t) := by
  obtain unit : r.unit = (handedHeader x s).unit.toNat := unit_of_record s hr
  obtain ⟨m, hm⟩ : ∃ m, m = sendAccept n r.unit r.talkgroup own.channel (s.revived r own (handedHeader x s).emergency) := ⟨_, rfl⟩
  have notice : unitNotice n (handedHeader x s).unit.toNat k (handedHeader x s).emergency s = m := by
    rw [hm, ← unit]
    rw [← unit] at hr
    exact unitNotice_revives hr hp (lifeSign_revives hc other) found n (handedHeader x s).emergency
  have record : m.record (handedHeader x s).unit.toNat = some (r.here s own.channel (handedHeader x s).emergency) := by
    rw [hm, ← unit]
    rw [← unit] at hr
    exact revived_record hr hp
  have reads : freshActivity m = freshActivity s ∧ m.timeBase = s.timeBase
      ∧ m.talkgroups = s.talkgroups.map (fun y => if y.id = r.talkgroup then { y with members := y.members + 1 } else y) := by
    rw [hm, revived_frame]
    exact ⟨rfl, rfl, rfl⟩
  obtain ⟨fresh, time, talkgroups⟩ := reads
  obtain ⟨t, next, took, left⟩ := lifeSign_served hc other holds notice record (by rw [fresh]; rfl) time.symm
  obtain ⟨r', mine, stays⟩ := left.record
  have accepted := Issues.revivedAccepted s r own (handedHeader x s).emergency n (h := x.handle)
  rw [← hm, unit] at accepted
  have sent := (accepted.trans (.taken (chanPort n) m)).trans left.issues
  refine ⟨_, r', next, took, mine, stays, left.talkgroups.trans talkgroups, fun room => ?_⟩
  exact queuedOn_of_stands (sent.stands (List.mem_append_left _ (List.mem_append_left _ (List.mem_singleton.mpr rfl))) room
    (by omega) (by omega) (not_free_of_kind room holds.2) _)

/-- The owner of a sign of life, of a unit without a record (R69, R129). -/
theorem takeSign_unknown (hc : k = .measure ∨ k = .pollReply ∨ k = .callStart) (hr : m.record hdr.unit.toNat = none)
    (n : ChannelNo) (h : Handle) (payload : List Byte) :
    takeSign k n h hdr payload m = if k = .callStart then refuseStart n hdr 4#8 m else m.count .unknownUnitFrames := by
  rcases hc with rfl | rfl | rfl
  · simp only [takeSign, measureByState, hr]
    rfl
  · simp only [takeSign, pollReplyByState, hr]
    rfl
  · simp only [takeSign, takeLocalStart, hr]
    rfl

/-- A sign of life of a LOST unit without a talkgroup, but for a REGISTER: its record is gone (R52, R56). -/
theorem lifeSign_forgotten (hc : (c, k) ∈ lifeSigns n) (other : k ≠ .register) (holds : s.holds (chanPort n) x k)
    (law : s.counterLaw) (hr : s.record (handedHeader x s).unit.toNat = some r) (hp : r.phase = .lost ch d)
    (gone : findTalkgroup r.talkgroup s.talkgroups = none) :
    ∃ t, exec c s = .next t ∧ s.tookHanded (chanPort n) t ∧ s.raised .recordsDeleted t
      ∧ t.record (handedHeader x s).unit.toNat = none ∧ t.talkgroups = s.talkgroups
      ∧ s.sameRecordsBut (handedHeader x s).unit.toNat t
      ∧ (k = .measure ∨ k = .pollReply → s.raised .unknownUnitFrames t) := by
  obtain unit : r.unit = (handedHeader x s).unit.toNat := unit_of_record s hr
  obtain ⟨m, hm⟩ : ∃ m, m = s.forgotten (handedHeader x s).unit.toNat (handedHeader x s).emergency := ⟨_, rfl⟩
  have notice : unitNotice n (handedHeader x s).unit.toNat k (handedHeader x s).emergency s = m := by
    rw [hm, ← unit]
    rw [← unit] at hr
    exact unitNotice_forgets hr hp (lifeSign_revives hc other) gone n (handedHeader x s).emergency
  have acts : Acts s m := by
    rw [← notice]
    exact .unitNotice n _ k _ s
  have absent : (m.taken (chanPort n)).record (handedHeader x s).unit.toNat = none := by
    rw [hm]
    exact forgotten_record s _ _
  have others : s.sameRecordsBut (handedHeader x s).unit.toNat m := fun v hv => by
    rw [hm]
    exact forgotten_record_other hv _
  have talkgroups : m.talkgroups = s.talkgroups := by
    rw [hm, forgotten_frame]
  have before : Raises [.recordsDeleted] s (m.taken (chanPort n)) := by
    rw [hm]
    exact (Raises.forgotten s _ _).trans (l' := []) (.taken _ _)
  have next := lifeSign_next hc other holds notice
  rw [takeSign_unknown (lifeSign_other hc other) absent] at next
  by_cases start : k = .callStart
  · rw [if_pos start] at next
    have owner : Acts (m.taken (chanPort n)) (refuseStart n (handedHeader x s) 4#8 (m.taken (chanPort n))) := .sendAnswer _ _ _
    have refused : Raises [] (m.taken (chanPort n)) (refuseStart n (handedHeader x s) 4#8 (m.taken (chanPort n))) :=
      .toChannel n _ [] none _
    have raises := (before.trans refused).trans (.dropped x.handle _)
    refine ⟨_, next, tookHanded_of_notice acts owner x.handle, raises.raised law (by decide) rfl, absent, talkgroups, others, ?_⟩
    rintro (rfl | rfl) <;> cases start
  · rw [if_neg start] at next
    have raises := (before.trans (.count .unknownUnitFrames (m.taken (chanPort n)))).trans (.dropped x.handle _)
    exact ⟨_, next, tookHanded_of_notice acts (.count _ _) x.handle, raises.raised law (by decide) rfl, absent, talkgroups,
      others, fun _ => raises.raised law (by decide) rfl⟩

/-! ## A radio that was sent away (R97) -/

/-- A sign of life of a radio that was sent away, but for a REGISTER: it is SERVED here, and its partner told (R97). -/
theorem lifeSign_returned (hc : (c, k) ∈ lifeSigns n) (other : k ≠ .register) (holds : s.holds (chanPort n) x k)
    (law : s.counterLaw) (hr : s.record (handedHeader x s).unit.toNat = some r) (hp : r.phase = .departing ch ho true) :
    ∃ t r', exec c s = .next t ∧ s.tookHanded (chanPort n) t ∧ t.record (handedHeader x s).unit.toNat = some r'
      ∧ ({ r.here s ch (handedHeader x s).emergency with
            roamHold := some (s.after (s.active.roamHold * 1000)) } : Record).StaysHome k r'
      ∧ s.raised .roamsFailed t
      ∧ (s.roomFor 8 (2 * s.sites.length + 8) →
        s.queuedFor (cancelHeader (handedHeader x s).unit.toNat ho.id 4) ho.partner t) := by
  obtain ⟨m, hm⟩ : ∃ m, m = s.back (handedHeader x s).unit.toNat ch ho (handedHeader x s).emergency := ⟨_, rfl⟩
  have notice : unitNotice n (handedHeader x s).unit.toNat k (handedHeader x s).emergency s = m := by
    rw [hm]
    exact unitNotice_back hr hp (lifeSign_marksReturn hc) n _
  have record := back_record (marker := (handedHeader x s).emergency) hr hp
  rw [← hm] at record
  have reads : freshActivity m = freshActivity s ∧ m.timeBase = s.timeBase := by
    rw [hm, back_frame]
    exact ⟨rfl, rfl⟩
  obtain ⟨fresh, time⟩ := reads
  obtain ⟨t, next, took, left⟩ := lifeSign_served hc other holds notice record (by rw [fresh]; rfl) time.symm
  obtain ⟨r', mine, stays⟩ := left.record
  obtain ⟨l, kept, raises⟩ := left.raises rfl
  have told := Issues.back (x := x.handle) s (handedHeader x s).unit.toNat ch ho (handedHeader x s).emergency
  have failed := Raises.back s (handedHeader x s).unit.toNat ch ho (handedHeader x s).emergency
  rw [← hm] at told failed
  have sent := (told.trans (.taken (chanPort n) m)).trans left.issues
  have counted := ((failed.trans (l' := []) (.taken (chanPort n) m)).trans raises).trans (.dropped x.handle t)
  refine ⟨_, r', next, took, mine, stays, counted.raised law (by decide) ?_, fun room => ?_⟩
  · simp [kept]
  · refine queuedFor_of_stands fun routed => sent.stands (List.mem_append_left _ (List.mem_append_left _ ?_)) room (by omega)
      (by omega) (not_free_of_kind room holds.2) _
    unfold siteClaims
    rw [if_pos routed]
    exact List.mem_singleton.mpr rfl

end Sys2Proof.Machine
end

section
/-! PROOFS. A REGISTER of a unit that is heard again (R53 to R56, R97): the state in which it is handled, and what it then leaves. -/

namespace Sys2Proof.Machine

variable {x : Handed} {h : Handle} {s m t : State} {u : UnitId} {r ρ : Record} {n : ChannelNo} {ch : ChannelNo} {d : Nat}
  {own e : TalkgroupEntry} {ho : Handover} {p : PortNo} {marker : Bool} {g : Registration} {slot : Nat}

/-! ## A unit that is SERVED afresh (R55) -/

/-- A REGISTER of a unit that is SERVED afresh: its record, and what is sent and counted. -/
structure RegistersHome (n : ChannelNo) (h : Handle) (g : Registration) (ρ : Record) (m t : State) : Prop where
  acts : Acts m t
  record : ∃ r', t.record g.unit = some r' ∧ r'.phase.number = 0 ∧ r'.phase.activity? = ρ.phase.activity?
    ∧ r'.entryTime = ρ.entryTime ∧ r'.roamHold = ρ.roamHold
    ∧ (findTalkgroup g.talkgroup m.talkgroups = none → r' = ρ ∧ t.talkgroups = m.talkgroups)
  issues : Issues h 3 (2 * m.sites.length + 1)
    (if findTalkgroup g.talkgroup m.talkgroups = none then [Claim.onChannel n (refuseHeader g.unit 1) []] else []) m t
  raises : Raises [] m t

theorem Record.registered_here {a : Activity} (hp : ρ.phase = .served ch a none) :
    (ρ.registered g e).phase.number = 0 ∧ (ρ.registered g e).phase.activity? = ρ.phase.activity? := by
  unfold Record.registered
  simp only
  split
  · rw [hp]
    exact ⟨rfl, rfl⟩
  · refine ⟨(Phase.number_withChannel _ _).trans ?_, Phase.activity_withChannel _ _⟩
    rw [hp]
    rfl

theorem registersHome {a : Activity} (hr : m.record g.unit = some ρ) (hp : ρ.phase = .served ch a none) (n : ChannelNo)
    (h : Handle) : RegistersHome n h g ρ m (registerServed n g ρ m) := by
  have acts := Acts.registerServed n g ρ m
  cases found : findTalkgroup g.talkgroup m.talkgroups with
  | none =>
    rw [registerServed_unknown found] at acts ⊢
    refine ⟨acts, ⟨ρ, hr, ?_, rfl, rfl, rfl, fun _ => ⟨rfl, rfl⟩⟩, ?_, .toChannel n _ [] none m⟩
    · rw [hp]
      rfl
    · rw [if_pos found]
      exact (Issues.sendRefuse n g.unit 1 m).mono (by omega) (by omega) fun f hf => hf
  | some e =>
    rw [registerServed_known found] at acts ⊢
    obtain ⟨number, activity⟩ := Record.registered_here (g := g) (e := e) hp
    have raises := (Raises.reregistered g e ρ m).trans (Raises.sendAccept n g.unit g.talkgroup (ρ.acceptedOn g e) _)
    refine ⟨acts, ⟨_, reregistered_record hr, number, activity, rfl, rfl, fun gone => ?_⟩, ?_, raises⟩
    · rw [found] at gone
      cases gone
    · rw [if_neg (by rw [found]; exact nofun)]
      exact ((Issues.reregistered g e ρ m).trans (.sendAccept n g.unit g.talkgroup _ _)).mono (le_refl 3) (le_refl _)
        fun f hf => absurd hf List.not_mem_nil

/-! ## A radio that was sent away (R97) -/

/-- A REGISTER of a radio that was sent away: it is SERVED here, its partner told, and then registered or refused (R55,
R97). -/
theorem register_returned (holds : s.holds (chanPort n) x .register) (law : s.counterLaw)
    (hr : s.record (handedHeader x s).unit.toNat = some r) (hp : r.phase = .departing ch ho true) :
    ∃ t r', exec (.register n) s = .next t ∧ s.tookHanded (chanPort n) t ∧ t.record (handedHeader x s).unit.toNat = some r'
      ∧ r'.phase.number = 0 ∧ r'.phase.activity? = some (freshActivity s) ∧ r'.entryTime = s.timeBase
      ∧ r'.roamHold = some (s.after (s.active.roamHold * 1000)) ∧ s.raised .roamsFailed t
      ∧ (findTalkgroup (handedHeader x s).talkgroup.toNat s.talkgroups = none →
        r' = { r.here s ch (handedHeader x s).emergency with roamHold := some (s.after (s.active.roamHold * 1000)) }
          ∧ t.talkgroups = s.talkgroups
          ∧ (s.roomFor 8 (2 * s.sites.length + 8) →
            s.queuedOn n (refuseHeader (handedHeader x s).unit.toNat 1) [] t))
      ∧ (s.roomFor 8 (2 * s.sites.length + 8) →
        s.queuedFor (cancelHeader (handedHeader x s).unit.toNat ho.id 4) ho.partner t) := by
  obtain ⟨m, hm⟩ : ∃ m, m = s.back (handedHeader x s).unit.toNat ch ho (handedHeader x s).emergency := ⟨_, rfl⟩
  have notice : unitNotice n (handedHeader x s).unit.toNat .register (handedHeader x s).emergency s = m := by
    rw [hm]
    exact unitNotice_back hr hp rfl n _
  have acts : Acts s m := by
    rw [← notice]
    exact .unitNotice n _ _ _ s
  have record := back_record (marker := (handedHeader x s).emergency) hr hp
  rw [← hm] at record
  have reads : m.talkgroups = s.talkgroups ∧ m.sites = s.sites := by
    rw [hm, back_frame]
    exact ⟨rfl, rfl⟩
  obtain ⟨talkgroups, sites⟩ := reads
  obtain ⟨g, hg⟩ : ∃ g, g = registrationOf (handedHeader x s) (handedPayload x s) := ⟨_, rfl⟩
  have unit : g.unit = (handedHeader x s).unit.toNat := by rw [hg]; rfl
  have talkgroup : g.talkgroup = (handedHeader x s).talkgroup.toNat := by rw [hg]; rfl
  have next := register_next holds
  rw [← unit] at record notice hm ⊢
  rw [← talkgroup]
  rw [← hg, ← unit, notice, registerByState_member (s := m.taken (chanPort n)) record rfl] at next
  have registers := registersHome (m := m.taken (chanPort n)) record rfl n x.handle
  obtain ⟨r', mine, number, activity, entry, hold, unknown⟩ := registers.record
  have told := Issues.back (x := x.handle) s g.unit ch ho (handedHeader x s).emergency
  have failed := Raises.back s g.unit ch ho (handedHeader x s).emergency
  rw [← hm] at told failed
  have sent := (told.trans (.taken (chanPort n) m)).trans registers.issues
  have counted := ((failed.trans (l' := []) (.taken (chanPort n) m)).trans registers.raises).trans (.dropped x.handle _)
  have size : 2 * (m.taken (chanPort n)).sites.length + 1 = 2 * s.sites.length + 1 := congrArg (2 * ·.length + 1) sites
  rw [size] at sent
  refine ⟨_, r', next, tookHanded_of_notice acts registers.acts x.handle, mine, number, activity, entry, hold,
    counted.raised law (by decide) rfl, fun gone => ?_, fun room => ?_⟩
  · have gone' : findTalkgroup g.talkgroup (m.taken (chanPort n)).talkgroups = none :=
      (congrArg (findTalkgroup g.talkgroup) talkgroups).trans gone
    obtain ⟨same, kept⟩ := unknown gone'
    rw [if_pos gone'] at sent
    refine ⟨same, kept.trans talkgroups, fun room => queuedOn_of_stands (sent.stands
      (List.mem_append_right _ (List.mem_singleton.mpr rfl)) room (by omega) (by omega) (not_free_of_kind room holds.2) _)⟩
  · refine queuedFor_of_stands fun routed => sent.stands (List.mem_append_left _ (List.mem_append_left _ ?_)) room (by omega)
      (by omega) (not_free_of_kind room holds.2) _
    unfold siteClaims
    rw [if_pos routed]
    exact List.mem_singleton.mpr rfl

end Sys2Proof.Machine
end

section
/-! PROOFS. A REGISTER of a LOST unit (R52, R54 to R56): revived and registered or refused, or its record deleted and a new one
created. -/

namespace Sys2Proof.Machine

variable {x : Handed} {h : Handle} {s m t : State} {u : UnitId} {r ρ : Record} {n : ChannelNo} {ch : ChannelNo} {d : Nat}
  {own e : TalkgroupEntry} {p : PortNo} {marker : Bool} {g : Registration} {slot : Nat}

/-- One more member of a talkgroup (R113). -/
def oneMember (g : TalkgroupId) (l : List TalkgroupEntry) : List TalkgroupEntry :=
  l.map fun y => if y.id = g then { y with members := y.members + 1 } else y

/-- A unit that moves to another talkgroup as it is heard again is counted there alone. -/
theorem counts_oneMember (g : Registration) (r : Record) (l : List TalkgroupEntry) :
    g.counts r (oneMember r.talkgroup l) = oneMember g.talkgroup l := by
  unfold Registration.counts oneMember
  by_cases same : g.talkgroup = r.talkgroup
  · rw [if_pos same, same]
  · rw [if_neg same, List.map_map]
    refine List.map_congr_left fun k _ => ?_
    by_cases old : k.id = r.talkgroup
    · have apart : ¬r.talkgroup = g.talkgroup := fun eq => same eq.symm
      simp only [Function.comp_apply, old, if_true, apart, if_false]
      rw [← old]
      rfl
    · simp [old]

theorem findTalkgroup_oneMember (k g : TalkgroupId) (l : List TalkgroupEntry) :
    findTalkgroup k (oneMember g l) = (findTalkgroup k l).map fun y => if y.id = g then { y with members := y.members + 1 } else y := by
  unfold findTalkgroup oneMember
  rw [List.find?_map]
  congr 2
  funext y
  simp only [Function.comp_apply]
  split <;> rfl

/-! ## The state in which it is handled -/

theorem marked_takenAt (s : State) (u : UnitId) (marker : Bool) (p : PortNo) :
    (s.marked u marker).taken p = (s.taken p).marked u marker := by
  cases marker <;> rfl

/-- A REGISTER of a LOST unit reaches its owner with its marker read (R53, R56). -/
theorem register_lost (holds : s.holds (chanPort n) x .register) (hr : s.record (handedHeader x s).unit.toNat = some r)
    (hp : r.phase = .lost ch d) :
    exec (.register n) s
      = .next ((registerRevived n (registrationOf (handedHeader x s) (handedPayload x s))
          (reviveOrDelete { r with emergency := r.emergency || (handedHeader x s).emergency }
            ((s.taken (chanPort n)).marked r.unit (handedHeader x s).emergency))).onIo fun c => dropReference c x.handle) := by
  have unit : r.unit = (handedHeader x s).unit.toNat := unit_of_record s hr
  have next := register_next holds
  have record := marked_record (s := s.taken (chanPort n)) hr (handedHeader x s).emergency
  rw [Record.marked_inactive (by rw [hp]; rfl)] at record
  rw [unitNotice_some hr, noticeByState, hp] at next
  have still : revivesByNotice .register = false := rfl
  simp only [still, Bool.false_eq_true, if_false] at next
  rw [marked_takenAt] at next
  rw [next, ← unit]
  rw [← unit] at record
  unfold registerByState
  have unit' : (registrationOf (handedHeader x s) (handedPayload x s)).unit = r.unit := unit.symm
  rw [unit', record]
  simp only [hp]

theorem reviveOrDelete_found (found : findTalkgroup r.talkgroup s.talkgroups = some own) (p : PortNo) (marker : Bool) :
    reviveOrDelete { r with emergency := r.emergency || marker } ((s.taken p).marked r.unit marker)
      = (s.taken p).revived r own marker := by
  unfold reviveOrDelete
  rw [show ((s.taken p).marked r.unit marker).talkgroups = s.talkgroups by rw [marked_frame]; rfl]
  simp only [found]
  rfl

theorem reviveOrDelete_gone (hr : s.record r.unit = some r) (hp : r.phase = .lost ch d)
    (gone : findTalkgroup r.talkgroup s.talkgroups = none) (p : PortNo) (marker : Bool) :
    reviveOrDelete { r with emergency := r.emergency || marker } ((s.taken p).marked r.unit marker)
      = (s.taken p).forgotten r.unit marker := by
  unfold reviveOrDelete
  rw [show ((s.taken p).marked r.unit marker).talkgroups = s.talkgroups by rw [marked_frame]; rfl]
  simp only [gone]
  exact deleteRecord_forgotten (s := s.taken p) hr hp marker

/-! ## It is a member again (R55, R56) -/

/-- A REGISTER of a LOST unit whose talkgroup is in the table. -/
structure Revives (s : State) (n : ChannelNo) (x : Handed) (g : Registration) (r : Record) (own : TalkgroupEntry) (m : State) :
    Prop where
  next : exec (.register n) s
    = .next ((registerServed n g (r.here s own.channel g.marker) m).onIo fun c => dropReference c x.handle)
  acts : Acts (s.taken (chanPort n)) m
  record : m.record g.unit = some (r.here s own.channel g.marker)
  talkgroups : m.talkgroups = oneMember r.talkgroup s.talkgroups
  sites : m.sites = s.sites
  issues : Issues x.handle 1 s.sites.length [] s m

theorem register_revives (holds : s.holds (chanPort n) x .register) (hr : s.record (handedHeader x s).unit.toNat = some r)
    (hp : r.phase = .lost ch d) (found : findTalkgroup r.talkgroup s.talkgroups = some own) :
    ∃ m, Revives s n x (registrationOf (handedHeader x s) (handedPayload x s)) r own m := by
  obtain ⟨g, hg⟩ : ∃ g, g = registrationOf (handedHeader x s) (handedPayload x s) := ⟨_, rfl⟩
  have unit : r.unit = g.unit := by
    rw [hg]
    exact unit_of_record s hr
  have marks : (handedHeader x s).emergency = g.marker := by rw [hg]; rfl
  have next := register_lost holds hr hp
  rw [reviveOrDelete_found found, ← hg, marks] at next
  have here : s.record r.unit = some r := by
    rw [unit, hg]
    exact hr
  have record : ((s.taken (chanPort n)).revived r own g.marker).record g.unit = some (r.here s own.channel g.marker) := by
    rw [← unit]
    exact revived_record (s := s.taken (chanPort n)) here hp
  have acts : Acts (s.taken (chanPort n)) ((s.taken (chanPort n)).revived r own g.marker) := by
    have from_ := reviveOrDelete_found (s := s) found (chanPort n) g.marker
    rw [← from_]
    exact (Acts.marked _ r.unit g.marker).trans (.reviveOrDelete _ _)
  refine ⟨(s.taken (chanPort n)).revived r own g.marker, ⟨?_, acts, hg ▸ record, ?_, ?_, ?_⟩⟩
  · rw [next, registerRevived, record, hg]
  · rw [revived_frame]
    rfl
  · rw [revived_frame]
    rfl
  · exact ((Issues.taken (chanPort n) s).trans (.revived (s.taken (chanPort n)) r own g.marker)).mono (le_refl 1)
      (le_of_eq (Nat.zero_add _)) fun f hf => hf

/-- It names no talkgroup of the table: the unit is a member of its own, and refused (R54, R56). -/
theorem register_revived_refused (holds : s.holds (chanPort n) x .register)
    (hr : s.record (handedHeader x s).unit.toNat = some r) (hp : r.phase = .lost ch d)
    (found : findTalkgroup r.talkgroup s.talkgroups = some own)
    (gone : findTalkgroup (handedHeader x s).talkgroup.toNat s.talkgroups = none) :
    ∃ t, exec (.register n) s = .next t ∧ s.tookHanded (chanPort n) t
      ∧ t.record (handedHeader x s).unit.toNat = some (r.here s own.channel (handedHeader x s).emergency)
      ∧ t.talkgroups = oneMember r.talkgroup s.talkgroups
      ∧ (s.roomFor 4 (s.sites.length + 4) → s.queuedOn n (refuseHeader (handedHeader x s).unit.toNat 1) [] t) := by
  obtain ⟨m, next, acts, record, talkgroups, sites, issues⟩ := register_revives holds hr hp found
  have unknown : findTalkgroup (registrationOf (handedHeader x s) (handedPayload x s)).talkgroup m.talkgroups = none := by
    rw [talkgroups, findTalkgroup_oneMember]
    exact congrArg _ gone
  rw [registerServed_unknown unknown] at next
  refine ⟨_, next, tookHanded_of_acts (acts.trans (.sendRefuse n _ _ m)) x.handle, record, talkgroups, fun room => ?_⟩
  exact queuedOn_of_stands ((issues.trans (.sendRefuse n _ 1 m)).stands (List.mem_singleton.mpr rfl) room (by omega) (by omega)
    (not_free_of_kind room holds.2) _)

/-- It names a talkgroup of the table: the unit is a member of that (R55, R56). -/
theorem register_revived_updates (holds : s.holds (chanPort n) x .register)
    (hr : s.record (handedHeader x s).unit.toNat = some r) (hp : r.phase = .lost ch d)
    (found : findTalkgroup r.talkgroup s.talkgroups = some own)
    (known : findTalkgroup (handedHeader x s).talkgroup.toNat s.talkgroups = some e) :
    let g := registrationOf (handedHeader x s) (handedPayload x s)
    ∃ t, exec (.register n) s = .next t ∧ s.tookHanded (chanPort n) t
      ∧ t.record g.unit
        = some
            { r with
              phase := .served e.channel (freshActivity s) none
              talkgroup := g.talkgroup
              emergency := (r.emergency || g.marker) && !g.clears
              lastSite := g.lastSite
              entryTime := s.timeBase }
      ∧ t.talkgroups = oneMember g.talkgroup s.talkgroups
      ∧ (s.roomFor 6 (3 * s.sites.length + 4) → s.queuedOn n (acceptHeader g.unit g.talkgroup e.channel) [] t) := by
  intro g
  obtain ⟨m, next, acts, record, talkgroups, sites, issues⟩ := register_revives holds hr hp found
  obtain ⟨e', found', channel⟩ : ∃ e', findTalkgroup g.talkgroup m.talkgroups = some e' ∧ e'.channel = e.channel := by
    refine ⟨if e.id = r.talkgroup then { e with members := e.members + 1 } else e, ?_, ?_⟩
    · rw [talkgroups, findTalkgroup_oneMember]
      exact congrArg _ known
    · split <;> rfl
  have owner := Acts.registerServed n g (r.here s own.channel g.marker) m
  replace next : exec (.register n) s
      = .next ((registerServed n g (r.here s own.channel g.marker) m).onIo fun c => dropReference c x.handle) := next
  rw [registerServed_known found'] at next owner
  have same (here : g.talkgroup = r.talkgroup) : own.channel = e.channel := by
    rw [show (handedHeader x s).talkgroup.toNat = r.talkgroup from here, found] at known
    rw [Option.some.inj known]
  have accepted : (r.here s own.channel g.marker).acceptedOn g e' = e.channel := by
    unfold Record.acceptedOn
    split
    · exact same ‹_›
    · exact channel
  have registered : (r.here s own.channel g.marker).registered g e'
      = { r with
          phase := .served e.channel (freshActivity s) none
          talkgroup := g.talkgroup
          emergency := (r.emergency || g.marker) && !g.clears
          lastSite := g.lastSite
          entryTime := s.timeBase } := by
    have phase : ((r.here s own.channel g.marker).registered g e').phase = .served e.channel (freshActivity s) none := by
      unfold Record.registered
      simp only
      split
      · rw [← same ‹_›]
        rfl
      · rw [← channel]
        rfl
    rw [← phase]
    rfl
  rw [accepted] at next owner
  have frame := reregistered_frame g e' (r.here s own.channel g.marker) m
  have sent := issues.trans ((Issues.reregistered g e' (r.here s own.channel g.marker) m).trans
    (.sendAccept n g.unit g.talkgroup e.channel _))
  rw [sites] at sent
  refine ⟨_, next, tookHanded_of_acts (acts.trans owner) x.handle, ?_, ?_, fun room => ?_⟩
  · rw [← registered]
    exact reregistered_record record
  · show (reregistered g e' (r.here s own.channel g.marker) m).talkgroups = _
    rw [frame, talkgroups]
    exact counts_oneMember g (r.here s own.channel g.marker) s.talkgroups
  · exact queuedOn_of_stands (sent.stands (List.mem_singleton.mpr rfl) room (by omega) (by omega)
      (not_free_of_kind room holds.2) _)

/-! ## Its record is deleted (R52, R54, R56) -/

/-- The slot of a record that has left the table, or a lower one, is free (R51). -/
theorem freeSlot_removed (law : s.unitLaw) (hr : s.record u = some r) : ∃ slot, freeSlot (removeRecord u s) = some slot := by
  have mem := mem_of_record s hr
  have unit := unit_of_record s hr
  refine Option.isSome_iff_exists.mp (List.find?_isSome.mpr ⟨r.slot, List.mem_range.mpr (law.2.1 r mem), ?_⟩)
  simp only [Bool.not_eq_true', List.any_eq_false, beq_iff_eq]
  intro q hq same
  obtain ⟨here, other⟩ := List.mem_filter.mp hq
  have distinct : (s.units.map Record.slot).Nodup := law.1.imp fun lt => Nat.ne_of_lt lt
  have eq : q = r := List.inj_on_of_nodup_map distinct here mem same
  rw [eq, unit] at other
  simp at other

/-- A REGISTER of a LOST unit whose talkgroup has been removed, as one of a unit without a record (R54, R56). -/
theorem register_forgotten (holds : s.holds (chanPort n) x .register) (hr : s.record (handedHeader x s).unit.toNat = some r)
    (hp : r.phase = .lost ch d) (gone : findTalkgroup r.talkgroup s.talkgroups = none) :
    exec (.register n) s
      = .next ((registerNew n (registrationOf (handedHeader x s) (handedPayload x s))
          ((s.taken (chanPort n)).forgotten (handedHeader x s).unit.toNat (handedHeader x s).emergency)).onIo
            fun c => dropReference c x.handle) := by
  have unit : r.unit = (handedHeader x s).unit.toNat := unit_of_record s hr
  have next := register_lost holds hr hp
  rw [← unit] at hr ⊢
  have absent : ((s.taken (chanPort n)).forgotten r.unit (handedHeader x s).emergency).record
      (registrationOf (handedHeader x s) (handedPayload x s)).unit = none := by
    rw [show (registrationOf (handedHeader x s) (handedPayload x s)).unit = r.unit from unit.symm]
    exact forgotten_record _ _ _
  rw [next, reviveOrDelete_gone hr hp gone, registerRevived, absent]

theorem Acts.forgotten (hr : s.record r.unit = some r) (hp : r.phase = .lost ch d) (marker : Bool) :
    Acts s (s.forgotten r.unit marker) := by
  rw [← deleteRecord_forgotten hr hp marker]
  exact (Acts.marked s r.unit marker).trans (.deleteRecord _ _)

/-- What it leaves, whether a new record is created or not (R52, R54). -/
theorem register_forgotten_leaves (holds : s.holds (chanPort n) x .register) (law : s.counterLaw)
    (hr : s.record (handedHeader x s).unit.toNat = some r) (hp : r.phase = .lost ch d)
    (gone : findTalkgroup r.talkgroup s.talkgroups = none) :
    let g := registrationOf (handedHeader x s) (handedPayload x s)
    ∃ t, exec (.register n) s = .next t ∧ s.tookHanded (chanPort n) t ∧ s.raised .recordsDeleted t
      ∧ (findTalkgroup g.talkgroup s.talkgroups = none → t.record g.unit = none ∧ t.talkgroups = s.talkgroups)
      ∧ ∀ e, findTalkgroup g.talkgroup s.talkgroups = some e → s.unitLaw → s.raised .recordsCreated t
        ∧ (∃ r', t.record g.unit = some r' ∧ r'.phase = .served e.channel (freshActivity s) none
          ∧ r'.talkgroup = g.talkgroup ∧ r'.entryTime = s.timeBase)
        ∧ t.talkgroups = oneMember g.talkgroup s.talkgroups := by
  intro g
  have next := register_forgotten holds hr hp gone
  have unit : r.unit = (handedHeader x s).unit.toNat := unit_of_record s hr
  obtain ⟨m, hm⟩ : ∃ m, m = (s.taken (chanPort n)).forgotten g.unit (handedHeader x s).emergency := ⟨_, rfl⟩
  have acts : Acts (s.taken (chanPort n)) m := by
    rw [hm, show g.unit = r.unit from unit.symm]
    rw [← unit] at hr
    exact .forgotten (s := s.taken (chanPort n)) hr hp _
  have absent : m.record g.unit = none := by
    rw [hm]
    exact forgotten_record _ _ _
  have frame : m = { s.taken (chanPort n) with io := m.io, units := m.units } := by
    rw [hm, forgotten_frame]
  have deleted : Raises [.recordsDeleted] s m := by
    rw [hm]
    exact (Raises.forgotten (s.taken (chanPort n)) g.unit (handedHeader x s).emergency).ofLive rfl
  have talkgroups : m.talkgroups = s.talkgroups := by rw [frame]; rfl
  have time : m.timeBase = s.timeBase ∧ freshActivity m = freshActivity s := by
    rw [frame]
    exact ⟨rfl, rfl⟩
  replace next : exec (.register n) s = .next ((registerNew n g m).onIo fun c => dropReference c x.handle) := by
    rw [hm]
    exact next
  have took : s.tookHanded (chanPort n) ((registerNew n g m).onIo fun c => dropReference c x.handle) :=
    tookHanded_of_acts (acts.trans (.registerNew n g m absent)) x.handle
  have refused (cause : Byte) (refuse : registerNew n g m = sendRefuse n g.unit cause m) :
      s.raised .recordsDeleted ((registerNew n g m).onIo fun c => dropReference c x.handle) := by
    rw [refuse]
    have sent : Raises [] m (sendRefuse n g.unit cause m) := .toChannel n _ [] none m
    exact ((deleted.trans sent).trans (.dropped x.handle _)).raised law (by decide) rfl
  cases known : findTalkgroup g.talkgroup s.talkgroups with
  | none =>
    have refuse := registerNew_unknown (n := n) (g := g) (s := m) (by rw [talkgroups]; exact known)
    refine ⟨_, next, took, refused 1#8 refuse, fun _ => ?_, fun e he => nomatch he⟩
    rw [refuse]
    exact ⟨absent, talkgroups⟩
  | some e =>
    have found : findTalkgroup g.talkgroup m.talkgroups = some e := by rw [talkgroups]; exact known
    by_cases had : ∃ slot, m.hasSlot slot
    · obtain ⟨slot, had⟩ := had
      rw [registerNew_registered found had] at next took
      obtain ⟨l, claims, raises⟩ := Raises.registered (n := n) (g := g) (e := e) had
      have counted := (deleted.trans raises).trans (.dropped x.handle _)
      refine ⟨_, next, took, counted.raised law (by decide) ?_, nofun, fun e' he' units => ?_⟩
      · rw [List.append_nil, List.count_append, List.count_append, List.count_append, count_of_claims claims (by decide),
          State.slotCounters]
        split <;> rfl
      · obtain rfl := Option.some.inj he'
        refine ⟨counted.raised law (by decide) ?_, ?_, ?_⟩
        · rw [List.append_nil, List.count_append, List.count_append, List.count_append, count_of_claims claims (by decide),
            State.slotCounters]
          split <;> rfl
        · have record := registered_record (n := n) (g := g) (e := e) (acts.units units) had absent g.unit
          rw [if_pos rfl] at record
          refine ⟨_, record, ?_, rfl, time.1⟩
          unfold newRecord
          rw [time.2]
        · refine registered_talkgroups.trans ?_
          rw [talkgroups]
          rfl
    · have free : freeSlot m = none := by
        cases hf : freeSlot m with
        | none => rfl
        | some slot => exact absurd ⟨slot, .inl hf⟩ had
      have reclaim : reclaimCandidate m = none := by
        cases hc : reclaimCandidate m with
        | none => rfl
        | some q => exact absurd ⟨q.slot, .inr ⟨free, by rw [hc]; rfl⟩⟩ had
      refine ⟨_, next, took, refused 2#8 (registerNew_full found free reclaim), nofun, fun e' he' units => ?_⟩
      exfalso
      have marked := marked_record (s := s.taken (chanPort n)) hr (handedHeader x s).emergency
      obtain ⟨slot, some⟩ := freeSlot_removed ((Acts.marked (s.taken (chanPort n)) _ (handedHeader x s).emergency).units units) marked
      have same : freeSlot m = freeSlot (removeRecord g.unit ((s.taken (chanPort n)).marked g.unit (handedHeader x s).emergency)) := by
        rw [hm]
        rfl
      rw [same] at free
      exact nomatch free.symm.trans some

end Sys2Proof.Machine
end

section
/-! PROOFS. REGISTER of a member and the signs of life of a unit that is heard again: the statement (R53 to R56, R97). -/

namespace Sys2Proof.Machine

variable {x : Handed} {s : State} {r : Record} {n : ChannelNo} {k : Kind} {ch : ChannelNo} {d : Nat} {own e : TalkgroupEntry}
  {ho : Handover} {c : Instr} {g : Registration} {hdr : Header}

theorem cancelHeader_unit (hdr : Header) (id : Nat) (reason : Byte) :
    cancelHeader hdr.unit.toNat id reason
      = { Header.blank .hoCancel with unit := hdr.unit, tag := BitVec.ofNat 16 id, subcode := reason } := by
  unfold cancelHeader handoverHeader
  rw [BitVec.ofNat_toNat, BitVec.setWidth_eq]

theorem refuseHeader_unit (hdr : Header) (cause : Byte) :
    refuseHeader hdr.unit.toNat cause = { Header.blank .registerRefuse with unit := hdr.unit, subcode := cause } := by
  unfold refuseHeader
  rw [BitVec.ofNat_toNat, BitVec.setWidth_eq]

theorem register_of_lifeSign (hc : (c, Kind.register) ∈ lifeSigns n) : c = .register n := by
  rcases lifeSign_cases hc with ⟨rfl, -⟩ | ⟨-, other⟩ | ⟨-, other⟩ | ⟨-, other⟩
  · rfl
  all_goals cases other

/-- A member that is not sent away is at home. -/
theorem atHome_of_phase
    (h : (∃ a b, r.phase = .served ch a b) ∨ (∃ a ho, r.phase = .proposing ch a ho) ∨ ∃ ho, r.phase = .departing ch ho false) :
    r.phase.atHome = true ∧ r.phase.channel? = some ch := by
  rcases h with ⟨a, b, hp⟩ | ⟨a, ho, hp⟩ | ⟨ho, hp⟩ <;> rw [hp] <;> exact ⟨rfl, rfl⟩

/-- The record of a member at home after its REGISTER, field by field (R55, R58, R65). -/
theorem heard_registered (stands : r.phase.channel? = some ch) (s : State) (g : Registration) (e : TalkgroupEntry) :
    let r' := (r.heard s g.marker).registered g e
    r'.talkgroup = g.talkgroup ∧ r'.lastSite = g.lastSite
      ∧ r'.emergency = ((r.emergency || g.marker) && !g.clears)
      ∧ r'.phase.number = r.phase.number
      ∧ r'.phase.channel? = some (if g.talkgroup = r.talkgroup then ch else e.channel)
      ∧ r'.phase.handover? = r.phase.handover?
      ∧ (∀ a, r'.phase.activity? = some a →
          a.cls = .active ∧ a.timer = some (s.after (s.active.runDownshift * 1000)))
      ∧ r' = { r with
          talkgroup := r'.talkgroup, lastSite := r'.lastSite, emergency := r'.emergency, phase := r'.phase } := by
  intro r'
  obtain ⟨number, channel, handover, -, active⟩ := heard_phase g.marker r s
  refine ⟨rfl, rfl, rfl, ?_⟩
  show (if g.talkgroup = r.talkgroup then (r.heard s g.marker).phase
      else (r.heard s g.marker).phase.withChannel e.channel).number = _ ∧
    (if g.talkgroup = r.talkgroup then (r.heard s g.marker).phase
      else (r.heard s g.marker).phase.withChannel e.channel).channel? = _ ∧
    (if g.talkgroup = r.talkgroup then (r.heard s g.marker).phase
      else (r.heard s g.marker).phase.withChannel e.channel).handover? = _ ∧
    (∀ a, (if g.talkgroup = r.talkgroup then (r.heard s g.marker).phase
      else (r.heard s g.marker).phase.withChannel e.channel).activity? = some a → _) ∧ _
  by_cases same : g.talkgroup = r.talkgroup
  · simp only [if_pos same]
    exact ⟨number, channel.trans stands, handover, active, rfl⟩
  · simp only [if_neg same]
    refine ⟨(Phase.number_withChannel _ _).trans number, Phase.channel_withChannel (channel.trans stands) _,
      (Phase.handover_withChannel _ _).trans handover, fun a ha => active a ((Phase.activity_withChannel _ _).symm.trans ha), rfl⟩

theorem heard_acceptedOn (stands : r.phase.channel? = some ch) (s : State) (g : Registration) (e : TalkgroupEntry) :
    (r.heard s g.marker).acceptedOn g e = if g.talkgroup = r.talkgroup then ch else e.channel := by
  unfold Record.acceptedOn
  rw [(heard_phase g.marker r s).2.1, stands]
  rfl

end Sys2Proof.Machine

open Sys2Proof Sys2Proof.Machine

/-- Settles O31: a member's REGISTER first; then the notice of a unit that is heard again, as a step of its own, and what
the frame's owner makes of a unit that is SERVED afresh or has no record. -/
theorem registerUpdatesServed : Obligations.RegisterUpdatesServed := by
  unfold Obligations.RegisterUpdatesServed
  intro accept signs fresh refusal
  refine ⟨?_, ?_, ?_, ?_, ?_⟩
  · intro n x r s holds g hr gone home
    exact registerServed_refuses holds hr home gone
  · intro n x r ch e s holds g hr found phase
    obtain ⟨home, stands⟩ := atHome_of_phase phase
    obtain ⟨t, next, took, frame, sequence, others, record, accepted⟩ := registerServed_updates holds hr home found
    rw [heard_acceptedOn stands] at accepted
    obtain ⟨talkgroup, lastSite, emergency, number, channel, handover, active, rest⟩ := heard_registered stands s g e
    have talkgroups : t.talkgroups = g.counts r s.talkgroups := by rw [frame]
    unfold Registration.counts at talkgroups
    refine ⟨t, _, next, took, ?_, others, record, talkgroup, lastSite, emergency, number, channel, handover, active, rest,
      fun same => ⟨?_, sequence same⟩, fun other => ?_, accepted⟩
    · unfold State.sameButUnits
      rw [frame]
    · rw [talkgroups, if_pos same]
    · rw [talkgroups, if_neg other]
  · intro c k n x r ch d s hc holds law hdr u hr hp counted
    by_cases other : k = .register
    · subst other
      obtain rfl : c = .register n := register_of_lifeSign hc
      cases own : findTalkgroup r.talkgroup s.talkgroups with
      | none =>
        obtain ⟨t, next, took, deleted, unknown, known⟩ := register_forgotten_leaves holds law hr hp own
        refine ⟨t, next, took, nofun, nofun, fun _ => ⟨deleted, fun other => absurd rfl other, ?_, fun _ => ⟨unknown, known⟩⟩⟩
        rintro (same | same) <;> cases same
      | some own' =>
        cases known : findTalkgroup hdr.talkgroup.toNat s.talkgroups with
        | none =>
          obtain ⟨t, next, took, record, talkgroups, refused⟩ := register_revived_refused holds hr hp own known
          rw [refuseHeader_unit] at refused
          refine ⟨t, next, took, fun _ _ other => absurd rfl other, fun own'' same _ => ?_, nofun⟩
          obtain rfl := Option.some.inj same
          exact ⟨fun _ => ⟨record, talkgroups, refused⟩, fun e he => nomatch known.symm.trans he⟩
        | some e =>
          obtain ⟨t, next, took, record, talkgroups, accepted⟩ := register_revived_updates holds hr hp own known
          refine ⟨t, next, took, fun _ _ other => absurd rfl other, fun own'' same _ => ?_, nofun⟩
          refine ⟨fun gone => (nomatch known.symm.trans gone), fun e' he' => ?_⟩
          obtain rfl := Option.some.inj (known.symm.trans he')
          exact ⟨record, talkgroups, accepted⟩
    · cases own : findTalkgroup r.talkgroup s.talkgroups with
      | none =>
        obtain ⟨t, next, took, deleted, record, talkgroups, others, unknown⟩ := lifeSign_forgotten hc other holds law hr hp own
        exact ⟨t, next, took, nofun, nofun, fun _ => ⟨deleted, fun _ => ⟨record, talkgroups, others⟩, unknown,
          fun register => absurd register other⟩⟩
      | some own' =>
        obtain ⟨t, r', next, took, record, stays, talkgroups, accepted⟩ := lifeSign_revived hc other holds hr hp own
        refine ⟨t, next, took, fun own'' same _ => ?_, fun _ _ register => absurd register other, nofun⟩
        obtain rfl := Option.some.inj same
        exact ⟨r', record, stays.number, fun quiet => stays.served (.inl quiet), stays.channel, stays.activity, stays.talkgroup,
          stays.slot, stays.emergency, stays.entryTime, talkgroups, accepted⟩
  · intro c k n x r s hc holds law pool refs hdr u goesOnAs hr
    refine ⟨fun ch ho hp => ?_, fun ch d hp other => ⟨fun own found => ?_, fun gone => ?_⟩⟩
    · obtain ⟨m, ⟨goes, others⟩, rest⟩ := goesOnAs_back hc holds law pool refs hr hp
      rw [cancelHeader_unit] at rest
      exact ⟨m, ⟨goes.exec, goes.holds, goes.header, goes.payload, goes.intake, others⟩, rest⟩
    · obtain ⟨m, ⟨goes, others⟩, rest⟩ := goesOnAs_revived hc other holds pool refs hr hp found
      exact ⟨m, ⟨goes.exec, goes.holds, goes.header, goes.payload, goes.intake, others⟩, rest⟩
    · obtain ⟨m, ⟨goes, others⟩, rest⟩ := goesOnAs_forgotten hc other holds law pool refs hr hp gone
      exact ⟨m, ⟨goes.exec, goes.holds, goes.header, goes.payload, goes.intake, others⟩, rest⟩
  · intro c k n x r ch ho s hc holds law hdr u hr hp
    by_cases other : k = .register
    · subst other
      obtain rfl : c = .register n := register_of_lifeSign hc
      obtain ⟨t, r', next, took, record, number, activity, entry, hold, failed, unknown, told⟩ := register_returned holds law hr hp
      rw [cancelHeader_unit] at told
      exact ⟨t, r', next, took, record, number, .inr rfl, activity, entry, hold, failed, fun _ gone => unknown gone, told⟩
    · obtain ⟨t, r', next, took, record, stays, failed, told⟩ := lifeSign_returned hc other holds law hr hp
      rw [cancelHeader_unit] at told
      exact ⟨t, r', next, took, record, stays.served (.inr rfl), .inl stays.channel, stays.activity, stays.entryTime,
        stays.roamHold rfl, failed, fun register => absurd register other, told⟩
end
